-- ==== Sys2Proof/Word.lean ====
section
/-!
DEFINITION. The word types of the model and sparse tables keyed by natural numbers.
-/

namespace Sys2Proof

/-- One byte. -/
abbrev Byte := BitVec 8

/-- A 32-bit register or scalar word. -/
abbrev Word := BitVec 32

/-- A 64-bit register, counter or memory-resident field. -/
abbrev DWord := BitVec 64

/-- A sparse table: pairs of a key and a value, keys strictly rising where the table is made by `KMap.set`. -/
abbrev KMap (α : Type) := List (Nat × α)

end Sys2Proof
end

