-- ==== Sys2Proof/Config.lean ====
section
/-!
DEFINITION. What a device fixes and the values the spec leaves free. Every free value is a constant with no body, so
nothing can be proved about which value it is. A fresh value is `Config.fresh… n` with `n` a counter held in the state.
-/

namespace Sys2Proof.Config

/-- The 16 random bytes drawn by the crypto engine for a request's KEY_NONCE (02 R67). DESIGN CHOICE: free value.
DESIGN CHOICE (log 3). -/
opaque freshNonce : Nat → BitVec 128

/-- The 16-byte sampling key the crypto engine draws under entropy-seeded sampling (03 R103). Free value. -/
opaque freshKey : Nat → BitVec 128

/-- The AES key drawn for a pre-emption (14 R389). Free value. -/
opaque freshSaveKey : Nat → BitVec 128

/-- The 12-byte nonce of a save image or a retention blob (14 R389, R393). Free value. -/
opaque freshGcmNonce : Nat → BitVec 96

/-- The scrambler state seeded when a port trains (09 R253): the seed is not stated. Free value. -/
opaque freshSeed : Nat → BitVec 31

/-- The credits for best-effort and for management grains that a port holds when its training ends (09 R240): not stated. Free
value. DESIGN CHOICE (log 131). -/
opaque beCredits : Nat
opaque mgCredits : Nat

/-- The row in which a column ring meets the bridge (09 R245): die and column. Not stated; free value. DESIGN CHOICE
(log 130). -/
opaque bridgeRow : Nat → Nat → Nat

/-- The P-384 scalar drawn for a retention blob (14 R393) or a signature (02 R68). Free value. -/
opaque freshScalar : Nat → Nat

/-- The scalar of the device key pair, drawn inside the crypto engine at manufacture (02 R68): per device, never readable.
DESIGN CHOICE (log 101). -/
opaque deviceScalar : Nat

/-- The bytes of the device certificate before and after the public key that it carries (02 R68): per device. -/
opaque certHead : List Byte
opaque certTail : List Byte

/-- The SHA-384 of Omrokar's firmware key held in OTP (15 R408): per device. -/
opaque firmwareKeyHash : BitVec 384

/-- The delivered firmware image, a good one at security version 0 (15 R408). DESIGN CHOICE (log 2). -/
opaque factoryImage : List Byte

/-- The hub and management-processor firmware versions of the two slots a device is delivered with (15 R424). -/
opaque factoryHubVersion : Word
opaque factoryMpVersion : Word

/-- Omrokar's 11-bit manufacturer identity in IDCODE (15 R423): not stated in the spec. Free value. -/
opaque manufacturerId : BitVec 11

/-- Whether the contribution counts of a NUMERICS section stay within 2^32 − 1 (03 R84): the layout of that section is
not given in the spec, so the outcome of the check is a free function of its bytes. DESIGN CHOICE (log 56). -/
opaque numericsCountsOk : List Byte → Bool

/-- The LINEAR11 form of a quantity (16 R439 names the format; which exponent the module picks is not stated).
DESIGN CHOICE (log 57). -/
opaque linear11 : Nat → BitVec 16

/-- Register and stack bytes of a management processor and the hub trace buffer in a fatal dump (15 R415): firmware
state that the spec does not describe. DESIGN CHOICE (log 89). -/
opaque mpDump : Nat → Nat → List Byte

/-- The module record of a save image, 64 KiB (14 R389), whose layout the spec does not give: a free function of the state
that it holds. DESIGN CHOICE (log 30). -/
opaque saveModuleRecord {α : Type} (saved : α) : List Byte

/-- The parts of a core's save record whose inner layout the spec does not give (14 R390): the bushel store, the banks, the
stationary registers, the register and control page, the stream counts, credit pools and queues. A free function of the
state that the part holds. DESIGN CHOICE (log 30). -/
opaque saveCorePart {α : Type} (saved : α) : List Byte

/-- The AER status word of a reported uncorrectable or correctable error (13 R341): which of PCI Express's bits an error sets is not
stated. DESIGN CHOICE (log 102). -/
opaque aerStatus : Bool → Word

/-- Where a management processor that an entry interrupts stands (13 R375): its resume address and status are its firmware's. A free
value of the draw. DESIGN CHOICE (log 153). -/
opaque mpState : Nat → Word × Word

/-- A word of a management processor's vector table (13 R375): the handler address of a source, by firmware version, processor and
source. It is the firmware's. DESIGN CHOICE (log 153). -/
opaque mpVector : Word → Nat → Nat → Word

/-- HUB_BIST.PASS of a self-test that found failures which repair absorbs (15 R411, R424): what PASS covers is not stated. A
free function of the array rows and sites mapped out. -/
opaque bistPass : Nat → Nat → Bool

/-- The priority at which the spurious handler runs (13 R376): not stated. A free value of the draw. -/
opaque spuriousPrio : Nat → BitVec 4

/-- The parts of a core's dump record whose inner order the spec does not give (15 R415): the loop counts and indices, and
the occupancy of the engine and matrix queues. -/
opaque dumpLoops : List (Nat × Nat) → List Byte
opaque dumpQueues : Nat → Nat → Nat → List Byte

/-- The syndrome logged for an erroneous code word (07 R211): the check bits are not in the model. -/
opaque syndrome : Nat → Byte

/-- The contract share of a directed crossing at a step, in cc (12 R327): not stated. Free value. DESIGN CHOICE (log 138). -/
opaque xcalShare : Nat → Nat → Nat

/-- How many bytes of a write to host memory, by address and length, the host takes before the write fails, none where it
does not fail (14 R393, 15 R416; log 141). -/
opaque writeCut : Nat → Nat → Nat → Option Nat

/-- PCIe rate and width negotiated at bring-up (13 R339, R378 HUB_STATUS): 16, 32 or 64 GT/s and x4, x8 or x16, per link
partner. -/
opaque pcieRate : Fin 3
opaque pcieWidth : Fin 3

end Sys2Proof.Config
end

