-- ==== Sys2Proof/Syntax.lean ====
section
/-!
DEFINITION. The commands of the Welvin module: one constructor per row of spec/opcode_table.json, with the row's
operands. A command of a core's slot names its core, whether another slot of the same ell follows, and the fields of
the slot's encoding (spec 05 R144, R152, R154; 06 R172, R179). Bytes that come from outside the module (host reads,
grains, codewords, samples) are operands.
-/

namespace Sys2Proof

/-- The place of a slot in its ell (05 R133, R138): another slot of the same ell follows, or it is the last one and
POST further cycles issue nothing. -/
inductive EllEnd where
  | more
  | last (post : BitVec 4)
deriving DecidableEq, Repr

/-- A host read as it came back: the bytes, or none where the read failed (13 R368). -/
abbrev Dma := Option (List Byte)

/-- A 64-byte submission entry; bit 0 is bit 0 of byte 0 (13 R354, R355). -/
abbrev Entry := BitVec 512

/-- A 72-byte grain; bit 0 is bit 0 of header byte 0 (09 R238). -/
abbrev Grain := BitVec 576

/-- A 64-byte grain payload (09 R238). -/
abbrev Payload := BitVec 512

/-- One reading of the module's sensors (12 R329, 16 R439): temperatures in °C, `mp` that of the management processors' region,
power in W, as averages and at present, volts and amperes. -/
structure Telemetry where
  hottest   : Nat
  hubCore   : Nat
  hg0       : Nat
  hg1       : Nat
  coolant   : Nat
  power10ms : Nat
  power1ms  : Nat
  nbrDev    : Nat
  nbrTemp   : Nat
  nbrPair   : Nat
  vin       : Nat
  iin       : Nat
  mp        : Nat
  power     : Nat
deriving DecidableEq, Repr

/-- The emergency conditions of 12 R329. -/
inductive EmergCond where
  | therm
  | power
  | neighbour
deriving DecidableEq, Repr

/-- Why a step down is asked for (12 R329). -/
inductive StepCond where
  | thermStep
  | powerAvg
deriving DecidableEq, Repr

/-- Why a port goes down (09 R258). -/
inductive DownCause where
  | lockLoss
  | missedControl
  | retrainRequest
deriving DecidableEq, Repr

/-- Why SYNCED is lost (10 R278). -/
inductive SyncLoss where
  | offset
  | silence
deriving DecidableEq, Repr

/-- How a grain reaches its landing stop (09 R248). -/
inductive Landing where
  | sound
  | badCrc
  | badWord
deriving DecidableEq, Repr

/-- The straps sampled at cold reset (10 R270). -/
structure Straps where
  sysId : BitVec 4
  grp   : BitVec 6
  mbr   : BitVec 4
  mgr   : Bool
deriving DecidableEq, Repr

/-- A physical row of an array that fails the self-test: die, row and site of the cluster, core of the site, and row of
the array (15 R411). -/
structure FailedRow where
  die  : Nat
  row  : Nat
  site : Nat
  core : Nat
  prow : Nat
deriving DecidableEq, Repr

/-- What the boot ROM and the self-test find at a cold reset (15 R409, R411): whether ENABLE is mated (16 R429), whether each firmware
slot reads back as it was written, the cluster sites that fail as (die, row, site), the array rows that fail, whether the hub passes, and the least latencies
that calibration finds, in cc, by 4 times the directed crossing plus the step (12 R327). -/
structure BootFindings where
  enable    : Bool
  slotAOk   : Bool
  slotBOk   : Bool
  sites     : List (Nat × Nat × Nat)
  rows      : List FailedRow
  hubPass   : Bool
  cal       : List Nat
deriving DecidableEq, Repr

/-- A moderated target of the event controller (13 R373): a management processor, a PF vector, or VF `f`'s vector. -/
inductive EvTarget where
  | mp (n : Nat)
  | pf (v : Nat)
  | vf (f : Nat)
deriving DecidableEq, Repr

/-- One command of the module. `c` is a logical core and `e` the slot's place in its ell. Commands come in the order of
time (log 126). -/
inductive Instr where
  -- the ell and the scalar slot (05)
  | emptyEll (c : Nat) (idle : BitVec 10)
  | add (c : Nat) (e : EllEnd) (rd ra rb : BitVec 5)
  | sub (c : Nat) (e : EllEnd) (rd ra rb : BitVec 5)
  | and (c : Nat) (e : EllEnd) (rd ra rb : BitVec 5)
  | or (c : Nat) (e : EllEnd) (rd ra rb : BitVec 5)
  | xor (c : Nat) (e : EllEnd) (rd ra rb : BitVec 5)
  | shl (c : Nat) (e : EllEnd) (rd ra rb : BitVec 5)
  | shr (c : Nat) (e : EllEnd) (rd ra rb : BitVec 5)
  | sra (c : Nat) (e : EllEnd) (rd ra rb : BitVec 5)
  | slt (c : Nat) (e : EllEnd) (rd ra rb : BitVec 5)
  | sltu (c : Nat) (e : EllEnd) (rd ra rb : BitVec 5)
  | mul (c : Nat) (e : EllEnd) (rd ra rb : BitVec 5)
  | mulh (c : Nat) (e : EllEnd) (rd ra rb : BitVec 5)
  | mulhu (c : Nat) (e : EllEnd) (rd ra rb : BitVec 5)
  | min (c : Nat) (e : EllEnd) (rd ra rb : BitVec 5)
  | max (c : Nat) (e : EllEnd) (rd ra rb : BitVec 5)
  | addi (c : Nat) (e : EllEnd) (rd ra : BitVec 5) (imm : BitVec 16)
  | andi (c : Nat) (e : EllEnd) (rd ra : BitVec 5) (imm : BitVec 16)
  | ori (c : Nat) (e : EllEnd) (rd ra : BitVec 5) (imm : BitVec 16)
  | xori (c : Nat) (e : EllEnd) (rd ra : BitVec 5) (imm : BitVec 16)
  | shli (c : Nat) (e : EllEnd) (rd ra : BitVec 5) (imm : BitVec 16)
  | shri (c : Nat) (e : EllEnd) (rd ra : BitVec 5) (imm : BitVec 16)
  | srai (c : Nat) (e : EllEnd) (rd ra : BitVec 5) (imm : BitVec 16)
  | lui (c : Nat) (e : EllEnd) (rd : BitVec 5) (imm : BitVec 16)
  | lw (c : Nat) (e : EllEnd) (rd ra : BitVec 5) (imm : BitVec 16)
  | lbu (c : Nat) (e : EllEnd) (rd ra : BitVec 5) (imm : BitVec 16)
  | sw (c : Nat) (e : EllEnd) (rd ra : BitVec 5) (imm : BitVec 16)
  | sb (c : Nat) (e : EllEnd) (rd ra : BitVec 5) (imm : BitVec 16)
  | beq (c : Nat) (e : EllEnd) (ra rb : BitVec 5) (off : BitVec 16)
  | bne (c : Nat) (e : EllEnd) (ra rb : BitVec 5) (off : BitVec 16)
  | blt (c : Nat) (e : EllEnd) (ra rb : BitVec 5) (off : BitVec 16)
  | bge (c : Nat) (e : EllEnd) (ra rb : BitVec 5) (off : BitVec 16)
  | bltu (c : Nat) (e : EllEnd) (ra rb : BitVec 5) (off : BitVec 16)
  | bgeu (c : Nat) (e : EllEnd) (ra rb : BitVec 5) (off : BitVec 16)
  | jal (c : Nat) (e : EllEnd) (rd : BitVec 5) (off : BitVec 21)
  | jalr (c : Nat) (e : EllEnd) (rd ra : BitVec 5) (imm : BitVec 16)
  | loop (c : Nat) (e : EllEnd) (lv ra : BitVec 5) (imm : BitVec 16)
  | lidx (c : Nat) (e : EllEnd) (rd : BitVec 5) (imm : BitVec 16)
  | crr (c : Nat) (e : EllEnd) (rd : BitVec 5) (imm : BitVec 16)
  | crw (c : Nat) (e : EllEnd) (ra : BitVec 5) (imm : BitVec 16)
  | crs (c : Nat) (e : EllEnd) (ra : BitVec 5) (imm : BitVec 16)
  | crc (c : Nat) (e : EllEnd) (ra : BitVec 5) (imm : BitVec 16)
  | tpw (c : Nat) (e : EllEnd) (rd ra rb : BitVec 5)
  | trap (c : Nat) (e : EllEnd) (imm : BitVec 16)
  | eret (c : Nat) (e : EllEnd)
  | halt (c : Nat) (e : EllEnd)
  -- the matrix slot and the array (04, 05)
  | tile (c : Nat) (e : EllEnd) (tp : BitVec 4) (sh th oh : BitVec 8) (nreg : BitVec 5) (start final outv : Bool)
  | sload (c : Nat) (e : EllEnd) (tp : BitVec 4) (sh : BitVec 8) (maskreg : BitVec 5) (csm1 : BitVec 3)
  | swap (c : Nat) (e : EllEnd)
  | mstream (c : Nat) (e : EllEnd) (tp : BitVec 4) (th oh : BitVec 8) (nbm1 : BitVec 6) (csm1 : BitVec 3)
      (start final outv : Bool)
  | tileStart (c : Nat)
  | backgroundLoadStart (c : Nat)
  | swapEffect (c : Nat)
  | mstreamStart (c : Nat)
  | resultColumn (c : Nat)
  -- the load and store slots (06)
  | ldv (c : Nat) (e : EllEnd) (h : BitVec 8) (vd rs : BitVec 5) (imm : BitVec 16)
  | lds (c : Nat) (e : EllEnd) (h dst : BitVec 8)
  | ldb (c : Nat) (e : EllEnd) (h : BitVec 8) (rs : BitVec 5) (imm : BitVec 16) (bank : BitVec 2)
  | dwr (c : Nat) (e : EllEnd) (h : BitVec 8) (rs widx : BitVec 5)
  | dadd (c : Nat) (e : EllEnd) (h : BitVec 8) (rs : BitVec 5)
  | stv (c : Nat) (e : EllEnd) (h : BitVec 8) (va rs : BitVec 5) (imm : BitVec 16)
  | sts (c : Nat) (e : EllEnd) (h dst : BitVec 8)
  | stb (c : Nat) (e : EllEnd) (h : BitVec 8) (rs : BitVec 5) (imm : BitVec 16) (bank : BitVec 2)
  | engineOpStart (c : Nat) (store : Bool) (reply : List Byte) (bad : List Nat)
  -- the vector slot (03, 06)
  | vadd (c : Nat) (e : EllEnd) (f : BitVec 4) (vd va vb : BitVec 5)
  | vsub (c : Nat) (e : EllEnd) (f : BitVec 4) (vd va vb : BitVec 5)
  | vmul (c : Nat) (e : EllEnd) (f : BitVec 4) (vd va vb : BitVec 5)
  | vfma (c : Nat) (e : EllEnd) (f : BitVec 4) (vd va vb vc : BitVec 5)
  | vdiv (c : Nat) (e : EllEnd) (f : BitVec 4) (vd va vb : BitVec 5)
  | vmin (c : Nat) (e : EllEnd) (f : BitVec 4) (vd va vb : BitVec 5)
  | vmax (c : Nat) (e : EllEnd) (f : BitVec 4) (vd va vb : BitVec 5)
  | vcmp (c : Nat) (e : EllEnd) (f : BitVec 4) (vd va vb : BitVec 5) (cond : BitVec 3)
  | vsel (c : Nat) (e : EllEnd) (f : BitVec 4) (vd va vb vc : BitVec 5)
  | vand (c : Nat) (e : EllEnd) (vd va vb : BitVec 5)
  | vor (c : Nat) (e : EllEnd) (vd va vb : BitVec 5)
  | vxor (c : Nat) (e : EllEnd) (vd va vb : BitVec 5)
  | vmov (c : Nat) (e : EllEnd) (vd va : BitVec 5)
  | vsplat (c : Nat) (e : EllEnd) (vd rs : BitVec 5)
  | viota (c : Nat) (e : EllEnd) (vd rs : BitVec 5)
  | viadd (c : Nat) (e : EllEnd) (vd va vb : BitVec 5)
  | vrecip (c : Nat) (e : EllEnd) (f : BitVec 4) (vd va : BitVec 5)
  | vsqrt (c : Nat) (e : EllEnd) (f : BitVec 4) (vd va : BitVec 5)
  | vrsqrt (c : Nat) (e : EllEnd) (f : BitVec 4) (vd va : BitVec 5)
  | vexp2 (c : Nat) (e : EllEnd) (f : BitVec 4) (vd va : BitVec 5)
  | vlog2 (c : Nat) (e : EllEnd) (f : BitVec 4) (vd va : BitVec 5)
  | vtanh (c : Nat) (e : EllEnd) (f : BitVec 4) (vd va : BitVec 5)
  | vsigm (c : Nat) (e : EllEnd) (f : BitVec 4) (vd va : BitVec 5)
  | verf (c : Nat) (e : EllEnd) (f : BitVec 4) (vd va : BitVec 5)
  | vsinp (c : Nat) (e : EllEnd) (f : BitVec 4) (vd va : BitVec 5)
  | vcosp (c : Nat) (e : EllEnd) (f : BitVec 4) (vd va : BitVec 5)
  | vphase (c : Nat) (e : EllEnd) (vd va sp sj : BitVec 5)
  | vrot (c : Nat) (e : EllEnd) (f : BitVec 4) (vd va vb vc : BitVec 5)
  | vcvt (c : Nat) (e : EllEnd) (vd va : BitVec 5) (other : BitVec 4) (sat : Bool) (part : BitVec 3) (dir : Bool)
  | vmxq (c : Nat) (e : EllEnd) (f : BitVec 4) (vd va : BitVec 5) (part : BitVec 3)
  | vpack (c : Nat) (e : EllEnd) (vd va vb : BitVec 5)
  | vunpk (c : Nat) (e : EllEnd) (vd va : BitVec 5) (half : Bool)
  | vrmax (c : Nat) (e : EllEnd) (f : BitVec 4) (vd va : BitVec 5)
  | vrmin (c : Nat) (e : EllEnd) (f : BitVec 4) (vd va : BitVec 5)
  | vramax (c : Nat) (e : EllEnd) (f : BitVec 4) (vd va : BitVec 5)
  | vaclr (c : Nat) (e : EllEnd) (bank : BitVec 2) (wbase : BitVec 10)
  | vacc (c : Nat) (e : EllEnd) (f : BitVec 4) (va : BitVec 5) (bank : BitVec 2)
  | vrsum (c : Nat) (e : EllEnd) (f : BitVec 4) (va : BitVec 5) (bank : BitVec 2) (lane : BitVec 6)
  | vacsum (c : Nat) (e : EllEnd) (bank : BitVec 2)
  | vacsumBankWrite (c : Nat) (bank : BitVec 2)
  | vacvt (c : Nat) (e : EllEnd) (f : BitVec 4) (vd : BitVec 5) (bank : BitVec 2) (sat clr : Bool) (part : BitVec 3)
  | vrq (c : Nat) (e : EllEnd) (vd : BitVec 5)
  -- the sync slot, flags and barriers (08), digests (02), traps (05)
  | fset (c : Nat) (e : EllEnd) (vid : BitVec 16)
  | fclr (c : Nat) (e : EllEnd) (vid : BitVec 16)
  | fwait (c : Nat) (e : EllEnd) (vid : BitVec 16) (val autoclr : Bool)
  | fwaitWake (c : Nat)
  | barr (c : Nat) (e : EllEnd) (vid : BitVec 16) (nowait : Bool)
  | digest (c : Nat) (e : EllEnd)
  | fence (c : Nat) (e : EllEnd) (mask : BitVec 5)
  | fenceRelease (c : Nat)
  | event (c : Nat) (e : EllEnd) (code : BitVec 16)
  | ftest (c : Nat) (e : EllEnd) (vid : BitVec 16) (rd : BitVec 5)
  | flagViewUpdate (flag : Nat) (c : Nat)
  | barrierArrival (bar : Nat)
  | barrierRelease (bar : Nat)
  | digestHandover (c : Nat)
  | layerDigestPost (run : Nat) (ref : Dma)
  | deadlock (run : Nat)
  | objectBreak (run : Nat)
  | trapEntry (c : Nat)
  -- memory tiers (07)
  | hogsheadReissue (c : Nat) (die chan : Nat) (off : Nat) (ok : Bool)
  | hogsheadRefresh (die chan : Nat) (due : Nat)
  | stratumPatrol (c rows : Nat)
  | hogsheadPatrol (die : Nat) (line : Nat)
  | coreScrub (c : Nat)
  | scrubComplete (c : Nat)
  | regionScrub (die off len : Nat)
  | regionScrubComplete (die off : Nat)
  | start (c : Nat) (v : Word)
  | creditReturn (c : Nat) (pool : BitVec 8)
  -- grains (09) and the host endpoint (13)
  | grainLanding (c : Nat) (stream : BitVec 8) (how : Landing)
  | syncGrainLanding (run : Nat) (how : Landing)
  | grainCollision (run : Nat) (stop : Nat) (g1 g2 : Grain)
  | bestEffortInject (stop : Nat) (increasing : Bool)
  | grainForward (g : Grain)
  | fetch (run : Nat)
  | key (run : Nat)
  | put (run : Nat)
  | hubReply (run : Nat) (core : Nat) (stream : BitVec 8)
  -- links (09)
  | codewordReceive (port : Nat) (symbols : List (BitVec 10))
  | controlGrain (port : Nat) (arrival : Nat)
  | synced
  | syncLost (why : SyncLoss)
  | portGrainReceive (port : Nat)
  | nakReceive (port : Nat) (nak : DWord)
  | resend (port : Nat)
  | portTraining (port : Nat) (partner : BitVec 10) (system : BitVec 4) (partnerPort : BitVec 5) (eq0 eq1 : Byte)
      (micros : Nat)
  | linkDown (port : Nat) (why : DownCause)
  -- the chain, launch and furlongs (10)
  | chainFull (p : Payload)
  | ready (p : Payload)
  | launch (p : Payload)
  | abort (p : Payload)
  | pathLost (p : Payload)
  | step (p : Payload)
  | breakObjects (p : Payload)
  | masterListenTimeout
  | coordinationTimeout (run : Nat)
  | runLaunch (run : Nat)
  | furlongBoundary (run : Nat)
  | holdOriginate (run : Nat)
  | hold (port : Nat) (p : Payload)
  -- clocks, thermal and power (12)
  | periodStretch (region : Nat)
  | beatStall
  | thermalStepRequest (why : StepCond)
  | stepUpRequest
  | emergencyStall (why : EmergCond)
  | emergencyStallEnd (why : EmergCond)
  | thermalTrip
  | powerStateEntry
  | powerStateExit
  | hostTarget (v : Word)
  | enterOff
  | exitOff
  | pwrNextHiWrite (v : Word)
  | crossingCalibration (lmin : List Nat)
  -- registers (00, 02, 13)
  | mode (v : Word)
  | sealLock (v : Word)
  | modeChangeApply
  | detCntClear (v : Word)
  | detCertData
  | counterLoRead (off : Nat)
  | rcRead (f : Nat) (off : Nat)
  | registerWrite (f : Nat) (off : Nat) (v : Word)
  -- bridges (08) and link control (09)
  | enable (v : Word)
  | bridgeTimeout (run : Nat)
  | portEnable (port : Nat) (v : Word)
  | retrain (port : Nat)
  | loopback (port : Nat) (v : Word)
  | maint (port : Nat) (v : Word)
  | lnkCoreLoop (v : Word)
  -- doorbells and the event controller (13)
  | sqTail (f : Nat) (v : Word)
  | cqHead (f : Nat) (v : Word)
  | eqHead (f : Nat) (v : Word)
  | dqHead (f : Nat) (v : Word)
  | ringsEn (f : Nat) (v : Word)
  | ctxIrqAck (f : Nat) (v : Word)
  | ctxIrqTest (f : Nat) (v : Word)
  | evcHack (v : Word)
  | evcSwset (w : Nat) (v : Word)
  | evcTgt (src : Nat) (v : Word)
  | sourcePending (src : Nat)
  | withdrawn (src : Nat)
  | delivery (t : EvTarget)
  | entrySequence (mp : Nat)
  | exitSequence (mp : Nat)
  -- submissions (13, 14)
  | nop (f : Nat) (e : Option Entry)
  | tunLoad (f : Nat) (e : Entry) (img : Dma)
  | tunUnload (f : Nat) (e : Entry)
  | run (f : Nat) (e : Entry)
  | request (f : Nat) (e : Entry)
  | cancel (f : Nat) (e : Entry)
  | stoneLoad (f : Nat) (e : Entry) (stone : Dma)
  | stoneUnmap (f : Nat) (e : Entry)
  | grant (f : Nat) (e : Entry)
  | revokeGrant (f : Nat) (e : Entry)
  | ctxKill (f : Nat) (e : Entry)
  | preempt (f : Nat) (e : Entry)
  | resume (f : Nat) (e : Entry) (image : Dma)
  | pmOptin (f : Nat) (e : Entry) (pubkey : Dma)
  | debugConsent (f : Nat) (e : Entry)
  | release (f : Nat) (e : Entry)
  -- runs and requests (02, 11, 13)
  | runAdmission (run : Nat)
  | runComplete (run : Nat)
  | requestEligible (run : Nat) (reqId : DWord) (input : Dma)
  -- stones (14)
  | stoneResident (copy : Nat)
  | stratumRewrite (copy : Nat) (chunks : List Dma) (hogshead : Bool) (unit addr : Nat)
  | program
  | revoke
  | ingAnchorData (write : Option Word)
  | ingRevokeData (v : Word)
  | revokeAdd
  -- bring-up, service and faults (13, 15)
  | dutySplitApply
  | hubDumpBaseWrite (hi : Bool) (v : Word)
  | hubResetCold
  | hubResetWarm
  | hubCoreReset (v : Word)
  | stage (img : Dma)
  | activate
  | raiseFloor
  | fwCancel
  | firmwareActivation
  | trialTimeout
  | hubRepairReq (v : Word)
  | repairApply
  | coldReset (st : Straps) (bf : BootFindings)
  | warmReset
  | pfFunctionLevelReset
  | contextReset (f : Nat)
  | fatalError (cause : Byte)
  | mpWatchdog
  | pllUnlock
  | railFault
  -- the board (16)
  | inputExcursion
  | inputSupply
  | loadLoss
  | malformedTlp (correctable : Bool)
  | capability
  | statusWord
  | statusInput (clear : Option Byte)
  | statusTemperature (clear : Option Byte)
  | statusCml (clear : Option Byte)
  | readVin
  | readIin
  | readPin
  | readTemperature1
  | readTemperature2
  | readTemperature3
  | mfrStepCap (write : Option Byte)
  | mfrState
  | unsupportedCommand (code : Byte) (badPec : Bool)
  | bypass (tdi : Bool)
  | idcode
  | samplePreload (pins : List Bool)
  | extest (pins : List Bool)
  -- the tick, functions and trial (10, 13, 15)
  | chainTick (t : Telemetry)
  | vfEnable (en : Bool) (num : Nat)
  | trialOk
deriving DecidableEq, Repr

end Sys2Proof
end

