-- ==== Sys2Proof/Machine/State.lean ====
section
/-!
DEFINITION. The state of the module as plain data, its reset value, and the reasons a command can stop.
Each field's docstring names the rule of spec/ that gives it.
-/

namespace Sys2Proof.Machine

/-- Bytes by address: addresses strictly rising, no zero byte listed; an unlisted byte reads 0. -/
abbrev Mem := List Host.Cell

/-- A SHA-384 value as a big-endian byte string's number. -/
abbrev Hash := BitVec 384

/-- A vector register, 256 bytes; lane j is bits [32j + 31 : 32j] (06 R177). -/
abbrev VReg := BitVec 2048

/-- A tensor descriptor, 96 bytes; word w is bits [32w + 31 : 32w] (06 R164). -/
abbrev Desc := BitVec 768

/-- A bushel (03 R80): the exact sum and the three sticky flags. -/
structure Bushel where
  s    : Int
  ovf  : Bool
  loss : Bool
  nv   : Bool
deriving DecidableEq, Repr

/-- One entry of the bushel accumulator store with its WBASE record (04 R123, R125). -/
structure AccEntry where
  b     : Bushel
  wbase : Option Int
deriving DecidableEq, Repr

/-- A vector accumulation bank (06 R180). While n VACSUM writes are outstanding, lane j's contributions since the g-th
oldest of their samples stand at key j + 64·g; a lane is the sum over its keys (R181). -/
structure Bank where
  wbase : Option Int
  lanes : KMap Bushel
deriving DecidableEq, Repr

/-- What a bank effect does when it falls due (06 R180, R181). -/
inductive BankAct where
  /-- the contributions of one operation: lane, and (−1)^neg · m · 2^e, none where non-finite -/
  | add (cs : List (Nat × Option (Bool × Nat × Int)))
  /-- the received or loaded partial sums of one operation: lane, value, OVF, LOSS, NV (03 R93) -/
  | partials (cs : List (Nat × Int × Bool × Bool × Bool))
  /-- the bank write of a VACSUM with the sum formed from its sample -/
  | vacsumWrite (sum : Bushel)
  /-- VACLR, with the WBASE it records -/
  | clear (wbase : Int)
  /-- a VACVT's clear, which keeps the record -/
  | clearKeep
deriving DecidableEq, Repr

/-- A bank effect not yet due. -/
structure BankEff where
  bank : Nat
  cyc  : Nat
  act  : BankAct
deriving DecidableEq, Repr

/-- A register, control-register, tile-parameter or descriptor write on its way (05 R135, R155). -/
inductive Target where
  | sreg (r : BitVec 5) (v : Word)
  | vreg (r : BitVec 5) (mask v : VReg)
  | ctlWrite (n : Nat) (v : Word)
  | ctlSet (n : Nat) (v : Word)
  | ctlClear (n : Nat) (v : Word)
  | nstat (v : BitVec 3)
  | tpar (n : Nat) (v : DWord)
  | descWord (h : BitVec 8) (w : Nat) (v : Word)
deriving DecidableEq, Repr

/-- A write that becomes visible in cycle `cyc`; `late` marks the load and sync slots, which win a tie (05 R136). -/
structure PendWrite where
  cyc    : Nat
  issued : Nat
  late   : Bool
  tgt    : Target
deriving DecidableEq, Repr

/-- A hardware loop level (05 R147). -/
structure LoopLevel where
  active : Bool
  index  : Nat
  count  : Nat
  first  : Nat
  last   : Nat
deriving DecidableEq, Repr

/-- What holds the next ell (05 R134). `met` is the first cycle in which the wait was satisfied, once it was (08 R220). -/
inductive Hold where
  | free
  | fwait (vid : BitVec 16) (val autoclr : Bool) (issued : Nat) (met : Option Nat)
  | barr (vid : BitVec 16) (parity : Bool) (issued : Nat)
  | fence (mask : BitVec 5) (issued : Nat)
deriving DecidableEq, Repr

/-- The memories whose code words can hold an error (07 R184). -/
inductive MemKind where
  | imem
  | dmem
  | spad
  | strat
  /-- the start bits of instruction memory, one byte for eight parcels -/
  | starts
deriving DecidableEq, Repr

/-- A trap cause with its TRAP_INFO, and for an asynchronous one the cycle from which it is pending (05 R158). -/
structure Cause where
  code : Byte
  info : Word
  cyc  : Nat := 0
deriving DecidableEq, Repr

/-- Why no slot of an ell issues. -/
inductive Block where
  /-- the module is stalled, the core is not issuing or is held (05 R134, R143) -/
  | held
  /-- a queue that the ell needs is full (05 R134) -/
  | full
  /-- a pending asynchronous cause is taken first (05 R160) -/
  | async
  /-- no ell starts at the program counter (05 R145) -/
  | badTarget
  /-- an uncorrectable word among the ell's parcels or its start bits, with its byte address (07 R187) -/
  | fetch (m : MemKind) (a : Nat)
  /-- the sync slot names a broken object (08 R229) -/
  | broken (vid : BitVec 16)
deriving DecidableEq, Repr

/-- The ell that is issuing: its slots so far, its length in parcels, why none of them issues, the precise causes of
its slots, and what happens when it ends: where its branch goes and in how many cycles, the register that takes the
link, the loop it starts (level, count, end ell), SWTRAP, ERET and HALT (05 R133, R147, R155, R158), uncorrectable
words read (slot, memory, address) and schedule violations. -/
structure EllSt where
  slots   : BitVec 6
  parcels : Nat
  block   : Option Block
  causes  : List Cause
  target  : Option Nat
  penalty : Nat
  link    : Option (BitVec 5)
  loop    : Option (Nat × Nat × Nat)
  swtrap  : Option Word
  eret    : Bool
  halt    : Bool
  dues    : List (Nat × MemKind × Nat)
  viols   : Nat
deriving DecidableEq, Repr

/-- A descriptor copied at issue with the loop indices of that cycle (06 R168). -/
structure Operand where
  h   : BitVec 8
  d   : Desc
  idx : List Nat
deriving DecidableEq, Repr

inductive MatKind where
  | tile
  | sload
  | swap
  | mstream
deriving DecidableEq, Repr

/-- A matrix operation in the command queue; `behind` says that an operation was ahead of it at issue (05 R149, R153). -/
structure MatOp where
  kind   : MatKind
  issued : Nat
  behind : Bool
  tp     : DWord
  n      : Nat
  cs     : Nat
  mask   : DWord
  start  : Bool
  final  : Bool
  outv   : Bool
  sd     : Operand
  td     : Operand
  od     : Operand
  epoch  : Nat
deriving DecidableEq, Repr

inductive EngKind where
  | ldv
  | lds
  | ldb
  | stv
  | sts
  | stb
deriving DecidableEq, Repr

/-- An operation in a run-ahead queue (06 R173): `data` is an STV's source as read at issue (R168). -/
structure EngOp where
  kind   : EngKind
  issued : Nat
  src    : Operand
  dst    : Operand
  row    : Nat
  reg    : BitVec 5
  bank   : Nat
  data   : VReg
  epoch  : Nat
deriving DecidableEq, Repr

/-- A completed result column on its way to the result port (04 R109); a masked row is none (R127). `wait` marks a
column that waits for its credit and stalls the module (07 R204). -/
structure Column where
  wait  : Bool
  avail : Nat
  fmt   : BitVec 4
  wbase : Int
  sat   : Bool
  outv  : Bool
  vals  : List (Option Bushel)
  n     : Nat
  first : Nat
  od    : Operand
  epoch : Nat
deriving DecidableEq, Repr

/-- A matrix operation in progress (04 R126 to R130): what it did not do on account of R124 or R125 (`mark`), the set it
is at, whether that set waits for its load (0), waits for its SWAP (1) or streams (2), the next row
injected or group of sub-vectors, and the cycles of the set's first injection and of its SWAP. -/
structure Job where
  op    : MatOp
  mark  : Bool
  set   : Nat
  phase : Nat
  grp   : Nat
  load  : Nat
  w     : Nat
deriving DecidableEq, Repr

/-- One copy of the stationary registers (04 R110): cells by 64·row + column, the lanes that hold an element of an
uncorrectable code word, the row scale registers, and the rows masked at their load (R127). -/
structure Stationary where
  cells  : KMap (BitVec 16)
  bad    : KMap (BitVec 4)
  scales : KMap DWord
  mask   : DWord
deriving DecidableEq, Repr

/-- The matrix array of a core (04): the command queue, the two copies and the pointer, the first injection cycle of
the latest load, the first cycle in which a tile's next load, and in which any load, may begin, the last sub-vector
entry, the cycle at which a queued SWAP may take effect, the completion cycle, the store, the work in progress, and
the completed columns and the result queue; the cycles of the latest SWAPs (R118). -/
structure ArrayState where
  queue     : List MatOp
  copy0     : Stationary
  copy1     : Stationary
  ptr       : Bool
  loadStart : Option Nat
  nextLoad  : Nat
  injFree   : Nat
  lastEntry : Nat
  aheadEnd  : Nat
  done      : Nat
  acc       : KMap AccEntry
  jobs      : List Job
  columns   : List Column
  resultQ   : List VReg
  swaps     : List Nat
deriving DecidableEq, Repr

/-- The engines of a core (06 R173); `syncSlots` is the cycle of the latest slot that its sync grains to a module take (08 R222). -/
structure EngState where
  loadQ     : List EngOp
  storeQ    : List EngOp
  loadFree  : Nat
  storeFree : Nat
  loadDone  : Nat
  storeDone : Nat
  vecDone   : Nat
  syncDone  : Nat
  syncSlots : KMap Nat
deriving DecidableEq, Repr

/-- Core control registers that a program reaches (05 R156), besides SCYC, CORE_IDX, MODULE and LOOPST. -/
structure CtlRegs where
  nstat     : BitVec 3
  exitst    : Byte
  trapVec   : Word
  trapPc    : Word
  trapCause : Word
  trapInfo  : Word
  scr0      : Word
  scr1      : Word
  scycHi    : Word
deriving DecidableEq, Repr

/-- The store digest of a core by digest epoch (02 R59): sum and word count of the stores issued before the epoch's
DIGEST. `issued` counts DIGESTs issued, `handed` those handed over, and `reached` gives the cycle in which each was issued. -/
structure DigestSt where
  sums   : KMap (DWord × Nat)
  issued : Nat
  handed : Nat
  reached : KMap Nat
deriving DecidableEq, Repr

/-- A scratchpad write on its way: the cycle in which it is written, its address and bytes, the offsets of the
bytes whose code words are written poisoned, and its priority among the writes of that cycle, the lower the higher
(06 R176, 07 R187, 02 R52). -/
structure SpadWrite where
  cyc   : Nat
  addr  : Nat
  bytes : List Byte
  bad   : List Nat
  rank  : Nat
deriving DecidableEq, Repr

/-- A code word that holds an error: `due` for detected-uncorrectable or poisoned, else correctable (07 R185, R186). -/
structure EccMark where
  mem  : MemKind
  word : Nat
  due  : Bool
deriving DecidableEq, Repr

/-- Error counters and log of a core's memories (07 R211). -/
structure EccRegs where
  ceSpad  : Word
  ceStrat : Word
  ceCode  : Word
  due     : Word
  log     : Word
  addr    : Word
deriving DecidableEq, Repr

/-- A credit pool (07 R203); `since` is the cycle in which an empty pool last got a credit (06 R173). -/
structure Pool where
  dmod  : Nat
  dcore : Nat
  limit : Nat
  count : Nat
  since : Nat
  flag  : BitVec 16
deriving DecidableEq, Repr

inductive StreamKind where
  | unused
  | data
  | partialSum
deriving DecidableEq, Repr

/-- A stream-table entry (09 R243), the grains of the stream landed so far, and those that have been given an index. -/
structure StreamEntry where
  kind   : StreamKind
  srcMod : Nat
  srcCor : Nat
  base   : Nat
  rows   : Nat
  bank   : Nat
  lane0  : Nat
  count  : Nat
  format : Nat
  landed : Nat
  sent   : Nat
deriving DecidableEq, Repr

/-- A BARR of this core whose generation has not been released (08 R225). -/
structure OutArr where
  vid    : BitVec 16
  parity : Bool
  nowait : Bool
deriving DecidableEq, Repr

/-- A core (05, 06, 07). `resetDue` marks a core that was reset during its run and is scrubbed when the run ends (15 R407).
`patrol` is the stratum row that a patrol in progress reads next (07 R196). `accs` lists the scratchpad banks, and 16 for the weight read path, used in each cycle
(07 R192, R195). -/
structure Core where
  sregs     : KMap Word
  vregs     : KMap VReg
  pendW     : List PendWrite
  pc        : Nat
  scyc      : Nat
  ell       : Option EllSt
  ctl       : CtlRegs
  loops     : List LoopLevel
  frozen    : Option (List LoopLevel × Hold)
  inHandler : Bool
  asyncQ    : List Cause
  hold      : Hold
  waitQ     : Bool
  halted    : Bool
  fatalRec  : Option (List Byte)
  tpar      : KMap DWord
  descs     : KMap Desc
  arr       : ArrayState
  eng       : EngState
  banks     : KMap Bank
  bankQ     : List BankEff
  dig       : DigestSt
  imem      : Mem
  starts    : List Nat
  segLen    : Nat
  dmem      : Mem
  spad      : Mem
  spadQ     : List SpadWrite
  accs      : KMap (List Nat)
  strat     : Mem
  ecc       : List EccMark
  eccRegs   : EccRegs
  pools     : KMap Pool
  streams   : KMap StreamEntry
  outArr    : List OutArr
  available : Bool
  scrubBusy : Bool
  owner     : Option Nat
  run       : Option Nat
  preempted : Bool
  resetDue  : Bool
  patrol    : Option Nat
deriving DecidableEq, Repr

/-- A hogshead write that reads do not yet return: its start cycle, its priority in that cycle, offset and bytes (07 R198, 02 R52). -/
structure HgWrite where
  cyc   : Nat
  rank  : Nat
  off   : Nat
  bytes : List Byte
deriving DecidableEq, Repr

/-- A hogshead die (07 R197 to R202, R209): `wq` holds writes that reads do not yet return,
`bad` the code words that hold an error (offset, uncorrectable), `holder` the run that holds the die and `mask` its
phases, `rate` the refresh rate in force (R200), `scrub` the regions being scrubbed (offset, length), `retries` the reissues
of the read in progress, `uses` the holder's accesses by hub cycle and channel (R197), `due` the hub cycle in which each
channel's latest refresh fell due (R200), `patrol` the line that a patrol in progress reads next (R202). -/
structure Hogshead where
  mem     : Mem
  wq      : List HgWrite
  bad     : List (Nat × Bool)
  ready   : Bool
  holder  : Option Nat
  mask    : Word
  rate    : BitVec 2
  scrub   : List (Nat × Nat)
  retries : Nat
  uses    : List (Nat × Nat)
  due     : KMap Nat
  patrol  : Option Nat
  ce      : Word
deriving DecidableEq, Repr

/-- A flag change on its way to a core's view: the cycle in which it reached the store and the one from which the view
shows it (08 R218). -/
structure ViewUpd where
  core : Nat
  st   : Nat
  cyc  : Nat
  val  : Bool
deriving DecidableEq, Repr

/-- A physical flag (08 R213, R218, R223): its value in the store, owner context and run, last signaller and whether it
resolved a race, the cycle of the last operation and whether that was a set, the core of this module that issued it and those that
issued one in that cycle, whether a race has still to be reported, the cores' views and the changes on their
way to them, in the order in which they become visible, and value, last signaller and race before the operations of a cycle,
newest first: an operation changes the store at the end of its cycle. -/
structure Flag where
  value  : Bool
  owner  : Nat
  run    : Nat
  vid    : BitVec 16
  broken : Bool
  last   : Option (Nat × Nat)
  race   : Bool
  cyc    : Option Nat
  setOp  : Bool
  origin : Option Nat
  issuers : List Nat
  owed   : Bool
  view   : KMap Bool
  upd    : List ViewUpd
  hist   : List (Nat × Bool × Option (Nat × Nat) × Bool)
deriving DecidableEq, Repr

/-- The nodes of a barrier's counter tree (08 R224). -/
inductive Node where
  | cluster (k : Nat)
  | row (die r : Nat)
  | die (d : Nat)
  | package
  | root
deriving DecidableEq, Repr

/-- An arrival bit held in a node's counter (08 R225). -/
structure NodeBit where
  node   : Node
  parity : Bool
  child  : Nat
deriving DecidableEq, Repr

/-- An arrival on its way to a node; `core` is the core whose arrival completed the child (08 R226). -/
structure Arrival where
  node   : Node
  parity : Bool
  child  : Nat
  core   : Nat
  cyc    : Nat
deriving DecidableEq, Repr

/-- A release on its way down to a node, or to a core where `core` is given (08 R225). -/
structure Release where
  node   : Node
  core   : Option Nat
  parity : Bool
  cyc    : Nat
deriving DecidableEq, Repr

/-- A physical barrier (08 R224 to R226); `overran` says that an overrun keeps the cores that it holds. -/
structure Barrier where
  vid      : BitVec 16
  owner    : Nat
  run      : Nat
  broken   : Bool
  spans    : Bool
  rootMod  : Nat
  modules  : List Nat
  parts    : List Nat
  gens     : Nat
  overran  : Bool
  coreGen  : KMap Nat
  bits     : List NodeBit
  arrivals : List Arrival
  releases : List Release
deriving DecidableEq, Repr

/-- A bridge object (08 R232). -/
structure Bridge where
  setter  : Nat
  waiter  : Nat
  timeout : Nat
  value   : Bool
  enabled : Bool
deriving DecidableEq, Repr

/-- The SYN_ registers that hold state (08 R236). -/
structure Syn where
  flags     : KMap Flag
  barriers  : KMap Barrier
  bridges   : KMap Bridge
  dlTimeout : BitVec 16
  dlLog     : Word
  dlInfo    : Word
  race      : Word
  ovrLog    : Word
  fsel      : BitVec 13
  bsel      : BitVec 9
  brgSel    : BitVec 6
  mapSel    : Word
deriving DecidableEq, Repr

/-- A 64-bit counter with the latch of its high half (02 R70, 10 R295). -/
structure Counter64 where
  val   : Nat
  latch : Option Word
deriving DecidableEq, Repr

/-- The DET_ block (02 R69). -/
structure Det where
  mode       : BitVec 2
  sealLock   : Bool
  active     : BitVec 2
  pendMode   : BitVec 2
  changePend : Bool
  coreDetail : Bool
  certAddr   : Word
  resend     : Counter64
  refcoll    : Counter64
  emerg      : Counter64
  stp        : Counter64
  hgretry    : Counter64
  conflict   : Counter64
  hold       : Counter64
  stallCc    : Counter64
deriving DecidableEq, Repr

/-- The eight counts a manifest carries, in its order (02 R65). -/
structure RunCounts where
  resend   : Nat
  refcoll  : Nat
  emerg    : Nat
  stp      : Nat
  hgretry  : Nat
  conflict : Nat
  hold     : Nat
  stallCc  : Nat
deriving DecidableEq, Repr

/-- A section of a tun as its directory names it (11 R301). -/
structure Section where
  type  : Nat
  mod   : Nat
  bytes : List Byte
deriving DecidableEq, Repr

/-- A resident tun (11 R300 to R305): header fields, hashes and sections. -/
structure Tun where
  modeReq      : Nat
  freqStep     : BitVec 2
  furlongN     : Nat
  holdFrames   : Nat
  slack        : Nat
  participants : List Nat
  digestPoints : Nat
  rows         : Nat
  slotPeriod   : Nat
  features     : Word
  hgMask0      : Word
  hgMask1      : Word
  stoneId      : Hash
  progHash     : Hash
  numHash      : Hash
  placeHash    : Hash
  sealedOk     : Bool
  sections     : List Section
deriving DecidableEq, Repr

/-- A submission as its completion names it: CMD_ID and the SQ head after it was read (13 R363). -/
structure Cmd where
  id   : BitVec 16
  head : Nat
deriving DecidableEq, Repr

/-- A request of a run (13 R357 to R362). `effect` is the schedule cycle from which its row is seen by host-endpoint
grains (R359), `assigned` the digest point of its assignment, 0xFFFFFFFF for launch. -/
structure Req where
  cmd      : Cmd
  reqId    : DWord
  rowWant  : Nat
  greedy   : Bool
  samplKey : BitVec 128
  nonce    : BitVec 128
  inLen    : Nat
  outLimit : Nat
  outAddr  : Nat
  input    : List Byte
  eligible : Bool
  row      : Option Nat
  effect   : Nat
  assigned : Option Word
  finished : Bool
  trunc    : Bool
  outBytes : List Byte
  done     : Bool
deriving DecidableEq, Repr

inductive RunPhase where
  | waiting
  | admitted
  | active
  | ended
  | preempted
deriving DecidableEq, Repr

/-- A PREEMPT waiting for its boundary, or the facts of a saved run (14 R387 to R389, 08 R231): the command, the furlong,
the save buffer, the key of the image, the bytes saved, and the cores, flags and barriers as they were saved. -/
structure Preempt where
  cmd      : Cmd
  furlong  : Nat
  addr     : Nat
  len      : Nat
  saveKey  : BitVec 128
  saved    : Nat
  cores    : KMap Core
  flags    : List Flag
  barriers : List Barrier
deriving DecidableEq, Repr

/-- A run on this module (02, 10, 13): its context and submission, the tun, the launch field of the entry, C_L once it is
known and LAUNCH_CHAIN of the manifest (R282, 14 R388), the buffers, NREQ and gate; its phase, mode and the facts of
admission and launch (02 R44, R46, R60, R65), with the firmware slot and versions at admission (15 R418); counts and digest points so far, by number: word count and digest; the digest
comparison (13 R366); the requests; the current furlong, the index of the hold that extends each furlong (10 R289), the
furlong opened by the launch, the stall cycles of the current furlong and the holds it originated (R288); the status with
which it ends at the next boundary, and whether that is the EXITST that R162 then selects; the step change to come (R291); a pre-emption; digests handed over at points not yet
complete: core, point, digest, count (02 R59); the detour in force from a furlong (R293); the next sequence number
(09 R260); the ticks in which its submission was posted (08 R233) and it became ready (10 R283); the module's position when
each furlong opened (R287), the core cycle in which the current furlong opened (R285), the stall cycles to come that do not
count towards a hold (R288, R290), the frames by which a late hold moves its slots while that stall lasts (R290), and the latest core cycle at which hub cycles were counted, with their number (07 R199); the
schedule cycle since which the deadlock condition holds (08 R227). -/
structure Run where
  ctx        : Nat
  cmd        : Cmd
  job        : DWord
  handle     : Nat
  tun        : Tun
  launchFld  : DWord
  cl         : Option Nat
  launched   : Option Nat
  manAddr    : Nat
  manLen     : Nat
  nreq       : Nat
  refAddr    : Nat
  gate       : Option Nat
  phase      : RunPhase
  mode       : BitVec 2
  sealAdm    : Bool
  coreDetail : Bool
  openFeat   : Byte
  lnchStep   : BitVec 2
  fw         : Bool × Word × Word
  counts     : RunCounts
  digests    : List (Nat × DWord)
  compare    : Bool
  mismatch   : Bool
  reqs       : List Req
  furlong    : Nat
  exts       : KMap Nat
  startF     : Nat
  stallK     : Nat
  holdsSent  : Nat
  endStatus  : Option Byte
  endExit    : Bool
  stepAt     : Option (Nat × BitVec 2)
  preempt    : Option Preempt
  handed     : List (Nat × Nat × DWord × Nat × Nat)
  detourAt   : Option (Nat × Nat)
  seqNext    : Nat
  posted     : Nat
  readyAt    : Option Nat
  opens      : KMap Nat
  openAt     : Nat
  exempt     : Nat
  lateBy     : Nat
  hubMark    : Nat × Nat
  dlSince    : Option Nat
deriving DecidableEq, Repr

/-- A stone mapping, grant or opt-in of a context (14 R382). -/
structure Grant where
  die : Nat
  off : Nat
  len : Nat
deriving DecidableEq, Repr

/-- One of a context's device rings or its submission ring (13 R347): base, size k, producer or tail, consumer. -/
structure Ring where
  base  : Nat
  k     : Nat
  prod  : Nat
  cons  : Nat
  phase : Bool
deriving DecidableEq, Repr

/-- Moderation of a target (13 R373): register value, count so far and whether its timer runs. -/
structure Moder where
  reg     : Word
  count   : Nat
  firstAt : Option Nat
deriving DecidableEq, Repr

/-- A CTX_KILL whose scrubs are in progress (14 R391): the commands that complete when it ends, and the cores and hogshead regions
(die, offset) being scrubbed. -/
structure Kill where
  cmds    : List Cmd
  cores   : List Nat
  regions : List (Nat × Nat)
deriving DecidableEq, Repr

/-- A context (13 R379, 14 R382). `bells` are the doorbells whose entries have not all been read, as tail and tick, and `readAt` is
the tick of the doorbell that posted the entry read last (08 R233). -/
structure Ctx where
  enabled   : Bool
  ringErr   : Bool
  ringsEn   : Bool
  cqIe      : Bool
  eqIe      : Bool
  dqIe      : Bool
  sq        : Ring
  bells     : List (Nat × Nat)
  readAt    : Nat
  cq        : Ring
  eq        : Ring
  dq        : Ring
  dbErr     : Word
  eqLost    : Word
  dqLost    : Word
  eqOwed    : Nat
  malformed : Word
  held      : List (List Byte)
  moder     : Moder
  tuns      : KMap Tun
  stones    : List Nat
  grants0   : KMap Grant
  grants1   : KMap Grant
  pmOpt     : Option (Nat × Nat × List Byte)
  consent   : Bool
  kill      : Option Kill
deriving DecidableEq, Repr

/-- A grain kept for re-send (09 R260): owner run, sequence number, first port, the grain, its age in ticks. -/
structure Retained where
  run   : Nat
  seq   : Nat
  port  : Nat
  g     : Grain
  age   : Nat
  sent  : Nat
deriving DecidableEq, Repr

/-- A NAK sent for a grain that has not been replaced yet (09 R260): its run, DCORE and STREAM, its source and sequence
number, the re-sent copies rejected so far (R261), and the index and the landing cycle that the tables give the grain
(R243). -/
structure OutNak where
  run   : Nat
  dcore : Nat
  strm  : Nat
  src   : Nat
  seq   : Nat
  tries : Nat
  q     : Nat
  t     : Nat
deriving DecidableEq, Repr

/-- A grain on its way to a core or a hub endpoint of this module (09 R243 to R246): its run, where it lands, the landing
cycle of its schedule, its index on its stream, none for a best-effort grain, and the code words to be written poisoned
(07 R187). -/
structure Flight where
  run  : Nat
  core : Nat
  g    : Grain
  t    : Nat
  q    : Option Nat
  bad  : BitVec 8
deriving DecidableEq, Repr

/-- A best-effort grain on the rings (09 R245, R251): its run and source core, the cycle in which it was formed, the position at
which it reaches the stop that it is to leave next, and the stops whose buffers it has still to pass, with the direction and
the steps from each. -/
structure BeGrain where
  run  : Nat
  src  : Nat
  at0  : Nat
  arr  : Nat
  g    : Grain
  bad  : BitVec 8
  legs : List (Nat × Bool × Nat)
deriving DecidableEq, Repr

/-- A scheduled grain that waits for its link slot (09 R249): its run, whether this module only forwards it, when it has passed the
router (a schedule cycle of the run for a grain formed here, the chain count for one that is forwarded: 12 R317), the core or
hub endpoint that formed it, and the stream of its slots. -/
structure OutGrain where
  run  : Nat
  fwd  : Bool
  src  : Nat
  t    : Nat
  dmod : Nat
  dcor : Nat
  strm : Nat
  g    : Grain
deriving DecidableEq, Repr

/-- A port (09 R252 to R266): LNK_CTRL, LNK_STATUS and counters; consecutive control slots without a valid grain and with
a frame number out of sequence, the control slot expected next (twice the frame number plus HALF); credits held and
credits to return; the DEPTH and SYNCED the partner reports; the descrambler and the scrambler; NAK entries, re-sent grains
(with the run that owns them here) and hold, management and best-effort grains that wait for their slots; the latest
slot-0 control grain (frame and arrival in root cycles); whether the port has been active since reset and whether it asks
its partner to retrain (R258); the tick of the latest retry slot used; the received bytes of the slot in progress, none for
one of an uncorrectable codeword, its number, and the grains received by slot (R255, R256); the next slot of the frame that is
sent, the bytes of its codeword in progress, and the grains that a far-end loop returns (R256, R264). -/
structure Port where
  enable     : Bool
  loopSel    : BitVec 3
  allowFar   : Bool
  maint      : Bool
  st         : BitVec 3
  cwLock     : Bool
  frameLock  : Bool
  partnerFar : Bool
  partner    : BitVec 10
  partnerSys : BitVec 4
  farReq     : Bool
  fecCw      : Word
  fecCorr    : Word
  fecSym     : Word
  fecUncorr  : Word
  crcFail    : Word
  nakTx      : Word
  nakRx      : Word
  resend     : Word
  malformed  : Word
  malLog     : Word
  downCount  : Word
  trainTime  : Word
  eq         : Word
  missed     : Nat
  outOfSeq   : Nat
  expSlot    : Option Nat
  beCredit   : Nat
  mgCredit   : Nat
  beOwed     : Nat
  mgOwed     : Nat
  depth      : BitVec 4
  farSynced  : Bool
  scramble   : BitVec 31
  txScramble : BitVec 31
  naks       : List DWord
  resendQ    : List (Option Nat × Grain)
  outQ       : List Grain
  lastHeard  : Option (BitVec 16 × Nat)
  trained    : Bool
  retrainAt  : Option Nat
  retrain    : Bool
  retryAt    : Option Nat
  rxBytes    : List (Option Byte)
  rxSlot     : Nat
  rxQ        : List (Nat × Grain)
  txSlot     : Nat
  txBytes    : List Byte
  retQ       : List Grain
deriving DecidableEq, Repr

/-- The LNK_ shared page and the network's buffers (09): grains retained for re-send and NAKs outstanding (R260), collision
buffers and best-effort buffers of stops (R250, R251), replies of the host endpoint (run, core, stream, the landing cycle of
the request, payload), grains on their way here, scheduled grains that wait for their link slot (R249), best-effort grains that
wait to enter a ring, and the grain, by core, stream and index, for which a consumer holds the module, with the position at
which it does (02 R40); grains at the router by output and tick (R246, R249), the slots that best-effort grains hold on the
rings: stop, direction, steps and position (R251), the hogshead units on the bridge: die, direction and position (R247), the
position up to which the rings have moved, and the grains that wait in a landing port for their shifted slot: run, port, frame
and slot (10 R290). -/
structure Lnk where
  ports    : KMap Port
  portEvt  : Word
  ringCrc  : Word
  loopCore : BitVec 10
  loopEn   : Bool
  retained : List Retained
  outNaks  : List OutNak
  collide  : KMap (List Flight)
  beBuf    : KMap (List BeGrain)
  replies  : List (Nat × Nat × Nat × Nat × Payload)
  flights  : List Flight
  outQ     : List OutGrain
  beWait   : List BeGrain
  awaited  : Option (Nat × Nat × Nat × Nat)
  routerQ  : List (Nat × Nat × Grain)
  rides    : List (Nat × Bool × Nat × Nat)
  units    : List (Nat × Bool × Nat)
  ringPos  : Nat
  heldIn   : List (Nat × Nat × Nat × Nat × Grain)
deriving DecidableEq, Repr

/-- A READY record as the coordinator holds it (10 R281, R283). -/
structure ReadyRec where
  job   : DWord
  sender: Nat
  ph    : BitVec 128
  mode  : Byte
  fstep : Byte
  fn    : Byte
deriving DecidableEq, Repr

/-- The CHN_ block (10 R295). `theta` is the last θ in half root cycles (R277), `okFrames` the consecutive frames within 2 root
cycles, `silent` those without a grain of a parent (R278); `asked` says that a master has listened and asks a partner for its
count (R280). -/
structure Chn where
  straps      : Straps
  strapsOk    : Bool
  count       : Nat
  running     : Bool
  asked       : Bool
  latch       : Word
  synced      : Bool
  depth       : BitVec 4
  theta       : Int
  rtt         : BitVec 16
  slew        : Word
  okFrames    : Nat
  silent      : Nat
  steer       : Int
  full        : Option (Nat × Nat)
  margin      : BitVec 16
  event       : BitVec 6
  lateHold    : Word
  noRoute     : Word
  routeSel    : BitVec 10
  pathLog     : Word
  holdsSeen   : List (DWord × Nat × Nat)
  readies     : List ReadyRec
deriving DecidableEq, Repr

/-- The PWR_ block (12 R337). `transition` says that an exit is under way (R335), `untilTk` the tick of the event for which a
state was entered, `calDue` that the crossings are to be calibrated (R327); `dozeTk` and `stowTk` are the ticks towards the next
millisecond of PWR_RES_DOZE and PWR_RES_STOW; `stretches` and `beatRoot` the stretches of each region and the root cycles of the
beat, `extend` that the next tick extends it (R324); `lastOut` the ticks at which the module last left Active and came back to it (R335); `emergIn` the emergency
conditions that hold and have set their bit (R338);
`hotBeats` and `overBeats` the beats for which TH_STEP has been reached
and 800 W exceeded, `coolAt` the core cycle since which the module is cool (R329), `duty` that it stalls at every furlong
boundary and `dutyLeft` the beats of such a stall to come. -/
structure Pwr where
  cur        : BitVec 2
  max        : BitVec 2
  maxPend    : Option (BitVec 2)
  changing   : Bool
  st         : BitVec 3
  last       : BitVec 3
  transition : Bool
  autoHold   : Bool
  autoDoze   : Bool
  autoStow   : Bool
  hostTarget : BitVec 3
  horizon    : BitVec 24
  nextLo     : Word
  nextHi     : Word
  nextAt     : DWord
  untilTk    : Option Nat
  calDue     : Bool
  thStep     : Byte
  thEmerg    : Byte
  sealDuty   : BitVec 16
  tele       : Telemetry
  peak1ms    : Nat
  event      : Byte
  beatStall  : Word
  stretch    : Word
  emerg      : Word
  xcalSel    : Word
  xcal       : KMap (BitVec 9)
  resDoze    : Word
  resStow    : Word
  dozeTk     : Nat
  stowTk     : Nat
  stretches  : KMap Nat
  beatRoot   : Nat
  extend     : Bool
  lastOut    : Nat × Nat
  hotBeats   : Nat
  overBeats  : Nat
  coolAt     : Option Nat
  duty       : Bool
  dutyLeft   : Nat
  standing   : List EmergCond
  emergIn    : List EmergCond
  stepCond   : List StepCond
  mfrCap     : BitVec 2
  mfrPend    : Option (BitVec 2)
deriving DecidableEq, Repr

/-- A memory write that the device issued (13 R340): the function whose requester ID it carries, whether it carries the
relaxed-ordering attribute, its address and its length. -/
structure HostReq where
  fn      : Nat
  relaxed : Bool
  addr    : Nat
  len     : Nat
deriving DecidableEq, Repr

/-- A return record of a management processor (13 R375): the resume address, the status and the running priority. -/
structure MpRecord where
  resume : Word
  status : Word
  prio   : Nat
deriving DecidableEq, Repr

/-- A management processor (13 R375 to R377): the stack of (source or 0x3FF, running priority), innermost first, whether an
entry has begun whose claim is to come, and whether an exit has ended in a chain sequence whose claim is to come; the return records of
its levels, innermost first, the register frame selected, 0 for thread code, and the address at which it fetches. -/
structure Mp where
  stack    : List (Nat × Nat)
  entering : Bool
  chaining : Bool
  records  : List MpRecord
  frame    : Nat
  fetch    : Word
deriving DecidableEq, Repr

/-- The event controller (13 R380). `msix` holds the words of the MSI-X tables and `msixPend` the messages that a mask holds
back (13 R343, R374): by function times 256 plus vector times 4 plus word, and as (function, vector). `msixCtl` is the dword of each
function's MSI-X message control. -/
structure Evc where
  spurious : Word
  msgCount : Word
  tgt      : KMap Word
  sw       : List Nat
  insvc    : List Nat
  counted  : List Nat
  mpmod    : KMap Moder
  hmod     : KMap Moder
  mps      : KMap Mp
  msix     : KMap Word
  msixCtl  : KMap Word
  msixPend : List (Nat × Nat)
deriving DecidableEq, Repr

/-- A destination row of a placed stone: its place (a core's stratum, or a hogshead die), address and bytes, and the chunks
that hold its source (14 R399, R400). -/
structure PlacedRow where
  hog    : Bool
  unit   : Nat
  addr   : Nat
  bytes  : List Byte
  chunks : List Nat
deriving DecidableEq, Repr

/-- A resident or loading stone copy (14 R397): its identity and state, the places of its bytes as (core, address, length)
and (die, offset, length), the rows as verified with the manifest hashes of their chunks, and the loads that wait for it. -/
structure Copy where
  stoneHash  : Hash
  placeHash  : Hash
  valid      : Bool
  loading    : Bool
  revoked    : Bool
  damaged    : Bool
  hostVer    : Bool
  refcount   : Nat
  publisher  : BitVec 128
  version    : DWord
  strata     : List (Nat × Nat × Nat)
  hogs       : List (Nat × Nat × Nat)
  rows       : List PlacedRow
  hashes     : KMap Hash
  waiters    : List (Nat × Cmd)
deriving DecidableEq, Repr

/-- A trust-anchor slot (14 R396). -/
structure Anchor where
  pubkey  : List Byte
  prov    : Bool
  revoked : Bool
deriving DecidableEq, Repr

/-- The ING_ block (14 R403), and the stratum ranges (core, address, length) that discarded copies held. -/
structure Ing where
  event      : Byte
  anchors    : KMap Anchor
  anchorSel  : BitVec 4
  anchorAddr : BitVec 7
  stageKey   : Mem
  revList    : List (List Byte)
  revAddr    : BitVec 6
  revStage   : Mem
  copySel    : BitVec 6
  copies     : KMap Copy
  discarded  : List (Nat × Nat × Nat)
  rewrites   : Word
  verifyFail : Word
deriving DecidableEq, Repr

/-- A firmware slot (15 R408): whether it is marked valid, its image, and the fields of its header that registers show. -/
structure FwSlot where
  valid : Bool
  image : List Byte
  svn   : BitVec 16
  hubV  : Word
  mpV   : Word
deriving DecidableEq, Repr

/-- The HUB_ block and bring-up (13 R378, 15 R424). `fatal` says that a fatal error is being or has been
handled, `fatalShown` is HUB_STATUS.FATAL, set when its dump has ended, and `dumpLeft` the header of a dump in progress: its address,
its bytes and the status to come (R414, R415). `boot` and `bootTk` are the findings of a boot in progress and its ticks since t0
(R410). `repairPend` is the repair that waits: die, row, site (R420). `rowMap`
holds the physical rows mapped out of each array (01 R26), by die, row, site and core of the site. -/
structure Hub where
  grade      : BitVec 2
  stepping   : Byte
  splitMode  : BitVec 7
  splitAct   : BitVec 7
  ready      : Bool
  fatal      : Bool
  fatalShown : Bool
  boot       : Option BootFindings
  bootTk     : Nat
  pcieRate   : BitVec 2
  pcieWidth  : BitVec 5
  flit       : Bool
  vfs        : Nat
  dumpBase   : DWord
  dumpLen    : Word
  hostepErr  : Word
  dmaErr     : Word
  malformed  : Word
  bootStage  : BitVec 4
  slotB      : Bool
  activeRec  : Bool
  aOk        : Bool
  bOk        : Bool
  fallback   : Bool
  trialOk    : Bool
  fwA        : FwSlot
  fwB        : FwSlot
  floorSvn   : BitVec 16
  stageAddr  : DWord
  stageLen   : Word
  fwState    : BitVec 3
  fwPrev     : BitVec 3
  trialAt    : Nat
  warming    : Bool
  fwCode     : Byte
  bist       : Word
  repairReq  : Word
  repairSt   : BitVec 5
  repairPend : Option (Nat × Nat × Nat)
  repairMap  : List (Nat × Nat × Nat)
  rowMap     : KMap (List Nat)
  unavail    : List Nat
  cause      : Byte
  causeMask  : BitVec 16
  fatalChain : Nat
  dumpSt     : BitVec 4
  dumpOwed   : Bool
  dumpLeft   : Option (Nat × List Byte × BitVec 4)
  dbgSel     : BitVec 10
  aerCorr    : Bool
  aerUncorr  : Bool
deriving DecidableEq, Repr

/-- The hogshead registers of the CORE_ shared page (07 R211). -/
structure HgRegs where
  due  : Word
  log  : Word
  addr : Word
deriving DecidableEq, Repr

/-- The board and its SMBus target, which holds the last readings (16). `vinTk` counts the ticks for which the input has stayed in range
(R429). -/
structure Board where
  loadOn     : Bool
  vinTk      : Nat
  pwrOk      : Bool
  stInput    : Byte
  stTemp     : Byte
  stCml      : Byte
  jtagIr     : Nat
  jtagDr     : List Bool
  pinsOut    : List Bool
  tele       : Telemetry
deriving DecidableEq, Repr

/-- The whole module. -/
structure State where
  /-- commands waiting, first in first out -/
  pending   : List Instr
  /-- number of the next free value; the MODEL's own field -/
  fresh     : Nat
  /-- core cycles since reset (10 R275), those of them in which the module was stalled, and the cycle at which the tick in
  progress began -/
  clk       : Nat
  stallTot  : Nat
  tickAt    : Nat
  /-- the stall cycles at a position, in core cycles that are no stall: those counted, and those of them still to pass (02 R53) -/
  stalls    : KMap (Nat × Nat)
  cores     : KMap Core
  /-- the cores of the ells in progress as they stood before their first slot (05 R158: a precise cause lets no slot of its ell issue) -/
  ellSaved  : KMap Core
  hg        : KMap Hogshead
  hgRegs    : HgRegs
  syn       : Syn
  det       : Det
  runs      : KMap Run
  nextRun   : Nat
  ctxs      : KMap Ctx
  lnk       : Lnk
  chn       : Chn
  pwr       : Pwr
  evc       : Evc
  ing       : Ing
  hub       : Hub
  board     : Board
  /-- what the device has written to host memory (13 R340); unlisted reads 0 -/
  hostMem   : Mem
  /-- the memory writes that the device issued, newest first (13 R340) -/
  hostReqs  : List HostReq
  /-- MSI-X messages sent, newest first: function and vector (13 R374) -/
  msi       : List (Nat × Nat)
  /-- grains that have left by a port or, at 32, gone to the management processors, newest first -/
  tx        : List (Nat × Grain)
  /-- codewords that have left by a port, newest first: the port, and the PAM4 levels of its two lanes by symbol (09 R253, R254) -/
  wire      : List (Nat × List (List Nat) × List (List Nat))
  /-- the data of the last register read with an effect; DESIGN CHOICE (log 4) -/
  busOut    : Option Word
  /-- the answer of the last SMBus command, none after a NAK -/
  pmbusOut  : Option (BitVec 16)
deriving DecidableEq, Repr

/-- Reasons for which a command stops the model. -/
inductive Fault where
  /-- A slot command that does not come in the order of R139 within its ell (05 R139: an ell has each slot once, in one
  order), or an event of a core between two slots of one ell (05 R133: they issue in one cycle). Raised by the issue of a
  slot and by the events of a core. Safe: no such ell can be encoded, so hardware never shows it. -/
  | slotOrder
  /-- The command names a core, die, port, run, flag, barrier, region or other unit that the module does not have at
  that moment, so the event cannot happen. Raised by the event commands. Safe: the model stops where hardware has
  nothing to do. -/
  | noSuchUnit
deriving DecidableEq, Repr

/-- Reasons for which a command has no meaning. -/
inductive Refusal where
  /-- The command has no meaning in the model yet. Raised by Dispatch. Safe: nothing is claimed of it. -/
  | notModelled (mnemonic : String)
deriving DecidableEq, Repr

/-! Values after reset. -/

/-- A cleared bushel (03 R80). -/
def Bushel.zero : Bushel := { s := 0, ovf := false, loss := false, nv := false }

/-- An accumulator entry with no WBASE record (04 R125). -/
def AccEntry.blank : AccEntry := { b := Bushel.zero, wbase := Option.none }

/-- A bank with no WBASE record (06 R180). -/
def Bank.blank : Bank := { wbase := Option.none, lanes := [] }

/-- An inactive loop level (05 R147). -/
def LoopLevel.idle : LoopLevel := { active := false, index := 0, count := 0, first := 0, last := 0 }

/-- Reset values of the control registers (05 R156). -/
def CtlRegs.reset : CtlRegs :=
  { nstat := 0, exitst := 0, trapVec := 0xFFFFFFFF, trapPc := 0, trapCause := 0, trapInfo := 0, scr0 := 0, scr1 := 0,
    scycHi := 0 }

def Stationary.zero : Stationary := { cells := [], bad := [], scales := [], mask := 0 }

def ArrayState.reset : ArrayState :=
  { queue := [], copy0 := Stationary.zero, copy1 := Stationary.zero, ptr := false, loadStart := none, nextLoad := 0,
    injFree := 0, lastEntry := 0, aheadEnd := 0, done := 0, acc := [], jobs := [], columns := [], resultQ := [], swaps := [] }

def EngState.reset : EngState :=
  { loadQ := [], storeQ := [], loadFree := 0, storeFree := 0, loadDone := 0, storeDone := 0, vecDone := 0,
    syncDone := 0, syncSlots := [] }

def EccRegs.zero : EccRegs := { ceSpad := 0, ceStrat := 0, ceCode := 0, due := 0, log := 0, addr := 0 }

/-- A core after cold reset: every store zero, unowned, available (05 R141, R156; 07 R211). DESIGN CHOICE (log 7). -/
def Core.reset : Core :=
  { sregs := [], vregs := [], pendW := [], pc := 0, scyc := 0, ell := none, ctl := CtlRegs.reset,
    loops := [LoopLevel.idle, LoopLevel.idle, LoopLevel.idle, LoopLevel.idle], frozen := none, inHandler := false,
    asyncQ := [], hold := .free, waitQ := false, halted := false, fatalRec := none, tpar := [], descs := [], arr := ArrayState.reset,
    eng := EngState.reset, banks := [], bankQ := [], dig := { sums := [], issued := 0, handed := 0, reached := [] }, imem := [],
    starts := [], segLen := 0, dmem := [], spad := [], spadQ := [], accs := [], strat := [], ecc := [], eccRegs := EccRegs.zero, pools := [],
    streams := [], outArr := [], available := true, scrubBusy := false, owner := none, run := none,
    preempted := false, resetDue := false, patrol := none }

/-- A hogshead die after cold reset (07 R211). -/
def Hogshead.reset : Hogshead :=
  { mem := [], wq := [], bad := [], ready := false, holder := none, mask := 0, rate := 0, scrub := [],
    retries := 0, uses := [], due := [], patrol := none, ce := 0 }

/-- A bridge after reset (08 R236). -/
def Bridge.reset : Bridge := { setter := 0, waiter := 0, timeout := 1, value := false, enabled := false }

/-- The SYN_ block after reset (08 R236). -/
def Syn.reset : Syn :=
  { flags := [], barriers := [], bridges := [], dlTimeout := 0x1000, dlLog := 0, dlInfo := 0, race := 0, ovrLog := 0,
    fsel := 0, bsel := 0, brgSel := 0, mapSel := 0 }

def Counter64.zero : Counter64 := { val := 0, latch := none }

/-- The DET_ block after reset (02 R69). -/
def Det.reset : Det :=
  { mode := 0, sealLock := false, active := 0, pendMode := 0, changePend := false, coreDetail := false, certAddr := 0,
    resend := Counter64.zero, refcoll := Counter64.zero, emerg := Counter64.zero, stp := Counter64.zero,
    hgretry := Counter64.zero, conflict := Counter64.zero, hold := Counter64.zero, stallCc := Counter64.zero }

def RunCounts.zero : RunCounts :=
  { resend := 0, refcoll := 0, emerg := 0, stp := 0, hgretry := 0, conflict := 0, hold := 0, stallCc := 0 }

/-- A ring before RINGS_EN (13 R379): base 0, k = 4. DESIGN CHOICE: phase 1, the value RINGS_EN sets. -/
def Ring.reset : Ring := { base := 0, k := 4, prod := 0, cons := 0, phase := true }

/-- CTX_MOD and the EVC_ moderation registers reset to 0x0100_0001 (13 R379, R380). -/
def Moder.reset : Moder := { reg := 0x01000001, count := 0, firstAt := none }

/-- A context after reset (13 R379). -/
def Ctx.reset : Ctx :=
  { enabled := false, ringErr := false, ringsEn := false, cqIe := false, eqIe := false, dqIe := false,
    sq := Ring.reset, bells := [], readAt := 0, cq := Ring.reset, eq := Ring.reset, dq := Ring.reset, dbErr := 0, eqLost := 0, dqLost := 0,
    eqOwed := 0, malformed := 0, held := [], moder := Moder.reset, tuns := [], stones := [], grants0 := [],
    grants1 := [], pmOpt := none, consent := false, kill := none }

/-- A port after cold reset (09 R266): enabled and down. DESIGN CHOICE (log 8). -/
def Port.reset : Port :=
  { enable := true, loopSel := 0, allowFar := false, maint := false, st := 0, cwLock := false,
    frameLock := false, partnerFar := false, partner := 0, partnerSys := 0, farReq := false, fecCw := 0, fecCorr := 0,
    fecSym := 0, fecUncorr := 0, crcFail := 0, nakTx := 0, nakRx := 0, resend := 0, malformed := 0, malLog := 0,
    downCount := 0, trainTime := 0, eq := 0, missed := 0, outOfSeq := 0, expSlot := none, beCredit := 0,
    mgCredit := 0, beOwed := 0, mgOwed := 0, depth := 15, farSynced := false, scramble := 0, txScramble := 0, naks := [],
    resendQ := [], outQ := [], lastHeard := none, trained := false, retrainAt := none, retrain := false, retryAt := none, rxBytes := [],
    rxSlot := 0, rxQ := [], txSlot := 50, txBytes := [], retQ := [] }

def Lnk.reset : Lnk :=
  { ports := [], portEvt := 0, ringCrc := 0, loopCore := 0, loopEn := false, retained := [], outNaks := [],
    collide := [], beBuf := [], replies := [], flights := [], outQ := [], beWait := [], awaited := none,
    routerQ := [], rides := [], units := [], ringPos := 0, heldIn := [] }

/-- DESIGN CHOICE (log 2): the straps of State.reset name module 0 of system 0, the system master. -/
def Straps.module0 : Straps := { sysId := 0, grp := 0, mbr := 0, mgr := true }

/-- The CHN_ block after reset (10 R295): DEPTH 15, MARGIN 0x1000, count 0 and not yet running (R280). -/
def Chn.reset : Chn :=
  { straps := Straps.module0, strapsOk := true, count := 0, running := false, asked := false, latch := 0, synced := false,
    depth := 15, theta := 0, rtt := 0, slew := 0, okFrames := 0, silent := 0, steer := 0, full := none, margin := 0x1000, event := 0,
    lateHold := 0, noRoute := 0, routeSel := 0, pathLog := 0, holdsSeen := [], readies := [] }

def Telemetry.zero : Telemetry :=
  { hottest := 0, hubCore := 0, hg0 := 0, hg1 := 0, coolant := 0, power10ms := 0, power1ms := 0, nbrDev := 0,
    nbrTemp := 0, nbrPair := 0, vin := 0, iin := 0, mp := 0, power := 0 }

/-- The PWR_ block after reset (12 R337) and MFR_STEP_CAP (16 R440). -/
def Pwr.reset : Pwr :=
  { cur := 3, max := 3, maxPend := none, changing := false, st := 0, last := 0, transition := false, autoHold := true,
    autoDoze := true, autoStow := true, hostTarget := 0, horizon := 0x64, nextLo := 0, nextHi := 0, nextAt := 0,
    untilTk := none, calDue := false, thStep := 0x5F, thEmerg := 0x69, sealDuty := 0x100, tele := Telemetry.zero, peak1ms := 0,
    event := 0, beatStall := 0, stretch := 0, emerg := 0, xcalSel := 0, xcal := [], resDoze := 0, resStow := 0, dozeTk := 0, stowTk := 0,
    stretches := [], beatRoot := 24, extend := false, lastOut := (0, 0), hotBeats := 0, overBeats := 0, coolAt := none, duty := false, dutyLeft := 0,
    standing := [], emergIn := [], stepCond := [], mfrCap := 3, mfrPend := none }

/-- The EVC_ block after reset (13 R380). -/
def Mp.reset : Mp := { stack := [], entering := false, chaining := false, records := [], frame := 0, fetch := 0 }

def Evc.reset : Evc :=
  { spurious := 0, msgCount := 0, tgt := [], sw := [], insvc := [], counted := [], mpmod := [], hmod := [], mps := [],
    msix := [], msixCtl := [], msixPend := [] }

/-- The ING_ block after reset (14 R403). -/
def Ing.reset : Ing :=
  { event := 0, anchors := [], anchorSel := 0, anchorAddr := 0, stageKey := [], revList := [], revAddr := 0,
    revStage := [], copySel := 0, copies := [], discarded := [], rewrites := 0, verifyFail := 0 }

/-- DESIGN CHOICE (log 2): both firmware slots hold the delivered image at security version 0. -/
def FwSlot.factory : FwSlot :=
  { valid := true, image := Config.factoryImage, svn := 0, hubV := Config.factoryHubVersion, mpV := Config.factoryMpVersion }

/-- The HUB_ block after reset (13 R378, 15 R424). DESIGN CHOICE (log 2): grade A, stepping A1, empty repair map,
rollback floor 0. -/
def Hub.reset : Hub :=
  { grade := 0, stepping := 0xA1, splitMode := 0, splitAct := 0, ready := false, fatal := false, fatalShown := false, boot := none, bootTk := 0, pcieRate := 0,
    pcieWidth := 0, flit := false, vfs := 0, dumpBase := 0, dumpLen := 0, hostepErr := 0, dmaErr := 0, malformed := 0,
    bootStage := 0, slotB := false, activeRec := false, aOk := false, bOk := false, fallback := false,
    trialOk := false, fwA := FwSlot.factory, fwB := FwSlot.factory, floorSvn := 0, stageAddr := 0, stageLen := 0,
    fwState := 0, fwPrev := 0, trialAt := 0, warming := false, fwCode := 0, bist := 0, repairReq := 0, repairSt := 0, repairPend := none, repairMap := [], rowMap := [],
    unavail := [], cause := 0, causeMask := 0, fatalChain := 0, dumpSt := 0, dumpOwed := false, dumpLeft := none, dbgSel := 0,
    aerCorr := false, aerUncorr := false }

/-- The board with its supply in range (16 R429). JTAG selects IDCODE. DESIGN CHOICE (log 5, 9). -/
def Board.reset : Board :=
  { loadOn := true, vinTk := 0, pwrOk := true, stInput := 0, stTemp := 0, stCml := 0, jtagIr := 1, jtagDr := [], pinsOut := [],
    tele := { Telemetry.zero with vin := 54 } }

/-- The module right after a cold reset, before the boot stages of 15 R410 have run. -/
def State.reset : State :=
  { pending := [], fresh := 0, clk := 0, stallTot := 0, tickAt := 0, stalls := [], cores := [], ellSaved := [], hg := [], hgRegs := { due := 0, log := 0, addr := 0 },
    syn := Syn.reset, det := Det.reset, runs := [], nextRun := 0, ctxs := [], lnk := Lnk.reset, chn := Chn.reset,
    pwr := Pwr.reset, evc := Evc.reset, ing := Ing.reset, hub := Hub.reset, board := Board.reset, hostMem := [], hostReqs := [],
    msi := [], tx := [], wire := [], busOut := none, pmbusOut := none }

end Sys2Proof.Machine
end

