-- ==== Sys2Proof/Decode.lean ====
section
/-!
DEFINITION. Decoding. The rows of spec/opcode_table.json give no bits, so no word spells a command.
-/

namespace Sys2Proof

/-- The command that a word spells by the table's bits: the table gives no row any bits, so none.
DESIGN CHOICE (log 11). -/
def decodeTableWord (_nbits _w : Nat) : Option Instr := none

end Sys2Proof
end

