-- ==== Sys2Proof/Machine/Ops.lean ====
section
/-!
DEFINITION. Named operations over tables, memories, registers, rings, counters and cores: what every family of commands
shares. Taking a trap (05 R159) is here, once.
-/

namespace Sys2Proof.Machine

/-- What a command answers. -/
abbrev Out := Host.Outcome State Fault Refusal

/-! Tables -/

/-- The value at a key, or `d`. -/
def kget {α : Type} (d : α) : KMap α → Nat → α
  | [], _ => d
  | (j, w) :: m, k => if j = k then w else kget d m k

/-- The value at a key, if there is one. -/
def kfind {α : Type} : KMap α → Nat → Option α
  | [], _ => none
  | (j, w) :: m, k => if j = k then some w else kfind m k

/-- Write a key, keeping keys in rising order. -/
def kset {α : Type} : KMap α → Nat → α → KMap α
  | [], k, v => [(k, v)]
  | (j, w) :: m, k, v =>
    if k < j then (k, v) :: (j, w) :: m else if k = j then (k, v) :: m else (j, w) :: kset m k v

/-- Remove a key. -/
def kdel {α : Type} : KMap α → Nat → KMap α
  | [], _ => []
  | (j, w) :: m, k => if j = k then m else (j, w) :: kdel m k

/-- Change the value at a key, `d` where there is none. -/
def kmod {α : Type} (d : α) (m : KMap α) (k : Nat) (f : α → α) : KMap α := kset m k (f (kget d m k))

/-- Change every value. -/
def kmap {α : Type} (f : Nat → α → α) : KMap α → KMap α
  | [] => []
  | (j, w) :: m => (j, f j w) :: kmap f m

/-! Memory: canonical lists of (address, byte) -/

/-- The byte at an address; an unlisted address reads 0. DESIGN CHOICE (log 58). -/
def memRead : Mem → Nat → Byte
  | [], _ => 0
  | (j, b) :: m, a => if j = a then b else memRead m a

/-- Write one byte, keeping addresses rising and no zero byte listed. -/
def memWrite : Mem → Nat → Byte → Mem
  | [], a, b => if b = 0 then [] else [(a, b)]
  | (j, w) :: m, a, b =>
    if a < j then (if b = 0 then (j, w) :: m else (a, b) :: (j, w) :: m)
    else if a = j then (if b = 0 then m else (a, b) :: m)
    else (j, w) :: memWrite m a b

/-- The canonical form: every address lies above `lo`, addresses rise, no byte is zero. -/
def Mem.wfFrom : Nat → Mem → Bool
  | _, [] => true
  | lo, (j, b) :: m => decide (lo ≤ j) && (b != 0) && Mem.wfFrom (j + 1) m

/-- The canonical form of a memory. -/
def Mem.wf (m : Mem) : Bool := Mem.wfFrom 0 m

/-- `n` bytes from an address upwards. -/
def memReads (m : Mem) (a : Nat) : Nat → List Byte
  | 0 => []
  | n + 1 => memRead m a :: memReads m (a + 1) n

/-- Write bytes from an address upwards. -/
def memWrites (m : Mem) (a : Nat) : List Byte → Mem
  | [] => m
  | b :: bs => memWrites (memWrite m a b) (a + 1) bs

/-- Zero the bytes from `a` up to `a + n − 1`. -/
def memClear (m : Mem) (a n : Nat) : Mem := m.filter (fun p => !(decide (a ≤ p.1) && decide (p.1 < a + n)))

/-! Little-endian and big-endian integers (00 R10) -/

/-- The number of a little-endian byte string. -/
def leNat : List Byte → Nat
  | [] => 0
  | b :: bs => b.toNat + 256 * leNat bs

/-- The low `n` bytes of a number, least significant first. -/
def leBytes : Nat → Nat → List Byte
  | 0, _ => []
  | n + 1, v => BitVec.ofNat 8 v :: leBytes n (v / 256)

/-- The number of a big-endian byte string. -/
def beNat (bs : List Byte) : Nat := bs.foldl (fun acc b => acc * 256 + b.toNat) 0

/-- The low `n` bytes of a number, most significant first. -/
def beBytes (n v : Nat) : List Byte := (leBytes n v).reverse

/-- Bytes `off` to `off + n − 1` of a byte list; bytes beyond its end are 0. -/
def slice (bs : List Byte) (off n : Nat) : List Byte :=
  let t := (bs.drop off).take n
  t ++ List.replicate (n - t.length) 0

/-- Little-endian field of `n` bytes at `off`. -/
def leAt (bs : List Byte) (off n : Nat) : Nat := leNat (slice bs off n)

/-- Bits [lo + n − 1 : lo] of a bit vector as a number. -/
def bits {w : Nat} (v : BitVec w) (lo n : Nat) : Nat := (v.toNat / 2 ^ lo) % 2 ^ n

/-- Bit i of a bit vector. -/
def bitOf {w : Nat} (v : BitVec w) (i : Nat) : Bool := v.getLsbD i

/-- Place a number in bits [lo + n − 1 : lo] of a word of the same width. -/
def putBits {w : Nat} (v : BitVec w) (lo n x : Nat) : BitVec w :=
  let mask := BitVec.ofNat w ((2 ^ n - 1) * 2 ^ lo)
  (v &&& ~~~mask) ||| (BitVec.ofNat w ((x % 2 ^ n) * 2 ^ lo))

/-- 1 for true. -/
def b2n (b : Bool) : Nat := if b then 1 else 0

/-- Two's-complement value of the low `w` bits of a number. -/
def toSigned (w v : Nat) : Int :=
  let u := v % 2 ^ w
  if u < 2 ^ (w - 1) then (u : Int) else (u : Int) - (2 ^ w : Nat)

/-- The low `w` bits of an integer. -/
def ofSigned (w : Nat) (v : Int) : Nat := (v % ((2 ^ w : Nat) : Int)).toNat

/-- Add to a 32-bit counter that saturates at its all-ones value (07 R211, 09 R266, 10 R295, 13 R378, 14 R403). -/
def satAdd (v : Word) (n : Nat) : Word := BitVec.ofNat 32 (min (v.toNat + n) 0xFFFFFFFF)

/-- Add to one field of a counter register, saturating at the field's all-ones value. -/
def satField (v : Word) (lo n add : Nat) : Word := putBits v lo n (min (bits v lo n + add) (2 ^ n - 1))

/-! Grade, sizes and identities -/

/-- Logical cores per die (00 R2). -/
def State.coresPerDie (s : State) : Nat := if s.hub.grade = 0 then 288 else 256

/-- Whether hogshead die `d` is enabled in the grade (00 R3). -/
def State.hgPresent (s : State) (d : Nat) : Bool := d == 0 || (d == 1 && s.hub.grade = 0)

/-- The module ID from the straps (10 R270). -/
def State.moduleId (s : State) : Nat := s.chn.straps.grp.toNat * 16 + s.chn.straps.mbr.toNat

/-- Whether logical core `c` is present and available (00 R3, 01 R32). -/
def State.hasCore (s : State) (c : Nat) : Bool :=
  decide (c < 2 * s.coresPerDie) && !(s.hub.unavail.contains (c / 4))

def imemSize : Nat := 131072
def dmemSize : Nat := 32768
def spadSize : Nat := 786432
def stratumSize : Nat := 2359296
def hgSize : Nat := 2147483648

/-! Registers of the hub -/

/-- Whether register writes act: the module is powered, not in Off (12 R333) and not in recovery (15 R409). -/
def State.regsAct (s : State) : Bool := s.board.loadOn && s.pwr.st != 4 && s.hub.bootStage != 6

/-- A register access of context 0, ignored where registers do not act. -/
def State.mmio (s : State) (f : State → State) : Out := .next (if s.regsAct then f s else s)

/-! Cores -/

/-- Core `c`; a core that nothing has touched is as reset leaves it. -/
def State.core (s : State) (c : Nat) : Core := kget Core.reset s.cores c

def State.setCore (s : State) (c : Nat) (k : Core) : State := { s with cores := kset s.cores c k }

def State.modCore (s : State) (c : Nat) (f : Core → Core) : State := s.setCore c (f (s.core c))

/-! Runs and contexts -/

def State.ctx (s : State) (f : Nat) : Ctx := kget Ctx.reset s.ctxs f

def State.setCtx (s : State) (f : Nat) (x : Ctx) : State := { s with ctxs := kset s.ctxs f x }

def State.modCtx (s : State) (f : Nat) (g : Ctx → Ctx) : State := s.setCtx f (g (s.ctx f))

def State.run? (s : State) (r : Nat) : Option Run := kfind s.runs r

def State.setRun (s : State) (r : Nat) (x : Run) : State := { s with runs := kset s.runs r x }

def State.modRun (s : State) (r : Nat) (g : Run → Run) : State :=
  match s.run? r with
  | some x => s.setRun r (g x)
  | none => s

/-- Runs active on the module (02 R69 RUNS_ACTIVE). DEDUCED (log 100). -/
def State.activeRuns (s : State) : List (Nat × Run) := s.runs.filter (fun p => p.2.phase == .active)

/-- Whether a context's function is enabled; context 0 always is (13 R342). -/
def State.ctxEnabled (s : State) (f : Nat) : Bool := f == 0 || (s.ctx f).enabled

/-- CTX_STATUS.ENABLED. DESIGN CHOICE (log 151): context 0 shows 0, its reset value, until a boot has begun. -/
def State.ctxShown (s : State) (f : Nat) : Bool := if f == 0 then s.hub.bootStage != 0 else (s.ctx f).enabled

/-! The DET_ counters and stalls (02 R50 to R55) -/

/-- Add to a 64-bit counter that saturates (02 R70). -/
def Counter64.add (c : Counter64) (n : Nat) : Counter64 := { c with val := min (c.val + n) (2 ^ 64 - 1) }

/-- The count is cleared; a latched high half stays (02 R70). DEDUCED (log 95). -/
def Counter64.clear (c : Counter64) : Counter64 := { c with val := 0 }

/-- Change the counts of every active run (02 R54). -/
def State.chargeRuns (s : State) (g : RunCounts → RunCounts) : State :=
  { s with runs := kmap (fun _ x => if x.phase = .active then { x with counts := g x.counts } else x) s.runs }

/-- Whether a result column of the core waits for a credit (07 R204). -/
def Core.columnWaits (k : Core) : Bool := k.arr.columns.any (fun c => c.wait)

/-- The length of a run's furlongs in schedule cycles (10 R285). -/
def Run.furlongCc (x : Run) : Nat := 2 ^ x.tun.furlongN

/-! Positions and stalls (02 R40, R41, R50 to R53; 10 R285 to R290) -/

/-- Core cycles per tick at the step in force (12 R318). -/
def ccPerTick (stp : BitVec 2) : Nat :=
  match stp.toNat with
  | 0 => 2
  | 1 => 3
  | 2 => 4
  | _ => 6

/-- The module's position: the core cycles in which it was not stalled (02 R40). -/
def State.pos (s : State) : Nat := s.clk - s.stallTot

/-- The module's position at schedule cycle t of a run. Slack that stalls have consumed is not executed, so each furlong counts
from the position at which it opened (10 R287). -/
def Run.position (x : Run) (t : Nat) : Nat :=
  let f := min x.furlong (t / x.furlongCc)
  kget 0 x.opens f + (t - f * x.furlongCc)

/-- The schedule cycle of a run at a position of its current furlong. -/
def Run.cycleAt (x : Run) (p : Nat) : Nat :=
  x.furlong * x.furlongCc + min x.furlongCc (p - kget 0 x.opens x.furlong)

/-- The schedule cycle of a run at the core cycle in progress (10 R287). DEDUCED (log 126): commands come in the order of time. -/
def State.nowOf (s : State) (x : Run) : Nat := x.cycleAt s.pos

/-- E in core cycles at the step in force (10 R288). -/
def State.extCc (s : State) (x : Run) : Nat := 24 * x.tun.holdFrames * ccPerTick s.pwr.cur

/-- The extensions of a run's current furlong, in core cycles. -/
def State.extended (s : State) (x : Run) : Nat := kget 0 x.exts x.furlong * s.extCc x

/-- The core cycle of the boundary that ends a run's current furlong: F and the extensions after the one that opened it
(10 R285, R289). -/
def State.boundaryAt (s : State) (x : Run) : Nat := x.openAt + x.furlongCc + s.extended x

/-- Whether a run has executed its furlong (10 R287). -/
def State.heldAt (s : State) (x : Run) : Bool := decide ((x.furlong + 1) * x.furlongCc ≤ s.nowOf x)

/-- Whether every schedule cycle of a run's furlong has been executed before the instant of its boundary: the module is held as a
unit (10 R287). -/
def State.boundaryHeld (s : State) (x : Run) : Bool :=
  s.heldAt x && decide (s.clk < s.boundaryAt x)

/-- Whether a grain for the hub sync unit has not landed by its cycle: its consumer is the sync unit, which acts in the
landing cycle (08 R219, 02 R40). -/
def State.hubLate (s : State) : Bool :=
  let late := fun (r t : Nat) =>
    match s.run? r with
    | some x => x.phase == .active && decide (t ≤ s.nowOf x)
    | none => false
  s.lnk.flights.any (fun f => f.core == 0x3FC && late f.run f.t) ||
    s.lnk.outNaks.any (fun n => n.dcore == 0x3FC && late n.run n.t)

/-- Whether a stall stands, whose cycles pass one by one: an emergency, a SEAL_DUTY stall (12 R329), a beat that is extended
(12 R324), a fatal error (15 R414), a result column that waits for a credit (07 R204), a consumer that waits for a late
scheduled grain (02 R40), or a furlong executed before its boundary (10 R287). -/
def State.stallStands (s : State) : Bool :=
  !s.pwr.standing.isEmpty || decide (0 < s.pwr.dutyLeft) || s.pwr.extend || s.hub.fatal ||
    s.cores.any (fun p => p.2.columnWaits) || s.lnk.awaited.any (fun a => decide (a.2.2.2 ≤ s.pos)) || s.hubLate ||
    s.activeRuns.any (fun e => s.boundaryHeld e.2)

/-- Count `n` stall cycles: DET_STALL_CC and every active run's manifest (02 R53, R54). -/
def State.countStall (s : State) (n : Nat) : State :=
  { s with
    det := { s.det with stallCc := s.det.stallCc.add n }
    runs := kmap (fun _ x =>
      if x.phase = .active then { x with counts := { x.counts with stallCc := x.counts.stallCc + n } } else x) s.runs }

/-- The stall cycles counted at a position, and those of them that have still to pass. -/
def State.stallsAt (s : State) (p : Nat) : Nat × Nat := kget (0, 0) s.stalls p

/-- The module stalls for the next `n` cc. Cycles for which it stalls already are counted once (02 R53). -/
def State.stallNow (s : State) (n : Nat) : State :=
  let e := s.stallsAt s.pos
  { s with stalls := kset s.stalls s.pos (e.1 + (n - e.2), max n e.2) }.countStall (n - e.2)

/-- `n` of the cycles that passed since position p were stall cycles: a furlong that had opened by then is so much less far,
and one that opened later opened at a lower position. -/
def State.passBack (s : State) (p n : Nat) : State :=
  { s with
    stallTot := s.stallTot + n
    runs := kmap (fun _ x =>
      if x.phase != .active then x
      else if kget 0 x.opens x.furlong ≤ p then { x with stallK := x.stallK + n }
      else { x with opens := kmod 0 x.opens x.furlong (fun o => o - n) }) s.runs }

/-- The module stalls for `n` cc in all at position p. Cycles for which it stalls there already, for whatever cause, are counted
once (02 R53). -/
def State.stallPos (s : State) (p n : Nat) : State :=
  let e := s.stallsAt p
  let d := n - e.1
  if s.pos ≤ p then { s with stalls := kset s.stalls p (e.1 + d, e.2 + d) }.countStall d
  else ({ s with stalls := kset s.stalls p (e.1 + d, e.2) }.countStall d).passBack p d

/-- The module stalls for `n` cc in all at schedule cycle t of core c's run. DEDUCED (log 104). -/
def State.stallAt (s : State) (c t n : Nat) : State :=
  match (s.core c).run.bind s.run? with
  | none => s.stallNow n
  | some x => s.stallPos (x.position t) n

/-- A core cycle passes in which the module is stalled. The cycles of a boundary hold, and of the stall for a late hold, do not
count towards a hold of their run (10 R288, R290). -/
def State.stallPasses (s : State) : State :=
  { s with
    stallTot := s.stallTot + 1
    runs := kmap (fun _ x =>
      if x.phase != .active || s.boundaryHeld x then x
      else if 0 < x.exempt then { x with exempt := x.exempt - 1, lateBy := if x.exempt = 1 then 0 else x.lateBy }
      else { x with stallK := x.stallK + 1 }) s.runs }

/-- One core cycle passes: a stall cycle where one is still to pass at this position or a stall stands (02 R40, R41). -/
def State.cycle (s : State) : State :=
  let e := s.stallsAt s.pos
  if 0 < e.2 then { s.stallPasses with clk := s.clk + 1, stalls := kset s.stalls s.pos (e.1, e.2 - 1) }
  else if s.stallStands then
    { s.stallPasses.countStall 1 with clk := s.clk + 1, stalls := kset s.stalls s.pos (e.1 + 1, 0) }
  else { s with clk := s.clk + 1 }

/-- Core cycles pass. -/
def State.cycles (s : State) : Nat → State
  | 0 => s
  | n + 1 => s.cycle.cycles n

/-- The core cycle in which the module reaches position p or reached it: a cycle later for every cycle between that is not
stalled, and for every stall at a position between (02 R41). -/
def State.wallOf (s : State) (p : Nat) : Nat :=
  let here := s.stallsAt s.pos
  let sum := fun (lo hi : Nat) (f : Nat × Nat → Nat) =>
    s.stalls.foldl (fun n e => if lo ≤ e.1 && e.1 < hi then n + f e.2 else n) 0
  if s.pos < p then s.clk + (p - s.pos) + sum s.pos p (fun e => e.2)
  else s.clk - (s.pos - p) - (here.1 - here.2) - sum p s.pos (fun e => e.1)

/-- The position that the module reaches, or had reached, in core cycle w. -/
def State.posAt (s : State) (w : Nat) : Nat :=
  if w < s.clk then s.pos - (s.clk - w)
  else
    let p := s.pos + (w - s.clk)
    p - s.stalls.foldl (fun n e => if s.pos ≤ e.1 && e.1 < p then n + e.2.2 else n) 0

/-- One conflict: DET_CONFLICT and the manifests (02 R50, R52). -/
def State.countConflict (s : State) : State :=
  ({ s with det := { s.det with conflict := s.det.conflict.add 1 } }).chargeRuns
    (fun k => { k with conflict := k.conflict + 1 })

/-- One emergency stall: DET_EMERG and the manifests; PWR_EMERG leaves beat stalls out (02 R53, R54; 12 R325, R337). -/
def State.countEmerg (s : State) (beat : Bool) : State :=
  { s with
    det := { s.det with emerg := s.det.emerg.add 1 }
    pwr := if beat then s.pwr else { s.pwr with emerg := satAdd s.pwr.emerg 1 } }.chargeRuns
    (fun k => { k with emerg := k.emerg + 1 })

/-- Whether the module is stalled as a unit: by a stall that stands, or in a power state in which compute is not clocked
(12 R331, R335). -/
def State.stalled (s : State) : Bool := s.stallStands || s.pwr.st != 0 || !s.board.loadOn

/-- An event for which the module leaves Hold, Doze or Stow: the exit begins (12 R335). -/
def State.wake (s : State) : State :=
  if 1 ≤ s.pwr.st.toNat && s.pwr.st.toNat ≤ 3 then { s with pwr := { s.pwr with transition := true } } else s

/-- A known event of tick t: where it comes before the one for which a power state was entered, the exit begins (12 R335). -/
def State.newEvent (s : State) (t : Nat) : State := if s.pwr.untilTk.all (fun u => decide (t < u)) then s.wake else s

/-! Rings and entries in host memory (13 R347 to R353, R363) -/

/-- Write bytes to host memory with the requester ID of function f, with or without the relaxed-ordering attribute (13 R340).
DESIGN CHOICE (log 6). DESIGN CHOICE (log 87). -/
def State.hostWrite (s : State) (f : Nat) (relaxed : Bool) (a : Nat) (bs : List Byte) : State :=
  { s with
    hostMem := memWrites s.hostMem a bs
    hostReqs := { fn := f, relaxed := relaxed, addr := a, len := bs.length } :: s.hostReqs }

/-- A failed read: counted in HUB_DMA_ERR and reported through AER (13 R341, R368). -/
def State.dmaFailed (s : State) : State :=
  { s with hub := { s.hub with dmaErr := satAdd s.hub.dmaErr 1, aerUncorr := true } }

/-- Number of entries of a ring. -/
def Ring.size (r : Ring) : Nat := 2 ^ r.k

/-- Whether a device ring has no room: it is never written at P while (P + 1) mod N = H (13 R351). -/
def Ring.full (r : Ring) : Bool := (r.prod + 1) % r.size == r.cons

/-- The ring after one more entry: the phase inverts on each wrap (13 R348). -/
def Ring.advance (r : Ring) : Ring :=
  let p := (r.prod + 1) % r.size
  { r with prod := p, phase := if p = 0 then !r.phase else r.phase }

/-- Put the PHASE bit into byte 7 of a 32-byte entry (13 R348, R363). -/
def withPhase (bs : List Byte) (ph : Bool) : List Byte := bs.take 7 ++ [BitVec.ofNat 8 (b2n ph)] ++ bs.drop 8

/-- A 32-byte entry from its fields in order: 0, 1, 2–3, 4–5, 6, 8–15, 16–23, 24–31 (13 R363). -/
def entryBytes (b0 b1 h2 h4 b6 q8 q16 q24 : Nat) : List Byte :=
  leBytes 1 b0 ++ leBytes 1 b1 ++ leBytes 2 h2 ++ leBytes 2 h4 ++ leBytes 1 b6 ++ [0] ++ leBytes 8 q8 ++
    leBytes 8 q16 ++ leBytes 8 q24

/-- Write a held or new completion entry at the CQ's producer index. -/
def State.cqWrite (s : State) (f : Nat) (bs : List Byte) : State :=
  let x := s.ctx f
  let s := s.hostWrite f false (x.cq.base + 32 * x.cq.prod) (withPhase bs x.cq.phase)
  s.setCtx f { x with cq := x.cq.advance }

/-- Post a completion: held in order in a queue of 64 while the CQ is full (13 R353). With the rings not enabled there
is nowhere to write it. -/
def State.postCompletion (s : State) (f : Nat) (bs : List Byte) : State :=
  let x := s.ctx f
  if !x.ringsEn then s
  else if x.cq.full || !x.held.isEmpty then s.setCtx f { x with held := x.held ++ [bs] }
  else s.cqWrite f bs

/-- A completion of a submission with the payload words of 13 R363; HUB_MALFORMED counts every MALFORMED one (13 R378). -/
def State.complete (s : State) (f : Nat) (opcode status : Nat) (cmd : Cmd) (b6 job q16 q24 : Nat) : State :=
  let s := if status = 2 then { s with hub := { s.hub with malformed := satAdd s.hub.malformed 1 } } else s
  s.postCompletion f (entryBytes status opcode cmd.id.toNat cmd.head b6 job q16 q24)

/-- Post an event entry, or count its loss; the first entry after a loss is an OVERFLOW entry (13 R353, R364). The event
of a doorbell written while RINGS_EN is 0 is posted too (R350). DEDUCED (log 108). -/
def State.eventEntry (s : State) (f : Nat) (bs : List Byte) : State :=
  let x := s.ctx f
  if x.eq.full then s.setCtx f { x with eqLost := satAdd x.eqLost 1, eqOwed := x.eqOwed + 1 }
  else
    let s := s.hostWrite f false (x.eq.base + 32 * x.eq.prod) (withPhase bs x.eq.phase)
    s.setCtx f { x with eq := x.eq.advance }

/-- Event of the given TYPE to a context (13 R363, R364). -/
def State.postEvent (s : State) (f type status core job detail : Nat) : State :=
  let owed := (s.ctx f).eqOwed
  let s :=
    if owed = 0 || (s.ctx f).eq.full then s
    else
      (s.eventEntry f (entryBytes 0x0F 0 0xFFFF s.moduleId 0 0 s.chn.count owed)).modCtx f
        (fun x => { x with eqOwed := 0 })
  s.eventEntry f (entryBytes type status core s.moduleId 0 job s.chn.count detail)

/-- Post a digest entry, or count its loss (13 R353, R363). -/
def State.postDigest (s : State) (f kind core job mism l cnt : Nat) (d : DWord) : State :=
  let x := s.ctx f
  if !x.ringsEn then s
  else if x.dq.full then s.setCtx f { x with dqLost := satAdd x.dqLost 1 }
  else
    let bs := entryBytes kind 0 core s.moduleId mism job (l + cnt * 2 ^ 32) d.toNat
    let s := s.hostWrite f false (x.dq.base + 32 * x.dq.prod) (withPhase bs x.dq.phase)
    s.setCtx f { x with dq := x.dq.advance }

/-- SCHEDULE_VIOLATION event of a core's cause: DETAIL 0xFF (13 R364). -/
def State.violation (s : State) (c : Nat) : State :=
  match (s.core c).run with
  | some r =>
    match s.run? r with
    | some x => s.postEvent x.ctx 0x04 0 c x.job.toNat 0xFF
    | none => s
  | none => s

/-! Run endings -/

/-- The run ends at the next furlong boundary with a status; the first such status stands (05 R162, 15 R412). -/
def State.endRun (s : State) (r : Nat) (st : Byte) : State :=
  s.modRun r (fun x => if x.endStatus.isSome then x else { x with endStatus := some st })

/-- As `endRun`, for the run that occupies core `c`. -/
def State.endRunOf (s : State) (c : Nat) (st : Byte) : State :=
  match (s.core c).run with
  | some r => s.endRun r st
  | none => s

/-- A run in which an uncorrectable word was met ends with ABORTED, whatever its cores' EXITST (07 R188). -/
def State.endRunDue (s : State) (r : Nat) : State :=
  s.modRun r (fun x => if x.endStatus.isSome && !x.endExit then x else { x with endStatus := some 0x06, endExit := false })

/-- The same for the run that occupies core `c`. -/
def State.endDueOf (s : State) (c : Nat) : State :=
  match (s.core c).run with
  | some r => s.endRunDue r
  | none => s

/-- The run that occupies core `c` ends at the next furlong boundary with the status that R162 selects there, `st` as it
stands now (05 R162). -/
def State.endRunExit (s : State) (c : Nat) (st : Byte) : State :=
  match (s.core c).run with
  | some r => s.modRun r (fun x => if x.endStatus.isSome then x else { x with endStatus := some st, endExit := true })
  | none => s

/-! Registers with latencies (05 R135, R136) -/

/-- Order of two writes: by the cycle they become visible, then by issue, then the load or sync slot last. -/
def PendWrite.le (a b : PendWrite) : Bool :=
  a.cyc < b.cyc || (a.cyc == b.cyc && (a.issued < b.issued || (a.issued == b.issued && (!a.late || b.late))))

/-- Insert a write after every write that does not come later. -/
def pendInsert (w : PendWrite) : List PendWrite → List PendWrite
  | [] => [w]
  | x :: xs => if x.le w then x :: pendInsert w xs else w :: x :: xs

/-- Scalar register r; s0 reads 0 (05 R137). -/
def Core.s (k : Core) (r : BitVec 5) : Word := if r = 0 then 0 else kget 0 k.sregs r.toNat

/-- Vector register r. -/
def Core.v (k : Core) (r : BitVec 5) : VReg := kget 0 k.vregs r.toNat

/-- Descriptor h; an entry that nothing has defined is SPACE 0x7 (06 R163). -/
def Core.desc (k : Core) (h : BitVec 8) : Desc := kget 7 k.descs h.toNat

/-- Tile-parameter entry n. -/
def Core.tparam (k : Core) (n : Nat) : DWord := kget 0 k.tpar n

/-- Write scalar register r; a write to s0 is ignored (05 R137). -/
def Core.setS (k : Core) (r : BitVec 5) (v : Word) : Core :=
  if r = 0 then k else { k with sregs := kset k.sregs r.toNat v }

def Core.setV (k : Core) (r : BitVec 5) (v : VReg) : Core := { k with vregs := kset k.vregs r.toNat v }

/-- The write of a control register (05 R146, R156): RO registers ignore it, NSTAT is W1C, EXITST holds [7:0]. -/
def CtlRegs.write (g : CtlRegs) (n : Nat) (v : Word) : CtlRegs :=
  match n with
  | 0x00 => { g with nstat := g.nstat &&& ~~~(v.setWidth 3) }
  | 0x01 => { g with exitst := v.setWidth 8 }
  | 0x02 => { g with trapVec := v }
  | 0x03 => { g with trapPc := v }
  | 0x06 => { g with scr0 := v }
  | 0x07 => { g with scr1 := v }
  | _ => g

/-- The value of a read-write control register, as CRS and CRC combine with it. -/
def CtlRegs.rwValue (g : CtlRegs) (n : Nat) : Word :=
  match n with
  | 0x01 => g.exitst.setWidth 32
  | 0x02 => g.trapVec
  | 0x03 => g.trapPc
  | 0x06 => g.scr0
  | 0x07 => g.scr1
  | _ => 0

/-- CRS: set bits; no effect on a W1C field (05 R146). -/
def CtlRegs.setBits (g : CtlRegs) (n : Nat) (v : Word) : CtlRegs :=
  if n = 0 then g else g.write n (g.rwValue n ||| v)

/-- CRC: clear bits; on a W1C field it clears the marked bits (05 R146). -/
def CtlRegs.clearBits (g : CtlRegs) (n : Nat) (v : Word) : CtlRegs :=
  if n = 0 then g.write 0 v else g.write n (g.rwValue n &&& ~~~v)

/-- The effect of one pending write. -/
def Core.apply (k : Core) : Target → Core
  | .sreg r v => k.setS r v
  | .vreg r mask v => k.setV r ((k.v r &&& ~~~mask) ||| (v &&& mask))
  | .ctlWrite n v => { k with ctl := k.ctl.write n v }
  | .ctlSet n v => { k with ctl := k.ctl.setBits n v }
  | .ctlClear n v => { k with ctl := k.ctl.clearBits n v }
  | .nstat v => { k with ctl := { k.ctl with nstat := k.ctl.nstat ||| v } }
  | .tpar n v => { k with tpar := kset k.tpar n v }
  | .descWord h w v => { k with descs := kset k.descs h.toNat (putBits (k.desc h) (32 * w) 32 v.toNat) }

/-- Make visible, in order, every write due in cycle `i` or earlier. -/
def Core.retireList (k : Core) (i : Nat) : List PendWrite → Core
  | [] => { k with pendW := [] }
  | w :: ws => if w.cyc ≤ i then (k.apply w.tgt).retireList i ws else { k with pendW := w :: ws }

/-- The core as an ell that issues in cycle `i` sees it (05 R135). -/
def Core.retire (k : Core) (i : Nat) : Core := k.retireList i k.pendW

/-- Schedule a write for cycle `i + lat`. -/
def Core.later (k : Core) (lat : Nat) (late : Bool) (t : Target) : Core :=
  { k with pendW := pendInsert { cyc := k.scyc + lat, issued := k.scyc, late := late, tgt := t } k.pendW }

/-- Schedule a write for a given cycle. -/
def Core.writeAt (k : Core) (cyc : Nat) (late : Bool) (t : Target) : Core :=
  { k with pendW := pendInsert { cyc := cyc, issued := k.scyc, late := late, tgt := t } k.pendW }

/-- LOOPST: the active flag of each level (05 R156). -/
def loopst (ls : List LoopLevel) : Nat :=
  ls.foldr (fun l acc => b2n l.active + 2 * acc) 0

/-- Current index of loop level l, 0 when inactive (05 R148, 06 R166). -/
def Core.loopIdx (k : Core) (l : Nat) : Nat :=
  let v := k.loops.getD l LoopLevel.idle
  if v.active then v.index else 0

/-- The indices of the four levels, as an operation copies them at issue (06 R168). -/
def Core.idx (k : Core) : List Nat := [k.loopIdx 0, k.loopIdx 1, k.loopIdx 2, k.loopIdx 3]

/-! Errors in code words (07 R184 to R187) -/

/-- Whether the code word of byte address `a` holds a detected-uncorrectable or poisoned word. -/
def Core.dueAt (k : Core) (m : MemKind) (a : Nat) : Bool :=
  k.ecc.any (fun x => x.mem == m && x.word == a / 8 && x.due)

/-- Whether any byte of a range lies in an uncorrectable word. -/
def Core.dueIn (k : Core) (m : MemKind) (a n : Nat) : Bool :=
  k.ecc.any (fun x => x.mem == m && x.due && decide (8 * x.word < a + n) && decide (a < 8 * x.word + 8))

/-- The byte address of the lowest uncorrectable code word that a range meets. -/
def Core.firstDue (k : Core) (m : MemKind) (a n : Nat) : Option Nat :=
  k.ecc.foldl (fun acc x =>
    if x.mem == m && x.due && decide (8 * x.word < a + n) && decide (a < 8 * x.word + 8) then
      some (min (8 * x.word) (acc.getD (8 * x.word)))
    else acc) none

/-- The correctable words that a read of a range meets. -/
def Core.ceWords (k : Core) (m : MemKind) (a n : Nat) : List Nat :=
  (k.ecc.filter (fun x => x.mem == m && !x.due && decide (8 * x.word < a + n) && decide (a < 8 * x.word + 8))).map (fun x => x.word)

/-- Mark a code word poisoned (07 R186). -/
def Core.poison (k : Core) (m : MemKind) (a : Nat) : Core :=
  { k with ecc := { mem := m, word := a / 8, due := true } ::
      k.ecc.filter (fun x => !(x.mem == m && x.word == a / 8)) }

/-- A write of `n` bytes at `a` clears the marks of the code words it writes; an uncorrectable word written only in
part stays poisoned (07 R185, R186). -/
def Core.freshen (k : Core) (m : MemKind) (a n : Nat) : Core :=
  { k with ecc := k.ecc.filter (fun x => !(x.mem == m &&
      (if x.due then decide (a ≤ 8 * x.word) && decide (8 * x.word + 8 ≤ a + n)
       else decide (8 * x.word < a + n) && decide (a < 8 * x.word + 8)))) }

/-- MEM field of CORE_ECC_LOG (07 R211). DESIGN CHOICE (log 149): an error of the start-bit array is logged as one of instruction memory. -/
def MemKind.code : MemKind → Nat
  | .imem => 0
  | .dmem => 1
  | .spad => 2
  | .strat => 3
  | .starts => 0

/-- Log an error of a core memory: the first since VALID was cleared, except that an uncorrectable error replaces a
logged correctable one (07 R211). -/
def EccRegs.record (g : EccRegs) (m : MemKind) (a : Nat) (due : Bool) : EccRegs :=
  if bitOf g.log 0 && (bitOf g.log 1 || !due) then g
  else
    { g with
      log := BitVec.ofNat 32 (1 + 2 * b2n due + 4 * m.code + 16 * ((a / 8) % 8) +
        256 * (Config.syndrome (a / 8)).toNat)
      addr := putBits 0 6 16 (a / 64) }

/-- Count and log a corrected code word (07 R185, R211). -/
def EccRegs.countCe (g : EccRegs) (m : MemKind) (word : Nat) : EccRegs :=
  let g := g.record m (8 * word) false
  match m with
  | .dmem => { g with ceCode := satField g.ceCode 16 16 1 }
  | .spad => { g with ceSpad := satAdd g.ceSpad 1 }
  | .strat => { g with ceStrat := satAdd g.ceStrat 1 }
  | _ => { g with ceCode := satField g.ceCode 0 16 1 }

/-- Count a detected-uncorrectable read (07 R211). -/
def EccRegs.countDue (g : EccRegs) (m : MemKind) (a : Nat) : EccRegs :=
  { (g.record m a true) with due := satField (g.record m a true).due (8 * m.code) 8 1 }

/-- A read of `n` bytes at `a` of a core memory: counts what it corrects. -/
def Core.noteRead (k : Core) (m : MemKind) (a n : Nat) : Core :=
  { k with eccRegs := (k.ceWords m a n).foldl (fun g w => g.countCe m w) k.eccRegs }

/-- Bytes of the start bits of `par` parcels from parcel p: the first, and how many. -/
def startSpan (p par : Nat) : Nat × Nat := (p / 8, (p + par - 1) / 8 + 1 - p / 8)

/-- The fetch of an ell of `par` parcels: the corrected words of its parcels and start bits are counted (07 R184, R185). -/
def Core.noteFetch (k : Core) (par : Nat) : Core :=
  (k.noteRead .imem (2 * k.pc) (2 * par)).noteRead .starts (startSpan k.pc par).1 (startSpan k.pc par).2

/-- A write of `n` bytes at `a` corrects the words that it writes only in part before it merges into them, and counts them (07 R185,
R186). -/
def Core.noteMerge (k : Core) (m : MemKind) (a n : Nat) : Core :=
  let part := (k.ceWords m a n).filter (fun w => !(decide (a ≤ 8 * w) && decide (8 * w + 8 ≤ a + n)))
  { k with eccRegs := part.foldl (fun g w => g.countCe m w) k.eccRegs }

/-- What a write of `n` bytes at `a` does to the code words that it meets (07 R185, R186). -/
def Core.merge (k : Core) (m : MemKind) (a n : Nat) : Core := (k.noteMerge m a n).freshen m a n

/-- The first uncorrectable word that a fetch of `par` parcels from parcel p meets, in the parcels or their start bits
(07 R184, R187). -/
def Core.badFetch (k : Core) (p par : Nat) : Option Block :=
  match k.firstDue .starts (startSpan p par).1 (startSpan p par).2 with
  | some a => some (.fetch .starts a)
  | none => (k.firstDue .imem (2 * p) (2 * par)).map (Block.fetch .imem)

/-! Traps (05 R158 to R162) -/

/-- TRAP_INFO from its fields (05 R156). DEDUCED (log 48). -/
def trapInfo (source mid detail : Nat) : Word :=
  BitVec.ofNat 32 (source % 8 + 256 * (mid % 256) + 65536 * (detail % 65536))

/-- Whether another core of core `c`'s run is still issuing (05 R162). -/
def State.othersIssuing (s : State) (c : Nat) : Bool :=
  match (s.core c).run with
  | none => false
  | some r => s.cores.any (fun p => p.1 != c && p.2.run == some r && !p.2.halted)

/-- The core with every register write on its way made: those of a core that has halted still land (05 R155, R162). -/
def Core.landed (k : Core) : Core := k.pendW.foldl (fun k w => k.apply w.tgt) { k with pendW := [] }

/-- EXITST once every write to it has landed; the core is complete only then (05 R162). DEDUCED (log 103). -/
def Core.finalExit (k : Core) : Byte := k.landed.ctl.exitst

/-- A cause still pending when the core halts, or one that arises later, is recorded and EXITST becomes ABORTED,
whatever value it held (05 R162). DESIGN CHOICE (log 119): of several pending ones TRAP_CAUSE and TRAP_INFO take the lowest
code. -/
def Core.recordPending (k : Core) : Core :=
  match k.asyncQ with
  | [] => k
  | x :: xs =>
    let k := k.landed
    { k with
      ctl := { k.ctl with
        trapCause := BitVec.ofNat 32 (x.code.toNat + 256)
        trapInfo := x.info
        exitst := 0x06 }
      fatalRec := some (k.fatalRec.getD [] ++ (x :: xs).map (fun y => y.code))
      asyncQ := [] }

/-- A core has halted: with a non-zero EXITST while other cores of its run still issue, the run ends at the next
furlong boundary with such a status (05 R162). DEDUCED (log 92). -/
def State.afterHalt (s : State) (c : Nat) : State :=
  let st := (s.core c).finalExit
  if st != 0 && s.othersIssuing c then s.endRunExit c st else s

/-- A fault with no handler to take it: EXITST is set, the cause goes into the fatal dump record and the core halts
(05 R161). Writes of EXITST on their way are made before. -/
def State.haltFault (s : State) (c : Nat) (codes : List Byte) (st : Byte) : State :=
  (s.modCore c (fun k =>
    let k := k.landed
    { k with
      ctl := { k.ctl with exitst := st }, fatalRec := some codes, halted := true, ell := none,
      hold := .free }.recordPending)).afterHalt c

/-- Taking a trap: the ONE description of trap entry (05 R159). DESIGN CHOICE (log 118): with TRAP_VEC at no ell start any
cause, BROKEN_OBJECT too, ends with EXITST ABORTED. With no handler the core halts (R161, R145);
otherwise TRAP_CAUSE, TRAP_INFO and TRAP_PC are set, the loop state and the hold are frozen, and the handler's first
ell issues 7 cycles after the cycle of the cause. -/
def State.takeTrap (s : State) (c : Nat) (code : Byte) (async : Bool) (info : Word) (retPc : Nat) : State :=
  let k := (s.core c).retire (s.core c).scyc
  let st : Byte := if code = 0x09 then 0x08 else 0x06
  if k.ctl.trapVec.toNat ≥ imemSize / 2 then s.haltFault c [code] st
  else if !(k.starts.contains k.ctl.trapVec.toNat) then s.haltFault c [0x02, code] 0x06
  else
    s.setCore c
      { k with
        ctl := { k.ctl with
          trapCause := BitVec.ofNat 32 (code.toNat + 256 * b2n async)
          trapInfo := info
          trapPc := BitVec.ofNat 32 retPc }
        frozen := some (k.loops, k.hold)
        hold := .free
        waitQ := false
        inHandler := true
        ell := none
        pc := k.ctl.trapVec.toNat
        scyc := k.scyc + 7 }

/-- Undo an ell of which no slot issues (05 R158). -/
def State.undoEll (s : State) (c : Nat) : State :=
  match kfind s.ellSaved c with
  | some k => { s.setCore c k with ellSaved := kdel s.ellSaved c }
  | none => s

/-- A precise cause of the ell about to issue. While a handler runs it is not trapped and the core halts
(05 R158, R161). -/
def State.precise (s : State) (c : Nat) (x : Cause) : State :=
  if (s.core c).inHandler then s.haltFault c [x.code] 0x06
  else s.takeTrap c x.code false x.info (s.core c).pc

/-- Insert a cause by code, lowest first (05 R160). -/
def causeInsert (x : Cause) : List Cause → List Cause
  | [] => [x]
  | y :: ys => if y.code ≤ x.code then y :: causeInsert x ys else x :: y :: ys

/-- An asynchronous cause arises in cycle t: from then it waits for the next ell, or after HALT it is recorded and EXITST becomes ABORTED
(05 R160, R162). UNCORRECTABLE ends the run with ABORTED (07 R188). -/
def State.raiseAsyncAt (s : State) (c : Nat) (code : Byte) (info : Word) (t : Nat) : State :=
  let s :=
    s.modCore c (fun k =>
      let k := { k with asyncQ := causeInsert { code := code, info := info, cyc := t } k.asyncQ }
      if k.halted then k.recordPending else k)
  let s := if (s.core c).halted then s.afterHalt c else s
  if code = 0x0A then s.endDueOf c else s

/-- An asynchronous cause that is pending at once. -/
def State.raiseAsync (s : State) (c : Nat) (code : Byte) (info : Word) : State := s.raiseAsyncAt c code info 0

/-- The lowest asynchronous cause pending in cycle t (05 R160). -/
def Core.dueCause (k : Core) (t : Nat) : Option Cause := k.asyncQ.find? (fun x => decide (x.cyc ≤ t))

/-- A detected-uncorrectable read of a core memory: counted, logged and raised as UNCORRECTABLE with the memory's
number (05 R158, 07 R187, R211). -/
def State.uncorrectable (s : State) (c : Nat) (slot : Nat) (m : MemKind) (a : Nat) : State :=
  (s.modCore c (fun k => { k with eccRegs := k.eccRegs.countDue m a })).raiseAsync c 0x0A (trapInfo slot 0 m.code)

/-- Take the lowest pending asynchronous cause at once (05 R159, R160). BROKEN_OBJECT ends a hold on its object for
good, so that hold is not frozen (08 R229). -/
def State.takeAsync (s : State) (c : Nat) : State :=
  let k := s.core c
  match k.dueCause k.scyc with
  | none => s
  | some x =>
    let h :=
      if x.code = 0x09 then
        match k.hold with
        | .fence m i => Hold.fence m i
        | _ => Hold.free
      else k.hold
    (s.setCore c { k with asyncQ := k.asyncQ.erase x, hold := h }).takeTrap c x.code true x.info k.pc

/-! The issue of an ell, slot by slot (05 R133, R134) -/

/-- What the gate of a slot decides. -/
inductive Gate where
  /-- the slot may issue -/
  | go (s : State)
  /-- no slot of the ell issues -/
  | void (s : State)
  | stop (f : Fault)

/-- A core issues only while a run that occupies it is active and it has not halted (05 R143, R162). -/
def State.issuing (s : State) (c : Nat) : Bool :=
  let k := s.core c
  !k.halted &&
    match k.run with
    | some r =>
      match s.run? r with
      | some x => x.phase == .active
      | none => false
    | none => false

/-- The ell of no slot yet, a header alone. -/
def EllSt.new : EllSt :=
  { slots := 0, parcels := 1, block := none, causes := [], target := none, penalty := 0, link := none, loop := none,
    swtrap := none, eret := false,
    halt := false, dues := [], viols := 0 }

/-- Whether the core has executed every schedule cycle of its run's furlong and waits for the boundary (10 R287). -/
def State.furlongDone (s : State) (c : Nat) : Bool :=
  match (s.core c).run.bind s.run? with
  | some x => decide ((x.furlong + 1) * x.furlongCc ≤ (s.core c).scyc)
  | none => false

/-- Why the ell at the program counter does not issue: a stalled or held core (05 R134; 10 R287), a pending asynchronous cause,
which is taken first (R160), a program counter that is not an ell start (R145), an uncorrectable parcel (07 R187), a
full queue (R134). DEDUCED (log 49). -/
def State.openBlock (s : State) (c par : Nat) (full : Core → Bool) : Option Block :=
  let k := s.core c
  if s.stalled || !s.issuing c then some .held
  else if (k.dueCause k.scyc).isSome && !k.inHandler then some (if k.waitQ then .held else .async)
  else if k.hold != .free || s.furlongDone c then some .held
  else if (k.badFetch k.pc 1).isNone && !(k.starts.contains k.pc) then some .badTarget
  else
    match k.badFetch k.pc (1 + par) with
    | some b => some b
    | none => if full k then some .full else none

/-- Open an ell with its first slot's `par` parcels: the core as it stands is kept, and the writes due become
visible (05 R135). -/
def State.openEll (s : State) (c par : Nat) (slots : BitVec 6) (full : Core → Bool) : State :=
  let k := s.core c
  let b := s.openBlock c par full
  let e := { EllSt.new with slots := slots, parcels := 1 + par, block := b }
  { s.setCore c { k.retire k.scyc with ell := some e, waitQ := false } with ellSaved := kset s.ellSaved c k }

/-- The next slot joins the ell. -/
def Core.joinEll (k : Core) (e : EllSt) (n par : Nat) (full : Core → Bool) : EllSt :=
  let b :=
    match e.block with
    | some b => some b
    | none =>
      match k.badFetch (k.pc + e.parcels) par with
      | some b => some b
      | none => if full k then some Block.full else none
  { e with slots := e.slots ||| BitVec.ofNat 6 (2 ^ n), parcels := e.parcels + par, block := b }

/-- Whether a core's ell is open and nothing keeps it from issuing. -/
def Core.ellOpen (k : Core) : Bool :=
  match k.ell with
  | some e => e.block.isNone
  | none => false

/-- The gate of a slot of `par` parcels, slot number `n` (0 scalar to 5 sync). `full` says that the slot's queue has no
room. DESIGN CHOICE (log 77). -/
def State.gate (s : State) (c n par : Nat) (full : Core → Bool) : Gate :=
  if !s.hasCore c then .stop .noSuchUnit
  else
    let k := s.core c
    match k.ell with
    | some e =>
      if e.slots.toNat ≥ 2 ^ n then .stop .slotOrder
      else
        let s' := s.setCore c { k with ell := some (k.joinEll e n par full) }
        if (s'.core c).ellOpen then .go s' else .void s'
    | none =>
      let s' := s.openEll c par (BitVec.ofNat 6 (2 ^ n)) full
      if (s'.core c).ellOpen then .go s' else .void s'

/-- Whether no slot of the core's ell has a precise cause. -/
def Core.ellSound (k : Core) : Bool :=
  match k.ell with
  | some e => e.causes.isEmpty
  | none => false

/-- Change the core's ell. -/
def Core.modEll (k : Core) (f : EllSt → EllSt) : Core := { k with ell := k.ell.map f }

/-- Deactivate level l and every level above it (05 R148). -/
def loopsCut (ls : List LoopLevel) (l : Nat) : List LoopLevel :=
  ls.take l ++ (ls.drop l).map (fun x => { x with active := false })

/-- The loop state after a taken branch to `t`: the first (outermost) active level whose body does not hold `t` is left
with every level inside it (05 R148). -/
def loopsAfterBranch (ls : List LoopLevel) (t : Nat) : Nat → Nat → List LoopLevel
  | 0, _ => ls
  | fuel + 1, l =>
    match ls[l]? with
    | none => ls
    | some x =>
      if x.active && (decide (t < x.first) || decide (x.last < t)) then loopsCut ls l
      else loopsAfterBranch ls t fuel (l + 1)

/-- End of the ell at `h` with fall-through `seq`: levels that end here are tested innermost first (05 R147).
Levels are examined from `l − 1` down. -/
def loopsAtEnd (ls : List LoopLevel) (h seq : Nat) : Nat → List LoopLevel × Nat
  | 0 => (ls, seq)
  | l + 1 =>
    match ls[l]? with
    | none => loopsAtEnd ls h seq l
    | some x =>
      if x.active && x.last == h then
        if x.index + 1 < x.count then (ls.set l { x with index := x.index + 1 }, x.first)
        else loopsAtEnd (ls.set l { x with active := false }) h seq l
      else loopsAtEnd ls h seq l

/-- Return from a trap: the ONE description of ERET (05 R159). The frozen loop state and hold are restored and issue
goes on at TRAP_PC, 3 cycles after the ERET. -/
def Core.returnTrap (k : Core) (post : Nat) : Core :=
  let f := k.frozen.getD (k.loops, Hold.free)
  { k with
    loops := f.1
    hold := if k.hold = .free then f.2 else k.hold
    frozen := none
    inHandler := false
    ell := none
    pc := k.ctl.trapPc.toNat
    scyc := max (k.scyc + 3) (k.scyc + 1 + post) }

/-- The core after its ell has issued: the program counter, the loops, the next issue cycle and HALT
(05 R138, R147, R148, R155, R162). DEDUCED (log 45). DEDUCED (log 46). -/
def Core.closeEll (k : Core) (e : EllSt) (post : Nat) : Core :=
  let seq := k.pc + e.parcels
  let k :=
    match e.link with
    | some r => k.later 1 false (.sreg r (BitVec.ofNat 32 seq))
    | none => k
  if e.eret then k.returnTrap post
  else if e.halt then { k with pc := seq, scyc := k.scyc + 1 + post, ell := none, halted := true }.recordPending
  else
    match e.target with
    | some t =>
      { k with
        loops := if k.inHandler then k.loops else loopsAfterBranch k.loops t 4 0
        pc := t
        scyc := max (k.scyc + e.penalty) (k.scyc + 1 + post)
        ell := none }
    | none =>
      let p := if k.inHandler then (k.loops, seq) else loopsAtEnd k.loops k.pc seq 4
      let ls :=
        match e.loop with
        | some (l, n, last) =>
          p.1.set l { active := true, index := 0, count := n, first := seq, last := last }
        | none => p.1
      { k with loops := ls, pc := p.2, scyc := k.scyc + 1 + post, ell := none }

/-- The lowest cause of a list (05 R158). -/
def lowestCause (x : Cause) (xs : List Cause) : Cause := xs.foldl (fun a y => if y.code < a.code then y else a) x

/-- Post `n` schedule-violation events of a core. -/
def State.violations (s : State) (c : Nat) : Nat → State
  | 0 => s
  | n + 1 => (s.violation c).violations c n

/-- Raise UNCORRECTABLE for each word read. -/
def State.uncorrectables (s : State) (c : Nat) : List (Nat × MemKind × Nat) → State
  | [] => s
  | d :: ds => (s.uncorrectable c d.1 d.2.1 d.2.2).uncorrectables c ds

/-- The end of an ell. If something keeps it from issuing, none of its slots has issued; otherwise it closes, and a
TRAP in it is then taken (05 R133, R158, R159). DESIGN CHOICE (log 157): the handler of a TRAP issues at i + 7, whatever POST the ell
has. -/
def State.endEll (s : State) (c post : Nat) : State :=
  let k := s.core c
  match k.ell with
  | none => s
  | some e =>
    match e.block with
    | some .held => s.undoEll c
    | some .full => (s.undoEll c).modCore c (fun k => { k with waitQ := true })
    | some .async => (s.undoEll c).takeAsync c
    | some .badTarget => (s.undoEll c).precise c { code := 0x02, info := trapInfo 7 0 k.pc }
    | some (.fetch m a) => ((s.undoEll c).modCore c (fun k => k.noteFetch e.parcels)).uncorrectable c 7 m a
    | some (.broken v) => (((s.undoEll c).modCore c (fun k => k.noteFetch e.parcels)).raiseAsync c 0x09 (trapInfo 5 0 v.toNat)).takeAsync c
    | none =>
      match e.causes with
      | x :: xs => ((s.undoEll c).modCore c (fun k => k.noteFetch e.parcels)).precise c (lowestCause x xs)
      | [] =>
        let k' := (k.noteFetch e.parcels).closeEll e post
        let s := { s.setCore c k' with ellSaved := kdel s.ellSaved c }
        let s := (s.violations c e.viols).uncorrectables c e.dues
        if e.halt then s.afterHalt c
        else
          match e.swtrap with
          | none => s
          | some info =>
            if k'.inHandler then s.haltFault c [0x06] 0x06
            else (s.modCore c (fun x => { x with scyc := k.scyc })).takeTrap c 0x06 false info k'.pc

/-- End of a slot: with another slot to come nothing more happens; the last slot ends the ell. -/
def State.endSlot (s : State) (c : Nat) (e : EllEnd) : State :=
  match e with
  | .more => s
  | .last post => s.endEll c post.toNat

/-- Run a slot through its gate: `chk` finds a precise cause of the slot, `f` is its effect on the state in which it
issues. -/
def State.slotP (s : State) (c n par : Nat) (full : Core → Bool) (e : EllEnd) (chk : State → Option Cause)
    (f : State → State) : Out :=
  match s.gate c n par full with
  | .stop r => .fault r
  | .void s' => .next (s'.endSlot c e)
  | .go s' =>
    match chk s' with
    | some x => .next ((s'.modCore c (fun k => k.modEll (fun l => { l with causes := l.causes ++ [x] }))).endSlot c e)
    | none => .next ((if (s'.core c).ellSound then f s' else s').endSlot c e)

/-- A slot with no precise cause of its own. -/
def State.slot (s : State) (c n par : Nat) (full : Core → Bool) (e : EllEnd) (f : State → State) : Out :=
  s.slotP c n par full e (fun _ => none) f

/-- A slot whose queue is never full. -/
def noQueue : Core → Bool := fun _ => false

/-- ILLEGAL in slot `n` (05 R158). -/
def illegal (n : Nat) : Cause := { code := 0x01, info := trapInfo n 0 0 }

/-! Events at a core -/

/-- An event of core `c`, handed the core. An ell's slots issue in one cycle (05 R133), so no event comes between
them. -/
def State.coreEvent (s : State) (c : Nat) (f : Core → Out) : Out :=
  if !s.hasCore c then .fault .noSuchUnit
  else if (s.core c).ell.isSome then .fault .slotOrder
  else f (s.core c)

/-- Whether a run that is active occupies core `c`: its engines and its array run (05 R143, R162). -/
def State.running (s : State) (c : Nat) : Bool :=
  match (s.core c).run.bind s.run? with
  | some x => x.phase == .active
  | none => false

/-- An ell held by a full queue issues in the cycle in which an operation leaves it (05 R134). -/
def Core.queueFreed (k : Core) (t : Nat) : Core :=
  if k.waitQ then { k with waitQ := false, scyc := max k.scyc t } else k

end Sys2Proof.Machine
end

