-- ==== Sys2Proof/Machine/Crypto.lean ====
section
/-!
DEFINITION. The codes and ciphers the spec names: CRC-32C (09 R239), SHA-384, AES-128 in counter mode (03 R103) and
with Galois/counter mode (14 R389, R393), and ECDSA over P-384 (02 R68, 14 R396, 15 R408), as their standards give them.
-/

namespace Sys2Proof.Machine

/-! CRC-32C -/

/-- One bit of the reflected Castagnoli polynomial. -/
def crcBit (c : Word) : Word := if bitOf c 0 then (c >>> 1) ^^^ 0x82F63B78 else c >>> 1

/-- `n` bits. -/
def crcBits : Nat → Word → Word
  | 0, c => c
  | n + 1, c => crcBits n (crcBit c)

/-- CRC-32C of a byte string (09 R239). -/
def crc32c (bs : List Byte) : Word :=
  (bs.foldl (fun c b => crcBits 8 (c ^^^ b.setWidth 32)) 0xFFFFFFFF) ^^^ 0xFFFFFFFF

/-! SHA-384 -/

def shaK0 : List DWord :=
  [0x428A2F98D728AE22, 0x7137449123EF65CD, 0xB5C0FBCFEC4D3B2F, 0xE9B5DBA58189DBBC,
   0x3956C25BF348B538, 0x59F111F1B605D019, 0x923F82A4AF194F9B, 0xAB1C5ED5DA6D8118,
   0xD807AA98A3030242, 0x12835B0145706FBE, 0x243185BE4EE4B28C, 0x550C7DC3D5FFB4E2,
   0x72BE5D74F27B896F, 0x80DEB1FE3B1696B1, 0x9BDC06A725C71235, 0xC19BF174CF692694,
   0xE49B69C19EF14AD2, 0xEFBE4786384F25E3, 0x0FC19DC68B8CD5B5, 0x240CA1CC77AC9C65,
   0x2DE92C6F592B0275, 0x4A7484AA6EA6E483, 0x5CB0A9DCBD41FBD4, 0x76F988DA831153B5,
   0x983E5152EE66DFAB, 0xA831C66D2DB43210, 0xB00327C898FB213F, 0xBF597FC7BEEF0EE4,
   0xC6E00BF33DA88FC2, 0xD5A79147930AA725, 0x06CA6351E003826F, 0x142929670A0E6E70,
   0x27B70A8546D22FFC, 0x2E1B21385C26C926, 0x4D2C6DFC5AC42AED, 0x53380D139D95B3DF,
   0x650A73548BAF63DE, 0x766A0ABB3C77B2A8, 0x81C2C92E47EDAEE6, 0x92722C851482353B]

def shaK1 : List DWord :=
  [0xA2BFE8A14CF10364, 0xA81A664BBC423001, 0xC24B8B70D0F89791, 0xC76C51A30654BE30,
   0xD192E819D6EF5218, 0xD69906245565A910, 0xF40E35855771202A, 0x106AA07032BBD1B8,
   0x19A4C116B8D2D0C8, 0x1E376C085141AB53, 0x2748774CDF8EEB99, 0x34B0BCB5E19B48A8,
   0x391C0CB3C5C95A63, 0x4ED8AA4AE3418ACB, 0x5B9CCA4F7763E373, 0x682E6FF3D6B2B8A3,
   0x748F82EE5DEFB2FC, 0x78A5636F43172F60, 0x84C87814A1F0AB72, 0x8CC702081A6439EC,
   0x90BEFFFA23631E28, 0xA4506CEBDE82BDE9, 0xBEF9A3F7B2C67915, 0xC67178F2E372532B,
   0xCA273ECEEA26619C, 0xD186B8C721C0C207, 0xEADA7DD6CDE0EB1E, 0xF57D4F7FEE6ED178,
   0x06F067AA72176FBA, 0x0A637DC5A2C898A6, 0x113F9804BEF90DAE, 0x1B710B35131C471B,
   0x28DB77F523047D84, 0x32CAAB7B40C72493, 0x3C9EBE0A15C9BEBC, 0x431D67C49C100D4C,
   0x4CC5D4BECB3E42B6, 0x597F299CFC657E2A, 0x5FCB6FAB3AD6FAEC, 0x6C44198C4A475817]

/-- The round constants of SHA-384. -/
def shaK : List DWord := shaK0 ++ shaK1

/-- The initial hash value of SHA-384. -/
def shaInit : List DWord :=
  [0xCBBB9D5DC1059ED8, 0x629A292A367CD507, 0x9159015A3070DD17, 0x152FECD8F70E5939,
   0x67332667FFC00B31, 0x8EB44A8768581511, 0xDB0C2E0D64F98FA7, 0x47B5481DBEFA4FA4]

def rotr (x : DWord) (n : Nat) : DWord := (x >>> n) ||| (x <<< (64 - n))

/-- The eight working variables. -/
structure ShaSt where
  a : DWord
  b : DWord
  c : DWord
  d : DWord
  e : DWord
  f : DWord
  g : DWord
  h : DWord
deriving DecidableEq, Repr

/-- One round with constant plus schedule word `kw`. -/
def ShaSt.round (s : ShaSt) (kw : DWord) : ShaSt :=
  let s1 := rotr s.e 14 ^^^ rotr s.e 18 ^^^ rotr s.e 41
  let ch := (s.e &&& s.f) ^^^ (~~~s.e &&& s.g)
  let t1 := s.h + s1 + ch + kw
  let s0 := rotr s.a 28 ^^^ rotr s.a 34 ^^^ rotr s.a 39
  let mj := (s.a &&& s.b) ^^^ (s.a &&& s.c) ^^^ (s.b &&& s.c)
  { a := t1 + s0 + mj, b := s.a, c := s.b, d := s.c, e := s.d + t1, f := s.e, g := s.f, h := s.g }

/-- Rounds over the constants, with the next 16 schedule words at hand. -/
def shaRounds : List DWord → List DWord → ShaSt → ShaSt
  | [], _, s => s
  | _, [], s => s
  | k :: ks, w :: ws, s =>
    let w1 := ws.getD 0 0
    let w14 := ws.getD 13 0
    let g0 := rotr w1 1 ^^^ rotr w1 8 ^^^ (w1 >>> 7)
    let g1 := rotr w14 19 ^^^ rotr w14 61 ^^^ (w14 >>> 6)
    shaRounds ks (ws ++ [w + g0 + ws.getD 8 0 + g1]) (s.round (k + w))

/-- Big-endian words of a block. -/
def shaWords (bs : List Byte) : List DWord :=
  (List.range 16).map (fun i => BitVec.ofNat 64 (beNat (slice bs (8 * i) 8)))

/-- Compress one block into a hash value. -/
def shaBlock (h : List DWord) (bs : List Byte) : List DWord :=
  let g := fun i => h.getD i 0
  let s : ShaSt := { a := g 0, b := g 1, c := g 2, d := g 3, e := g 4, f := g 5, g := g 6, h := g 7 }
  let t := shaRounds shaK (shaWords bs) s
  [g 0 + t.a, g 1 + t.b, g 2 + t.c, g 3 + t.d, g 4 + t.e, g 5 + t.f, g 6 + t.g, g 7 + t.h]

/-- Compress `n` blocks. -/
def shaGo : Nat → List Byte → List DWord → List DWord
  | 0, _, h => h
  | n + 1, bs, h => shaGo n (bs.drop 128) (shaBlock h (bs.take 128))

/-- Padding to whole blocks. -/
def shaPad (bs : List Byte) : List Byte :=
  let n := bs.length
  bs ++ [0x80] ++ List.replicate ((239 - n % 128) % 128) 0 ++ beBytes 16 (8 * n)

/-- SHA-384 of a byte string. -/
def sha384 (bs : List Byte) : Hash :=
  let p := shaPad bs
  let h := shaGo (p.length / 128) p shaInit
  BitVec.ofNat 384 ((h.take 6).foldl (fun acc w => acc * 2 ^ 64 + w.toNat) 0)

/-- The 48 bytes of a hash. -/
def hashBytes (h : Hash) : List Byte := beBytes 48 h.toNat

/-! AES-128 -/

/-- Multiplication by x in GF(2^8). -/
def xtime (b : Byte) : Byte := if bitOf b 7 then (b <<< 1) ^^^ 0x1B else b <<< 1

def gmulGo : Nat → Byte → Byte → Byte → Byte
  | 0, _, _, r => r
  | n + 1, a, b, r => gmulGo n (xtime a) (b >>> 1) (if bitOf b 0 then r ^^^ a else r)

/-- Multiplication in GF(2^8). -/
def gmul (a b : Byte) : Byte := gmulGo 8 a b 0

/-- x^254, the inverse of a non-zero x. -/
def ginv (x : Byte) : Byte :=
  let x2 := gmul x x
  let x4 := gmul x2 x2
  let x8 := gmul x4 x4
  let x16 := gmul x8 x8
  let x32 := gmul x16 x16
  let x64 := gmul x32 x32
  let x128 := gmul x64 x64
  gmul x2 (gmul x4 (gmul x8 (gmul x16 (gmul x32 (gmul x64 x128)))))

/-- The substitution box. -/
def sbox (x : Byte) : Byte :=
  let b := ginv x
  b ^^^ b.rotateLeft 1 ^^^ b.rotateLeft 2 ^^^ b.rotateLeft 3 ^^^ b.rotateLeft 4 ^^^ 0x63

/-- The next round key. -/
def aesNextKey (k : List Byte) (rc : Byte) : List Byte :=
  let g := fun i => k.getD i 0
  let t := [sbox (g 13) ^^^ rc, sbox (g 14), sbox (g 15), sbox (g 12)]
  let w0 := (List.range 4).map (fun i => g i ^^^ t.getD i 0)
  let w1 := (List.range 4).map (fun i => g (4 + i) ^^^ w0.getD i 0)
  let w2 := (List.range 4).map (fun i => g (8 + i) ^^^ w1.getD i 0)
  let w3 := (List.range 4).map (fun i => g (12 + i) ^^^ w2.getD i 0)
  w0 ++ w1 ++ w2 ++ w3

def xorBytes (a b : List Byte) : List Byte := List.zipWith (fun x y => x ^^^ y) a b

/-- SubBytes and ShiftRows. -/
def aesSubShift (s : List Byte) : List Byte :=
  (List.range 16).map (fun i => sbox (s.getD ((i + 4 * (i % 4)) % 16) 0))

/-- MixColumns. -/
def aesMix (s : List Byte) : List Byte :=
  (List.range 16).map (fun i =>
    let c := i - i % 4
    let g := fun j => s.getD (c + (i + j) % 4) 0
    xtime (g 0) ^^^ xtime (g 1) ^^^ g 1 ^^^ g 2 ^^^ g 3)

/-- The rounds left, the round key and the round constant. -/
def aesRounds : Nat → List Byte → Byte → List Byte → List Byte
  | 0, _, _, s => s
  | n + 1, k, rc, s =>
    let k' := aesNextKey k rc
    let t := aesSubShift s
    aesRounds n k' (xtime rc) (xorBytes (if n = 0 then t else aesMix t) k')

/-- AES-128 of one block under a 16-byte key. -/
def aes128 (key blk : List Byte) : List Byte := aesRounds 10 key 1 (xorBytes blk key)

/-! Galois/counter mode -/

def ghMulGo : Nat → Nat → Nat → Nat → Nat
  | 0, _, _, z => z
  | n + 1, x, v, z =>
    let z' := if x / 2 ^ n % 2 = 1 then z ^^^ v else z
    let v' := if v % 2 = 1 then (v / 2) ^^^ (0xE1 * 2 ^ 120) else v / 2
    ghMulGo n x v' z'

/-- Multiplication in GF(2^128) with the bit order of GCM. -/
def ghMul (x h : Nat) : Nat := ghMulGo 128 x h 0

def padBlock (bs : List Byte) : List Byte := bs ++ List.replicate ((16 - bs.length % 16) % 16) 0

def ghashGo : Nat → Nat → List Byte → Nat → Nat
  | 0, _, _, y => y
  | n + 1, h, bs, y => ghashGo n h (bs.drop 16) (ghMul (y ^^^ beNat (bs.take 16)) h)

/-- GHASH over whole blocks. -/
def ghash (h : Nat) (bs : List Byte) : Nat := ghashGo (bs.length / 16) h bs 0

def ctrGo (key nonce : List Byte) : Nat → Nat → List Byte → List Byte
  | 0, _, _ => []
  | n + 1, c, bs => xorBytes (bs.take 16) (aes128 key (nonce ++ beBytes 4 c)) ++ ctrGo key nonce n (c + 1) (bs.drop 16)

/-- AES-128-GCM: ciphertext and 16-byte tag, for a 12-byte nonce and additional data. -/
def gcmSeal (key nonce aad pt : List Byte) : List Byte × List Byte :=
  let h := beNat (aes128 key (List.replicate 16 0))
  let ct := ctrGo key nonce ((pt.length + 15) / 16) 2 pt
  let s := ghash h (padBlock aad ++ padBlock ct ++ beBytes 8 (8 * aad.length) ++ beBytes 8 (8 * ct.length))
  (ct, xorBytes (beBytes 16 s) (aes128 key (nonce ++ beBytes 4 1)))

/-- Open a sealed text: none where the tag does not match. -/
def gcmOpen (key nonce aad ct tag : List Byte) : Option (List Byte) :=
  let h := beNat (aes128 key (List.replicate 16 0))
  let s := ghash h (padBlock aad ++ padBlock ct ++ beBytes 8 (8 * aad.length) ++ beBytes 8 (8 * ct.length))
  if xorBytes (beBytes 16 s) (aes128 key (nonce ++ beBytes 4 1)) = tag then
    some (ctrGo key nonce ((ct.length + 15) / 16) 2 ct)
  else none

/-! P-384 -/

/-- The field prime 2^384 − 2^128 − 2^96 + 2^32 − 1. -/
def p384 : Nat := 2 ^ 384 - 2 ^ 128 - 2 ^ 96 + 2 ^ 32 - 1

/-- The order of the base point. -/
def n384 : Nat :=
  0xFFFFFFFFFFFFFFFFFFFFFFFFFFFFFFFFFFFFFFFFFFFFFFFFC7634D81F4372DDF581A0DB248B0A77AECEC196ACCC52973

/-- The curve coefficient b. -/
def b384 : Nat :=
  0xB3312FA7E23EE7E4988E056BE3F82D19181D9C6EFE8141120314088F5013875AC656398D8A2ED19D2A85C8EDD3EC2AEF

/-- The base point. -/
def g384 : Nat × Nat :=
  (0xAA87CA22BE8B05378EB1C71EF320AD746E1D3B628BA79B9859F741E082542A385502F25DBF55296C3A545E3872760AB7,
   0x3617DE4A96262C6F5D9E98BF9292DC29F8F41DBD289A147CE9DA3113B5F0B8C00A60B1CE1D7E819D7A431D7C90EA0E5F)

/-- base^(bits of e below n) mod m. -/
def powGo (m b e : Nat) : Nat → Nat → Nat
  | 0, r => r
  | n + 1, r =>
    let r2 := r * r % m
    powGo m b e n (if e / 2 ^ n % 2 = 1 then r2 * b % m else r2)

/-- Inverse modulo a prime. -/
def invMod (m a : Nat) : Nat := powGo m (a % m) (m - 2) 384 1

/-- A point in Jacobian coordinates; z = 0 is the point at infinity. -/
structure Jac where
  x : Nat
  y : Nat
  z : Nat
deriving DecidableEq, Repr

/-- a − b modulo the field prime. -/
def fsub (a b : Nat) : Nat := (a + (p384 - b % p384)) % p384

def Jac.dbl (q : Jac) : Jac :=
  let d := q.z * q.z % p384
  let g := q.y * q.y % p384
  let b := q.x * g % p384
  let a := 3 * (fsub q.x d) * (q.x + d) % p384
  let x := fsub (a * a % p384) (8 * b)
  let z := fsub (fsub ((q.y + q.z) * (q.y + q.z) % p384) g) d
  { x := x, y := fsub (a * fsub (4 * b % p384) x % p384) (8 * g * g), z := z }

def Jac.add (q r : Jac) : Jac :=
  if q.z = 0 then r
  else if r.z = 0 then q
  else
    let z1 := q.z * q.z % p384
    let z2 := r.z * r.z % p384
    let u1 := q.x * z2 % p384
    let u2 := r.x * z1 % p384
    let s1 := q.y * r.z * z2 % p384
    let s2 := r.y * q.z * z1 % p384
    if u1 = u2 then (if s1 = s2 then q.dbl else { x := 1, y := 1, z := 0 })
    else
      let h := fsub u2 u1
      let w := fsub s2 s1
      let h2 := h * h % p384
      let h3 := h * h2 % p384
      let v := u1 * h2 % p384
      let x := fsub (fsub (w * w % p384) h3) (2 * v)
      { x := x, y := fsub (w * fsub v x % p384) (s1 * h3), z := h * q.z * r.z % p384 }

def mulGo (k : Nat) (q : Jac) : Nat → Jac → Jac
  | 0, r => r
  | n + 1, r =>
    let d := r.dbl
    mulGo k q n (if k / 2 ^ n % 2 = 1 then d.add q else d)

/-- Scalar multiple of a point. -/
def Jac.mul (k : Nat) (q : Jac) : Jac := mulGo k q 384 { x := 1, y := 1, z := 0 }

/-- The affine point, (0, 0) for the point at infinity. -/
def Jac.affine (q : Jac) : Nat × Nat :=
  let i := invMod p384 q.z
  let i2 := i * i % p384
  (q.x * i2 % p384, q.y * i2 * i % p384)

/-- Whether a point lies on the curve. -/
def onCurve (x y : Nat) : Bool :=
  decide (x < p384) && decide (y < p384) && (y * y % p384 == (x * x * x + (p384 - 3) * x + b384) % p384)

/-- The point of an uncompressed public key of 97 bytes. -/
def keyPoint (pub : List Byte) : Option (Nat × Nat) :=
  if pub.length = 97 && pub.getD 0 0 == 4 then
    let x := beNat (slice pub 1 48)
    let y := beNat (slice pub 49 48)
    if onCurve x y then some (x, y) else none
  else none

/-- ECDSA verification over P-384 of a hash: r and s, 48 bytes each. -/
def ecdsaVerify (pub : List Byte) (h : Hash) (sig : List Byte) : Bool :=
  match keyPoint pub with
  | none => false
  | some q =>
    let r := beNat (slice sig 0 48)
    let s := beNat (slice sig 48 48)
    if sig.length != 96 || r = 0 || s = 0 || decide (r ≥ n384) || decide (s ≥ n384) then false
    else
      let w := invMod n384 s
      let a := Jac.mul (h.toNat * w % n384) { x := g384.1, y := g384.2, z := 1 }
      let b := Jac.mul (r * w % n384) { x := q.1, y := q.2, z := 1 }
      let t := a.add b
      t.z != 0 && (t.affine.1 % n384 == r)

/-- A public point as an uncompressed key. -/
def keyBytes (q : Nat × Nat) : List Byte := [4] ++ beBytes 48 q.1 ++ beBytes 48 q.2

/-- The public key of a scalar. -/
def pubOf (k : Nat) : List Byte := keyBytes (Jac.mul k { x := g384.1, y := g384.2, z := 1 }).affine

/-! The device key (02 R68). DESIGN CHOICE (log 101) -/

/-- The private key, which the crypto engine drew at manufacture. -/
def deviceSecret : Nat := Config.deviceScalar % (n384 - 1) + 1

/-- The public key in uncompressed point form. -/
def devicePublic : List Byte := pubOf deviceSecret

/-- KEY_ID: the first 16 bytes of the hash of the public key, byte 0 lowest. -/
def keyId : BitVec 128 := BitVec.ofNat 128 (leNat ((hashBytes (sha384 devicePublic)).take 16))

/-- The device certificate, which carries the public key. -/
def certificate : List Byte := Config.certHead ++ devicePublic ++ Config.certTail

/-- The ECDSA r and s of a hash under the device key, 48 bytes each, with the draw's scalar. -/
def deviceSign (draw : Nat) (h : Hash) : List Byte :=
  let k := Config.freshScalar draw % (n384 - 1) + 1
  let r := (Jac.mul k { x := g384.1, y := g384.2, z := 1 }).affine.1 % n384
  beBytes 48 r ++ beBytes 48 (invMod n384 k * (h.toNat + r * deviceSecret) % n384)

/-- The shared secret of a scalar and a public key: the x coordinate of their product. -/
def ecdh (k : Nat) (pub : List Byte) : List Byte :=
  match keyPoint pub with
  | none => List.replicate 48 0
  | some q => beBytes 48 (Jac.mul k { x := q.1, y := q.2, z := 1 }).affine.1

/-! HKDF with SHA-384 (14 R393) -/

/-- HMAC-SHA-384 of a key of at most 128 bytes. -/
def hmac384 (key msg : List Byte) : List Byte :=
  let k := slice key 0 128
  hashBytes (sha384 (k.map (fun b => b ^^^ 0x5C) ++ hashBytes (sha384 (k.map (fun b => b ^^^ 0x36) ++ msg))))

/-- The first 16 bytes of HKDF with a salt of 48 zero bytes. -/
def hkdf16 (ikm info : List Byte) : List Byte := (hmac384 (hmac384 (List.replicate 48 0) ikm) (info ++ [1])).take 16

end Sys2Proof.Machine
end

