-- ==== Sys2Proof/Machine/Tun.lean ====
section
/-!
DEFINITION. The records of a tun image (11 R300 to R304, 08 R216).
-/

namespace Sys2Proof.Machine

/-- Cut bytes into records of n bytes; an incomplete last record is dropped. -/
def recordsGo (n : Nat) : Nat → List Byte → List (List Byte)
  | 0, _ => []
  | f + 1, bs => if bs.length < n then [] else bs.take n :: recordsGo n f (bs.drop n)

def records (n : Nat) (bs : List Byte) : List (List Byte) := recordsGo n (bs.length + 1) bs

/-- The first section of a type for a module; 0xFFFF is global. -/
def Tun.section? (t : Tun) (type mod : Nat) : Option Section :=
  t.sections.find? (fun x => x.type == type && x.mod == mod)

/-- The bytes of that section, none given as no bytes. -/
def Tun.sectionBytes (t : Tun) (type mod : Nat) : List Byte :=
  match t.section? type mod with
  | some x => x.bytes
  | none => []

/-- The bytes of the section at a directory index; 0xFFFF and an index beyond the directory mean none. -/
def Tun.indexed (t : Tun) (i : Nat) : List Byte :=
  match t.sections[i]? with
  | some x => x.bytes
  | none => []

/-- A CORE_MAP entry (11 R304). -/
structure CoreEnt where
  core    : Nat
  code    : Nat
  entry   : Nat
  data    : Nat
  desc    : Nat
  streams : Nat
  scratch : Nat
  credits : Nat
deriving DecidableEq, Repr

def CoreEnt.parse (b : List Byte) : CoreEnt :=
  { core := leAt b 0 2, code := leAt b 2 2, entry := leAt b 4 4, data := leAt b 8 2, desc := leAt b 10 2,
    streams := leAt b 12 2, scratch := leAt b 14 2, credits := leAt b 16 2 }

/-- The cores that a module's CORE_MAP occupies. -/
def Tun.coreMap (t : Tun) (m : Nat) : List CoreEnt := (records 32 (t.sectionBytes 0x10 m)).map CoreEnt.parse

def Tun.cores (t : Tun) (m : Nat) : List Nat := (t.coreMap m).map (fun e => e.core)

/-- A slot record (11 R302): resource kind, stream, resource index and direction, destination, time. DEDUCED (log 16):
the direction is bit 15 of bytes 2 to 3, 1 for inbound. -/
structure SlotRec where
  kind   : Nat
  stream : Nat
  res    : Nat
  inward : Bool
  dmod   : Nat
  dcore  : Nat
  time   : Nat
deriving DecidableEq, Repr

def SlotRec.parse (b : List Byte) : SlotRec :=
  { kind := leAt b 0 1, stream := leAt b 1 1, res := leAt b 2 2 % 32768,
    inward := decide (leAt b 2 2 ≥ 32768), dmod := leAt b 4 2, dcore := leAt b 6 2, time := leAt b 8 8 }

def Tun.slots (t : Tun) (m : Nat) : List SlotRec := (records 16 (t.sectionBytes 0x18 m)).map SlotRec.parse

/-- A receive record (11 R302): source module, port, sequence number and slot time. DEDUCED (log 16): the port and the
time stand where a slot record has its resource and time, so the source module is in bytes 0 to 1 and the sequence
number in bytes 4 to 7. -/
structure RecvRec where
  port : Nat
  time : Nat
  src  : Nat
  seq  : Nat
deriving DecidableEq, Repr

def RecvRec.parse (b : List Byte) : RecvRec :=
  { port := leAt b 2 2 % 32768, time := leAt b 8 8, src := leAt b 0 2, seq := leAt b 4 4 }

/-- Grains originated per slot period, the header of RECEIVE. -/
def Tun.perPeriod (t : Tun) (m : Nat) : Nat := leAt (t.sectionBytes 0x19 m) 0 4

def Tun.receives (t : Tun) (m : Nat) : List RecvRec :=
  (records 16 ((t.sectionBytes 0x19 m).drop 4)).map RecvRec.parse

/-- A credit record (11 R302): pool, limit, destination, return flag. -/
structure CreditRec where
  pool  : Nat
  limit : Nat
  dmod  : Nat
  dcore : Nat
  flag  : Nat
deriving DecidableEq, Repr

def CreditRec.parse (b : List Byte) : CreditRec :=
  { pool := leAt b 0 1, limit := leAt b 1 1, dmod := leAt b 2 2, dcore := leAt b 4 2, flag := leAt b 6 2 }

/-- A stream-table record (11 R304). -/
structure StreamRec where
  stream : Nat
  kind   : Nat
  smod   : Nat
  score  : Nat
  base   : Nat
  rows   : Nat
  format : Nat
deriving DecidableEq, Repr

def StreamRec.parse (b : List Byte) : StreamRec :=
  { stream := leAt b 0 1, kind := leAt b 1 1, smod := leAt b 2 2, score := leAt b 4 2, base := leAt b 8 4,
    rows := leAt b 12 2, format := leAt b 14 1 }

/-- The stream records of a core-map entry. -/
def Tun.streamRecs (t : Tun) (e : CoreEnt) : List StreamRec := (records 16 (t.indexed e.streams)).map StreamRec.parse

/-- A barrier record of SYNC (11 R303). -/
structure BarrRec where
  vid   : Nat
  spans : Bool
  root  : Nat
  parts : List Nat
deriving DecidableEq, Repr

def Tun.nflag (t : Tun) (m : Nat) : Nat := leAt (t.sectionBytes 0x16 m) 0 2
def Tun.nbarr (t : Tun) (m : Nat) : Nat := leAt (t.sectionBytes 0x16 m) 2 2

/-- The flag entries of SYNC, 8 bytes each (11 R303). -/
def Tun.flagEnts (t : Tun) (m : Nat) : List DWord :=
  (records 8 (((t.sectionBytes 0x16 m).drop 8).take (8 * t.nflag m))).map (fun b => BitVec.ofNat 64 (leNat b))

/-- The barrier records of SYNC with their participant lists. -/
def Tun.barriers (t : Tun) (m : Nat) : List BarrRec :=
  let s := t.sectionBytes 0x16 m
  (records 8 ((s.drop (8 + 8 * t.nflag m)).take (8 * t.nbarr m))).map (fun b =>
    let v := leNat b
    let off := 8 * (v / 2 ^ 32 % 65536)
    let n := v / 2 ^ 48
    { vid := v % 65536, spans := v / 2 ^ 16 % 2 = 1, root := v / 2 ^ 17 % 1024,
      parts := (records 2 ((s.drop off).take (2 * n))).map leNat })

/-- Whether a core of a module is part of a run (07 R205): on this module it is occupied by the run, on another it is
in that module's core map. -/
def State.inRun (s : State) (r : Nat) (x : Run) (dmod dcore : Nat) : Bool :=
  if dmod = s.moduleId then (s.core dcore).run == some r
  else x.tun.participants.contains dmod && (x.tun.cores dmod).contains dcore

end Sys2Proof.Machine
end

