-- ==== Sys2Proof/Machine/Slots.lean ====
section
/-!
DEFINITION. The slot tables of a tun and the times they give (09 R246, R249, R256; 10 R289, R293; 11 R302).
-/

namespace Sys2Proof.Machine

/-! Places of cores (09 R243, R246) -/

/-- Die, cluster row and cluster column of a logical core. -/
def State.coreDie (s : State) (c : Nat) : Nat := c / s.coresPerDie
def State.coreRow (s : State) (c : Nat) : Nat := c % s.coresPerDie / 32
def State.coreCol (s : State) (c : Nat) : Nat := c % s.coresPerDie / 4 % 8

/-- min(|Δ|, 9 − |Δ|). -/
def wrap9 (a b : Nat) : Nat := let d := max a b - min a b; min d (9 - d)

/-- H(a, b), the flag-distribution latency (09 R246). -/
def State.hopH (s : State) (a b : Nat) : Nat :=
  if s.coreDie a != s.coreDie b then 80
  else
    let hr := wrap9 (s.coreCol a) (s.coreCol b)
    let hc := wrap9 (s.coreRow a) (s.coreRow b)
    2 * hr + 2 * hc + (if hr != 0 && hc != 0 then 2 else 0)

/-- D(a, b), the grain transfer latency (09 R246). -/
def State.hopD (s : State) (a b : Nat) : Nat := if s.coreDie a != s.coreDie b then 80 else 4 + s.hopH a b

/-- Numbers of a core's row ring and column ring as resources (11 R302). DEDUCED (log 16). -/
def State.rowRing (s : State) (c : Nat) : Nat := 9 * s.coreDie c + s.coreRow c
def State.colRing (s : State) (c : Nat) : Nat := 8 * s.coreDie c + s.coreCol c

/-! Tables -/

/-- The detour block for a lost port, if the tun has one (11 R302, 10 R293). -/
def detourGo (owner port : Nat) : Nat → List Byte → Option (List SlotRec)
  | 0, _ => none
  | f + 1, bs =>
    if bs.length < 12 then none
    else
      let n := leAt bs 8 4
      if leAt bs 0 2 = owner && leAt bs 2 1 = port then
        some ((records 16 ((bs.drop 12).take (16 * n))).map SlotRec.parse)
      else detourGo owner port f (bs.drop (12 + 16 * n))

def Tun.detour (t : Tun) (m owner port : Nat) : Option (List SlotRec) :=
  let bs := t.sectionBytes 0x1A m
  detourGo owner port (bs.length + 1) bs

/-- The slot tables in force: the tun's, or from their furlong on the detour tables of a lost port (10 R293). -/
def State.slotsOf (s : State) (x : Run) : List SlotRec :=
  match x.detourAt with
  | some (key, f) =>
    if f ≤ x.furlong then (x.tun.detour s.moduleId (key / 32) (key % 32)).getD (x.tun.slots s.moduleId)
    else x.tun.slots s.moduleId
  | none => x.tun.slots s.moduleId

/-- Whether a run is admitted or active. -/
def Run.holdsUnits (x : Run) : Bool := x.phase == .admitted || x.phase == .active

/-- Whether a run's slot tables use a port. -/
def State.usesPort (s : State) (x : Run) (p : Nat) : Bool :=
  x.holdsUnits && ((s.slotsOf x).any (fun t => t.kind == 4 && t.res == p) ||
    (x.tun.receives s.moduleId).any (fun t => t.port == p))

def State.portUsed (s : State) (p : Nat) : Bool := s.runs.any (fun e => s.usesPort e.2 p)

/-! Slots that repeat -/

/-- How many slots of a table of slot times with period `per` come before time t; with period 0 the table does not repeat. -/
def slotsBefore (ts : List Nat) (per t : Nat) : Nat :=
  t / per * ts.length + (ts.filter (fun u => decide (u < t % per))).length

/-- The time of slot number q. -/
def slotAt (ts : List Nat) (per q : Nat) : Nat := q / ts.length * per + ts.getD (q % ts.length) 0

/-- The period of the slot tables in schedule cycles. -/
def Run.periodCc (x : Run) : Nat := x.tun.slotPeriod * x.furlongCc

/-- Whether a record is one of a stream. -/
def SlotRec.carries (t : SlotRec) (dmod dcore stream : Nat) : Bool :=
  t.dmod == dmod && t.dcore == dcore && t.stream == stream

/-- The times of a stream's slots on the resources that `sel` selects. -/
def State.slotTimes (s : State) (x : Run) (sel : SlotRec → Bool) (dmod dcore stream : Nat) : List Nat :=
  ((s.slotsOf x).filter (fun t => sel t && t.carries dmod dcore stream)).map (fun t => t.time)

/-- The slots of a stream of core a on the first ring that it takes: its row ring, or with no step on that its column ring
(09 R245). -/
def State.ringTimes (s : State) (x : Run) (a dmod dcore stream : Nat) : List Nat :=
  let row := s.slotTimes x (fun t => t.kind == 0 && t.res == s.rowRing a) dmod dcore stream
  if row.isEmpty then s.slotTimes x (fun t => t.kind == 1 && t.res == s.colRing a) dmod dcore stream else row

/-- The slots of a stream from the hub side to a die (13 R361). -/
def State.hubTimes (s : State) (x : Run) (core stream : Nat) : List Nat :=
  s.slotTimes x (fun t => t.kind == 2 && t.inward) s.moduleId core stream

/-- The slots of a stream inbound at the ports. -/
def State.inTimes (s : State) (x : Run) (dmod core stream : Nat) : List Nat :=
  s.slotTimes x (fun t => t.kind == 4 && t.inward) dmod core stream

/-- The cycle in which a grain of core a on a stream leaves its ring stop: that of its first slot no earlier than cycle t on the
first ring, or t where the tables give it none (08 R222). -/
def State.leavesAt (s : State) (x : Run) (a dmod dcore stream t : Nat) : Nat :=
  match s.ringTimes x a dmod dcore stream with
  | [] => t
  | ts => slotAt ts x.periodCc (slotsBefore ts x.periodCc t)

/-! Link slots (09 R246, R256) -/

/-- Link slots in a slot period at the step in force. DEDUCED (log 74). -/
def State.periodSlots (s : State) (x : Run) : Nat := x.periodCc / (24 * ccPerTick s.pwr.cur) * 50

/-- Frames by which the extensions of the furlongs before the current one move a run's link slots (10 R289). -/
def Run.shift (x : Run) : Nat :=
  x.tun.holdFrames * x.exts.foldl (fun n p => if p.1 < x.furlong then n + p.2 else n) 0

/-- The number of a link slot, counted from the run's frame 0 without its extensions; none before the run's launch. A run that
was resumed goes on from the slots of its furlong (14 R388). -/
def State.slotNo (s : State) (x : Run) (frame slot : Nat) : Option Nat :=
  match x.cl with
  | none => none
  | some c =>
    if x.phase != .active || frame < c / 24 + x.shift then none
    else some (x.startF * 2 ^ x.tun.furlongN / (24 * ccPerTick s.pwr.cur) * 50 + (frame - c / 24 - x.shift) * 50 + slot)

/-- The period and the time in it of that slot. -/
def State.slotTime (s : State) (x : Run) (frame slot : Nat) : Option (Nat × Nat) :=
  (s.slotNo x frame slot).map (fun t =>
    let n := s.periodSlots x
    if n = 0 then (0, t) else (t / n, t % n))

/-- The records of a run for a port's link slot. -/
def State.linkRecs (s : State) (x : Run) (port frame slot : Nat) : List SlotRec :=
  match s.slotTime x frame slot with
  | none => []
  | some (_, t) => (s.slotsOf x).filter (fun r => r.kind == 4 && r.res == port && r.time == t)

/-- The inbound slot of a run's tables at a port's link slot. -/
def State.inSlot (s : State) (x : Run) (port frame slot : Nat) : Option SlotRec :=
  (s.linkRecs x port frame slot).find? (fun r => r.inward)

/-- Whether the inbound slot of a link slot is one of a grain's stream. -/
def State.inSlotOf (s : State) (x : Run) (port frame slot dmod dcore stream : Nat) : Bool :=
  (s.inSlot x port frame slot).any (fun r => r.carries dmod dcore stream)

/-- The outbound one. -/
def State.outSlot (s : State) (x : Run) (port frame slot : Nat) : Option SlotRec :=
  (s.linkRecs x port frame slot).find? (fun r => !r.inward)

/-- The grain that a run expects for this module in a port's link slot: source module and sequence number (R260). -/
def State.expected (s : State) (x : Run) (port frame slot : Nat) : Option (Nat × Nat) :=
  match s.slotTime x frame slot with
  | none => none
  | some (k, t) =>
    ((x.tun.receives s.moduleId).find? (fun r => r.port == port && r.time == t)).map
      (fun r => (r.src, (r.seq + k * x.tun.perPeriod r.src) % 2 ^ 32))

/-- The latency of a link in ticks: slot start to the partner's router. -/
def linkTk (port : Nat) : Nat := if port ≥ 30 then 30 else 18

/-- The schedule cycle in which a grain of link slot number n of a port has passed the hub router. -/
def State.linkCc (s : State) (port n : Nat) : Nat :=
  ((n * 24 + (linkTk port + 2) * 50) * ccPerTick s.pwr.cur + 49) / 50

/-- The index on its stream of the grain in a port's inbound link slot number n (09 R243). -/
def State.linkIndex (s : State) (x : Run) (r : SlotRec) (n : Nat) : Nat :=
  slotsBefore (s.inTimes x r.dmod r.dcore r.stream) (s.periodSlots x) n

/-- The cycle in which that grain lands: at a core 40 cc after its slot on the bridge, at a hub endpoint once it has passed the
router (R246). -/
def State.linkLanding (s : State) (x : Run) (r : SlotRec) (n : Nat) : Nat :=
  if r.dcore ≥ 0x3F0 then s.linkCc r.res n
  else
    match s.hubTimes x r.dcore r.stream with
    | [] => s.linkCc r.res n + 40
    | ts => slotAt ts x.periodCc (s.linkIndex x r n) + 40

/-- The link slots of a frame that begin in its tick number j: 50 slots in 24 ticks. -/
def slotsOfTick (j : Nat) : List Nat := (List.range 50).filter (fun k => k * 24 / 50 == j)

end Sys2Proof.Machine
end

