-- ==== Sys2Proof/Machine/Grains.lean ====
section
/-!
DEFINITION. Grains, the wiring and the route tables, and how the module sends a grain (09 R238 to R249, R260;
10 R269 to R273).
-/

namespace Sys2Proof.Machine

/-! Grains (09 R238 to R242) -/

def Grain.dmod (g : Grain) : Nat := bits g 0 10
def Grain.dcore (g : Grain) : Nat := bits g 10 10
def Grain.stream (g : Grain) : Nat := bits g 20 8
def Grain.cls (g : Grain) : Nat := bits g 28 2
def Grain.null (g : Grain) : Bool := bitOf g 30
def Grain.resent (g : Grain) : Bool := bitOf g 31
def Grain.crc (g : Grain) : Word := BitVec.ofNat 32 (bits g 32 32)
def Grain.payload (g : Grain) : Payload := BitVec.ofNat 512 (bits g 64 512)

/-- Bytes of a bit vector, least significant first. -/
def bytesOf {w : Nat} (v : BitVec w) (n : Nat) : List Byte := leBytes n v.toNat

/-- CRC-32C over header bytes 0 to 3 and the payload (09 R239). -/
def grainCrc (hdr : Nat) (pl : Payload) : Word := crc32c (leBytes 4 hdr ++ bytesOf pl 64)

/-- Whether a grain's CRC is right. -/
def Grain.crcOk (g : Grain) : Bool := grainCrc (bits g 0 32) (Grain.payload g) == Grain.crc g

/-- Form a grain with its CRC. -/
def mkGrain (dmod dcore stream cls : Nat) (null resent : Bool) (pl : Payload) : Grain :=
  let hdr := dmod % 1024 + 1024 * (dcore % 1024) + 2 ^ 20 * (stream % 256) + 2 ^ 28 * (cls % 4) + 2 ^ 30 * b2n null +
    2 ^ 31 * b2n resent
  BitVec.ofNat 576 (hdr + 2 ^ 32 * (grainCrc hdr pl).toNat + 2 ^ 64 * pl.toNat)

/-- A payload from bytes, padded with zeros. -/
def payloadOf (bs : List Byte) : Payload := BitVec.ofNat 512 (leNat (bs.take 64))

/-- The idle grain, and what counts as one (09 R241). -/
def idleGrain : Grain := mkGrain 0x3FF 0x3FF 0 3 false false 0

def Grain.idle (g : Grain) : Bool := Grain.dmod g == 0x3FF && Grain.dcore g == 0x3FF

/-- The null grain of a stream (09 R242). -/
def nullGrain (dmod dcore stream : Nat) : Grain := mkGrain dmod dcore stream 0 true false 0

/-- The copy of a grain that is re-sent (09 R260). -/
def Grain.asResent (g : Grain) : Grain :=
  mkGrain (Grain.dmod g) (Grain.dcore g) (Grain.stream g) (Grain.cls g) (Grain.null g) true (Grain.payload g)

/-! Ports, wiring and routes (10 R269, R272) -/

def State.port (s : State) (p : Nat) : Port := kget Port.reset s.lnk.ports p

def State.setPort (s : State) (p : Nat) (x : Port) : State := { s with lnk := { s.lnk with ports := kset s.lnk.ports p x } }

def State.modPort (s : State) (p : Nat) (f : Port → Port) : State := s.setPort p (f (s.port p))

/-- Port state 7 is active (09 R266). -/
def Port.active (x : Port) : Bool := x.st == 7

/-- LNK_PORT_UP: bit p is 1 while port p is active (09 R266). -/
def State.portUp (s : State) : Nat :=
  (List.range 32).foldl (fun acc p => acc + b2n (s.port p).active * 2 ^ p) 0

/-- The even port of the pair that leads from member m to member n (10 R269). -/
def pairPort (m n : Nat) : Nat := 2 * ((n + 16 - m) % 16 - 1)

/-- The global index that leads from group g to group h (10 R272). -/
def globalIdx (g h : Nat) : Nat := (h + 66 - g - 1) % 33

/-- The module and port at the other end of a port, by the wiring (10 R269): module, port. -/
def partnerOf (g m p : Nat) : Nat × Nat :=
  if p < 30 then
    let d := p / 2 + 1
    (g * 16 + (m + d) % 16, 2 * (15 - d) + p % 2)
  else
    let k := 2 * m + (p - 30)
    let j := 31 - k
    ((g + k + 1) % 33 * 16 + j / 2, 30 + j % 2)

/-- Kind of a route: 0 none, 1 direct, 2 global, 3 to the link owner (10 R272). -/
def routeRule (sm dm : Nat) : Nat × Nat :=
  let gs := sm / 16
  let ms := sm % 16
  let gd := dm / 16
  let md := dm % 16
  if sm = dm then (0, 0)
  else if gs = gd then (1, pairPort ms md)
  else
    let k := globalIdx gs gd
    if k / 2 = ms then (2, 30 + k % 2) else (3, pairPort ms (k / 2))

/-- The route entry to a module: the port, none where the entry is invalid (10 R272). A module ID beyond group 32 has no
entry. -/
def State.route (s : State) (dm : Nat) : Option Nat :=
  if dm / 16 > 32 then none
  else
    let r := routeRule s.moduleId dm
    match r.1 with
    | 0 => none
    | 2 => if (s.port r.2).active then some r.2 else none
    | _ => if (s.port r.2).active then some r.2 else if (s.port (r.2 + 1)).active then some (r.2 + 1) else none

/-! Grains on their way -/

/-- A grain leaves by a port, or at 32 reaches the management processors. DESIGN CHOICE (log 70). -/
def State.transmit (s : State) (port : Nat) (g : Grain) : State := { s with tx := (port, g) :: s.tx }

/-- A hold, management or best-effort grain is at the router: it passes to output `out`, a port or 32 plus the die of a bridge, and
waits there for a slot (09 R246, R249, R252). -/
def State.queueOut (s : State) (out : Nat) (g : Grain) : State :=
  { s with lnk := { s.lnk with routerQ := s.lnk.routerQ ++ [(out, s.chn.count, g)] } }

/-- A grain takes its place among those on their way, by landing cycle. -/
def flightInsert (f : Flight) : List Flight → List Flight
  | [] => [f]
  | x :: xs => if x.t ≤ f.t then x :: flightInsert f xs else f :: x :: xs

def State.fly (s : State) (f : Flight) : State := { s with lnk := { s.lnk with flights := flightInsert f s.lnk.flights } }

/-- Indices below q of a stream at core c have been given to grains. -/
def State.sentTo (s : State) (c st q : Nat) : State :=
  s.modCore c (fun k =>
    match kfind k.streams st with
    | some e => { k with streams := kset k.streams st { e with sent := max e.sent q } }
    | none => k)

/-- n slots of a core's stream from index i on pass without a grain: each carries a null grain (09 R242; 11 R312). `land` gives
the landing cycle of an index. DEDUCED (log 129). -/
def State.flyNulls (s : State) (r c st : Nat) (land : Nat → Nat) (i : Nat) : Nat → State
  | 0 => s
  | n + 1 =>
    (s.fly { run := r, core := c, g := nullGrain s.moduleId c st, t := land i, q := some i, bad := 0 }).flyNulls r c st land
      (i + 1) n

/-- A grain of index q of a stream flies to core c; earlier indices that no grain took are null. -/
def State.flyStream (s : State) (r c : Nat) (g : Grain) (land : Nat → Nat) (t q : Nat) (bad : BitVec 8) : State :=
  let st := Grain.stream g
  match kfind (s.core c).streams st with
  | none => s.fly { run := r, core := c, g := g, t := t, q := some q, bad := bad }
  | some e =>
    ((s.flyNulls r c st land e.sent (q - e.sent)).fly
      { run := r, core := c, g := g, t := t, q := some q, bad := bad }).sentTo c st (q + 1)

/-! Best-effort routes (09 R245) -/

/-- Whether the shorter way from a to b on a ring goes in the direction of increasing index; a tie does. -/
def increasing (a b : Nat) : Bool := decide ((b + 9 - a) % 9 ≤ (a + 9 - b) % 9)

/-- A stop is numbered by 8 times its place plus the resource kind of 11 R302: the place of a ring stop is that of its cluster, 72
times the die plus 8 times the row plus the column, and that of a bridge port 8 times the die plus the column of its ring.
DESIGN CHOICE (log 75). -/
def stopOf (kind place : Nat) : Nat := 8 * place + kind

def stopKind (stop : Nat) : Nat := stop % 8

/-- The place of a cluster. -/
def placeOf (die row col : Nat) : Nat := 72 * die + 8 * row + col

/-- The number of a stop's ring or bridge port, and its place on the ring. -/
def stopRing (stop : Nat) : Nat × Nat :=
  let p := stop / 8
  match stopKind stop with
  | 0 => (p / 8, p % 8)
  | 1 => (8 * (p / 72) + p % 8, p / 8 % 9)
  | _ => (p, 0)

/-- The die of a stop. -/
def stopDie (stop : Nat) : Nat := if stopKind stop = 2 then stop / 64 else stop / 576

/-- Steps from place a to place b of a ring in the direction of increasing index, or the other. -/
def stepsTo (inc : Bool) (a b : Nat) : Nat := if inc then (b + 9 - a) % 9 else (a + 9 - b) % 9

/-- The leg of a grain of core a along its row ring to a column: the stop, the direction and the steps. -/
def State.rowLeg (s : State) (a col : Nat) : List (Nat × Bool × Nat) :=
  let c := s.coreCol a
  if c = col then []
  else [(stopOf 0 (placeOf (s.coreDie a) (s.coreRow a) c), increasing c col, stepsTo (increasing c col) c col)]

/-- The leg along a die's column ring from one row to another. -/
def colLeg (die col r1 r2 : Nat) : List (Nat × Bool × Nat) :=
  if r1 = r2 then []
  else [(stopOf 1 (placeOf die r1 col), increasing r1 r2, stepsTo (increasing r1 r2) r1 r2)]

/-- From a core to the hub side, by the bridge port of its column ring, and the reverse. -/
def State.outLegs (s : State) (a : Nat) : List (Nat × Bool × Nat) :=
  let d := s.coreDie a
  let c := s.coreCol a
  colLeg d c (s.coreRow a) (Config.bridgeRow d c) ++ [(stopOf 2 (8 * d + c), false, 0)]

def State.inLegs (s : State) (b : Nat) : List (Nat × Bool × Nat) :=
  let d := s.coreDie b
  let c := s.coreCol b
  (stopOf 2 (8 * d + c), true, 0) :: colLeg d c (Config.bridgeRow d c) (s.coreRow b)

/-- The stops at which a grain enters a ring or the bridge on its way: first the source's row ring to the destination's column,
then that column's ring. `none` is the hub side; a grain to the other die crosses it (R247). -/
def State.legs (s : State) (a b : Option Nat) : List (Nat × Bool × Nat) :=
  match a, b with
  | some a, some b =>
    if s.coreDie a = s.coreDie b then
      s.rowLeg a (s.coreCol b) ++ colLeg (s.coreDie a) (s.coreCol b) (s.coreRow a) (s.coreRow b)
    else s.outLegs a ++ s.inLegs b
  | some a, none => s.outLegs a
  | none, some b => s.inLegs b
  | none, none => []

/-- Grains at a stop go in order of arrival, those of one cycle by lower source core (R252). -/
def beInsert (b : BeGrain) : List BeGrain → List BeGrain
  | [] => [b]
  | x :: xs => if x.arr < b.arr || (x.arr == b.arr && x.src ≤ b.src) then x :: beInsert b xs else b :: x :: xs

/-- The grain of a best-effort stream joins those that wait at its first stop, 2 cc after it enters its core's stop (R246). -/
def State.beEnter (s : State) (b : BeGrain) : State := { s with lnk := { s.lnk with beWait := beInsert b s.lnk.beWait } }

/-! Sending -/

/-- A grain without a valid route entry is discarded and counted (10 R273). -/
def State.noRoute (s : State) : State := { s with chn := { s.chn with noRoute := satAdd s.chn.noRoute 1 } }

/-- Send a grain that is not scheduled by the route table: it passes the router to its port, or without a valid entry is discarded
and counted (10 R273). One for this module goes to the management processors, or by the bridge of its die to its core. -/
def State.sendRouted (s : State) (g : Grain) : State :=
  if Grain.dmod g = s.moduleId then
    if Grain.dcore g < 0x3F0 then s.queueOut (32 + s.coreDie (Grain.dcore g)) g else s.transmit 32 g
  else
    match s.route (Grain.dmod g) with
    | some p => s.queueOut p g
    | none => s.noRoute

/-- A re-sent grain goes on by DMOD through the route tables, in the next retry slot of its port (09 R260; 10 R273). -/
def State.forwardResent (s : State) (g : Grain) : State :=
  match s.route (Grain.dmod g) with
  | some p => s.modPort p (fun x => { x with resendQ := x.resendQ ++ [(none, g)] })
  | none => s.noRoute

/-- Keep a copy of a cross-module scheduled grain of a run under its next sequence number, as it leaves in its first link slot
(09 R260). The store holds 32,768 grains. -/
def State.retain (s : State) (r port : Nat) (g : Grain) : State :=
  match s.run? r with
  | none => s
  | some x =>
    let e : Retained := { run := r, seq := x.seqNext % 2 ^ 32, port := port, g := g, age := 0, sent := 0 }
    { s.setRun r { x with seqNext := x.seqNext + 1 } with
      lnk := { s.lnk with retained := (e :: s.lnk.retained).take 32768 } }

/-- A scheduled grain for another module waits for its slot on the link, in the order in which grains pass the router. -/
def outInsert (o : OutGrain) : List OutGrain → List OutGrain
  | [] => [o]
  | x :: xs => if x.fwd || x.t ≤ o.t then x :: outInsert o xs else o :: x :: xs

/-- A grain that `src` forms waits for its slot, from the schedule cycle in which it has passed the router. -/
def State.waitSlot (s : State) (r src t : Nat) (g : Grain) : State :=
  let o : OutGrain :=
    { run := r, fwd := false, src := src, t := t, dmod := Grain.dmod g, dcor := Grain.dcore g, strm := Grain.stream g, g := g }
  { s with lnk := { s.lnk with outQ := outInsert o s.lnk.outQ } }

/-- A grain that came in a slot of stream `e` and only passes this module waits for the outbound slot of that stream from the tick
in which it has passed the router: the ports and the router keep frame time while the module stalls (12 R317). -/
def State.forwardSlot (s : State) (r : Nat) (e : SlotRec) (g : Grain) : State :=
  let o : OutGrain :=
    { run := r, fwd := true, src := 0x3FF, t := s.chn.count + 2, dmod := e.dmod, dcor := e.dcore, strm := e.stream, g := g }
  { s with lnk := { s.lnk with outQ := s.lnk.outQ ++ [o] } }

/-- Whether core `src` is in the core grain loop: its grains come back at its ring stop, before the ring (09 R264). -/
def State.coreLooped (s : State) (src : Nat) : Bool := s.lnk.loopEn && s.lnk.loopCore.toNat == src

/-- A grain of a looped core enters its stop in cycle t and is placed by the core's own stream table, 4 cc later (09 R246, R264). -/
def State.coreLoop (s : State) (r src t : Nat) (bad : BitVec 8) (g : Grain) : State :=
  match kfind (s.core src).streams (Grain.stream g) with
  | none => s.fly { run := r, core := src, g := g, t := t + 4, q := none, bad := bad }
  | some e => (s.fly { run := r, core := src, g := g, t := t + 4, q := some e.sent, bad := bad }).sentTo src (Grain.stream g) (e.sent + 1)

/-- The cycle in which a grain that enters its core's stop in cycle t has passed the router (R246). -/
def State.routerAt (s : State) (t : Nat) : Nat := t + 40 + 2 * ccPerTick s.pwr.cur

/-- A scheduled grain of a run that enters the ring stop of core `src` in cycle t: to a core of this module it lands D later,
at the hub 40 cc later (R246); to another module it waits for its slot on the link (R249). Its index is that of its slot on
the first ring (R243), or where the tables name none that of the grains before it. DEDUCED (log 127): it takes its slot 2 cc
after it has entered the stop. -/
def State.sendScheduled (s : State) (r src t : Nat) (bad : BitVec 8) (g : Grain) : State :=
  match s.run? r with
  | none => s
  | some x =>
    let c := Grain.dcore g
    let st := Grain.stream g
    let ts := s.ringTimes x src (Grain.dmod g) c st
    if s.coreLooped src then s.coreLoop r src t bad g
    else if Grain.dmod g != s.moduleId then s.waitSlot r src (s.routerAt t) g
    else if c ≥ 0x3F0 then s.fly { run := r, core := c, g := g, t := t + 40, q := none, bad := bad }
    else
      let d := s.hopD src c
      let q :=
        if ts.isEmpty then (match kfind (s.core c).streams st with | some e => e.sent | none => 0)
        else slotsBefore ts x.periodCc (t + 2)
      s.flyStream r c g (fun i => slotAt ts x.periodCc i + d - 2) (t + d) q bad

/-- A best-effort grain that core `src` forms in cycle t waits to enter the first ring of its route (R245, R251). -/
def State.sendBest (s : State) (r src t : Nat) (bad : BitVec 8) (g : Grain) : State :=
  let dst := if Grain.dmod g = s.moduleId && decide (Grain.dcore g < 0x3F0) then some (Grain.dcore g) else none
  let p := match s.run? r with | some x => x.position t | none => t
  if s.coreLooped src then s.coreLoop r src t bad g
  else s.beEnter { run := r, src := src, at0 := t, arr := p + 2, g := g, bad := bad, legs := s.legs (some src) dst }

/-- Send the grains of a row, one a cycle from cycle t, each with the code words that its landing poisons (07 R187). -/
def State.sendRow (s : State) (r src : Nat) : Nat → List (Grain × BitVec 8) → State
  | _, [] => s
  | t, (g, b) :: gs =>
    (if Grain.cls g = 1 then s.sendBest r src t b g else s.sendScheduled r src t b g).sendRow r src (t + 1) gs

/-- The grains of one row of a write to a remote scratchpad or a stream: 64 bytes each, padded with zeros (06 R446,
R447). -/
def rowGrains (dmod dcore stream : Nat) (be : Bool) : Nat → List Byte → List Grain
  | 0, _ => []
  | n + 1, bs =>
    if bs.isEmpty then []
    else mkGrain dmod dcore stream (b2n be) false false (payloadOf bs) :: rowGrains dmod dcore stream be n (bs.drop 64)

/-! Late grains (02 R40) -/

/-- Scheduled grains for core c that have not landed: stream, index and landing cycle of the schedule. -/
def State.owed (s : State) (c : Nat) : List (Nat × Nat × Nat) :=
  let fs := (s.lnk.flights ++ s.lnk.collide.flatMap (fun p => p.2)).filter (fun f => f.core == c)
  fs.filterMap (fun f => f.q.map (fun q => (Grain.stream f.g, q, f.t))) ++
    (s.lnk.outNaks.filter (fun n => n.dcore == c)).map (fun n => (n.strm, n.q, n.t))

/-- The first of them that a read of cycle t meets, with that cycle: `lag` is how long before the read it has to land, `hit` says
whether its place is read. -/
def State.lateGrain (s : State) (c t lag : Nat) (hit : StreamEntry → Nat → Bool) : Option (Nat × Nat × Nat) :=
  ((s.owed c).find? (fun g => decide (g.2.2 + lag ≤ t) &&
    match kfind (s.core c).streams g.1 with
    | some e => hit e g.2.1
    | none => false)).map (fun g => (g.1, g.2.1, t))

/-- The scratchpad address to which a DATA stream's grain of index q is written (R243). -/
def StreamEntry.rowAddr (e : StreamEntry) (q : Nat) : Nat := e.base + 64 * (q % max 1 e.rows)

/-- A grain that a read of the scratchpad bytes [a, a + n) in cycle t waits for. -/
def State.lateRow (s : State) (c t a n : Nat) : Option (Nat × Nat × Nat) :=
  s.lateGrain c t 1 (fun e q => e.kind == .data && decide (e.rowAddr q < a + n) && decide (a < e.rowAddr q + 64))

/-- A grain that a sample of bank b in cycle t waits for: one that lands at d is in samples from d + 9 on (R243). -/
def State.lateBank (s : State) (c t b : Nat) : Option (Nat × Nat × Nat) :=
  s.lateGrain c t 9 (fun e _ => e.kind == .partialSum && e.bank == b)

/-- A consumer at core c has reached, in the cycle given, a grain that has not landed: it does not go on, and from that cycle the
module is held until the grain lands. Cycles that have passed since were stall cycles (02 R40, R41). -/
def State.await (s : State) (c : Nat) (g : Nat × Nat × Nat) : State :=
  match (s.core c).run.bind s.run? with
  | none => s
  | some x =>
    let p := x.position g.2.2
    let n := s.pos - p
    let s := if n = 0 then s else s.stallPos p ((s.stallsAt p).1 + n)
    { s with lnk := { s.lnk with awaited := some (c, g.1, g.2.1, p) } }

/-! Sync grains -/

/-- A sync entry (09 R244). -/
def syncEntry (op vid score smod tcore pool : Nat) (parity : Bool) : Nat :=
  op + 2 ^ 4 * (vid % 65536) + 2 ^ 20 * (score % 1024) + 2 ^ 30 * (smod % 1024) + 2 ^ 40 * (tcore % 1024) +
    2 ^ 50 * (pool % 256) + 2 ^ 58 * b2n parity

/-- A sync grain with one entry. -/
def syncGrain (dmod entry : Nat) : Grain := mkGrain dmod 0x3FC 0 0 false false (BitVec.ofNat 512 entry)

/-- Core `src` sends one sync entry to the hub sync unit of a module; the grain enters its ring stop in cycle t (09 R244). -/
def State.sendSync (s : State) (r src t dmod entry : Nat) : State := s.sendScheduled r src t 0 (syncGrain dmod entry)

/-- The hub sync unit sends one to another module in cycle t. -/
def State.sendHubSync (s : State) (r t dmod entry : Nat) : State :=
  s.waitSlot r 0x3FC (t + 2 * ccPerTick s.pwr.cur) (syncGrain dmod entry)

end Sys2Proof.Machine
end

