-- ==== Sys2Proof/Machine/Numeric.lean ====
section
/-!
DEFINITION. Element formats, exact values, one rounding, bushels and MX quantisation (03 R72 to R93).
-/

namespace Sys2Proof.Machine

/-! Element formats (03 R72, 05 R150) -/

/-- The element formats of R72. -/
inductive Fmt where
  | e2m1
  | e3m2
  | e2m3
  | e4m3
  | e5m2
  | bf16
  | f32
  | int8
  | int4
deriving DecidableEq, Repr

/-- Total width in bits. -/
def Fmt.width : Fmt → Nat
  | .e2m1 => 4
  | .e3m2 => 6
  | .e2m3 => 6
  | .e4m3 => 8
  | .e5m2 => 8
  | .bf16 => 16
  | .f32 => 32
  | .int8 => 8
  | .int4 => 4

/-- Bias b. -/
def Fmt.bias : Fmt → Int
  | .e2m1 => 1
  | .e3m2 => 3
  | .e2m3 => 1
  | .e4m3 => 7
  | .e5m2 => 15
  | .bf16 => 127
  | .f32 => 127
  | _ => 0

/-- Mantissa bits p. -/
def Fmt.man : Fmt → Nat
  | .e2m1 => 1
  | .e3m2 => 2
  | .e2m3 => 3
  | .e4m3 => 3
  | .e5m2 => 2
  | .bf16 => 7
  | .f32 => 23
  | _ => 0

/-- Whether the format is an integer format. -/
def Fmt.isInt : Fmt → Bool
  | .int8 => true
  | .int4 => true
  | _ => false

/-- The magnitude bits of the largest finite value (R72). -/
def Fmt.maxMag : Fmt → Nat
  | .e2m1 => 0x7
  | .e3m2 => 0x1F
  | .e2m3 => 0x1F
  | .e4m3 => 0x7E
  | .e5m2 => 0x7B
  | .bf16 => 0x7F7F
  | .f32 => 0x7F7FFFFF
  | .int8 => 127
  | .int4 => 7

/-- The magnitude bits of infinity, where there is one (R72). -/
def Fmt.infMag : Fmt → Option Nat
  | .e5m2 => some 0x7C
  | .bf16 => some 0x7F80
  | .f32 => some 0x7F800000
  | _ => none

/-- The canonical NaN, where there is one (R74). -/
def Fmt.nan : Fmt → Option Nat
  | .e4m3 => some 0x7F
  | .e5m2 => some 0x7E
  | .bf16 => some 0x7FC0
  | .f32 => some 0x7FC00000
  | _ => none

/-- Exponent of the largest normal power of two, for MX elements (R78). -/
def Fmt.emax : Fmt → Int
  | .e2m1 => 2
  | .e3m2 => 4
  | .e2m3 => 2
  | .e4m3 => 8
  | .e5m2 => 15
  | _ => 0

/-- The element format of a format code (05 R150); raw records and 0xF have none. -/
def fmtOf (code : Nat) : Option Fmt :=
  match code with
  | 0x0 => some .e2m1
  | 0x1 => some .e2m1
  | 0x2 => some .int4
  | 0x3 => some .e3m2
  | 0x4 => some .e2m3
  | 0x5 => some .e3m2
  | 0x6 => some .e2m3
  | 0x7 => some .e4m3
  | 0x8 => some .e5m2
  | 0x9 => some .e4m3
  | 0xA => some .e5m2
  | 0xB => some .int8
  | 0xC => some .bf16
  | 0xD => some .f32
  | _ => none

/-- Whether a code is an MX format (05 R150). -/
def isMx (code : Nat) : Bool := code == 0x1 || code == 0x5 || code == 0x6 || code == 0x9 || code == 0xA

/-- Element width in bits of a code: 192 for raw records, 0 for the reserved code (06). -/
def codeWidth (code : Nat) : Nat :=
  match fmtOf code with
  | some f => f.width
  | none => if code = 0xE then 192 else 0

/-- Lanes L of the operand class of a code (04 R113): 4 for N4, 2 for N8, 1 for W16. -/
def lanesOf (code : Nat) : Nat :=
  match codeWidth code with
  | 4 => 4
  | 16 => 1
  | _ => 2

/-! Values -/

/-- An exact value: NaN, a signed infinity, or (−1)^neg · m · 2^e (R73). -/
inductive Val where
  | nan
  | inf (neg : Bool)
  | fin (neg : Bool) (m : Nat) (e : Int)
deriving DecidableEq, Repr

/-- A zero value. -/
def Val.zero : Val := .fin false 0 0

/-- The value of an element (R72, R73). -/
def decodeEl (f : Fmt) (b : Nat) : Val :=
  let w := f.width
  let b := b % 2 ^ w
  if f.isInt then
    let v := toSigned w b
    .fin (decide (v < 0)) v.natAbs 0
  else
    let neg := decide (b ≥ 2 ^ (w - 1))
    let mag := b % 2 ^ (w - 1)
    if mag > f.maxMag then (if f.infMag = some mag then .inf neg else .nan)
    else
      let e := mag / 2 ^ f.man
      let m := mag % 2 ^ f.man
      if e = 0 then .fin neg m (1 - f.bias - f.man) else .fin neg (2 ^ f.man + m) ((e : Int) - f.bias - f.man)

/-- Multiply by a power of two. -/
def Val.scale (v : Val) (k : Int) : Val :=
  match v with
  | .fin n m e => .fin n m (e + k)
  | x => x

/-- Change the sign. -/
def Val.neg : Val → Val
  | .nan => .nan
  | .inf n => .inf (!n)
  | .fin n m e => .fin (!n) m e

/-- The value of an MX element with its scale byte (R76, R77). -/
def mxVal (f : Fmt) (x b : Nat) : Val := if x = 0xFF then .nan else (decodeEl f b).scale ((x : Int) - 127)

/-- The integer m · 2^e as a fraction n / d with d a power of two. -/
def dyNum (m : Nat) (e : Int) : Nat := m * 2 ^ e.toNat
def dyDen (e : Int) : Nat := 2 ^ (-e).toNat

/-- Sum of two finite values as a signed integer at the smaller of the two exponents. -/
def finSum (n1 : Bool) (m1 : Nat) (e1 : Int) (n2 : Bool) (m2 : Nat) (e2 : Int) : Int × Int :=
  let e := min e1 e2
  let a : Int := ((m1 * 2 ^ (e1 - e).toNat : Nat) : Int)
  let b : Int := ((m2 * 2 ^ (e2 - e).toNat : Nat) : Int)
  ((if n1 then -a else a) + (if n2 then -b else b), e)

/-- Exact sum (R95). An exact zero is −0 only when both operands are −0 or it arises from −0 alone. -/
def Val.add : Val → Val → Val
  | .nan, _ => .nan
  | _, .nan => .nan
  | .inf a, .inf b => if a = b then .inf a else .nan
  | .inf a, .fin _ _ _ => .inf a
  | .fin _ _ _, .inf b => .inf b
  | .fin n1 m1 e1, .fin n2 m2 e2 =>
    let r := finSum n1 m1 e1 n2 m2 e2
    if r.1 = 0 then .fin (n1 && n2) 0 0 else .fin (decide (r.1 < 0)) r.1.natAbs r.2

/-- Exact product (R79, R95). -/
def Val.mul : Val → Val → Val
  | .nan, _ => .nan
  | _, .nan => .nan
  | .inf a, .inf b => .inf (a != b)
  | .inf a, .fin n m _ => if m = 0 then .nan else .inf (a != n)
  | .fin n m _, .inf b => if m = 0 then .nan else .inf (n != b)
  | .fin n1 m1 e1, .fin n2 m2 e2 => .fin (n1 != n2) (m1 * m2) (e1 + e2)

/-- Order of two values that are not NaN: negative, zero or positive as a < b, a = b, a > b; both zeros are equal. -/
def Val.cmp : Val → Val → Int
  | .inf a, .inf b => (if a then -1 else 1) - (if b then -1 else 1)
  | .inf a, _ => if a then -1 else 1
  | _, .inf b => if b then 1 else -1
  | .fin n1 m1 e1, .fin n2 m2 e2 => (finSum n1 m1 e1 (!n2) m2 e2).1
  | _, _ => 0

/-! One rounding (R87) -/

/-- round_half_even of n / d. -/
def roundHalfEven (n d : Nat) : Nat :=
  let q := n / d
  let r := n % d
  if 2 * r > d || (2 * r == d && q % 2 == 1) then q + 1 else q

/-- floor(log2(n / d)) for n > 0. -/
def floorLog2 (n d : Nat) : Int :=
  let k : Int := (Nat.log2 n : Int) - (Nat.log2 d : Int)
  if n * dyDen k < d * dyNum 1 k then k - 1 else k

/-- Magnitude bits of n / d rounded to nearest even in a floating format, before the overflow rule. -/
def roundMagRaw (f : Fmt) (n d : Nat) : Nat :=
  if n = 0 then 0
  else
    let emin : Int := 1 - f.bias
    let k := max (floorLog2 n d) emin
    let u := k - f.man
    let r := roundHalfEven (n * dyDen u) (d * dyNum 1 u)
    (k - emin).toNat * 2 ^ f.man + r

/-- Magnitude bits with the overflow rule of R87 and R88. -/
def roundMag (f : Fmt) (sat : Bool) (n d : Nat) : Nat :=
  let b := roundMagRaw f n d
  if b > f.maxMag then
    match f.infMag with
    | some i => if sat then f.maxMag else i
    | none => f.maxMag
  else b

/-- The same for n / d · 2^e. DEDUCED (log 55). -/
def roundMagE (f : Fmt) (sat : Bool) (n d : Nat) (e : Int) : Nat := roundMag f sat (n * dyNum 1 e) (d * dyDen e)

/-- Put a sign on magnitude bits. -/
def signed (f : Fmt) (neg : Bool) (mag : Nat) : Nat := if neg then mag + 2 ^ (f.width - 1) else mag

/-- Rounding of an exact value to a format (R87, R95, R96): NaN gives the canonical NaN, or +0 where there is none. -/
def roundVal (f : Fmt) (sat : Bool) (v : Val) : Nat :=
  match v with
  | .nan => f.nan.getD 0
  | .inf neg =>
    if f.isInt then ofSigned f.width (if neg then -(2 ^ (f.width - 1) : Nat) else (f.maxMag : Int))
    else signed f neg (if sat then f.maxMag else f.infMag.getD f.maxMag)
  | .fin neg m e =>
    if f.isInt then
      let r : Int := roundHalfEven (dyNum m e) (dyDen e)
      let r := if neg then -r else r
      ofSigned f.width (max (-(2 ^ (f.width - 1) : Nat)) (min r f.maxMag))
    else signed f neg (roundMagE f sat m 1 e)

/-! Bushels (R80 to R83, R93) -/

/-- The window limit L = 2^159 − 1. -/
def winL : Int := 2 ^ 159 - 1

/-- Read a sum as signed 192-bit. -/
def wrap192 (v : Int) : Int := toSigned 192 (ofSigned 192 v)

/-- Clamp to the window; whether it clamped. -/
def clampWin (q : Int) : Int × Bool :=
  if q > winL then (winL, true) else if q < -winL then (-winL, true) else (q, false)

/-- trunc(P / 2^WBASE) toward zero and whether anything was lost. -/
def truncQ (wbase : Int) (neg : Bool) (m : Nat) (e : Int) : Int × Bool :=
  let k := e - wbase
  let q := m * 2 ^ k.toNat / 2 ^ (-k).toNat
  (if neg then -(q : Int) else q, decide (q * 2 ^ (-k).toNat ≠ m * 2 ^ k.toNat))

/-- contribute(bushel, P) (R82). -/
def Bushel.contribute (b : Bushel) (wbase : Int) (v : Val) : Bushel :=
  match v with
  | .fin neg m e =>
    let t := truncQ wbase neg m e
    let c := clampWin t.1
    { b with s := wrap192 (b.s + c.1), ovf := b.ovf || c.2, loss := b.loss || t.2 }
  | _ => { b with nv := true }

/-- A partial sum is added without truncation, with its flags (R93). -/
def Bushel.addPartial (b : Bushel) (w : Int) (ovf loss nv : Bool) : Bushel :=
  let c := clampWin w
  { s := wrap192 (b.s + c.1), ovf := b.ovf || c.2 || ovf, loss := b.loss || loss, nv := b.nv || nv }

/-- The window value (R83). -/
def Bushel.window (b : Bushel) : Int := (clampWin b.s).1

/-- A read of a bushel sets OVF when S lies outside the window (R83). -/
def Bushel.read (b : Bushel) : Bushel := { b with ovf := b.ovf || (clampWin b.s).2 }

/-- Flags OVF, LOSS, NV in bits 0 to 2, the window having been read (R83, R86). -/
def Bushel.flags (b : Bushel) : Nat := b2n b.read.ovf + 2 * b2n b.loss + 4 * b2n b.nv

/-- Conversion into a non-MX format (R87). -/
def Bushel.convert (b : Bushel) (wbase : Int) (f : Fmt) (sat : Bool) : Nat :=
  if b.nv then f.nan.getD 0
  else
    let w := b.window
    if w = 0 then 0 else roundVal f sat (.fin (decide (w < 0)) w.natAbs wbase)

/-- The value of a bushel as an MX input: NaN when NV is set (R87, R78). -/
def Bushel.value (b : Bushel) (wbase : Int) : Val :=
  if b.nv then .nan else .fin (decide (b.window < 0)) b.window.natAbs wbase

/-- The 24-byte raw record of a bushel (R93). -/
def Bushel.record (b : Bushel) : List Byte :=
  leBytes 20 (ofSigned 160 b.window) ++ [BitVec.ofNat 8 b.flags, 0, 0, 0]

/-- A raw record as a partial sum, none where it is a program error (R93). -/
def parseRecord (bs : List Byte) : Option (Int × Bool × Bool × Bool) :=
  let fl := (bs.getD 20 0).toNat
  if fl ≥ 8 || leAt bs 21 3 != 0 then none
  else some (toSigned 160 (leAt bs 0 20), fl % 2 = 1, fl / 2 % 2 = 1, fl / 4 % 2 = 1)

/-! MX quantisation (R78) -/

/-- Whether a value is NaN or infinite. -/
def Val.bad : Val → Bool
  | .fin _ _ _ => false
  | _ => true

/-- floor(log2 |v|) of a non-zero finite value. -/
def Val.log2 : Val → Option Int
  | .fin _ m e => if m = 0 then none else some ((Nat.log2 m : Int) + e)
  | _ => none

/-- The greatest of the exponents of the non-zero values. -/
def maxLog2 : List Val → Option Int
  | [] => none
  | v :: vs =>
    match v.log2, maxLog2 vs with
    | some a, some b => some (max a b)
    | some a, none => some a
    | none, b => b

/-- mx_quantise: the scale byte and the elements (R78). The rounding is that of R87, so a zero gives +0. -/
def mxQuantise (f : Fmt) (vs : List Val) : Nat × List Nat :=
  if vs.any Val.bad then (0xFF, vs.map (fun _ => 0))
  else
    let x : Int :=
      match maxLog2 vs with
      | none => -127
      | some l => min (max (l - f.emax) (-127)) 127
    let el := vs.map (fun v =>
      match v with
      | .fin neg m e => if m = 0 then 0 else roundVal f true (.fin neg m (e - x))
      | _ => 0)
    ((x + 127).toNat, el)

/-! Packing (R75) -/

/-- Pack elements of `w` bits into a little-endian bit stream, as a number. -/
def packNat (w : Nat) : List Nat → Nat
  | [] => 0
  | x :: xs => x % 2 ^ w + 2 ^ w * packNat w xs

/-- Pack elements into bytes. -/
def packBytes (w : Nat) (xs : List Nat) : List Byte := leBytes ((w * xs.length + 7) / 8) (packNat w xs)

/-- Element i of `w` bits of a packed byte string (w at most 8 times the bytes). -/
def unpackAt (w i : Nat) (bs : List Byte) : Nat :=
  let lo := w * i / 8
  let n := (w * i % 8 + w + 7) / 8
  leAt bs lo n / 2 ^ (w * i % 8) % 2 ^ w

end Sys2Proof.Machine
end

