-- ==== Sys2Proof/Machine/Operands.lean ====
section
/-!
DEFINITION. Every operand form: tensor descriptors, the addresses they produce, the checks made on them, and the reads
and writes of a core's scratchpad (06 R163 to R171, 07 R185 to R193).
-/

namespace Sys2Proof.Machine

/-! Descriptor fields (06 R164) -/

/-- Word w of a descriptor. -/
def Desc.word (d : Desc) (w : Nat) : Nat := bits d (32 * w) 32

/-- Word w read as a signed number. -/
def Desc.sword (d : Desc) (w : Nat) : Int := toSigned 32 (Desc.word d w)

def Desc.space (d : Desc) : Nat := bits d 0 3
def Desc.fmt (d : Desc) : Nat := bits d 4 4
def Desc.rd (d : Desc) : Bool := bitOf d 8
def Desc.wr (d : Desc) : Bool := bitOf d 9
def Desc.tag (d : Desc) : Nat := bits d 32 24
def Desc.base (d : Desc) : Nat := Desc.word d 2
def Desc.sbase (d : Desc) : Nat := Desc.word d 3
def Desc.rlo (d : Desc) : Nat := Desc.word d 4
def Desc.rhi (d : Desc) : Nat := Desc.word d 5
def Desc.nrow (d : Desc) : Nat := Desc.word d 6
def Desc.nelem (d : Desc) : Nat := bits d (32 * 7) 16
def Desc.rowStride (d : Desc) : Int := Desc.sword d 8
def Desc.ls (d : Desc) (l : Nat) : Int := Desc.sword d (9 + l)
def Desc.doff (d : Desc) : Nat := bits d (32 * 14) 40
def Desc.drow (d : Desc) : Int := Desc.sword d 16
def Desc.ds (d : Desc) (l : Nat) : Int := Desc.sword d (17 + l)
def Desc.dmod (d : Desc) : Nat := bits d (32 * 21) 10
def Desc.dcore (d : Desc) : Nat := bits d (32 * 21 + 10) 10
def Desc.dstream (d : Desc) : Nat := bits d (32 * 21 + 20) 8
def Desc.be (d : Desc) : Bool := bitOf d (32 * 21 + 28)
def Desc.credit (d : Desc) : Nat := bits d (32 * 22) 8

/-- Row length in bits; RB is an eighth of it (06 R166). -/
def Desc.rowBits (d : Desc) : Nat := Desc.nelem d * codeWidth (Desc.fmt d)

/-- RB, the row length in bytes. -/
def Desc.rb (d : Desc) : Nat := Desc.rowBits d / 8

def Desc.mx (d : Desc) : Bool := isMx (Desc.fmt d)

/-- Bytes per 32-element block of an MX format (06 R167). -/
def Desc.block (d : Desc) : Nat := 4 * codeWidth (Desc.fmt d)

/-- Local or remote scratchpad (07 R191). -/
def Desc.isSpad (d : Desc) : Bool := Desc.space d == 0 || Desc.space d == 3

/-! Addresses (06 R166, R167) -/

/-- Sum over the loop levels of index times increment. -/
def loopSum (idx : List Nat) (g : Nat → Int) : Int :=
  ((List.range 4).map (fun l => (idx.getD l 0 : Int) * g l)).foldl (· + ·) 0

/-- The byte address of row r, element 0, before the reduction mod 2^32. -/
def Operand.start (o : Operand) (r : Nat) : Int :=
  (Desc.base o.d : Int) + r * Desc.rowStride o.d + loopSum o.idx (Desc.ls o.d)

/-- addr(r, e). -/
def Operand.addr (o : Operand) (r e : Nat) : Nat :=
  ofSigned 32 (o.start r + ((e * codeWidth (Desc.fmt o.d) / 8 : Nat) : Int))

/-- logical(r, e). -/
def Operand.logical (o : Operand) (r e : Nat) : Int :=
  (Desc.doff o.d : Int) + r * Desc.drow o.d + loopSum o.idx (Desc.ds o.d) + ((e * codeWidth (Desc.fmt o.d) / 8 : Nat) : Int)

/-- The address of the scale byte of the block that holds element e of row r (06 R167). -/
def Operand.scaleAddr (o : Operand) (r e : Nat) : Nat :=
  let diff := (o.addr r e : Int) - Desc.base o.d - (((e % 32) * codeWidth (Desc.fmt o.d) / 8 : Nat) : Int)
  ofSigned 32 ((Desc.sbase o.d : Int) + diff / (Desc.block o.d : Nat))

/-- The region of the scale plane of an MX descriptor (06 R167). -/
def Desc.scaleRegion (d : Desc) : Int × Int :=
  ((Desc.sbase d : Int) - ((Desc.base d : Int) - Desc.rlo d) / (Desc.block d : Nat),
   (Desc.sbase d : Int) - ((Desc.base d : Int) - Desc.rhi d) / (Desc.block d : Nat))

/-! Well-formedness (06 R166, R167; 07 R191) -/

/-- Whether a signed number is a multiple of n. -/
def mult (x : Int) (n : Nat) : Bool := x % (n : Int) == 0

/-- All of BASE, ROW_STRIDE and LS0 to LS3 are multiples of n. -/
def Desc.aligned (d : Desc) (n : Nat) : Bool :=
  mult (Desc.base d) n && mult (Desc.rowStride d) n && (List.range 4).all (fun l => mult (Desc.ls d l) n)

/-- Whether the fields of a descriptor are well formed. `stat` marks a stationary operand: where its rows reach 128
bytes they start on 128-byte boundaries (log 15). -/
def Desc.wellFormed (d : Desc) (stat : Bool) : Bool :=
  let fmt := Desc.fmt d
  let rb := Desc.rb d
  decide (Desc.space d < 5) && fmt != 0xF && decide (1 ≤ Desc.nrow d) && decide (1 ≤ Desc.nelem d) &&
  Desc.rowBits d % 8 == 0 && (codeWidth fmt != 6 || Desc.nelem d % 4 == 0) &&
  (!Desc.mx d || (Desc.nelem d % 32 == 0 && mult (Desc.rowStride d) (Desc.block d) &&
    (List.range 4).all (fun l => mult (Desc.ls d l) (Desc.block d)) &&
    mult ((Desc.base d : Int) - Desc.rlo d) (Desc.block d))) &&
  (!Desc.isSpad d || ((decide (rb ≤ 64) || Desc.aligned d 64) &&
    (!stat || decide (rb < 128) || Desc.aligned d 128)))

/-! Spaces (06 R165, 14 R385, R397) -/

/-- What a run may reach: the size of its stratum space, the stratum ranges of the copies it maps on this core and those
of other and discarded copies, the size of the cold tier, and the hogshead ranges it may write and read. -/
structure Reach where
  strat  : Nat
  mapped : List (Nat × Nat)
  closed : List (Nat × Nat)
  cold   : Nat
  rw     : List (Nat × Nat)
  ro     : List (Nat × Nat)
  isSealed : Bool
deriving DecidableEq, Repr

/-- The hogshead address of an offset on a die (06 R165). -/
def hgAddr (die off : Nat) : Nat := die * 2147483648 + off

/-- Whether [lo, hi) is covered by ranges (start, length), one after another. -/
def covered (rs : List (Nat × Nat)) : Nat → Nat → Nat → Bool
  | 0, lo, hi => decide (hi ≤ lo)
  | n + 1, lo, hi =>
    if hi ≤ lo then true
    else
      match rs.find? (fun r => decide (r.1 ≤ lo) && decide (lo < r.1 + r.2)) with
      | some r => covered rs n (r.1 + r.2) hi
      | none => false

/-- Whether [lo, hi) lies within regions. -/
def inRegions (rs : List (Nat × Nat)) (lo hi : Nat) : Bool := covered rs (rs.length + 1) lo hi

/-- The ranges of one core. -/
def rangesOf (c : Nat) (rs : List (Nat × Nat × Nat)) : List (Nat × Nat) :=
  (rs.filter (fun r => r.1 == c)).map (fun r => (r.2.1, r.2.2))

/-- The hogshead ranges of a context: those of its grants and those of the stone copies that it maps (14 R385). -/
def State.hogRanges (s : State) (f : Nat) : List (Nat × Nat) × List (Nat × Nat) :=
  let y := s.ctx f
  ((y.grants0 ++ y.grants1).map (fun p => (hgAddr p.2.die p.2.off, p.2.len)),
    (y.stones.filterMap (fun i => kfind s.ing.copies i)).flatMap (fun p => p.hogs.map (fun h => (hgAddr h.1 h.2.1, h.2.2))))

/-- What core `c` may reach in its run. DEDUCED (log 51). -/
def State.reach (s : State) (c : Nat) : Reach :=
  let cold := if s.hub.grade = 0 then 4294967296 else 2147483648
  match (s.core c).run.bind s.run? with
  | none => { strat := 0, mapped := [], closed := [], cold := cold, rw := [], ro := [], isSealed := false }
  | some x =>
    let mine := s.ing.copies.filter (fun p => (s.ctx x.ctx).stones.contains p.1)
    let rest := s.ing.copies.filter (fun p => !((s.ctx x.ctx).stones.contains p.1))
    { strat := if x.tun.stoneId = 0 then 0 else stratumSize
      mapped := rangesOf c (mine.flatMap (fun p => p.2.strata))
      closed := rangesOf c (rest.flatMap (fun p => p.2.strata) ++ s.ing.discarded)
      cold := cold, rw := (s.hogRanges x.ctx).1, ro := (s.hogRanges x.ctx).2, isSealed := x.mode == 1 }

/-- Size of a space (06 R165). -/
def Reach.size (g : Reach) (sp : Nat) : Nat :=
  match sp with
  | 0 => spadSize
  | 1 => g.strat
  | 2 => g.cold
  | 3 => spadSize
  | 4 => 4294967296
  | _ => 0

/-- Whether the row [a, a + n) may be reached in space `sp` beyond the test of R165's range. -/
def Reach.open (g : Reach) (sp : Nat) (write : Bool) (a n : Nat) : Bool :=
  match sp with
  | 1 => g.closed.all (fun r => inRegions g.mapped (max a r.1) (min (a + n) (r.1 + r.2)))
  | 2 => inRegions (if write then g.rw else g.rw ++ g.ro) a (a + n)
  | _ => true

/-- Whether the scale plane of an MX descriptor leaves its space: the space's size, and for the cold tier the regions that
the run may reach (R167, 14 R385). -/
def Desc.scalesOut (d : Desc) (g : Reach) : Bool :=
  let p := Desc.scaleRegion d
  Desc.mx d && (decide (p.1 < 0) || decide (p.2 > g.size (Desc.space d)) ||
    (Desc.space d == 2 && !inRegions (if Desc.rd d then g.rw ++ g.ro else g.rw) p.1.toNat p.2.toNat))

/-- Whether row r of an operand, n bytes of it, leaves the descriptor's range: addresses are reduced mod 2^32 (R166). -/
def Operand.rowOut (o : Operand) (r n : Nat) : Bool :=
  let a := o.addr r 0
  !(decide (Desc.rlo o.d ≤ a) && decide (a + n ≤ Desc.rhi o.d)) &&
    !(Desc.rlo o.d == 0 && Desc.rhi o.d == 4294967296 && decide (a < 4294967296))

/-- Whether one of the rows r0 to r1 does: where all of them lie in one page of 2^32 bytes the first and the last tell. -/
def Operand.rowsOut (o : Operand) (r0 r1 n : Nat) : Bool :=
  if o.start r0 / 4294967296 == o.start r1 / 4294967296 then o.rowOut r0 n || o.rowOut r1 n
  else (List.range (r1 - r0 + 1)).any (fun i => o.rowOut (r0 + i) n)

/-- The check of R170 for rows r0 to r1 of an operand, of which `nel` elements each are used: whether it fails. -/
def Operand.fails (o : Operand) (g : Reach) (r0 r1 : Nat) (write : Bool) (nel : Nat) (stat : Bool) : Bool :=
  let d := o.d
  let sp := Desc.space d
  let size := g.size sp
  let n := (nel * codeWidth (Desc.fmt d) + 7) / 8
  !Desc.wellFormed d stat || (Desc.be d && g.isSealed) || decide (Desc.rlo d > Desc.rhi d) ||
  decide (Desc.rhi d > size) || (write && (!Desc.wr d || sp == 1)) || (!write && (!Desc.rd d || sp == 4)) ||
  decide (r1 ≥ Desc.nrow d) || decide (r1 < r0) ||
  o.rowsOut r0 r1 n ||
  (Desc.isSpad d && decide (Desc.rb d ≤ 64) &&
    (List.range (min (r1 - r0 + 1) 64)).any (fun i => decide (ofSigned 6 (o.start (r0 + i)) + Desc.rb d > 64))) ||
  Desc.scalesOut d g ||
  ((sp == 1 || sp == 2) && (List.range (r1 - r0 + 1)).any (fun i =>
    !g.open sp write (o.addr (r0 + i) 0) n ||
      (Desc.mx d && !g.open sp write (o.scaleAddr (r0 + i) 0) ((nel + 31) / 32))))

/-! Scratchpad accesses in time (06 R155, R176; 07 R186, R190, R192) -/

/-- One write to the scratchpad, with the code words it leaves poisoned. -/
def Core.spadPut (k : Core) (a : Nat) (bs : List Byte) (bad : List Nat) : Core :=
  bad.foldl (fun k o => k.poison .spad (a + o)) ({ k with spad := memWrites k.spad a bs }.merge .spad a bs.length)

/-- The core with every scratchpad write made that was written before cycle t (06 R176). -/
def Core.settle (k : Core) (t : Nat) : Core :=
  let due := k.spadQ.filter (fun w => decide (w.cyc < t))
  due.foldl (fun k w => k.spadPut w.addr w.bytes w.bad) { k with spadQ := k.spadQ.filter (fun w => !decide (w.cyc < t)) }

/-- Whether a write is made before one of cycle t and priority `rank`: of the writes of one cycle, those of lower priority
lose and are made later (02 R52, 07 R192). -/
def SpadWrite.before (w : SpadWrite) (t rank : Nat) : Bool := decide (w.cyc < t) || (w.cyc == t && decide (w.rank ≤ rank))

/-- Queue a scratchpad write that is written in cycle t. -/
def Core.spadLater (k : Core) (t a : Nat) (bs : List Byte) (bad : List Nat) (rank : Nat) : Core :=
  let w : SpadWrite := { cyc := t, addr := a, bytes := bs, bad := bad, rank := rank }
  { k with spadQ := k.spadQ.filter (fun x => x.before t rank) ++ [w] ++ k.spadQ.filter (fun x => !x.before t rank) }

/-- The ports of a core that write scratchpad, in the order of their priority (02 R52, 06 R448). -/
inductive SpadPort where
  | load
  | column
  | store
deriving DecidableEq, Repr

/-- The priority of an access of a core: the lower pair of module and core wins, and within a core the load engine, then
the column port, then the store engine's slot port (02 R52, 06 R448). -/
def accessRank (mod core : Nat) (p : SpadPort) : Nat :=
  (mod * 1024 + core) * 4 + match p with | .load => 0 | .column => 1 | .store => 2

/-- The bank of a scratchpad address (07 R190). -/
def spadBank (a : Nat) : Nat :=
  let r := a / 64
  (r % 16) ^^^ (r / 16 % 16) ^^^ (r / 256 % 16) ^^^ (r / 4096 % 4)

/-- The weight read path in a core's record of accesses (07 R195). -/
def weightPath : Nat := 16

/-- Added to a bank in that record for an access that takes no access unit (06 R175). -/
def unitless : Nat := 32

/-- Record an access of bank `b` in cycle t; whether it loses a conflict: its bank is in use, or four units serve other
banks (07 R175, R192, R195). -/
def Core.access (k : Core) (t b : Nat) : Core × Bool :=
  let used := kget [] k.accs t
  let units := (used.filter (fun x => decide (x < weightPath))).eraseDups.length
  ({ k with accs := kset k.accs t (b :: used) },
    used.any (fun x => x % unitless == b % unitless) || (decide (b < weightPath) && decide (units ≥ 4)))

/-- Stall cycles in which the losers among one cycle's accesses are made: one access a bank and four a cycle (07 R192). -/
def accessStall (used : List Nat) : Nat :=
  let banks := used.map (fun b => b % unitless)
  max (banks.foldl (fun m b => max m (banks.count b)) 1) (((used.filter (fun x => decide (x < weightPath))).length + 3) / 4) - 1

/-- The stall that the accesses of cycle t bring so far: the longest of the cores of one run, as the stalls of one cycle
overlap (02 R53). DEDUCED (log 104). -/
def State.conflictStall (s : State) (r : Option Nat) (t : Nat) : Nat :=
  s.cores.foldl (fun m p => if p.2.run == r then max m (accessStall (kget [] p.2.accs t)) else m) 0

/-- Record an access of core `c`, count its conflict and stall the module for it (02 R52, R53). -/
def State.access (s : State) (c t b : Nat) : State :=
  let r := (s.core c).access t b
  let s := s.setCore c r.1
  if r.2 then s.countConflict.stallAt c t (s.conflictStall r.1.run t) else s

/-- Record accesses to the rows of [a, a + n), one row a cycle from t. -/
def State.accessRows (s : State) (c t a : Nat) : Nat → State
  | 0 => s
  | n + 1 => (s.access c t (spadBank a)).accessRows c (t + 1) (a + 64) n

/-- Number of 64-byte accesses of n bytes. -/
def units (n : Nat) : Nat := (n + 63) / 64

/-- Drop the accesses of cycles before t. -/
def Core.pruneAccs (k : Core) (t : Nat) : Core := { k with accs := k.accs.filter (fun p => decide (t ≤ p.1)) }

/-- Bytes of a range, those of uncorrectable code words read as 0, and the offsets of the bytes in such words
(07 R187). -/
def Core.spadBytes (k : Core) (m : MemKind) (mem : Mem) (a n : Nat) : List Byte × List Nat :=
  let bad := (List.range n).filter (fun i => k.dueAt m (a + i))
  ((List.range n).map (fun i => if k.dueAt m (a + i) then 0 else memRead mem (a + i)), bad)

/-! Digests of stores (02 R58, 06 R171) -/

def digestC1 : DWord := 0xA3B195C47E2D0F6B
def digestC2 : DWord := 0xC58E1D2739F4B6A5

/-- mix64. -/
def mix64 (z : DWord) : DWord :=
  let z := (z ^^^ (z >>> 31)) * digestC1
  let z := (z ^^^ (z >>> 29)) * digestC2
  z ^^^ (z >>> 32)

/-- word_digest(T, m, b0 … b7). -/
def wordDigest (tag m : Nat) (bs : List Byte) : DWord :=
  mix64 (bs.foldl (fun acc b => acc * digestC1 + b.setWidth 64) (mix64 (BitVec.ofNat 64 (tag * 2 ^ 40 + m))))

/-- The sum of the word digests of bytes written from logical offset `o`, and the number of words: the words are taken
one by one; bytes of a word that the write does not touch count as 0. -/
def digestGo (tag : Nat) : Nat → Int → List Byte → DWord × Nat → DWord × Nat
  | 0, _, _, r => r
  | n + 1, o, bs, r =>
    if bs.isEmpty then r
    else
      let p := ofSigned 3 o
      let take := 8 - p
      let w := List.replicate p 0 ++ bs.take take
      let w := w ++ List.replicate (8 - w.length) 0
      digestGo tag n (o + take) (bs.drop take) (r.1 + wordDigest tag (ofSigned 40 (o / 8)) w, r.2 + 1)

/-- The digest of one write of `bs` from element e of row r of a descriptor on (06 R171). -/
def Operand.digest (o : Operand) (r e : Nat) (bs : List Byte) : DWord × Nat :=
  if Desc.tag o.d = 0 then (0, 0) else digestGo (Desc.tag o.d) (bs.length + 1) (o.logical r e) bs (0, 0)

/-- Add a digest to the sum of an epoch (02 R59). -/
def Core.addDigest (k : Core) (epoch : Nat) (x : DWord × Nat) : Core :=
  let y := kget (0, 0) k.dig.sums epoch
  { k with dig := { k.dig with sums := kset k.dig.sums epoch (y.1 + x.1, y.2 + x.2) } }

/-- A copy of a descriptor with the loop indices of the issue cycle (06 R168). -/
def Core.operand (k : Core) (h : BitVec 8) : Operand := { h := h, d := k.desc h, idx := k.idx }

end Sys2Proof.Machine
end

