-- ==== Sys2Proof/Machine/Transfers.lean ====
section
/-!
DEFINITION. Reads and writes of the memory spaces by an engine or a port, unit by unit in time: local and remote
scratchpad, stratum, hogshead and grain streams (06 R165, R173, R446, R448; 07 R184 to R205).
-/

namespace Sys2Proof.Machine

/-! Hogshead dies (07 R197 to R199) -/

def State.hog (s : State) (d : Nat) : Hogshead := kget Hogshead.reset s.hg d

def State.modHog (s : State) (d : Nat) (f : Hogshead → Hogshead) : State := { s with hg := kset s.hg d (f (s.hog d)) }

/-- The bytes of a die as a read that starts in cycle t finds them: writes started 24 cc before or earlier are in them
(R198). DEDUCED (log 54). -/
def Hogshead.view (h : Hogshead) (t : Nat) : Mem :=
  h.wq.foldl (fun m w => if w.cyc + 24 ≤ t then memWrites m w.off w.bytes else m) h.mem

/-- Take every queued write into the memory. -/
def Hogshead.flush (h : Hogshead) : Hogshead :=
  { h with mem := h.wq.foldl (fun m w => memWrites m w.off w.bytes) h.mem, wq := [] }

/-- Queue a write that starts in cycle t, in the order of start cycles and in one cycle of priority, so that the winner of a tie is
written first (02 R52). A code word of 32 bytes that it writes loses its error mark, save that an uncorrectable one written in part stays poisoned; a bad source word leaves a poisoned one (R184,
R186, R187). -/
def Hogshead.put (h : Hogshead) (t rank off : Nat) (bs : List Byte) (bad : List Nat) : Hogshead :=
  let before := fun (w : HgWrite) => decide (w.cyc < t) || (w.cyc == t && decide (w.rank ≤ rank))
  let whole := fun (w : Nat) => decide (off ≤ w) && decide (w + 32 ≤ off + bs.length)
  let meets := fun (w : Nat) => decide (off < w + 32) && decide (w < off + bs.length)
  let keep := h.bad.filter (fun x => !(if x.2 then whole x.1 else meets x.1))
  { h with
    wq := h.wq.filter before ++ [{ cyc := t, rank := rank, off := off, bytes := bs }] ++ h.wq.filter (fun w => !before w)
    bad := bad.foldl (fun m o => let w := (off + o) / 32 * 32; if m.any (fun x => x.1 == w) then m else (w, true) :: m)
      keep }

/-- The hub cycle, numbered from the run's launch, in which core cycle w falls: hub cycles go on while the module is
stalled, and a step change alters how many fall into a core cycle (R199). DEDUCED (log 120). -/
def Run.hubCycle (x : Run) (n w : Nat) : Nat := x.hubMark.2 + (w - x.hubMark.1) * 6 / n

/-- The core cycle in which hub cycle k of a run falls. -/
def Run.coreCycle (x : Run) (n k : Nat) : Nat := x.hubMark.1 + (k - x.hubMark.2) * n / 6

/-- Hub cycles from cycle k to the first in a declared phase in which the channel has no other access, none if the mask
declares no phase (R197, R199). -/
def Hogshead.slotWait (h : Hogshead) (chan k : Nat) : Option Nat :=
  (List.range 2048).find? (fun d => bitOf h.mask ((k + d) % 32) && !h.uses.contains (k + d, chan))

/-- The channel of an offset (R197). -/
def hgChannel (off : Nat) : Nat := off / 64 % 13

/-- The access of core c's run to a unit of a die that reaches the die in schedule cycle t: 40 cc after the start of a read, 64 cc
after that of a write (R197 to R199). One that arrives in an undeclared phase, or meets another access of its channel in its hub cycle, waits for the next
declared one that is free; the module stalls for the difference, and the delay is counted. DEDUCED (log 121). The unit takes a place on
the bridge of the core's die in that cycle (09 R247). DEDUCED (log 145). -/
def State.hgPhase (s : State) (c die off t : Nat) (read : Bool) : State :=
  match (s.core c).run.bind s.run? with
  | none => s
  | some x =>
    let p := x.position t
    let s := { s with lnk := { s.lnk with
      units := (s.coreDie c, read, p) :: s.lnk.units.filter (fun u => decide (p ≤ u.2.2 + 128)) } }
    let n := ccPerTick s.pwr.cur
    let k := x.hubCycle n (s.wallOf (x.position t))
    let h := s.hog die
    let use := fun (j : Nat) => s.modHog die (fun h => { h with
      uses := (j, hgChannel off) :: h.uses.filter (fun u => decide (k ≤ u.1 + 4096)) })
    match h.slotWait (hgChannel off) k with
    | none => s.countConflict
    | some 0 => use k
    | some d => (use (k + d)).countConflict.stallAt c t ((d * n + 5) / 6)

/-- CORE_HG_LOG and CORE_HG_ADDR: the first error since VALID was cleared, save that an uncorrectable one replaces a
corrected one (R211). -/
def HgRegs.record (g : HgRegs) (die off : Nat) (due : Bool) : HgRegs :=
  if bitOf g.log 0 && (bitOf g.log 3 || !due) then g
  else
    { g with
      log := BitVec.ofNat 32 (1 + 2 * die + 8 * b2n due + 16 * hgChannel off)
      addr := BitVec.ofNat 32 (off % hgSize / 32 * 32) }

/-- FINAL is set in the record of a word whose third attempt failed (R201, R211). -/
def HgRegs.final (g : HgRegs) (die off : Nat) : HgRegs :=
  if bitOf g.log 0 && bitOf g.log 3 && bits g.log 1 1 == die && g.addr.toNat == off % hgSize / 32 * 32 then
    { g with log := g.log ||| 4 }
  else g

/-- An attempt to read an uncorrectable word: CORE_HG_DUE and the log (R211). -/
def State.hgDue (s : State) (die off : Nat) : State :=
  { s with hgRegs := { (s.hgRegs.record die off true) with
    due := satField (s.hgRegs.record die off true).due (16 * die) 16 1 } }

/-- A reissue: DET_HGRETRY counts it (R201, 02 R50). -/
def State.countReissue (s : State) : State :=
  ({ s with det := { s.det with hgretry := s.det.hgretry.add 1 } }).chargeRuns (fun k => { k with hgretry := k.hgretry + 1 })

/-- The third attempt of core c's read has failed: FINAL, and the run ends with ABORTED (02 R51). -/
def State.hgGiveUp (s : State) (c die off : Nat) : State :=
  { s with hgRegs := s.hgRegs.final die off }.endDueOf c

/-- Corrected code words that a read meets: counted and logged (R185, R211). -/
def State.hgCorrected (s : State) (die : Nat) : List Nat → State
  | [] => s
  | o :: os =>
    ({ s.modHog die (fun h => { h with ce := satAdd h.ce 1 }) with
      hgRegs := s.hgRegs.record die o false }).hgCorrected die os

/-- The code words with an error that meet [off, off + n). -/
def Hogshead.badIn (h : Hogshead) (due : Bool) (off n : Nat) : List Nat :=
  (h.bad.filter (fun x => x.2 == due && decide (x.1 < off + n) && decide (off < x.1 + 32))).map (fun x => x.1)

/-- A write of [off, off + n) of a die corrects the words that it writes only in part before it merges into them (R185, R186). -/
def State.hgMerged (s : State) (die off n : Nat) : State :=
  s.hgCorrected die (((s.hog die).badIn false off n).filter (fun w => !(decide (off ≤ w) && decide (w + 32 ≤ off + n))))

/-- A read of core c within one 64-byte unit that starts in cycle t: the bytes, those of words that stay uncorrectable as 0,
with their offsets. The read is attempted three times and the module stalls for 32 cc before each reissue; then the run
ends (R201, 02 R51). -/
def State.hgRead (s : State) (c die off n t : Nat) : State × List Byte × List Nat :=
  let h := s.hog die
  let dues := h.badIn true off n
  let s := s.hgCorrected die (h.badIn false off n)
  let s :=
    match dues with
    | [] => s
    | o :: os =>
      let o := os.foldl min o
      let s := ((s.hgDue die o).countReissue.stallAt c t 32).hgDue die o
      ((s.countReissue.stallAt c t 64).hgDue die o).hgGiveUp c die o
  let bad := (List.range n).filter (fun i => dues.contains ((off + i) / 32 * 32))
  let m := h.view t
  (s, (List.range n).map (fun i => if bad.contains i then 0 else memRead m (off + i)), bad)

/-- A read of at most 64 bytes at hogshead address a; the tail of one that crosses into the next die is read there (06
R165). -/
def State.hgReadAt (s : State) (acc : Bool) (c a n t : Nat) : State × List Byte × List Nat :=
  let m := min n (hgSize - a % hgSize)
  let one := fun (s : State) (a n : Nat) =>
    (if acc then s.hgPhase c (a / hgSize) (a % hgSize) (t + 40) true else s).hgRead c (a / hgSize) (a % hgSize) n t
  let p := one s a m
  if m < n then
    let q := one p.1 (a + m) (n - m)
    (q.1, p.2.1 ++ q.2.1, p.2.2 ++ q.2.2.map (fun o => o + m))
  else p

/-! Where an operand lies -/

/-- A space with the core that acts and the core whose memory it is; `away` marks another module, `dist` is D of R246. -/
structure Way where
  sp   : Nat
  asker  : Nat
  core : Nat
  away : Bool
  dist : Nat
deriving DecidableEq, Repr

def State.way (s : State) (c : Nat) (d : Desc) : Way :=
  if Desc.space d == 3 then
    if Desc.dmod d = s.moduleId then
      { sp := 3, asker := c, core := Desc.dcore d, away := false, dist := s.hopD c (Desc.dcore d) }
    else { sp := 3, asker := c, core := Desc.dcore d, away := true, dist := 0 }
  else { sp := Desc.space d, asker := c, core := c, away := false, dist := 0 }

/-- Cycles from the start of a read to its first 64 bytes (05 R155, 09 R246). DEDUCED (log 53). -/
def Way.lat (w : Way) : Nat :=
  match w.sp with
  | 2 => 104
  | 3 => 2 * w.dist + 6
  | _ => 6

/-- Cycles by which unit j of a read follows the first: none inside the core (05 R155), else one per unit. -/
def Way.spread (w : Way) (j : Nat) : Nat := if w.sp ≤ 1 then 0 else j

/-- What a read brings: the bytes and the offsets of those in uncorrectable words. -/
abbrev Fetched := List Byte × List Nat

/-- What follows the first n bytes. -/
def Fetched.after (r : Fetched) (n : Nat) : Fetched :=
  (r.1.drop n, (r.2.filter (fun o => decide (n ≤ o))).map (fun o => o - n))

/-- The first n bytes, zeros for those that are missing; bad ones read as 0 (R187). -/
def Fetched.front (r : Fetched) (n : Nat) : Fetched :=
  ((List.range n).map (fun i => if r.2.contains i then 0 else r.1.getD i 0), r.2.filter (fun o => decide (o < n)))

/-- Count the corrected and the uncorrectable words that a read of [a, a + n) meets (07 R185, R211). -/
def Core.noteErrs (k view : Core) (m : MemKind) (a n : Nat) (bad : List Nat) : Core :=
  let g := (view.ceWords m a n).foldl (fun g w => g.countCe m w) k.eccRegs
  let ws := bad.filter (fun o => o == 0 || (a + o) % 8 == 0)
  { k with eccRegs := ws.foldl (fun g o => g.countDue m (a + o)) g }

/-- Record an access where it is one of its own: a second piece of one 64-byte access is not (`acc` false). -/
def State.accessIf (s : State) (acc : Bool) (c t b : Nat) : State := if acc then s.access c t b else s

/-- Read one unit of at most 64 bytes in cycle t. `reply` holds the bytes of a read of another module with
those that its words marked poisoned (R187; log 19). -/
def State.readUnit (s : State) (acc : Bool) (w : Way) (a n t : Nat) (reply : Fetched) : State × Fetched :=
  match w.sp with
  | 1 =>
    let k := s.core w.core
    let r := k.spadBytes .strat k.strat a n
    ((s.accessIf acc w.core t weightPath).modCore w.core (fun k' => k'.noteErrs k .strat a n r.2), r)
  | 2 => s.hgReadAt acc w.asker a n t
  | _ =>
    if w.away then (s, reply.front n)
    else
      let t := t + w.dist
      let view := (s.core w.core).settle t
      let r := view.spadBytes .spad view.spad a n
      ((s.accessIf acc w.core t (spadBank a)).modCore w.core (fun k => k.noteErrs view .spad a n r.2), r)

/-- Read n bytes from a, one unit a cycle from t. -/
def State.readUnits (s : State) (acc : Bool) (w : Way) (reply : Fetched) : Nat → Nat → Nat → Nat → Nat → State × Fetched
  | 0, _, _, _, _ => (s, [], [])
  | f + 1, a, n, t, done =>
    if n = 0 then (s, [], [])
    else
      let m := min n 64
      let r := s.readUnit acc w a m t (reply.after done)
      let q := r.1.readUnits acc w reply f (a + m) (n - m) (t + 1) (done + m)
      (q.1, r.2.1 ++ q.2.1, r.2.2 ++ q.2.2.map (fun o => o + m))

def State.readBytes (s : State) (acc : Bool) (w : Way) (reply : Fetched) (a n t : Nat) : State × Fetched :=
  s.readUnits acc w reply (units n + 1) a n t 0

/-- Report what a read met (07 R187, R188): UNCORRECTABLE of a scratchpad word, or the end of the run for a stratum
word. DEDUCED (log 106). -/
def State.readReport (s : State) (c slot h : Nat) (w : Way) (t : Nat) (bad : List Nat) : State :=
  if bad.isEmpty || w.sp = 2 then s
  else if w.sp = 1 then s.endDueOf c
  else s.raiseAsyncAt c 0x0A (trapInfo slot h 2) (t + (if w.sp = 3 then w.lat else 0) + bad.headD 0 / 64)

/-! Writes -/

/-- Write bytes to local scratchpad, unit j in cycle t + j. -/
def State.putUnits (s : State) (acc : Bool) (port : SpadPort) (c : Nat) (bad : List Nat) : Nat → Nat → Nat → Nat → List Byte → State
  | 0, _, _, _, _ => s
  | f + 1, a, t, done, bs =>
    if bs.isEmpty then s
    else
      let b := (bad.filter (fun o => decide (done ≤ o) && decide (o < done + 64))).map (fun o => o - done)
      ((s.accessIf acc c t (spadBank a)).modCore c (fun k =>
        k.spadLater t a (bs.take 64) b (accessRank s.moduleId c port))).putUnits acc port c bad f (a + 64)
        (t + 1) (done + 64) (bs.drop 64)

/-- Write at most 64 bytes at hogshead address a; the tail of a write that crosses into the next die goes there (06
R165). -/
def State.hogPut (s : State) (acc : Bool) (c t a : Nat) (bs : List Byte) (bad : List Nat) : State :=
  let m := min bs.length (hgSize - a % hgSize)
  let one := fun (s : State) (a : Nat) (bs : List Byte) (bad : List Nat) =>
    ((if acc then s.hgPhase c (a / hgSize) (a % hgSize) (t + 64) false else s).hgMerged (a / hgSize) (a % hgSize) bs.length).modHog (a / hgSize)
      (fun h => h.put t (accessRank s.moduleId c .store) (a % hgSize) bs bad)
  let s := one s a (bs.take m) (bad.filter (fun o => decide (o < m)))
  if m < bs.length then one s (a + m) (bs.drop m) ((bad.filter (fun o => decide (m ≤ o))).map (fun o => o - m)) else s

/-- Write bytes to hogshead, unit j starting in cycle t + j. -/
def State.hogUnits (s : State) (acc : Bool) (c : Nat) (bad : List Nat) : Nat → Nat → Nat → Nat → List Byte → State
  | 0, _, _, _, _ => s
  | f + 1, a, t, done, bs =>
    if bs.isEmpty then s
    else
      let b := (bad.filter (fun o => decide (done ≤ o) && decide (o < done + 64))).map (fun o => o - done)
      (s.hogPut acc c t a (bs.take 64) b).hogUnits acc c bad f (a + 64) (t + 1) (done + 64) (bs.drop 64)

/-! Partial sums as a sender forms them (03 R89 to R91) -/

/-- The 24-byte records of a row: the window value, and the flags OVF, LOSS and NV in bits 0 to 2. -/
def rawRecords (bs : List Byte) : List (Int × Nat) :=
  (records 24 bs).map (fun b => (toSigned 160 (leAt b 0 20), leAt b 20 1 % 8))

/-- The value sent in the 96-bit transfer window: one beyond 2^95 − 1 in magnitude is clamped and sets OVF on the value sent
(R90). -/
def clamp96 (v : Int × Nat) : Int × Nat :=
  if v.1 > 2 ^ 95 - 1 then (2 ^ 95 - 1, v.2 ||| 1) else if v.1 < -(2 ^ 95 - 1) then (-(2 ^ 95 - 1), v.2 ||| 1) else v

/-- The payload of a partial-sum grain of format `fmt` with the values in its slots (R89, R91). -/
def partialPayload (fmt : Nat) (vs : List (Int × Nat)) : Payload :=
  let n := if fmt = 2 then 12 else 20
  let vs := if fmt = 2 then vs.map clamp96 else vs
  let trailer := (vs.zipIdx.map (fun v => v.1.2 * 2 ^ (3 * v.2) + 2 ^ (15 + v.2))).foldl (· + ·) (fmt * 2 ^ 20)
  payloadOf (slice (vs.flatMap (fun v => leBytes n (ofSigned (8 * n) v.1))) 0 60 ++ leBytes 4 trailer)

/-- The partial-sum grains of a row of raw records. -/
def partialGrains (dmod dcore stream : Nat) (be : Bool) (fmt : Nat) : Nat → List (Int × Nat) → List Grain
  | 0, _ => []
  | n + 1, vs =>
    if vs.isEmpty then []
    else
      let v := if fmt = 2 then 5 else 3
      mkGrain dmod dcore stream (b2n be) false false (partialPayload fmt (vs.take v)) ::
        partialGrains dmod dcore stream be fmt n (vs.drop v)

/-- The partial-sum format that the stream entry at the receiver declares, none where that entry is not PARTIAL (09 R243).
The tun holds the receiver's stream table. -/
def Run.partialForm (x : Run) (dmod dcore stream : Nat) : Option Nat :=
  match (x.tun.coreMap dmod).find? (fun e => e.core == dcore) with
  | none => none
  | some e =>
    match (x.tun.streamRecs e).find? (fun r => r.stream == stream) with
    | some r => if r.kind = 2 then some r.format else none
    | none => none

/-- The grains that a row written through a SPACE 0x3 or 0x4 descriptor forms (06 R446, R447). Raw records to a PARTIAL
stream go as partial-sum grains of the form that the receiver declares (03 R89 to R91). DEDUCED (log 122). -/
def Run.rowOut (x : Run) (d : Desc) (bs : List Byte) : List Grain :=
  let raw := rowGrains (Desc.dmod d) (Desc.dcore d) (Desc.dstream d) (Desc.be d) (units bs.length + 1) bs
  if Desc.space d == 4 && Desc.fmt d == 0xE then
    match x.partialForm (Desc.dmod d) (Desc.dcore d) (Desc.dstream d) with
    | some f => partialGrains (Desc.dmod d) (Desc.dcore d) (Desc.dstream d) (Desc.be d) f (bs.length + 1) (rawRecords bs)
    | none => raw
  else raw

/-- The grains of a row, each with the code words of it to be written poisoned (07 R187). -/
def markBad : List Grain → List Nat → List (Grain × BitVec 8)
  | [], _ => []
  | g :: gs, bad =>
    (g, bad.foldl (fun m o => if o < 64 then m ||| BitVec.ofNat 8 (2 ^ (o / 8)) else m) 0) ::
      markBad gs ((bad.filter (fun o => decide (64 ≤ o))).map (fun o => o - 64))

/-- Write the bytes of a row to the space of a descriptor, from a port of core c. `tl` is the cycle in which a local write
is written, `t` the cycle in which a write leaves the core. Through a SPACE 0x3 or 0x4 descriptor the row goes as grains
(R446). -/
def State.writeBytes (s : State) (acc : Bool) (port : SpadPort) (c : Nat) (d : Desc) (a tl t : Nat) (bs : List Byte)
    (bad : List Nat) : State :=
  match Desc.space d with
  | 0 => s.putUnits acc port c bad (units bs.length + 1) a tl 0 bs
  | 2 => s.hogUnits acc c bad (units bs.length + 1) a t 0 bs
  | sp =>
    match (s.core c).run with
    | none => s
    | some r =>
      match s.run? r with
      | none => s
      | some x =>
        s.sendRow r c t (markBad (x.rowOut d bs) (if sp = 3 then bad else []))

/-- The first cycle after the completion of that write (05 R154): after the last byte is written; for a write that leaves
the core, after it has landed on this module, been committed at the die (07 R198) or left (log 20). -/
def State.writeDone (s : State) (c : Nat) (d : Desc) (tl t n : Nat) : Nat :=
  match Desc.space d with
  | 0 => tl + units n
  | 2 => t + 64 + units n
  | 3 => if Desc.dmod d = s.moduleId then t + s.hopD c (Desc.dcore d) + units n else t + units n
  | _ => t + units n

/-- Completion cycles for FENCE. -/
def Core.loadDoneAt (k : Core) (t : Nat) : Core := { k with eng := { k.eng with loadDone := max k.eng.loadDone t } }
def Core.storeDoneAt (k : Core) (t : Nat) : Core := { k with eng := { k.eng with storeDone := max k.eng.storeDone t } }

/-! Checks of destinations and credits (07 R203 to R205) -/

/-- Whether DEST names a core outside the run; DCOREs from 0x3F0 are no cores (09 R238). -/
def State.outsideRun (s : State) (c : Nat) (d : Desc) : Bool :=
  match (s.core c).run with
  | none => true
  | some r =>
    match s.run? r with
    | none => true
    | some x =>
      !(Desc.space d == 4 && decide (Desc.dcore d ≥ 0x3F0)) && !s.inRun r x (Desc.dmod d) (Desc.dcore d)

/-- Whether the pool of a remote write is unbound or bound to another core (R205). -/
def Core.poolWrong (k : Core) (d : Desc) : Bool :=
  match kfind k.pools (Desc.credit d) with
  | none => true
  | some p => p.limit == 0 || p.dmod != Desc.dmod d || p.dcore != Desc.dcore d

/-- NO_CREDIT of a write through a descriptor (R205). -/
def State.writeRefused (s : State) (c : Nat) (d : Desc) : Bool :=
  match Desc.space d with
  | 3 => s.outsideRun c d || (s.core c).poolWrong d
  | 4 => s.outsideRun c d
  | _ => false

/-- The pool that a write takes its credit from, if any (R204). -/
def Desc.pool (d : Desc) : Option Nat := if Desc.space d == 3 then some (Desc.credit d) else none

def Core.credits (k : Core) (p : Nat) : Nat :=
  match kfind k.pools p with
  | some x => x.count
  | none => 0

/-- The cycle in which the pool's credit was held. -/
def Core.creditAt (k : Core) (p : Nat) : Nat :=
  match kfind k.pools p with
  | some x => x.since
  | none => 0

def Core.takeCredit (k : Core) (p : Nat) : Core :=
  match kfind k.pools p with
  | some x => { k with pools := kset k.pools p { x with count := x.count - 1 } }
  | none => k

end Sys2Proof.Machine
end

