-- ==== Sys2Proof/Machine/Array.lean ====
section
/-!
DEFINITION. The matrix array: tile parameters, the fold, background loads, SWAPs and sub-vectors in the order of their
cycles (04 R107 to R130, 05 R151).
-/

namespace Sys2Proof.Machine

/-! Tile parameters (05 R151) -/

/-- A valid tile-parameter entry. -/
structure TileP where
  m   : Nat
  mv  : Nat
  k   : Nat
  sf  : Nat
  tf  : Nat
  of  : Nat
  wb  : Int
  sat : Bool
deriving DecidableEq, Repr

/-- The parameters of an entry, none where it holds a reserved value (R151). -/
def tileOf (w : DWord) : Option TileP :=
  let msel := bits w 0 3
  let m := 16 * 2 ^ msel
  let p : TileP :=
    { m := m, mv := bits w 7 8 + 1, k := 64 * (bits w 3 4 + 1), sf := bits w 15 4, tf := bits w 19 4, of := bits w 23 4,
      wb := toSigned 10 (bits w 27 10), sat := bitOf w 37 }
  if msel > 4 || p.mv > p.m || p.sf > 0xC || p.tf > 0xC || p.of > 0xE || bits w 38 26 != 0 ||
      (isMx p.of && lanesOf p.of != lanesOf p.tf) then none
  else some p

/-- Lanes of the stationary operand (R113). -/
def TileP.lanes (p : TileP) : Nat := lanesOf p.sf

/-- QUARTER and DOUBLE rate modes (04 R114). DEDUCED (log 64). -/
def TileP.quarter (p : TileP) : Bool := lanesOf p.sf == 1 || lanesOf p.tf == 1
def TileP.double (p : TileP) : Bool := lanesOf p.sf == 4 && lanesOf p.tf == 4

/-- Groups of sub-vectors per column: those that enter together (R114, R126). -/
def TileP.groups (p : TileP) (cs : Nat) : Nat := if p.double then (cs + 1) / 2 else cs

/-- Cycles from one group to the next. -/
def TileP.step (p : TileP) : Nat := if p.quarter then 4 else 1

/-- q(cs), cc per column (R128). -/
def TileP.q (p : TileP) (cs : Nat) : Nat := p.groups cs * p.step

/-- Rows of the array that the operation can reach. -/
def TileP.rows (p : TileP) : Nat := min p.m 64

/-! The fold (R126) -/

/-- A stationary set: round, column block, first chunk, chunks, columns, and whether it is the first and the last set of
its block. -/
structure SetP where
  g    : Nat
  col0 : Nat
  k0   : Nat
  cs   : Nat
  nb   : Nat
  fst  : Bool
  lst  : Bool
deriving DecidableEq, Repr

/-- Column blocks and sets per block of a tile. -/
def TileP.blocks (n : Nat) : Nat := (n + 63) / 64
def TileP.sets (p : TileP) : Nat := (p.k / 64 + p.lanes - 1) / p.lanes

/-- S, the number of sets of an operation. -/
def MatOp.setCount (o : MatOp) (p : TileP) : Nat :=
  if o.kind = .tile then max p.m 64 / 64 * TileP.blocks o.n * p.sets else 1

/-- Set i in fold order; an MSTREAM is one set (R130). -/
def MatOp.setAt (o : MatOp) (p : TileP) (i : Nat) : SetP :=
  if o.kind = .tile then
    let r := i % (TileP.blocks o.n * p.sets)
    let b := r / p.sets
    let s := r % p.sets
    { g := i / (TileP.blocks o.n * p.sets), col0 := 64 * b, k0 := p.lanes * s,
      cs := min p.lanes (p.k / 64 - p.lanes * s), nb := min 64 (o.n - 64 * b), fst := s == 0, lst := s + 1 == p.sets }
  else { g := 0, col0 := 0, k0 := 0, cs := o.cs, nb := o.n, fst := true, lst := true }

/-- T of set i, its stream cycles (R128). -/
def MatOp.setT (o : MatOp) (p : TileP) (i : Nat) : Nat := (o.setAt p i).nb * p.q (o.setAt p i).cs

/-- max(T, 67) summed over the sets of one column block of nb columns. -/
def TileP.blockSpan (p : TileP) (nb : Nat) : Nat :=
  ((List.range p.sets).map (fun s => max (nb * p.q (min p.lanes (p.k / 64 - p.lanes * s))) 67)).foldl (· + ·) 0

/-- max(T, 67) summed over all sets (R128). -/
def MatOp.span (o : MatOp) (p : TileP) : Nat :=
  max p.m 64 / 64 * (o.n / 64 * p.blockSpan 64 + (if o.n % 64 = 0 then 0 else p.blockSpan (o.n % 64)))

/-- Cycles from a sub-vector's entry to the updated entry, and to the result column (R109). -/
def TileP.lat (p : TileP) : Nat := if p.quarter then 133 else 130
def TileP.colLat (p : TileP) : Nat := p.lat + 4

/-! Stationary copies (R110, R116 to R118) -/

/-- The pointer as a sub-vector or an injection of cycle e finds it: a SWAP in that cycle or later has not inverted it yet
(R118). -/
def ArrayState.ptrAt (a : ArrayState) (e : Nat) : Bool :=
  a.ptr != decide ((a.swaps.filter (fun w => decide (e ≤ w))).length % 2 = 1)

/-- The active copy of cycle e. -/
def ArrayState.activeAt (a : ArrayState) (e : Nat) : Stationary := if a.ptrAt e then a.copy1 else a.copy0

/-- Change the copy that the pointer names as shadow in cycle e. -/
def ArrayState.modShadow (a : ArrayState) (e : Nat) (f : Stationary → Stationary) : ArrayState :=
  if a.ptrAt e then { a with copy0 := f a.copy0 } else { a with copy1 := f a.copy1 }

/-- Put a cell, zero cells unlisted. -/
def putCell (m : KMap (BitVec 16)) (i : Nat) (v : Nat) : KMap (BitVec 16) :=
  if v % 65536 = 0 then kdel m i else kset m i (BitVec.ofNat 16 v)

/-- What is loaded into one logical row: its cells' values in columns 0 to 63, the bad lanes of each, and the scales. -/
structure RowLoad where
  cells : List Nat
  bad   : List Nat
  scale : Nat
deriving DecidableEq, Repr

/-! Physical places (01 R26, R29) -/

/-- The site mapped out in a row. -/
def Hub.mappedSite (h : Hub) (die row : Nat) : Option Nat :=
  (h.repairMap.find? (fun r => r.1 == die && r.2.1 == row)).map (fun r => r.2.2)

/-- The number of a physical core's array in the map of array rows. -/
def arrayKey (die row site i : Nat) : Nat := ((die * 9 + row) * 9 + site) * 4 + i

/-- The array of logical core c: the physical core at the site that its cluster occupies (R29). -/
def State.arrayOf (s : State) (c : Nat) : Nat :=
  let die := c / s.coresPerDie
  let row := c % s.coresPerDie / 32
  let col := c % s.coresPerDie / 4 % 8
  let site := match s.hub.mappedSite die row with | none => col | some p => if col < p then col else col + 1
  arrayKey die row site (c % 4)

/-- The physical rows mapped out of the array of core c, rising (R26). -/
def State.rowsOut (s : State) (c : Nat) : List Nat := kget [] s.hub.rowMap (s.arrayOf c)

/-- Rows mapped out of the arrays that are repaired at row level (R424). -/
def Hub.rowRepairs (h : Hub) : Nat := (h.rowMap.map (fun p => if p.2.length < 3 then p.2.length else 0)).foldl (· + ·) 0

/-- The logical row at physical row p of an array whose mapped-out rows are `out`; none of a mapped-out row and of a
spare that is not in use (R26). -/
def logicalRow (out : List Nat) (p : Nat) : Option Nat :=
  if out.contains p then none
  else
    let i := p - (out.filter (fun f => decide (f < p))).length
    if i < 64 then some i else none

def Stationary.setRow (x : Stationary) (i : Nat) (r : RowLoad) (masked : Bool) : Stationary :=
  { cells := (List.range 64).foldl (fun m j => putCell m (64 * i + j) (r.cells.getD j 0)) x.cells
    bad := (List.range 64).foldl (fun m j =>
      if r.bad.getD j 0 = 0 then kdel m (64 * i + j) else kset m (64 * i + j) (BitVec.ofNat 4 (r.bad.getD j 0))) x.bad
    scales := if r.scale = 0 then kdel x.scales i else kset x.scales i (BitVec.ofNat 64 r.scale)
    mask := putBits x.mask i 1 (b2n masked) }

/-- Number of the 64-byte rows that [a, a + n) meets. -/
def rowSpan (a n : Nat) : Nat := (a + n - 1) / 64 + 1 - a / 64

/-- Record reads of scale bytes [a, a + n) in cycle t, which take an access unit only with `unit` (06 R175, 04 R115,
R116). DESIGN CHOICE (log 109): the streaming port's reads of scales take their bank and no unit. -/
def State.scaleAccess (s : State) (c t a n : Nat) (unit : Bool) : State :=
  (List.range (rowSpan a n)).foldl (fun s j =>
    s.access c t (spadBank (64 * (a / 64 + j)) + (if unit then 0 else unitless))) s

/-- Accesses to the scratchpad rows of [a, a + n), all in cycle t. -/
def State.accessAll (s : State) (c t a n : Nat) : State :=
  (List.range (rowSpan a n)).foldl (fun s j => s.access c t (spadBank (64 * (a / 64 + j)))) s

/-- Scratchpad bytes of a port's read in cycle t, counted and reported (07 R185, R187). -/
def State.portFetch (s : State) (c h t a n : Nat) : State × Fetched :=
  let view := (s.core c).settle t
  let r := view.spadBytes .spad view.spad a n
  let s := s.modCore c (fun k => k.noteErrs view .spad a n r.2)
  (if r.2.isEmpty then s else s.raiseAsyncAt c 0x0A (trapInfo 2 h 2) t, r)

/-- The same for a stratum (07 R187, R188, R195). -/
def State.stratRead (s : State) (c a n : Nat) : State × Fetched :=
  let k := s.core c
  let r := k.spadBytes .strat k.strat a n
  let s := s.modCore c (fun k' => k'.noteErrs k .strat a n r.2)
  (if r.2.isEmpty then s else s.endDueOf c, r)

/-- Whether element e of width w of a fetched row meets a bad word. -/
def elBad (bad : List Nat) (w e : Nat) : Bool :=
  bad.any (fun o => decide (o ≤ (e * w + w - 1) / 8) && decide (e * w / 8 ≤ o))

/-- Two scale bytes, those of bad words taken as 0xFF (07 R187). -/
def scalePair (r : Fetched) : Nat × Nat :=
  let at_ := fun j => if r.2.contains j then 0xFF else (r.1.getD j 0).toNat
  (at_ 0, at_ 1)

/-- The chunks of cs from chunk k0 that lie within K: only elements 0 to K − 1 of a row are used (06 R170). -/
def TileP.used (p : TileP) (k0 cs : Nat) : Nat := min cs (p.k / 64 - k0)

/-- The element values of one stationary row: cs chunks of 64 elements from chunk k0, placed in lanes (R110). The row is
read in cycle t, without a recorded access where `quiet` (R120). A row of more than 64 bytes takes both units of the
stationary port, so its scales take none; one of at most 64 bytes whose bytes lie in two rows takes a unit for each
(06 R175). DESIGN CHOICE (log 146). The scale registers of a format that has no scales are loaded with zeros. DESIGN CHOICE (log 147). -/
def State.loadRow (s : State) (c : Nat) (o : Operand) (p : TileP) (row k0 cs t : Nat) (quiet : Bool) :
    State × RowLoad :=
  let cs := p.used k0 cs
  let w := codeWidth p.sf
  let lw := 16 / p.lanes
  let n := 64 * cs
  let a := o.addr row (64 * k0)
  let q := s.portFetch c o.h.toNat t a (n * w / 8)
  let s := if quiet then q.1 else q.1.accessAll c t a (n * w / 8)
  let el := fun e => unpackAt w e q.2.1
  let lanes := List.range cs
  let cells := (List.range 64).map (fun j => lanes.foldl (fun acc u => acc + el (64 * u + j) * 2 ^ (lw * u)) 0)
  let bad := (List.range 64).map (fun j =>
    lanes.foldl (fun acc u => acc + (if elBad q.2.2 w (64 * u + j) then 2 ^ u else 0)) 0)
  if isMx p.sf then
    let sa := o.scaleAddr row (64 * k0)
    let s := if quiet then s else s.scaleAccess c t sa (2 * cs) (decide (rowSpan a (n * w / 8) < 2))
    let r := lanes.foldl (fun (x : State × Nat) u =>
      let y := x.1.portFetch c o.h.toNat t (o.scaleAddr row (64 * (k0 + u))) 2
      let z := scalePair y.2
      (y.1, x.2 + (z.1 + 256 * z.2) * 2 ^ (16 * u))) (s, 0)
    (r.1, { cells := cells, bad := bad, scale := r.2 })
  else (s, { cells := cells, bad := bad, scale := 0 })

/-- A row injected as zeros (R117). DEDUCED (log 63). -/
def RowLoad.zero : RowLoad := { cells := [], bad := [], scale := 0 }

/-- The injection of physical row r in cycle t (R116, R117); `m0` is the stationary index of row 0. A mapped-out row and a
spare that is not in use take zeros, which no product meets (R26). -/
def State.injectRow (s : State) (c : Nat) (o : Operand) (p : TileP) (m0 k0 cs r t : Nat) (masked : Nat → Bool)
    (quiet : Bool) : State :=
  match logicalRow (s.rowsOut c) r with
  | none => s
  | some i =>
    if masked i then s.modCore c (fun k => { k with arr := k.arr.modShadow t (fun x => x.setRow i RowLoad.zero true) })
    else
      let q := s.loadRow c o p (m0 + i) k0 cs t quiet
      q.1.modCore c (fun k => { k with arr := k.arr.modShadow t (fun x => x.setRow i q.2 false) })

/-- The injections from physical row n − 1 down of a background load whose first injection is in cycle `l`: physical row r
is injected in cycle l + 65 − r. Those after cycle `upto` fall into stall cycles, so they find the memory as it
stands and record no access (R120). -/
def State.injectRows (s : State) (c : Nat) (o : Operand) (p : TileP) (m0 k0 cs l : Nat) (masked : Nat → Bool)
    (upto : Nat) : Nat → State
  | 0 => s
  | r + 1 =>
    let t := l + 65 - r
    (s.injectRow c o p m0 k0 cs r (min t (upto + 1)) masked (decide (t > upto))).injectRows c o p m0 k0 cs l masked upto r

/-! Sub-vectors (R108, R111, R115) -/

/-- The exact value of lane u of a stationary cell, with the row's scale; none of a bad lane is finite (R79, R110). -/
def Stationary.val (x : Stationary) (p : TileP) (i j u : Nat) (cell : BitVec 16) : Val :=
  let lw := 16 / p.lanes
  if bitOf (kget 0 x.bad (64 * i + j)) u then .nan
  else
    let b := bits cell (lw * u) lw
    match fmtOf p.sf with
    | none => .nan
    | some f => if isMx p.sf then mxVal f (bits (kget 0 x.scales i) (8 * (2 * u + j / 32)) 8) b else decodeEl f b

/-- The 64 values of a sub-vector: chunk `ch` of streaming column n, read in cycle t (R108, R115). DESIGN CHOICE (log 148): the bytes
are those that the source holds in the cycle of its entry. -/
def State.subVector (s : State) (c : Nat) (o : Operand) (p : TileP) (n ch t : Nat) : State × List Val :=
  let w := codeWidth p.tf
  let a := o.addr n (64 * ch)
  let strat := Desc.space o.d == 1
  let q := if strat then s.stratRead c a (8 * w) else s.portFetch c o.h.toNat t a (8 * w)
  let bare := (List.range 64).map (fun e => (elBad q.2.2 w e, unpackAt w e q.2.1))
  let f := (fmtOf p.tf).getD .e4m3
  if isMx p.tf then
    let sa := o.scaleAddr n (64 * ch)
    let y := if strat then q.1.stratRead c sa 2 else q.1.portFetch c o.h.toNat t sa 2
    let z := scalePair y.2
    (y.1, (List.range 64).map (fun e =>
      let x := bare.getD e (false, 0)
      if x.1 then .nan else mxVal f (if e < 32 then z.1 else z.2) x.2))
  else (q.1, bare.map (fun x => if x.1 then .nan else decodeEl f x.2))

/-- The accesses of one group that enters in cycle t. From a stratum the element lane's bytes take the weight read path, 64 bytes a
cycle, and in QUARTER mode for each of the four cycles in which a sub-vector passes the lane (R114; 07 R195). From scratchpad
each 64-byte row is read once, and by the scale lane each row of the group's scale bytes once (R115). DESIGN CHOICE (log 148):
all in cycle t, and a sub-vector of 48 bytes that lies in two rows reads both. -/
def State.streamAccess (s : State) (c : Nat) (o : Operand) (p : TileP) (n t : Nat) (chs : List Nat) : State :=
  let w := codeWidth p.tf
  if Desc.space o.d == 1 then (List.range p.step).foldl (fun s j => s.access c (t + j) weightPath) s
  else
    let rows := fun (a n : Nat) => (List.range (rowSpan a n)).map (fun j => a / 64 + j)
    let els := chs.flatMap (fun ch => rows (o.addr n (64 * ch)) (8 * w))
    let scs := if isMx p.tf then chs.flatMap (fun ch => rows (o.scaleAddr n (64 * ch)) 2) else []
    let s := els.eraseDups.foldl (fun s r => s.access c t (spadBank (64 * r))) s
    scs.eraseDups.foldl (fun s r => s.access c t (spadBank (64 * r) + unitless)) s

/-- Add one sub-vector to the bushel of row i: the products of lane u, none of a masked row (R111, R127). -/
def Bushel.addRow (b : Bushel) (x : Stationary) (p : TileP) (i u : Nat) (cells : List (Nat × BitVec 16))
    (sv : List Val) : Bushel :=
  let b := if sv.any Val.bad then { b with nv := true } else b
  let bad := x.bad.any (fun q => q.1 / 64 == i && bitOf q.2 u)
  let scaleBad := isMx p.sf && ((bits (kget 0 x.scales i) (16 * u) 8 == 0xFF) || (bits (kget 0 x.scales i) (16 * u + 8) 8 == 0xFF))
  let b := if bad || scaleBad then { b with nv := true } else b
  cells.foldl (fun b q =>
    let v := (x.val p i q.1 u q.2).mul (sv.getD q.1 .nan)
    if v.bad then { b with nv := true } else b.contribute p.wb v) b

/-- A column in its place by the cycle in which it becomes available. -/
def colInsert (x : Column) : List Column → List Column
  | [] => [x]
  | y :: ys => if y.avail ≤ x.avail then y :: colInsert x ys else x :: y :: ys

/-- Enter a group of sub-vectors in cycle e (R108 to R112, R126, R127). A conversion reads each entry's window, so its OVF
stays in the entry (03 R83). DESIGN CHOICE (log 113): the rows masked are those masked at the load of the copy in use. -/
def State.enterGroup (s : State) (c : Nat) (o : MatOp) (p : TileP) (st : SetP) (grp e : Nat) : State :=
  let gq := p.groups st.cs
  let col := st.col0 + grp / gq
  let u0 := grp % gq
  let us := (if p.double then (if 2 * u0 + 1 < st.cs then [2 * u0, 2 * u0 + 1] else [2 * u0]) else [u0]).filter
    (fun u => decide (u < p.used st.k0 st.cs))
  let s := if us.isEmpty then s else s.streamAccess c o.td p col e (us.map (fun u => st.k0 + u))
  let r := us.foldl (fun (x : State × List (Nat × List Val)) u =>
    let y := x.1.subVector c o.td p col (st.k0 + u) e
    (y.1, x.2 ++ [(u, y.2)])) (s, [])
  let s := r.1
  let k := s.core c
  let x := k.arr.activeAt e
  let live := (List.range p.rows).filter (fun i => !bitOf x.mask i)
  let clear := o.start && st.fst && u0 == 0
  let acc := live.foldl (fun m i =>
    let key := 64 * i + col % 64
    let ent := kget AccEntry.blank m key
    let cells := (x.cells.filter (fun q => q.1 / 64 == i)).map (fun q => (q.1 % 64, q.2))
    let b := if clear then Bushel.zero else ent.b
    kset m key { ent with b := r.2.foldl (fun b sv => b.addRow x p i sv.1 cells sv.2) b }) k.arr.acc
  let done := st.lst && u0 + 1 == gq && o.final
  let acc := if done then live.foldl (fun m i => kmod AccEntry.blank m (64 * i + col % 64) (fun e => { e with b := e.b.read })) acc else acc
  let column : Column :=
    { wait := false, avail := e + p.colLat, fmt := BitVec.ofNat 4 p.of, wbase := p.wb, sat := p.sat, outv := o.outv,
      vals := (List.range p.rows).map (fun i => if live.contains i then some (kget AccEntry.blank acc (64 * i + col % 64)).b else none),
      n := col, first := 64 * st.g, od := o.od, epoch := o.epoch }
  s.setCore c { k with arr := { k.arr with
    acc := acc
    columns := if done then colInsert column k.arr.columns else k.arr.columns } }

/-! Events of the jobs in the order of their cycles -/

/-- The entries that an operation names (R124, R125): rows below min(M, 64), slots below min(N, 64). -/
def MatOp.names (o : MatOp) (p : TileP) : List Nat :=
  (List.range p.rows).flatMap (fun i => (List.range (min o.n 64)).map (fun j => 64 * i + j))

/-- The cycle of a job's next event. DESIGN CHOICE (log 110): a tile that does no work sets NV in the cycle of its first
sub-vector's entry. DESIGN CHOICE (log 64): in QUARTER mode groups enter 4 cc apart from w + 1. -/
def Job.next (j : Job) (p : TileP) : Nat :=
  if j.mark then j.w + 1
  else
    match j.phase with
    | 0 => j.load + j.grp
    | 1 => j.w
    | _ => j.w + 1 + j.grp * p.step

/-- Rows masked at a load: by MV and M for a tile (R126), by MASKREG and M for an SLOAD (R130). -/
def MatOp.masked (o : MatOp) (p : TileP) (g i : Nat) : Bool :=
  if o.kind = .tile then decide (64 * g + i ≥ p.mv) || decide (i ≥ p.m) else bitOf o.mask i || decide (i ≥ p.m)

/-- What remains of a job whose load is complete: nothing of an SLOAD, else the wait for its SWAP. -/
def Job.loaded (j : Job) : List Job := if j.op.kind = .sload then [] else [{ j with phase := 1, grp := 0 }]

/-- The injection of a job's next physical row, or, with `upto`, of all that remain, those after that cycle in stall
cycles (R120); and what remains of the job. -/
def State.runLoad (s : State) (c : Nat) (j : Job) (p : TileP) (upto : Option Nat) : State × List Job :=
  let o := j.op
  let st := o.setAt p j.set
  let cs := if o.kind = .sload then o.cs else st.cs
  let r := 65 - j.grp
  let s :=
    match upto with
    | none => s.injectRow c o.sd p (64 * st.g) st.k0 cs r (j.load + j.grp) (o.masked p st.g) false
    | some u => s.injectRows c o.sd p (64 * st.g) st.k0 cs j.load (o.masked p st.g) u (r + 1)
  let s := s.modCore c (fun k => { k with arr := { k.arr with loadStart := some j.load } })
  (s, if upto.isNone && j.grp < 65 then [{ j with grp := j.grp + 1 }] else j.loaded)

/-- Put what remains of a job in its place. -/
def putJob (js : List Job) (j : Job) (rest : List Job) : List Job := js.flatMap (fun x => if x = j then rest else [x])

/-- Complete every background load that has begun by cycle w, its remaining injections falling into stall cycles
(R120). DEDUCED (log 23). -/
def State.landLoads (s : State) (c w : Nat) : Nat → State
  | 0 => s
  | f + 1 =>
    match (s.core c).arr.jobs.find? (fun j => !j.mark && j.phase == 0 && decide (j.load ≤ w)) with
    | none => s
    | some j =>
      match tileOf j.op.tp with
      | none => s
      | some p =>
        let r := s.runLoad c j p (some w)
        (r.1.modCore c (fun k => { k with arr := { k.arr with jobs := putJob k.arr.jobs j r.2 } })).landLoads c w f

/-- Whether a job has a background load still to come or in progress. -/
def Job.loadsToCome (j : Job) (p : TileP) : Bool :=
  !j.mark && (j.phase == 0 || (j.phase == 1 && decide (j.set + 1 < j.op.setCount p)))

/-- A SWAP in cycle w inverts the pointer (R118). Where the latest background load began less than 66 cc before, the
module stalls until that load is complete, its remaining injections are made in the stall cycles, and the core raises a
schedule violation (R119, R120). DESIGN CHOICE (log 111): this holds of the SWAPs of a tile's sequencer too, which only an
SLOAD under the tile can bring too early. -/
def State.swapAt (s : State) (c w : Nat) : State :=
  let s := s.landLoads c w (s.core c).arr.jobs.length
  let late := match (s.core c).arr.loadStart with | some l => l + 66 - w | none => 0
  let s := if late > 0 then (s.violation c).stallAt c w late else s
  s.modCore c (fun k =>
    let more := k.arr.jobs.any (fun j => match tileOf j.op.tp with | some p => j.loadsToCome p | none => false)
    { k with arr := { k.arr with
      ptr := !k.arr.ptr
      swaps := w :: k.arr.swaps.take 7
      loadStart := if late > 0 then none else k.arr.loadStart
      injFree := if late > 0 && !more then min k.arr.injFree (w + 1) else k.arr.injFree } })

/-- Run a job's next event; what remains of the job. From a tile's SWAP on, the set streams while the next set's load
fills the shadow copy (R118, R128). -/
def State.runJob (s : State) (c : Nat) (j : Job) (p : TileP) : State × List Job :=
  let o := j.op
  if j.mark then
    (s.modCore c (fun k => { k with arr := { k.arr with
      acc := (o.names p).foldl (fun m i => kmod AccEntry.blank m i (fun e => { e with b := { e.b with nv := true } })) k.arr.acc } }), [])
  else
    let st := o.setAt p j.set
    match j.phase with
    | 0 => s.runLoad c j p none
    | 1 =>
      let stream := { j with phase := 2, grp := 0 }
      (s.swapAt c j.w,
        if j.set + 1 < o.setCount p then
          [stream, { j with set := j.set + 1, phase := 0, grp := 0, load := j.w + 1, w := j.w + max (o.setT p j.set) 67 }]
        else [stream])
    | _ =>
      let s := s.enterGroup c o p st j.grp (j.w + 1 + j.grp * p.step)
      (s, if j.grp + 1 < st.nb * p.groups st.cs then [{ j with grp := j.grp + 1 }] else [])

/-- The scratchpad ranges, element bytes and scale bytes, that a job's next event reads (R115, R116). -/
def State.jobReads (s : State) (c : Nat) (j : Job) (p : TileP) : List (Nat × Nat) :=
  let o := j.op
  let st := o.setAt p j.set
  let w := codeWidth
  let both := fun (x : Operand) (f row e m : Nat) =>
    let n := min m (p.k - e)
    (x.addr row e, n * w f / 8) :: (if isMx f then [(x.scaleAddr row e, n / 32)] else [])
  if j.mark then []
  else
    match j.phase with
    | 0 =>
      match logicalRow (s.rowsOut c) (65 - j.grp) with
      | none => []
      | some i =>
        if o.masked p st.g i then []
        else both o.sd p.sf (64 * st.g + i) (64 * st.k0) (64 * (if o.kind = .sload then o.cs else st.cs))
    | 1 => []
    | _ =>
      if Desc.space o.td.d == 1 then []
      else
        let gq := p.groups st.cs
        let u0 := j.grp % gq
        let us := if p.double then (if 2 * u0 + 1 < st.cs then [2 * u0, 2 * u0 + 1] else [2 * u0]) else [u0]
        us.flatMap (fun u => both o.td p.tf (st.col0 + j.grp / gq) (64 * (st.k0 + u)) 64)

/-- The grain that a job's next event waits for. -/
def State.jobLate (s : State) (c : Nat) (j : Job) (p : TileP) : Option (Nat × Nat × Nat) :=
  (s.jobReads c j p).findSome? (fun r => s.lateRow c (j.next p) r.1 r.2)

/-- The job whose next event comes first; of equal ones the earlier job. -/
def firstJob : List Job → Option (Nat × Job × TileP)
  | [] => none
  | j :: js =>
    match tileOf j.op.tp with
    | none => firstJob js
    | some p =>
      match firstJob js with
      | none => some (j.next p, j, p)
      | some x => if j.next p ≤ x.1 then some (j.next p, j, p) else some x

/-- Run the jobs' events up to and including cycle t, or until one waits for a grain (02 R40); with `col`, only until a result
column has formed. -/
def State.advance (s : State) (c : Nat) (t : Nat) (col : Bool) : Nat → State
  | 0 => s
  | f + 1 =>
    let k := s.core c
    if col && !k.arr.columns.isEmpty then s
    else
      match firstJob k.arr.jobs with
      | none => s
      | some x =>
        if x.1 > t then s
        else
          match s.jobLate c x.2.1 x.2.2 with
          | some g => s.await c g
          | none =>
          let r := s.runJob c x.2.1 x.2.2
          (r.1.modCore c (fun k => { k with arr := { k.arr with jobs := putJob k.arr.jobs x.2.1 r.2 } })).advance c t col f

/-- A bound on the events that remain. -/
def Core.jobFuel (k : Core) : Nat :=
  (k.arr.jobs.map (fun j =>
    match tileOf j.op.tp with
    | some p => (67 + 64 * 16) * j.op.setCount p + 2
    | none => 1)).foldl (· + ·) 0

/-- The array of core c as of cycle t. -/
def State.arrayAt (s : State) (c t : Nat) : State := s.advance c t false (s.core c).jobFuel

end Sys2Proof.Machine
end

