-- ==== Sys2Proof/Machine/Banks.lean ====
section
/-!
DEFINITION. The four vector accumulation banks of a core: effects in their order and samples (06 R180, R181).
-/

namespace Sys2Proof.Machine

/-- Bank b of a core. -/
def Core.bank (k : Core) (b : Nat) : Bank := kget Bank.blank k.banks b

/-- Order of effects within one cycle: contributions, the write of a VACSUM, then clears (R180). -/
def BankAct.cls : BankAct → Nat
  | .add _ => 0
  | .partials _ => 0
  | .vacsumWrite _ => 1
  | .clear _ => 3
  | .clearKeep => 3

/-- Insert an effect after every effect that does not come later. -/
def effInsert (x : BankEff) : List BankEff → List BankEff
  | [] => [x]
  | y :: ys =>
    if y.cyc < x.cyc || (y.cyc == x.cyc && decide (y.act.cls ≤ x.act.cls)) then y :: effInsert x ys else x :: y :: ys

/-- Put an effect on a bank in cycle `cyc`. -/
def Core.bankAt (k : Core) (b cyc : Nat) (a : BankAct) : Core :=
  { k with bankQ := effInsert { bank := b, cyc := cyc, act := a } k.bankQ }

/-- Number of VACSUM writes of bank b outstanding in a queue of effects. -/
def gens (q : List BankEff) (b : Nat) : Nat :=
  (q.filter (fun x => x.bank == b && x.act.cls == 1)).length

/-- Two bushels of one lane taken together: exact sums, flags ORed. -/
def Bushel.join (a b : Bushel) : Bushel :=
  { s := wrap192 (a.s + b.s), ovf := a.ovf || b.ovf, loss := a.loss || b.loss, nv := a.nv || b.nv }

/-- Lane j of a bank. -/
def Bank.lane (x : Bank) (j : Nat) : Bushel :=
  x.lanes.foldl (fun acc p => if p.1 % 64 = j then acc.join p.2 else acc) Bushel.zero

/-- Change the newest part of lane j, with g VACSUM writes outstanding. -/
def Bank.modLane (x : Bank) (g j : Nat) (f : Bushel → Bushel) : Bank :=
  { x with lanes := kset x.lanes (j + 64 * g) (f (kget Bushel.zero x.lanes (j + 64 * g))) }

/-- Set NV in lanes. -/
def Bank.setNv (x : Bank) (g : Nat) (js : List Nat) : Bank :=
  js.foldl (fun x j => x.modLane g j (fun b => { b with nv := true })) x

/-- The exact value of a contribution. -/
def contribVal : Option (Bool × Nat × Int) → Val
  | none => .nan
  | some c => .fin c.1 c.2.1 c.2.2

/-- A value as a contribution. -/
def valContrib : Val → Option (Bool × Nat × Int)
  | .fin n m e => some (n, m, e)
  | _ => none

/-- One effect on a bank, g VACSUM writes being outstanding after it; whether it met a bank with no record, which adds
nothing, sets NV and is a schedule violation (R180). -/
def Bank.apply (x : Bank) (g : Nat) (a : BankAct) : Bank × Bool :=
  match a with
  | .add cs =>
    match x.wbase with
    | none => (x.setNv g (cs.map (fun c => c.1)), !cs.isEmpty)
    | some w => (cs.foldl (fun x c => x.modLane g c.1 (fun b => b.contribute w (contribVal c.2))) x, false)
  | .partials cs =>
    match x.wbase with
    | none => (x.setNv g (cs.map (fun c => c.1)), !cs.isEmpty)
    | some _ =>
      (cs.foldl (fun x c => x.modLane g c.1 (fun b => b.addPartial c.2.1 c.2.2.1 c.2.2.2.1 c.2.2.2.2)) x, false)
  | .vacsumWrite sum =>
    let later := (x.lanes.filter (fun p => decide (p.1 ≥ 64))).map (fun p => (p.1 - 64, p.2))
    match x.wbase with
    | none =>
      let old := x.lanes.filter (fun p => decide (p.1 < 64))
      let y : Bank := { x with lanes := old.foldl (fun m p => kset m p.1 (p.2.join (kget Bushel.zero m p.1))) later }
      (y.setNv 0 [0], true)
    | some _ => (({ x with lanes := later } : Bank).modLane 0 0 (fun b => sum.join b), false)
  | .clear w => ({ wbase := some w, lanes := [] }, false)
  | .clearKeep => ({ x with lanes := [] }, false)

/-- Apply the effects of a queue that come before the samples of cycle t; the core and the number of violations. -/
def Core.bankGo (k : Core) (t : Nat) : List BankEff → Core × Nat
  | [] => ({ k with bankQ := [] }, 0)
  | e :: es =>
    if e.cyc < t || (e.cyc == t && decide (e.act.cls ≤ 1)) then
      let r := (k.bank e.bank).apply (gens es e.bank) e.act
      let q := ({ k with banks := kset k.banks e.bank r.1 } : Core).bankGo t es
      (q.1, q.2 + b2n r.2)
    else ({ k with bankQ := e :: es }, 0)

/-- The banks of core c as a sample of cycle t finds them (R180, R181). -/
def State.bankRun (s : State) (c t : Nat) : State :=
  let r := (s.core c).bankGo t (s.core c).bankQ
  (s.setCore c r.1).violations c r.2

/-- A read of a bank sets OVF in the lanes that lie outside the window (03 R83). -/
def Core.bankRead (k : Core) (b : Nat) : Core :=
  let g := gens k.bankQ b
  let y := (List.range 64).foldl (fun y j =>
    if (clampWin ((k.bank b).lane j).s).2 then y.modLane g j (fun b => { b with ovf := true }) else y) (k.bank b)
  { k with banks := kset k.banks b y }

/-- The lanes of a bank in order. -/
def Core.bankLanes (k : Core) (b : Nat) : List Bushel := (List.range 64).map (fun j => (k.bank b).lane j)

/-- The sum of lanes, each window value added as a partial (03 R93, 06 R181). -/
def laneSum (xs : List Bushel) : Bushel :=
  xs.foldl (fun acc b => acc.addPartial b.window b.read.ovf b.loss b.nv) Bushel.zero

end Sys2Proof.Machine
end

