-- ==== Sys2Proof/Machine/Flags.lean ====
section
/-!
DEFINITION. The numeric status flags: how bushel flags reach NSTAT (03 R86, 05 R156).
-/

namespace Sys2Proof.Machine

/-- The flags of bushels that are converted together, ORed: OVF, LOSS, NV in bits 0 to 2 (R83, R86). -/
def flagsOr (xs : List Bushel) : BitVec 3 := xs.foldl (fun acc b => acc ||| BitVec.ofNat 3 b.flags) 0

/-- The same for a result column, whose masked rows are none. -/
def flagsOrSome (xs : List (Option Bushel)) : BitVec 3 := flagsOr (xs.filterMap id)

/-- Set flags in NSTAT as cycle `cyc` begins. As the latest issue of that cycle it wins over a clear that becomes visible
in the same cycle (00 R13). -/
def Core.nstatAt (k : Core) (cyc : Nat) (v : BitVec 3) : Core :=
  if v = 0 then k
  else { k with pendW := pendInsert { cyc := cyc, issued := cyc, late := true, tgt := .nstat v } k.pendW }

/-- Schedule-violation events in the ell that is issuing are posted when it closes. -/
def Core.ellViolations (k : Core) (n : Nat) : Core := k.modEll (fun l => { l with viols := l.viols + n })

end Sys2Proof.Machine
end

