-- ==== Sys2Proof/Machine/VecMath.lean ====
section
/-!
DEFINITION. Element arithmetic of the vector unit: IEEE operations rounded once (03 R95, R98) and the correctly rounded
functions of R97 and R100. A function whose exact value is irrational is enclosed between two fractions that are
rounded both; the enclosure is narrowed until the two agree (log 13).
-/

namespace Sys2Proof.Machine

/-! IEEE operations -/

/-- Round an exact value to the operation's format: overflow gives infinity (R95). -/
def rnd (f : Fmt) (v : Val) : Nat := roundVal f false v

def elAdd (f : Fmt) (a b : Nat) : Nat := rnd f ((decodeEl f a).add (decodeEl f b))

def elSub (f : Fmt) (a b : Nat) : Nat := rnd f ((decodeEl f a).add (decodeEl f b).neg)

def elMul (f : Fmt) (a b : Nat) : Nat := rnd f ((decodeEl f a).mul (decodeEl f b))

/-- a × b + c with one rounding. -/
def elFma (f : Fmt) (a b c : Nat) : Nat := rnd f (((decodeEl f a).mul (decodeEl f b)).add (decodeEl f c))

/-- Quotient of two values rounded once (R95). -/
def divVal (f : Fmt) (a b : Val) : Nat :=
  match a, b with
  | .nan, _ => rnd f .nan
  | _, .nan => rnd f .nan
  | .inf _, .inf _ => rnd f .nan
  | .inf n, .fin m _ _ => rnd f (.inf (n != m))
  | .fin n _ _, .inf m => rnd f (.fin (n != m) 0 0)
  | .fin n1 m1 e1, .fin n2 m2 e2 =>
    if m2 = 0 then (if m1 = 0 then rnd f .nan else rnd f (.inf (n1 != n2)))
    else signed f (n1 != n2) (roundMagE f false m1 m2 (e1 - e2))

def elDiv (f : Fmt) (a b : Nat) : Nat := divVal f (decodeEl f a) (decodeEl f b)

/-- Whether a value is NaN. -/
def Val.isNan : Val → Bool
  | .nan => true
  | _ => false

/-- Order in which −0 lies below +0 (06 VMIN, VMAX). -/
def Val.below (a b : Val) : Bool :=
  let c := a.cmp b
  decide (c < 0) ||
    (decide (c = 0) &&
      match a, b with
      | .fin n _ _, .fin m _ _ => n && !m
      | _, _ => false)

/-- NaN if either operand is NaN (06 VMIN). -/
def elMin (f : Fmt) (a b : Nat) : Nat :=
  let x := decodeEl f a
  let y := decodeEl f b
  if x.isNan || y.isNan then rnd f .nan else if x.below y then a else b

def elMax (f : Fmt) (a b : Nat) : Nat :=
  let x := decodeEl f a
  let y := decodeEl f b
  if x.isNan || y.isNan then rnd f .nan else if x.below y then b else a

/-- The VCMP conditions: with a NaN, only NE and UNORD hold (06 R179). -/
def elCmp (f : Fmt) (cond : Nat) (a b : Nat) : Bool :=
  let x := decodeEl f a
  let y := decodeEl f b
  if x.isNan || y.isNan then cond == 1 || cond == 6
  else
    let c := x.cmp y
    match cond with
    | 0 => decide (c = 0)
    | 1 => decide (c ≠ 0)
    | 2 => decide (c < 0)
    | 3 => decide (c ≤ 0)
    | 4 => decide (c > 0)
    | 5 => decide (c ≥ 0)
    | _ => false

/-- Whether element b ranks above element a: NaN lowest, both zeros equal (R106). -/
def elRanksAbove (f : Fmt) (b a : Nat) : Bool :=
  let x := decodeEl f a
  let y := decodeEl f b
  if y.isNan then false else if x.isNan then true else decide (x.cmp y < 0)

/-! Enclosures. A value in [lo, hi] is held as two integers at scale 2^−P. -/

/-- An enclosure of a positive value: lo.1 / lo.2 ≤ v · 2^−e ≤ hi.1 / hi.2. -/
structure Encl where
  loN : Nat
  loD : Nat
  hiN : Nat
  hiD : Nat
  e   : Int
deriving DecidableEq, Repr

/-- Narrow an enclosure, doubling the precision, until both ends round alike. -/
def settle (f : Fmt) (g : Nat → Encl) : Nat → Nat → Nat
  | 0, p => let x := g p; roundMagE f false x.loN x.loD x.e
  | n + 1, p =>
    let x := g p
    let a := roundMagE f false x.loN x.loD x.e
    if a = roundMagE f false x.hiN x.hiD x.e then a else settle f g n (2 * p)

/-- Upward division. -/
def cdiv (n d : Nat) : Nat := (n + d - 1) / d

/-- m · 2^e at scale 2^−p, rounded down and up. -/
def fixLo (p : Nat) (m : Nat) (e : Int) : Nat := m * 2 ^ (e + p).toNat / 2 ^ (-(e + p)).toNat
def fixHi (p : Nat) (m : Nat) (e : Int) : Nat := cdiv (m * 2 ^ (e + p).toNat) (2 ^ (-(e + p)).toNat)

/-- A series of positive terms t₀ = 1, t_{k+1} = t_k · y · a k / b k: the sums of n terms at scale 2^−p, from below and
from above, and the last term from above. -/
def seriesGo (p ylo yhi : Nat) (a b : Nat → Nat) : Nat → Nat → Nat → Nat → Nat → Nat → Nat × Nat × Nat
  | 0, _, _, thi, slo, shi => (slo, shi, thi)
  | n + 1, k, tlo, thi, slo, shi =>
    let tlo' := tlo * ylo * a k / (2 ^ p * b k)
    let thi' := cdiv (thi * yhi * a k) (2 ^ p * b k)
    seriesGo p ylo yhi a b n (k + 1) tlo' thi' (slo + tlo') (shi + thi')

/-- The sum of a series whose ratio falls below one half within the n terms: the rest is at most the last term. -/
def series (p ylo yhi : Nat) (a b : Nat → Nat) (n : Nat) : Nat × Nat :=
  let r := seriesGo p ylo yhi a b n 0 (2 ^ p) (2 ^ p) (2 ^ p) (2 ^ p)
  (r.1, r.2.1 + r.2.2 + 1)

/-- e^t for t at scale 2^−p. -/
def expIv (p tlo thi : Nat) : Nat × Nat := series p tlo thi (fun _ => 1) (fun k => k + 1) (p + 400)

/-- 2 · atanh(n / d) for 3n ≤ d, at scale 2^−p: 2z·Σ z^2k / (2k + 1). -/
def atanh2Iv (p n d : Nat) : Nat × Nat :=
  let y := n * n
  let ylo := y * 2 ^ p / (d * d)
  let yhi := cdiv (y * 2 ^ p) (d * d)
  let r := series p ylo yhi (fun k => 2 * k + 1) (fun k => 2 * k + 3) p
  (2 * n * r.1 / d, cdiv (2 * n * r.2) d)

/-- ln 2 at scale 2^−p. -/
def ln2Iv (p : Nat) : Nat × Nat := atanh2Iv p 1 3

/-- Σ (−1)^k / ((2k + 1) n^(2k+1)) at scale 2^−p, within the number of terms of the exact value. -/
def atanInvGo (n2 : Nat) : Nat → Nat → Nat → Bool → Int → Int
  | 0, _, _, _, s => s
  | m + 1, t, k, neg, s =>
    let x : Int := ((t / (2 * k + 1) : Nat) : Int)
    atanInvGo n2 m (t / n2) (k + 1) (!neg) (if neg then s - x else s + x)

/-- π at scale 2^−p by Machin's formula. -/
def piIv (p : Nat) : Nat × Nat :=
  let q := p + 16
  let a := atanInvGo 25 q (2 ^ q / 5) 0 false 0
  let b := atanInvGo 57121 q (2 ^ q / 239) 0 false 0
  let v := 16 * a - 4 * b
  let err : Int := 80 * (q + 2 : Nat)
  ((v - err).toNat / 2 ^ 16, (v + err).toNat / 2 ^ 16 + 1)

/-- Integer square root, bit by bit from bit n − 1 down. -/
def isqrtGo (v : Nat) : Nat → Nat → Nat
  | 0, r => r
  | n + 1, r =>
    let c := r + 2 ^ n
    if c * c ≤ v then isqrtGo v n c else isqrtGo v n r

/-- floor(√v). -/
def isqrt (v : Nat) : Nat := isqrtGo v (Nat.log2 v / 2 + 1) 0

/-! The functions of R97 on finite non-zero arguments -/

/-- √(m · 2^e), rounded once: an inexact root carries a sticky bit below a root of at least 2p bits. -/
def sqrtMag (f : Fmt) (m : Nat) (e : Int) : Nat :=
  let sh : Nat := 200 + (e % 2).toNat
  let v := m * 2 ^ sh
  let r := isqrt v
  let x := (e - sh) / 2
  if r * r = v then roundMagE f false r 1 x else roundMagE f false (2 * r + 1) 1 (x - 1)

/-- 1 / √(m · 2^e), rounded once in the same way. -/
def rsqrtMag (f : Fmt) (m : Nat) (e : Int) : Nat :=
  let k : Nat := 300 + (e % 2).toNat
  let v := 2 ^ k / m
  let r := isqrt v
  let x := (-(e + k)) / 2
  if r * r = v && v * m = 2 ^ k then roundMagE f false r 1 x else roundMagE f false (2 * r + 1) 1 (x - 1)

/-- 2^x for finite x: exact for an integer x, else 2^n · e^(f ln 2) with n = floor x. -/
def exp2Mag (f : Fmt) (neg : Bool) (m : Nat) (e : Int) : Nat :=
  let whole := decide (m % 2 ^ (-e).toNat = 0)
  let fl : Nat := m * 2 ^ e.toNat / 2 ^ (-e).toNat
  if fl ≥ 512 then (if neg then 0 else f.infMag.getD 0)
  else if whole then roundMagE f false 1 1 (if neg then -(fl : Int) else fl)
  else
    let n : Int := if neg then -(fl : Int) - 1 else fl
    settle f (fun p =>
      let t := ln2Iv p
      let lo := fixLo p m e
      let hi := fixHi p m e
      let flo := if neg then (fl + 1) * 2 ^ p - hi else lo - fl * 2 ^ p
      let fhi := if neg then (fl + 1) * 2 ^ p - lo else hi - fl * 2 ^ p
      let r := expIv p (flo * t.1 / 2 ^ p) (cdiv (fhi * t.2) (2 ^ p))
      { loN := r.1, loD := 1, hiN := r.2, hiD := 1, e := n - p }) 5 64

/-- log2 of a finite positive value that is not a power of two, with its sign. -/
def log2Bits (f : Fmt) (m : Nat) (e : Int) : Nat :=
  let l := Nat.log2 m
  let k : Int := (l : Int) + e
  if m = 2 ^ l then rnd f (.fin (decide (k < 0)) k.natAbs 0)
  else
    let neg := decide (k < 0)
    signed f neg (settle f (fun p =>
      let a := atanh2Iv p (m - 2 ^ l) (m + 2 ^ l)
      let b := ln2Iv p
      let lo := a.1 * 2 ^ p / b.2
      let hi := cdiv (a.2 * 2 ^ p) b.1
      let kk := k.natAbs * 2 ^ p
      { loN := if neg then kk - hi else kk + lo, loD := 1, hiN := if neg then kk - lo else kk + hi, hiD := 1,
        e := -(p : Int) }) 5 64)

/-- tanh of a positive value, x · (Σ x^2k/(2k+1)!) / (Σ x^2k/(2k)!). -/
def tanhMag (f : Fmt) (m : Nat) (e : Int) : Nat :=
  if decide (dyNum m e ≥ 64 * dyDen e) then roundMag f false 1 1
  else
    settle f (fun p =>
      let ylo := fixLo p (m * m) (2 * e)
      let yhi := fixHi p (m * m) (2 * e)
      let s := series p ylo yhi (fun _ => 1) (fun k => (2 * k + 2) * (2 * k + 3)) (p + 200)
      let c := series p ylo yhi (fun _ => 1) (fun k => (2 * k + 1) * (2 * k + 2)) (p + 200)
      { loN := m * s.1, loD := c.2, hiN := m * s.2, hiD := c.1, e := e }) 5 64

/-- sigmoid of a finite non-zero value, from E = e^|x|. -/
def sigmoidMag (f : Fmt) (neg : Bool) (m : Nat) (e : Int) : Nat :=
  if decide (dyNum m e ≥ 128 * dyDen e) then (if neg then 0 else roundMag f false 1 1)
  else
    settle f (fun p =>
      let x := expIv p (fixLo p m e) (fixHi p m e)
      let one := 2 ^ p
      if neg then { loN := one, loD := x.2 + one, hiN := one, hiD := x.1 + one, e := 0 }
      else { loN := x.1, loD := x.1 + one, hiN := x.2, hiD := x.2 + one, e := 0 }) 5 64

/-- erf of a positive value, (2/√π) · x · e^(−x²) · Σ (2x²)^n/(2n+1)!!. -/
def erfMag (f : Fmt) (m : Nat) (e : Int) : Nat :=
  if decide (dyNum m e ≥ 8 * dyDen e) then roundMag f false 1 1
  else
    settle f (fun p =>
      let ylo := fixLo p (m * m) (2 * e)
      let yhi := fixHi p (m * m) (2 * e)
      let t := series p (2 * ylo) (2 * yhi) (fun _ => 1) (fun k => 2 * k + 3) (p + 300)
      let x := expIv p ylo yhi
      let pi := piIv p
      let rlo := isqrt (pi.1 * 2 ^ p)
      let rhi := isqrt (pi.2 * 2 ^ p) + 1
      { loN := 2 * m * t.1 * 2 ^ p, loD := x.2 * rhi, hiN := 2 * m * t.2 * 2 ^ p, hiD := x.1 * rlo, e := e }) 5 64

/-! R97 with its special results -/

def elRecip (f : Fmt) (a : Nat) : Nat := divVal f (.fin false 1 0) (decodeEl f a)

def elSqrt (f : Fmt) (a : Nat) : Nat :=
  match decodeEl f a with
  | .nan => rnd f .nan
  | .inf neg => if neg then rnd f .nan else rnd f (.inf false)
  | .fin neg m e => if m = 0 then rnd f (.fin neg 0 0) else if neg then rnd f .nan else sqrtMag f m e

def elRsqrt (f : Fmt) (a : Nat) : Nat :=
  match decodeEl f a with
  | .nan => rnd f .nan
  | .inf neg => if neg then rnd f .nan else 0
  | .fin neg m e => if m = 0 then rnd f (.inf neg) else if neg then rnd f .nan else rsqrtMag f m e

def elExp2 (f : Fmt) (a : Nat) : Nat :=
  match decodeEl f a with
  | .nan => rnd f .nan
  | .inf neg => if neg then 0 else rnd f (.inf false)
  | .fin neg m e => exp2Mag f neg m e

def elLog2 (f : Fmt) (a : Nat) : Nat :=
  match decodeEl f a with
  | .nan => rnd f .nan
  | .inf neg => if neg then rnd f .nan else rnd f (.inf false)
  | .fin neg m e => if m = 0 then rnd f (.inf true) else if neg then rnd f .nan else log2Bits f m e

def elTanh (f : Fmt) (a : Nat) : Nat :=
  match decodeEl f a with
  | .nan => rnd f .nan
  | .inf neg => signed f neg (roundMag f false 1 1)
  | .fin neg m e => if m = 0 then rnd f (.fin neg 0 0) else signed f neg (tanhMag f m e)

def elSigm (f : Fmt) (a : Nat) : Nat :=
  match decodeEl f a with
  | .nan => rnd f .nan
  | .inf neg => if neg then 0 else roundMag f false 1 1
  | .fin neg m e => if m = 0 then roundMag f false 1 2 else sigmoidMag f neg m e

def elErf (f : Fmt) (a : Nat) : Nat :=
  match decodeEl f a with
  | .nan => rnd f .nan
  | .inf neg => signed f neg (roundMag f false 1 1)
  | .fin neg m e => if m = 0 then rnd f (.fin neg 0 0) else signed f neg (erfMag f m e)

/-! Phases (R97, R99, R100) -/

/-- A quarter turn. -/
def quarter : Nat := 2 ^ 62

/-- sin(2πt/2^64) for 0 < t ≤ 2^62, at scale 2^−p: (t/2^62)(π/2)·Σ (−1)^k b^2k/(2k+1)!. The terms of each sign are summed
apart. -/
def sinSeriesGo (p ylo yhi : Nat) : Nat → Nat → Nat → Nat → Bool → Nat × Nat × Nat × Nat → Nat × Nat × Nat × Nat
  | 0, _, _, thi, _, r => (r.1, r.2.1 + thi, r.2.2.1, r.2.2.2 + thi)
  | n + 1, k, tlo, thi, neg, r =>
    let tlo' := tlo * ylo / (2 ^ p * ((2 * k + 2) * (2 * k + 3)))
    let thi' := cdiv (thi * yhi) (2 ^ p * ((2 * k + 2) * (2 * k + 3)))
    let r' := if neg then (r.1, r.2.1, r.2.2.1 + tlo', r.2.2.2 + thi') else (r.1 + tlo', r.2.1 + thi', r.2.2.1, r.2.2.2)
    sinSeriesGo p ylo yhi n (k + 1) tlo' thi' (!neg) r'

/-- The enclosure of that sine at scale 2^−(p + 1) · 2^−62 · t, as (lo, hi) of (π/2 · G) at scale 2^−p. -/
def sinFactor (p t : Nat) : Nat × Nat :=
  let pi := piIv p
  let blo := pi.1 * t / 2 ^ 63
  let bhi := cdiv (pi.2 * t) (2 ^ 63)
  let ylo := blo * blo / 2 ^ p
  let yhi := cdiv (bhi * bhi) (2 ^ p)
  let r := sinSeriesGo p ylo yhi p 0 (2 ^ p) (2 ^ p) true (2 ^ p, 2 ^ p, 0, 0)
  let glo := r.1 - r.2.2.2
  let ghi := r.2.1 - r.2.2.1
  (pi.1 * glo / 2 ^ (p + 1), cdiv (pi.2 * ghi) (2 ^ (p + 1)))

/-- The quarter-turn argument t of a sine, 0 ≤ t ≤ 2^62, and its sign. -/
def sinArg (phase : Nat) : Bool × Nat :=
  let ph := phase % 2 ^ 64
  let q := ph / quarter
  let r := ph % quarter
  (decide (q ≥ 2), if q % 2 = 0 then r else quarter - r)

/-- The same for a cosine, cos φ = sin(φ + a quarter turn). -/
def cosArg (phase : Nat) : Bool × Nat := sinArg (phase + quarter)

/-- A sine or cosine rounded once: exact at whole quarter turns, where a zero is +0 (R97). -/
def sinBits (f : Fmt) (a : Bool × Nat) : Nat :=
  if a.2 = 0 then 0
  else if a.2 = quarter then signed f a.1 (roundMag f false 1 1)
  else
    signed f a.1 (settle f (fun p =>
      let r := sinFactor p a.2
      { loN := r.1 * a.2, loD := 1, hiN := r.2 * a.2, hiD := 1, e := -((p + 62 : Nat) : Int) }) 5 64)

def elSinp (f : Fmt) (phase : Nat) : Nat := sinBits f (sinArg phase)

def elCosp (f : Fmt) (phase : Nat) : Nat := sinBits f (cosArg phase)

/-- Round a signed integer times 2^e. -/
def rndInt (f : Fmt) (v : Int) (e : Int) : Nat := rnd f (.fin (decide (v < 0)) v.natAbs e)

/-- a·x + b·y with x, y sines, narrowed until both ends round alike (R100). -/
def rotSettle (f : Fmt) (n1 : Bool) (m1 : Nat) (e1 : Int) (t1 : Nat) (n2 : Bool) (m2 : Nat) (e2 : Int) (t2 : Nat) :
    Nat → Nat → Nat
  | k, p =>
    let e := min e1 e2
    let a := m1 * 2 ^ (e1 - e).toNat * t1
    let b := m2 * 2 ^ (e2 - e).toNat * t2
    let r := sinFactor p t1
    let q := sinFactor p t2
    let alo : Int := if n1 then -((a * r.2 : Nat) : Int) else ((a * r.1 : Nat) : Int)
    let ahi : Int := if n1 then -((a * r.1 : Nat) : Int) else ((a * r.2 : Nat) : Int)
    let blo : Int := if n2 then -((b * q.2 : Nat) : Int) else ((b * q.1 : Nat) : Int)
    let bhi : Int := if n2 then -((b * q.1 : Nat) : Int) else ((b * q.2 : Nat) : Int)
    let x := e - ((p + 62 : Nat) : Int)
    let lo := rndInt f (alo + blo) x
    match k with
    | 0 => lo
    | k + 1 => if lo = rndInt f (ahi + bhi) x then lo else rotSettle f n1 m1 e1 t1 n2 m2 e2 t2 k (2 * p)

/-- The exact value of a sine where it is 0 or ±1; elsewhere a stand-in of its sign. -/
def sinUnit (a : Bool × Nat) : Val := if a.2 = 0 then .fin a.1 0 0 else .fin a.1 1 0

/-- a·u + b·w, one rounding, with u and w sines given by sign and argument (R100). DEDUCED (log 14): NaN, infinities and
the signs of exact zeros are those of the IEEE products and sum with the exact sine and cosine. -/
def rotOne (f : Fmt) (a : Nat) (u : Bool × Nat) (b : Nat) (w : Bool × Nat) : Nat :=
  let x := decodeEl f a
  let y := decodeEl f b
  let px := x.mul (sinUnit u)
  let py := y.mul (sinUnit w)
  match px, py with
  | .fin n1 m1 e1, .fin n2 m2 e2 =>
    let exact := decide (u.2 = 0 ∨ u.2 = quarter) && decide (w.2 = 0 ∨ w.2 = quarter)
    if exact || (m1 == 0 && m2 == 0) then rnd f (px.add py)
    else if u.2 = w.2 && decide ((px.add py).cmp .zero = 0) then rnd f (px.add py)
    else rotSettle f n1 m1 e1 u.2 n2 m2 e2 w.2 5 64
  | _, _ => rnd f (px.add py)

/-- A sine whose zero is +0 (R97). -/
def plusZero (a : Bool × Nat) : Bool × Nat := if a.2 = 0 then (false, 0) else a

/-- The rotary pair (x·c − y·s, x·s + y·c) (R100). -/
def rotate (f : Fmt) (x y phase : Nat) : Nat × Nat :=
  let s := plusZero (sinArg phase)
  let c := plusZero (cosArg phase)
  (rotOne f x c y (!s.1, s.2), rotOne f x s y c)

end Sys2Proof.Machine
end

