-- ==== Sys2Proof/Machine/Vector.lean ====
section
/-!
DEFINITION. The vector slot (06 R177 to R182, 03 R95 to R100, R106). Latencies are those of 05 R155 and 06 R182.
-/

namespace Sys2Proof.Machine

/-! Elements of vector registers (R177) -/

/-- Every bit of a vector register. -/
def vAll : VReg := BitVec.allOnes 2048

/-- Element i of `w` bits. -/
def VReg.el (v : VReg) (w i : Nat) : Nat := bits v (w * i) w

/-- The elements of `w` bits. -/
def VReg.els (v : VReg) (w : Nat) : List Nat := (List.range (2048 / w)).map (fun i => VReg.el v w i)

/-- A register from its elements of `w` bits, the rest zero. -/
def vOf (w : Nat) (xs : List Nat) : VReg := BitVec.ofNat 2048 (packNat w xs)

/-- The operation format of D and C (R179). -/
def fmtDC (f : BitVec 4) : Option Fmt :=
  match f.toNat with
  | 0xD => some .f32
  | 0xC => some .bf16
  | _ => none

/-- The lane format of D and U (R179). -/
def fmtDU (f : BitVec 4) : Option Fmt :=
  match f.toNat with
  | 0xD => some .f32
  | 0xF => some .bf16
  | _ => none

/-- The narrow formats that VCVT and VACVT convert to and from (R179). -/
def narrow (code : Nat) : Option Fmt :=
  match code with
  | 0x0 => some .e2m1
  | 0x2 => some .int4
  | 0x3 => some .e3m2
  | 0x4 => some .e2m3
  | 0x7 => some .e4m3
  | 0x8 => some .e5m2
  | 0xB => some .int8
  | 0xC => some .bf16
  | _ => none

/-- Whether part p of width w lies within a register (R177). -/
def partOk (w p : Nat) : Bool := decide (64 * w * (p + 1) ≤ 2048)

/-- Part p of 64 elements of width w: the bits it occupies, and its elements in place. -/
def partMask (w p : Nat) : VReg := BitVec.ofNat 2048 ((2 ^ (64 * w) - 1) * 2 ^ (64 * w * p))
def partOf (w p : Nat) (xs : List Nat) : VReg := BitVec.ofNat 2048 (packNat w xs * 2 ^ (64 * w * p))

/-- Whether a register number names the first of a pair (R179). -/
def evenReg (r : BitVec 5) : Bool := !bitOf r 0

/-- The second register of a pair. -/
def pairReg (r : BitVec 5) : BitVec 5 := r + 1

/-- 64-bit values in the lanes of a pair (R179). -/
def Core.pairEls (k : Core) (r : BitVec 5) : List Nat :=
  (List.range 64).map (fun j => VReg.el (k.v r) 32 j + 2 ^ 32 * VReg.el (k.v (pairReg r)) 32 j)

/-! The slot -/

/-- Write bits of a vector register at i + lat. -/
def Core.vWrite (k : Core) (lat : Nat) (r : BitVec 5) (mask v : VReg) : Core := k.later lat false (.vreg r mask v)

/-- The last completion of a vector operation, for FENCE (05 R154). -/
def Core.vBusy (k : Core) (lat : Nat) : Core :=
  { k with eng := { k.eng with vecDone := max k.eng.vecDone (k.scyc + lat) } }

/-- A vector operation with latency `lat`; a reserved encoding is ILLEGAL (R179). -/
def State.vecSlot (s : State) (c : Nat) (e : EllEnd) (bad : Bool) (lat : Nat) (f : Core → Core) : Out :=
  s.slotP c 1 3 noQueue e (fun _ => if bad then some (illegal 1) else none)
    (fun s => s.modCore c (fun k => (f k).vBusy lat))

/-- A vector operation that writes a whole register. -/
def State.vecOp (s : State) (c : Nat) (e : EllEnd) (bad : Bool) (lat : Nat) (vd : BitVec 5) (g : Core → VReg) : Out :=
  s.vecSlot c e bad lat (fun k => k.vWrite lat vd vAll (g k))

/-- Element-wise over D or C: `g` gives a result element from those of va, vb and vc. -/
def State.vecEl (s : State) (c : Nat) (e : EllEnd) (f : BitVec 4) (lat : Fmt → Nat) (vd va vb vc : BitVec 5)
    (g : Fmt → Nat → Nat → Nat → Nat) : Out :=
  let fm := (fmtDC f).getD .f32
  let w := fm.width
  s.vecOp c e (fmtDC f).isNone (lat fm) vd (fun k =>
    vOf w ((List.range (2048 / w)).map (fun i =>
      g fm (VReg.el (k.v va) w i) (VReg.el (k.v vb) w i) (VReg.el (k.v vc) w i))))

/-- The same with one operand register. -/
def State.vecFn (s : State) (c : Nat) (e : EllEnd) (f : BitVec 4) (lat : Nat) (vd va : BitVec 5) (g : Fmt → Nat → Nat) :
    Out :=
  s.vecEl c e f (fun _ => lat) vd va va va (fun fm a _ _ => g fm a)

def execVadd (c : Nat) (e : EllEnd) (f : BitVec 4) (vd va vb : BitVec 5) (s : State) : Out :=
  s.vecEl c e f (fun _ => 4) vd va vb vb (fun fm a b _ => elAdd fm a b)

def execVsub (c : Nat) (e : EllEnd) (f : BitVec 4) (vd va vb : BitVec 5) (s : State) : Out :=
  s.vecEl c e f (fun _ => 4) vd va vb vb (fun fm a b _ => elSub fm a b)

def execVmul (c : Nat) (e : EllEnd) (f : BitVec 4) (vd va vb : BitVec 5) (s : State) : Out :=
  s.vecEl c e f (fun _ => 4) vd va vb vb (fun fm a b _ => elMul fm a b)

/-- One rounding (R179). -/
def execVfma (c : Nat) (e : EllEnd) (f : BitVec 4) (vd va vb vc : BitVec 5) (s : State) : Out :=
  s.vecEl c e f (fun _ => 5) vd va vb vc elFma

def execVdiv (c : Nat) (e : EllEnd) (f : BitVec 4) (vd va vb : BitVec 5) (s : State) : Out :=
  s.vecEl c e f (fun fm => if fm = .f32 then 28 else 20) vd va vb vb (fun fm a b _ => elDiv fm a b)

def execVmin (c : Nat) (e : EllEnd) (f : BitVec 4) (vd va vb : BitVec 5) (s : State) : Out :=
  s.vecEl c e f (fun _ => 4) vd va vb vb (fun fm a b _ => elMin fm a b)

def execVmax (c : Nat) (e : EllEnd) (f : BitVec 4) (vd va vb : BitVec 5) (s : State) : Out :=
  s.vecEl c e f (fun _ => 4) vd va vb vb (fun fm a b _ => elMax fm a b)

/-- Condition 7 is reserved (R179). -/
def execVcmp (c : Nat) (e : EllEnd) (f : BitVec 4) (vd va vb : BitVec 5) (cond : BitVec 3) (s : State) : Out :=
  let fm := (fmtDC f).getD .f32
  let w := fm.width
  s.vecOp c e ((fmtDC f).isNone || cond == 7) 4 vd (fun k =>
    vOf w ((List.range (2048 / w)).map (fun i =>
      if elCmp fm cond.toNat (VReg.el (k.v va) w i) (VReg.el (k.v vb) w i) then 2 ^ w - 1 else 0)))

/-- An element is non-zero when its bits are (log 18). -/
def execVsel (c : Nat) (e : EllEnd) (f : BitVec 4) (vd va vb vc : BitVec 5) (s : State) : Out :=
  s.vecEl c e f (fun _ => 4) vd va vb vc (fun _ a b x => if x = 0 then b else a)

def execVand (c : Nat) (e : EllEnd) (vd va vb : BitVec 5) (s : State) : Out :=
  s.vecOp c e false 4 vd (fun k => k.v va &&& k.v vb)

def execVor (c : Nat) (e : EllEnd) (vd va vb : BitVec 5) (s : State) : Out :=
  s.vecOp c e false 4 vd (fun k => k.v va ||| k.v vb)

def execVxor (c : Nat) (e : EllEnd) (vd va vb : BitVec 5) (s : State) : Out :=
  s.vecOp c e false 4 vd (fun k => k.v va ^^^ k.v vb)

def execVmov (c : Nat) (e : EllEnd) (vd va : BitVec 5) (s : State) : Out :=
  s.vecOp c e false 4 vd (fun k => k.v va)

def execVsplat (c : Nat) (e : EllEnd) (vd rs : BitVec 5) (s : State) : Out :=
  s.vecOp c e false 4 vd (fun k => vOf 32 (List.replicate 64 (k.s rs).toNat))

/-- Lanes are reduced mod 2^32 by the packing. -/
def execViota (c : Nat) (e : EllEnd) (vd rs : BitVec 5) (s : State) : Out :=
  s.vecOp c e false 4 vd (fun k => vOf 32 ((List.range 64).map (fun j => j + (k.s rs).toNat)))

def execViadd (c : Nat) (e : EllEnd) (vd va vb : BitVec 5) (s : State) : Out :=
  s.vecOp c e false 4 vd (fun k =>
    vOf 32 ((List.range 64).map (fun j => VReg.el (k.v va) 32 j + VReg.el (k.v vb) 32 j)))

def execVrecip (c : Nat) (e : EllEnd) (f : BitVec 4) (vd va : BitVec 5) (s : State) : Out :=
  s.vecFn c e f 14 vd va elRecip

def execVsqrt (c : Nat) (e : EllEnd) (f : BitVec 4) (vd va : BitVec 5) (s : State) : Out :=
  s.vecFn c e f 14 vd va elSqrt

def execVrsqrt (c : Nat) (e : EllEnd) (f : BitVec 4) (vd va : BitVec 5) (s : State) : Out :=
  s.vecFn c e f 14 vd va elRsqrt

def execVexp2 (c : Nat) (e : EllEnd) (f : BitVec 4) (vd va : BitVec 5) (s : State) : Out :=
  s.vecFn c e f 12 vd va elExp2

def execVlog2 (c : Nat) (e : EllEnd) (f : BitVec 4) (vd va : BitVec 5) (s : State) : Out :=
  s.vecFn c e f 12 vd va elLog2

def execVtanh (c : Nat) (e : EllEnd) (f : BitVec 4) (vd va : BitVec 5) (s : State) : Out :=
  s.vecFn c e f 16 vd va elTanh

def execVsigm (c : Nat) (e : EllEnd) (f : BitVec 4) (vd va : BitVec 5) (s : State) : Out :=
  s.vecFn c e f 16 vd va elSigm

def execVerf (c : Nat) (e : EllEnd) (f : BitVec 4) (vd va : BitVec 5) (s : State) : Out :=
  s.vecFn c e f 16 vd va elErf

/-- sinp and cosp of the phases in a pair (R97, R179). -/
def State.vecPhaseFn (s : State) (c : Nat) (e : EllEnd) (f : BitVec 4) (vd va : BitVec 5) (g : Fmt → Nat → Nat) : Out :=
  let fm := (fmtDU f).getD .f32
  s.vecOp c e ((fmtDU f).isNone || !evenReg va) 16 vd (fun k => vOf 32 ((k.pairEls va).map (g fm)))

def execVsinp (c : Nat) (e : EllEnd) (f : BitVec 4) (vd va : BitVec 5) (s : State) : Out :=
  s.vecPhaseFn c e f vd va elSinp

def execVcosp (c : Nat) (e : EllEnd) (f : BitVec 4) (vd va : BitVec 5) (s : State) : Out :=
  s.vecPhaseFn c e f vd va elCosp

/-- R99, R179. -/
def execVphase (c : Nat) (e : EllEnd) (vd va sp sj : BitVec 5) (s : State) : Out :=
  s.vecSlot c e (!evenReg vd || !evenReg va) 4 (fun k =>
    let ph := (List.range 64).map (fun j =>
      ((k.s sp).toNat + j * (k.s sj).toNat) % 2 ^ 22 * (k.pairEls va).getD j 0 % 2 ^ 64)
    (k.vWrite 4 vd vAll (vOf 32 ph)).vWrite 4 (pairReg vd) vAll (vOf 32 (ph.map (fun p => p / 2 ^ 32))))

/-- R100, R179. -/
def execVrot (c : Nat) (e : EllEnd) (f : BitVec 4) (vd va vb vc : BitVec 5) (s : State) : Out :=
  let fm := (fmtDU f).getD .f32
  s.vecSlot c e ((fmtDU f).isNone || !evenReg vd || !evenReg vc) 18 (fun k =>
    let ph := k.pairEls vc
    let r := (List.range 64).map (fun j =>
      rotate fm (VReg.el (k.v va) 32 j % 2 ^ fm.width) (VReg.el (k.v vb) 32 j % 2 ^ fm.width) (ph.getD j 0))
    (k.vWrite 18 vd vAll (vOf 32 (r.map (fun p => p.1)))).vWrite 18 (pairReg vd) vAll (vOf 32 (r.map (fun p => p.2))))

/-- DIR 0 rounds the lanes into a part, other parts kept (R96); DIR 1 is exact (R179). -/
def execVcvt (c : Nat) (e : EllEnd) (vd va : BitVec 5) (other : BitVec 4) (sat : Bool) (part : BitVec 3) (dir : Bool) (s : State) : Out :=
  let fm := (narrow other.toNat).getD .bf16
  let w := fm.width
  let p := part.toNat
  s.vecSlot c e ((narrow other.toNat).isNone || !partOk w p) 3 (fun k =>
    if dir then
      k.vWrite 3 vd vAll (vOf 32 ((List.range 64).map (fun j =>
        roundVal .f32 false (decodeEl fm (VReg.el (k.v va) w (64 * p + j))))))
    else
      k.vWrite 3 vd (partMask w p) (partOf w p ((List.range 64).map (fun j =>
        roundVal fm sat (decodeEl .f32 (VReg.el (k.v va) 32 j))))))

/-- Two blocks to part P; their scales to bytes 2P and 2P + 1 of vd + 1 (R78, R179). -/
def execVmxq (c : Nat) (e : EllEnd) (f : BitVec 4) (vd va : BitVec 5) (part : BitVec 3) (s : State) : Out :=
  let fm := (fmtOf f.toNat).getD .e4m3
  let w := fm.width
  let p := part.toNat
  s.vecSlot c e (!isMx f.toNat || !evenReg vd || !partOk w p) 6 (fun k =>
    let xs := (VReg.els (k.v va) 32).map (decodeEl .f32)
    let a := mxQuantise fm (xs.take 32)
    let b := mxQuantise fm (xs.drop 32)
    (k.vWrite 6 vd (partMask w p) (partOf w p (a.2 ++ b.2))).vWrite 6 (pairReg vd)
      (BitVec.ofNat 2048 (0xFFFF * 2 ^ (16 * p))) (BitVec.ofNat 2048 ((a.1 + 256 * b.1) * 2 ^ (16 * p))))

/-- Bits [15:0] of the lanes of va, then of vb. -/
def execVpack (c : Nat) (e : EllEnd) (vd va vb : BitVec 5) (s : State) : Out :=
  s.vecOp c e false 4 vd (fun k => vOf 16 (VReg.els (k.v va) 32 ++ VReg.els (k.v vb) 32))

def execVunpk (c : Nat) (e : EllEnd) (vd va : BitVec 5) (half : Bool) (s : State) : Out :=
  s.vecOp c e false 4 vd (fun k =>
    vOf 32 ((List.range 64).map (fun j => VReg.el (k.v va) 16 (64 * b2n half + j))))

/-- Every element := the reduction of all elements (R98). -/
def State.vecReduce (s : State) (c : Nat) (e : EllEnd) (f : BitVec 4) (vd va : BitVec 5) (g : Fmt → Nat → Nat → Nat) :
    Out :=
  let fm := (fmtDC f).getD .f32
  let w := fm.width
  s.vecOp c e (fmtDC f).isNone 6 vd (fun k =>
    let xs := VReg.els (k.v va) w
    vOf w (List.replicate (2048 / w) (xs.foldl (g fm) (g fm (xs.getD 0 0) (xs.getD 0 0)))))

def execVrmax (c : Nat) (e : EllEnd) (f : BitVec 4) (vd va : BitVec 5) (s : State) : Out :=
  s.vecReduce c e f vd va elMax

def execVrmin (c : Nat) (e : EllEnd) (f : BitVec 4) (vd va : BitVec 5) (s : State) : Out :=
  s.vecReduce c e f vd va elMin

/-- The index of the highest-ranked element; of equal ones the lowest index (R106). -/
def argTop (f : Fmt) : List Nat → Nat → Nat → Nat → Nat
  | [], _, best, _ => best
  | x :: xs, i, best, v => if elRanksAbove f x v then argTop f xs (i + 1) i x else argTop f xs (i + 1) best v

def execVramax (c : Nat) (e : EllEnd) (f : BitVec 4) (vd va : BitVec 5) (s : State) : Out :=
  let fm := (fmtDC f).getD .f32
  s.vecOp c e (fmtDC f).isNone 6 vd (fun k =>
    let xs := VReg.els (k.v va) fm.width
    vOf 32 (List.replicate 64 (argTop fm xs 0 0 (xs.getD 0 0))))

/-! Accumulation banks (R180 to R182) -/

/-- The clear is the last effect of cycle i, so the bank is cleared at i + 1. -/
def execVaclr (c : Nat) (e : EllEnd) (bank : BitVec 2) (wbase : BitVec 10) (s : State) : Out :=
  s.vecSlot c e false 1 (fun k => k.bankAt bank.toNat k.scyc (.clear wbase.toInt))

/-- Element k is a contribution to lane k mod 64. -/
def execVacc (c : Nat) (e : EllEnd) (f : BitVec 4) (va : BitVec 5) (bank : BitVec 2) (s : State) : Out :=
  let fm := (fmtDC f).getD .f32
  s.vecSlot c e (fmtDC f).isNone 9 (fun k =>
    let xs := VReg.els (k.v va) fm.width
    k.bankAt bank.toNat (k.scyc + 9) (.add ((List.range xs.length).map (fun i =>
      (i % 64, valContrib (decodeEl fm (xs.getD i 0)))))))

/-- Every element is a contribution to one lane. -/
def execVrsum (c : Nat) (e : EllEnd) (f : BitVec 4) (va : BitVec 5) (bank : BitVec 2) (lane : BitVec 6) (s : State) : Out :=
  let fm := (fmtDC f).getD .f32
  s.vecSlot c e (fmtDC f).isNone 9 (fun k =>
    k.bankAt bank.toNat (k.scyc + 9) (.add ((VReg.els (k.v va) fm.width).map (fun x =>
      (lane.toNat, valContrib (decodeEl fm x))))))

/-- The banks as a sample in the issue cycle finds them; violations are posted when the ell closes. -/
def Core.bankSample (k : Core) (b : Nat) : Core :=
  let r := k.bankGo k.scyc k.bankQ
  (r.1.ellViolations r.2).bankRead b

/-- A vector operation that samples bank b in its issue cycle: while a grain that the sample includes has not landed its ell
does not issue (02 R40). -/
def State.sampleSlot (s : State) (c : Nat) (e : EllEnd) (bad : Bool) (lat b : Nat) (f : Core → Core) : Out :=
  s.slotP c 1 3 noQueue e (fun _ => if bad then some (illegal 1) else none) (fun s =>
    match s.lateBank c (s.core c).scyc b with
    | some g => (s.await c g).modCore c (fun k => k.modEll (fun l => { l with block := some .held }))
    | none => s.modCore c (fun k => (f k).vBusy lat))

/-- Samples in the issue cycle and writes at i + 9 (R181); the write itself is VACSUM_BANK_WRITE. -/
def execVacsum (c : Nat) (e : EllEnd) (bank : BitVec 2) (s : State) : Out :=
  s.sampleSlot c e false 9 bank.toNat (fun k =>
    let b := bank.toNat
    let k := k.bankSample b
    k.bankAt b (k.scyc + 9) (.vacsumWrite (laneSum (k.bankLanes b))))

/-- VACSUM_BANK_WRITE: the bank write of the oldest outstanding VACSUM of a bank, with the effects that come before it
(R181). With none outstanding nothing happens. -/
def execVacsumBankWrite (c : Nat) (bank : BitVec 2) (s : State) : Out :=
  s.coreEvent c (fun k =>
    match k.bankQ.find? (fun x => x.bank == bank.toNat && x.act.cls == 1) with
    | none => .next s
    | some x => .next (s.bankRun c x.cyc))

/-- Binary32 and U fill vd, others a part (R87); the flags reach NSTAT (R86); a clear follows the samples of its cycle (R180). -/
def execVacvt (c : Nat) (e : EllEnd) (f : BitVec 4) (vd : BitVec 5) (bank : BitVec 2) (sat clr : Bool) (part : BitVec 3) (s : State) : Out :=
  let b := bank.toNat
  let p := part.toNat
  let wide := (fmtDU f).isSome
  let fm := if wide then (fmtDU f).getD .f32 else (narrow f.toNat).getD .bf16
  let w := fm.width
  let bad := if wide then p != 0 else (narrow f.toNat).isNone || !partOk w p
  s.sampleSlot c e bad 5 b (fun k =>
    let k := k.bankSample b
    let xs := k.bankLanes b
    let ys := xs.map (fun x => x.convert ((k.bank b).wbase.getD 0) fm sat)
    let k := (if wide then k.vWrite 5 vd vAll (vOf 32 ys) else k.vWrite 5 vd (partMask w p) (partOf w p ys)).nstatAt
      (k.scyc + 5) (flagsOr xs)
    if clr then k.bankAt b k.scyc .clearKeep else k)

/-- An empty queue gives zeros and a schedule-violation event (R178). -/
def execVrq (c : Nat) (e : EllEnd) (vd : BitVec 5) (s : State) : Out :=
  s.vecSlot c e false 4 (fun k =>
    match k.arr.resultQ with
    | [] => (k.vWrite 4 vd vAll 0).ellViolations 1
    | x :: xs => { k with arr := { k.arr with resultQ := xs } }.vWrite 4 vd vAll x)

end Sys2Proof.Machine
end

