-- ==== Sys2Proof/Machine/Code.lean ====
section
/-!
DEFINITION. Code segments: which slot encodings are reserved, the decoding of a segment into ells in sequence, its start bits
and its static targets (05 R138 to R142, R144, R146, R152, R154; 06 R172, R179).
-/

namespace Sys2Proof.Machine

/-- Bits [lo + n − 1 : lo] of a number. -/
def fld (v lo n : Nat) : Nat := v / 2 ^ lo % 2 ^ n

/-- Whether all of a list of fields (low bit, width) are 0. -/
def allZero (v : Nat) (fs : List (Nat × Nat)) : Bool := fs.all (fun f => fld v f.1 f.2 == 0)

/-- Whether a control-register immediate names a register of R156 (05 R146). -/
def ctlOk (w : Nat) : Bool := decide (fld w 0 16 ≤ 0x0C)

/-- Whether a scalar slot is no reserved encoding (05 R144, R146). -/
def scalarOk (w : Nat) : Bool :=
  let op := fld w 26 6
  if op = 0 then false
  else if op ≤ 0x0F then allZero w [(0, 11)]
  else if op ≤ 0x13 then true
  else if op ≤ 0x16 then allZero w [(5, 11)]
  else if op = 0x17 then allZero w [(16, 5)]
  else if op ≤ 0x1B then true
  else if op < 0x20 then false
  else if op ≤ 0x27 then true
  else if op = 0x28 then allZero w [(23, 3)]
  else if op = 0x29 then allZero w [(16, 5), (2, 14)]
  else if op = 0x30 then allZero w [(16, 5)] && ctlOk w
  else if decide (0x31 ≤ op) && decide (op ≤ 0x33) then allZero w [(21, 5)] && ctlOk w
  else if op = 0x34 then allZero w [(25, 1), (0, 11)]
  else if op = 0x38 then allZero w [(16, 10)]
  else if op = 0x39 || op = 0x3A then allZero w [(0, 26)]
  else false

/-- Whether a FMT field is D or C, or D or U (06 R179). -/
def isDC (f : Nat) : Bool := f == 0xD || f == 0xC
def isDU (f : Nat) : Bool := f == 0xD || f == 0xF

/-- Unused register fields of a vector slot: va, vb, vc from the first that is not used. -/
def regsZero (w used : Nat) : Bool := allZero w ([(30, 5), (25, 5), (20, 5)].drop used)

/-- Whether an element code is a format of VCVT with the part inside a register. -/
def partFits (code p : Nat) : Bool :=
  match narrow code with
  | some f => partOk f.width p
  | none => false

/-- Whether an MX code's part lies inside a register. -/
def mxPartFits (code p : Nat) : Bool :=
  match fmtOf code with
  | some f => isMx code && partOk f.width p
  | none => false

/-- Whether a vector slot is no reserved encoding (06 R179). -/
def vectorOk (w : Nat) : Bool :=
  let op := fld w 40 8
  let f := fld w 16 4
  let ext := fld w 0 16
  let evenVd := fld w 35 1 == 0
  let evenVa := fld w 30 1 == 0
  let evenVc := fld w 20 1 == 0
  let noVd := fld w 35 5 == 0
  if op = 0 then false
  else if op ≤ 3 then isDC f && regsZero w 2 && ext == 0
  else if op = 4 then isDC f && ext == 0
  else if op ≤ 7 then isDC f && regsZero w 2 && ext == 0
  else if op = 8 then isDC f && regsZero w 2 && decide (ext ≤ 6)
  else if op = 9 then isDC f && ext == 0
  else if op ≤ 0x0C then f == 0xD && regsZero w 2 && ext == 0
  else if op = 0x0D then f == 0xD && regsZero w 1 && ext == 0
  else if op ≤ 0x0F then f == 0xD && regsZero w 0 && decide (ext < 32)
  else if op = 0x10 then f == 0xD && regsZero w 2 && ext == 0
  else if decide (0x20 ≤ op) && decide (op ≤ 0x27) then isDC f && regsZero w 1 && ext == 0
  else if op = 0x28 || op = 0x29 then isDU f && regsZero w 1 && evenVa && ext == 0
  else if op = 0x2A then f == 0xD && regsZero w 1 && evenVd && evenVa && decide (ext < 1024)
  else if op = 0x2B then isDU f && evenVd && evenVc && ext == 0
  else if op = 0x30 then f == 0xD && regsZero w 1 && decide (ext < 512) && partFits (ext % 16) (fld ext 5 3)
  else if op = 0x31 then regsZero w 1 && evenVd && allZero ext [(0, 5), (8, 8)] && mxPartFits f (fld ext 5 3)
  else if op = 0x32 then f == 0xC && regsZero w 2 && ext == 0
  else if op = 0x33 then f == 0xC && regsZero w 1 && decide (ext < 2)
  else if decide (0x40 ≤ op) && decide (op ≤ 0x42) then isDC f && regsZero w 1 && ext == 0
  else if op = 0x43 then f == 0 && noVd && regsZero w 0 && decide (ext < 4096)
  else if op = 0x44 then isDC f && noVd && regsZero w 1 && decide (ext < 4)
  else if op = 0x45 then isDC f && noVd && regsZero w 1 && decide (ext < 256)
  else if op = 0x46 then f == 0 && noVd && regsZero w 0 && decide (ext < 4)
  else if op = 0x47 then
    regsZero w 0 && decide (ext < 128) && (if isDU f then fld ext 4 3 == 0 else partFits f (fld ext 4 3))
  else if op = 0x50 then f == 0 && regsZero w 0 && ext == 0
  else false

/-- Whether a matrix slot is no reserved encoding (05 R152). -/
def matrixOk (w : Nat) : Bool :=
  match fld w 44 4 with
  | 1 => allZero w [(0, 8)]
  | 2 => allZero w [(16, 16), (11, 1), (0, 8)]
  | 3 => allZero w [(0, 44)]
  | 4 => allZero w [(32, 8), (0, 4)]
  | _ => false

/-- Whether a load slot is no reserved encoding (06 R172). -/
def loadOk (w : Nat) : Bool :=
  match fld w 43 5 with
  | 1 => allZero w [(0, 9)]
  | 2 => allZero w [(25, 10), (0, 17)]
  | 3 => allZero w [(30, 5), (0, 7)]
  | 4 => allZero w [(30, 5), (9, 16), (0, 4)] && decide (fld w 4 5 < 24)
  | 5 => allZero w [(30, 5), (0, 25)]
  | _ => false

/-- Whether a store slot is no reserved encoding (06 R172). -/
def storeOk (w : Nat) : Bool :=
  match fld w 43 5 with
  | 1 => allZero w [(0, 9)]
  | 2 => allZero w [(25, 10), (0, 17)]
  | 3 => allZero w [(30, 5), (0, 7)]
  | _ => false

/-- Whether a sync slot is no reserved encoding (05 R154). -/
def syncOk (w : Nat) : Bool :=
  match fld w 27 5 with
  | 1 => allZero w [(16, 11)]
  | 2 => allZero w [(16, 11)]
  | 3 => allZero w [(18, 9)]
  | 4 => allZero w [(17, 10)]
  | 5 => allZero w [(0, 27)]
  | 6 => allZero w [(0, 16), (21, 6)]
  | 7 => allZero w [(16, 11)]
  | 8 => allZero w [(16, 6)]
  | _ => false

/-- An ell of a segment: its parcel address, its length, and the words of its scalar and sync slots where present. -/
structure EllDec where
  at_    : Nat
  len    : Nat
  scalar : Option Nat
  sync   : Option Nat
deriving DecidableEq, Repr

/-- The parcels of a segment, little-endian (05 R139). -/
def parcelsGo : Nat → List Byte → List Nat
  | 0, _ => []
  | n + 1, bs => leNat (bs.take 2) :: parcelsGo n (bs.drop 2)

def parcels (bs : List Byte) : List Nat := parcelsGo (bs.length / 2) bs

/-- Parcels of each slot in the order of R139: PRESENT bits [10] to [15]. -/
def slotParcels (present : Nat) : List (Nat × Nat) :=
  ((List.range 6).filter (fun i => decide (fld present i 1 = 1))).map (fun i => (i, if i = 0 || i = 5 then 2 else 3))

/-- Value of consecutive parcels, least significant first. -/
def parcelNat : List Nat → Nat
  | [] => 0
  | p :: ps => p + 65536 * parcelNat ps

/-- Whether slot i's word is no reserved encoding: 0 scalar, 1 vector, 2 matrix, 3 load, 4 store, 5 sync. -/
def slotWordOk (i w : Nat) : Bool :=
  match i with
  | 0 => scalarOk w
  | 1 => vectorOk w
  | 2 => matrixOk w
  | 3 => loadOk w
  | 4 => storeOk w
  | _ => syncOk w

/-- The slots of an ell in sequence: the words of its scalar and sync slots and its length, none where a slot runs past the
segment or is reserved. -/
def ellSlots (ps : List Nat) : List (Nat × Nat) → Nat → Option Nat → Option Nat → Option (Nat × Option Nat × Option Nat)
  | [], len, sc, sy => some (len, sc, sy)
  | (i, n) :: rest, len, sc, sy =>
    if ps.length < n then none
    else
      let w := parcelNat (ps.take n)
      if slotWordOk i w then
        ellSlots (ps.drop n) rest (len + n) (if i = 0 then some w else sc) (if i = 5 then some w else sy)
      else none

/-- Decode a segment in sequence from parcel `a` (05 R141); none where R142 rejects an ell. -/
def decodeGo : Nat → Nat → List Nat → Option (List EllDec)
  | 0, _, _ => some []
  | f + 1, a, ps =>
    match ps with
    | [] => some []
    | h :: rest =>
      let present := fld h 10 6
      if present = 0 then
        (decodeGo f (a + 1) rest).map (fun es => { at_ := a, len := 1, scalar := none, sync := none } :: es)
      else if fld h 4 6 != 0 then none
      else
        match ellSlots rest (slotParcels present) 1 none none with
        | none => none
        | some (len, sc, sy) =>
          (decodeGo f (a + len) (ps.drop len)).map (fun es => { at_ := a, len := len, scalar := sc, sync := sy } :: es)

/-- The ells of a code segment, none where it is malformed in itself (05 R142). -/
def decodeSegment (bs : List Byte) : Option (List EllDec) :=
  if bs.length > imemSize || bs.length % 2 != 0 then none else decodeGo (bs.length / 2) 0 (parcels bs)

/-- Start bits of a segment: the addresses of its ells (05 R141). -/
def startsOf (es : List EllDec) : List Nat := es.map (fun e => e.at_)

/-- The static target of an ell's scalar slot, and whether it is a loop's end ell. -/
def EllDec.target (e : EllDec) : Option (Int × Bool) :=
  match e.scalar with
  | none => none
  | some w =>
    let op := fld w 26 6
    if decide (0x20 ≤ op) && decide (op ≤ 0x25) then some ((e.at_ : Int) + toSigned 16 w, false)
    else if op = 0x26 then some ((e.at_ : Int) + toSigned 21 w, false)
    else if op = 0x28 then some ((e.at_ : Int) + (fld w 0 16 : Nat), true)
    else none

/-- Whether an ell's scalar slot holds a branch or jump. -/
def EllDec.branches (e : EllDec) : Bool :=
  match e.scalar with
  | none => false
  | some w => decide (0x20 ≤ fld w 26 6) && decide (fld w 26 6 ≤ 0x27)

/-- Whether every static target is an ell start and no loop body ends at a branch or jump (05 R142). -/
def targetsOk (es : List EllDec) : Bool :=
  es.all (fun e =>
    match e.target with
    | none => true
    | some (t, isLoop) => es.any (fun x => (x.at_ : Int) == t && !(isLoop && x.branches)))

end Sys2Proof.Machine
end

