-- ==== Sys2Proof/Machine/Sync.lean ====
section
/-!
DEFINITION. Flags, barriers and the sync slot (05 R154, R155; 08 R213 to R235; 02 R59), and the events of the hub sync
unit (07 R206, 09 R244).
-/

namespace Sys2Proof.Machine

/-! Names (R215 to R217) -/

/-- The run that occupies core `c`. -/
def State.runOf (s : State) (c : Nat) : Option (Nat × Run) :=
  match (s.core c).run with
  | none => none
  | some r => (s.run? r).map (fun x => (r, x))

/-- The cores of a run on this module. -/
def State.coresOf (s : State) (r : Nat) : List Nat := (s.cores.filter (fun p => p.2.run == some r)).map (fun p => p.1)

/-- The map entry of a virtual flag of a run (R215, R216). -/
def State.flagEnt (s : State) (x : Run) (vid : BitVec 16) : Option DWord :=
  (x.tun.flagEnts s.moduleId).find? (fun e => bits e 0 16 == vid.toNat)

def flagKind (e : DWord) : Nat := bits e 16 2

/-- The physical flag allocated to a virtual flag of a run. -/
def State.physFlag (s : State) (r : Nat) (vid : BitVec 16) : Option Nat :=
  (s.syn.flags.find? (fun p => p.2.run == r && p.2.vid == vid)).map (fun p => p.1)

def State.physBarr (s : State) (r : Nat) (vid : BitVec 16) : Option Nat :=
  (s.syn.barriers.find? (fun p => p.2.run == r && p.2.vid == vid)).map (fun p => p.1)

/-- Change flag p, if it is allocated. -/
def State.modFlag (s : State) (p : Nat) (f : Flag → Flag) : State :=
  match kfind s.syn.flags p with
  | some x => { s with syn := { s.syn with flags := kset s.syn.flags p (f x) } }
  | none => s

def State.modBarr (s : State) (p : Nat) (f : Barrier → Barrier) : State :=
  match kfind s.syn.barriers p with
  | some x => { s with syn := { s.syn with barriers := kset s.syn.barriers p (f x) } }
  | none => s

/-! Flag stores and views (R218 to R223) -/

/-- Insert an update after every one that becomes visible no later. -/
def updInsert (x : ViewUpd) : List ViewUpd → List ViewUpd
  | [] => [x]
  | y :: ys => if y.cyc ≤ x.cyc then y :: updInsert x ys else x :: y :: ys

/-- Core b's view of a flag in cycle t. -/
def Flag.viewAt (f : Flag) (b t : Nat) : Bool :=
  f.upd.foldl (fun v u => if u.core = b && u.cyc ≤ t then u.val else v) (kget false f.view b)

/-- The cycle from which core b's view follows a change that reaches the store in cycle st: from the core that issued
it, or from the hub sync unit (R218, R219). -/
def State.visible (s : State) (origin : Option Nat) (st b : Nat) : Nat :=
  match origin with
  | some a => st + 1 + s.hopH a b
  | none => st + 40

/-- Views follow the change that the operations of cycle st bring: that of a core that issued one of them changes with the store, the
others follow the operation that stands (R218). -/
def State.spread (s : State) (f : Flag) (st : Nat) (cs : List Nat) : Flag :=
  cs.foldl (fun f b =>
    let u := if f.issuers.contains b then st + 1 else s.visible f.origin st b
    { f with upd := updInsert { core := b, st := st, cyc := u, val := f.value } f.upd }) f

/-- Whether signaller a = (module, core) ranks before b (R223). -/
def ranks (a b : Nat × Nat) : Bool := decide (a.1 < b.1) || (a.1 == b.1 && decide (a.2 < b.2))

/-- One race: SYN_RACE_COUNT and a schedule-violation event to the context (R223). -/
def State.flagRace (s : State) (f : Flag) : State :=
  let s := { s with syn := { s.syn with race := satAdd s.syn.race 1 } }
  match s.run? f.run with
  | some x => s.postEvent f.owner 0x04 0 0xFFFF x.job.toNat 0xFF
  | none => s

/-- An operation changes the store at the end of cycle st (R218): what stood there before is kept while a break or a debugger's
read can still come in that cycle (R223). -/
def Flag.noteBefore (f : Flag) (now st : Nat) : Flag :=
  { f with hist := (st, f.value, f.last, f.race) :: f.hist.filter (fun h => decide (now ≤ h.1)) }

/-- Value, last signaller and race in cycle t, before the operations of that cycle: those of the oldest change that is not past. -/
def Flag.before (f : Flag) (t : Nat) : Bool × Option (Nat × Nat) × Bool :=
  f.hist.foldl (fun v h => if t ≤ h.1 then h.2 else v) (f.value, f.last, f.race)

/-- The schedule cycle of a run that is in progress. -/
def State.nowRun (s : State) (r : Nat) : Nat := match s.run? r with | some x => s.nowOf x | none => 0

/-- Report the races that `due` selects; until then a break in the cycle of the race can discard its operations (R223). -/
def State.reportRaces (s : State) (due : Flag → Bool) : State :=
  s.syn.flags.foldl (fun s p =>
    if p.2.owed && due p.2 then (s.flagRace p.2).modFlag p.1 (fun f => { f with owed := false }) else s) s

/-- Races of cycles that have passed are reported. -/
def State.reportPast (s : State) : State := s.reportRaces (fun f => decide (f.cyc.getD 0 < s.nowRun f.run))

/-- The flag after an operation that meets others in one cycle, of which it wins where its rank is lower (R223). -/
def Flag.meet (f : Flag) (origin : Option Nat) (rank : Nat × Nat) (val : Bool) : Flag :=
  let race := f.setOp != val
  let wins := match f.last with | some l => ranks rank l | none => true
  let f := { f with owed := f.owed || (race && !f.race), race := f.race || race, issuers := f.issuers ++ origin.toList }
  if wins then { f with value := val, last := some rank, setOp := val, origin := origin } else f

/-- A set or clear reaches flag p's store in cycle st. Operations that meet there in one cycle resolve by rank; a broken
flag discards them (R223, R230). DEDUCED (log 62). DEDUCED (log 66). -/
def State.flagOp (s : State) (p : Nat) (origin : Option Nat) (rank : Nat × Nat) (st : Nat) (val : Bool) : State :=
  match kfind s.syn.flags p with
  | none => s
  | some f =>
    if f.broken then s
    else
      let cs := s.coresOf f.run
      if f.cyc = some st then
        let g := f.meet origin rank val
        s.modFlag p (fun _ => s.spread { g with upd := g.upd.filter (fun u => u.st != st) } st cs)
      else
        let s := if f.owed then s.flagRace f else s
        let g := { f.noteBefore (s.nowRun f.run) st with
          value := val, last := some rank, race := false, cyc := some st, setOp := val, origin := origin
          issuers := origin.toList, owed := false }
        s.modFlag p (fun _ => s.spread g st cs)

/-- A sync operation of core c completes in cycle t, for FENCE (R222). -/
def Core.syncDoneAt (k : Core) (t : Nat) : Core := { k with eng := { k.eng with syncDone := max k.eng.syncDone (t + 1) } }

/-- A set of a bridge by its setter's run (R232, R233). -/
def State.bridgeSet (s : State) (ctx b : Nat) : State :=
  match kfind s.syn.bridges b with
  | some x =>
    if x.enabled && x.setter == ctx then { s with syn := { s.syn with bridges := kset s.syn.bridges b { x with value := true } } }
    else s
  | none => s

/-- The slot on the first ring that a sync grain of core c to a module takes, from cycle t on: the first that none of its earlier
ones took (R222). -/
def State.syncSlotAt (s : State) (x : Run) (c m t : Nat) : Nat :=
  s.leavesAt x c m 0x3FC 0 (match kfind (s.core c).eng.syncSlots m with | some u => max t (u + 1) | none => t)

/-- FSET or FCLR by core c, which issues or acts in cycle i (R218, R219, R222). DEDUCED (log 65). -/
def State.flagSignal (s : State) (c i : Nat) (vid : BitVec 16) (val : Bool) : State :=
  match s.runOf c with
  | none => s
  | some (r, x) =>
    match s.flagEnt x vid with
    | none => s
    | some e =>
      let m := bits e 32 10
      let u := s.syncSlotAt x c m (i + 2)
      let done := fun (s : State) => s.modCore c (fun k =>
        { k.syncDoneAt u with eng := { (k.syncDoneAt u).eng with syncSlots := kset k.eng.syncSlots m u } })
      match flagKind e with
      | 0 =>
        let s := s.modCore c (fun k => k.syncDoneAt (i + 2))
        match s.physFlag r vid with
        | some p => s.flagOp p (some c) (s.moduleId, c) (i + 1) val
        | none => s
      | 1 => (done s).sendSync r c (u - 2) m (syncEntry (if val then 1 else 2) vid.toNat c s.moduleId 0 0 false)
      | 2 =>
        if val then (done s).sendSync r c (u - 2) m (syncEntry 3 vid.toNat c s.moduleId (bits e 42 10) (bits e 52 8) false)
        else done s
      | _ =>
        let s := s.modCore c (fun k => k.syncDoneAt (s.syncSlotAt x c s.moduleId (i + 2)))
        if val then s.bridgeSet x.ctx (bits e 52 6) else s

/-! Barrier trees (R224 to R226) -/

/-- The cluster of a core, as a node. -/
def Node.ofCore (c : Nat) : Node := .cluster (c / 4)

/-- Places of a cluster: its die and row. -/
def State.clDie (s : State) (k : Nat) : Nat := s.coreDie (4 * k)
def State.clRow (s : State) (k : Nat) : Nat := s.coreRow (4 * k)

def allSame (xs : List Nat) : Bool := xs.all (fun x => x == xs.getD 0 0)

/-- The module node: the lowest that covers the module's participants, or the package where the barrier spans modules
(R224). -/
def State.topNode (s : State) (b : Barrier) : Node :=
  let c0 := b.parts.getD 0 0
  if b.spans || b.parts.isEmpty || !allSame (b.parts.map s.coreDie) then .package
  else if !allSame (b.parts.map s.coreRow) then .die (s.coreDie c0)
  else if !allSame (b.parts.map (fun c => c / 4)) then .row (s.coreDie c0) (s.coreRow c0)
  else .cluster (c0 / 4)

/-- The parent of a node of the tree, and its number as that parent's child. -/
def State.upNode (s : State) (n : Node) : Node × Nat :=
  match n with
  | .cluster k => (.row (s.clDie k) (s.clRow k), k)
  | .row d r => (.die d, r)
  | .die d => (.package, d)
  | _ => (.root, s.moduleId)

/-- Latency between a node and its children, up and down (R224). -/
def Node.lat : Node → Nat
  | .cluster _ => 2
  | .row _ _ => 12
  | .die _ => 14
  | .package => 40
  | .root => 0

/-- The children of a node. -/
def State.children (s : State) (b : Barrier) (n : Node) : List Nat :=
  match n with
  | .cluster k => b.parts.filter (fun c => c / 4 == k)
  | .row d r => ((b.parts.filter (fun c => s.coreDie c == d && s.coreRow c == r)).map (fun c => c / 4)).eraseDups
  | .die d => ((b.parts.filter (fun c => s.coreDie c == d)).map s.coreRow).eraseDups
  | .package => (b.parts.map s.coreDie).eraseDups
  | .root => b.modules

/-- The node under a node for a child of it. -/
def Node.child (n : Node) (j : Nat) : Option Node :=
  match n with
  | .cluster _ => none
  | .row _ _ => some (.cluster j)
  | .die d => some (.row d j)
  | .package => some (.die j)
  | .root => none

/-- The run ends with OVERRUN, the overrun is logged and reported; cores that the barrier holds stay held (R226). -/
def State.overrun (s : State) (p : Nat) (b : Barrier) (core : Nat) : State :=
  let s := s.modBarr p (fun b => { b with overran := true })
  let s :=
    if bitOf s.syn.ovrLog 0 then s
    else
      { s with syn := { s.syn with
        ovrLog := BitVec.ofNat 32 (1 + 2 * (b.owner % 1024) + 2 ^ 11 * (p % 512) + 2 ^ 20 * (core % 1024)) } }
  let s :=
    match s.run? b.run with
    | some x => s.postEvent b.owner 0x04 0 core x.job.toNat 0xFF
    | none => s
  s.endRun b.run 0x0A

/-- A release in its place by cycle. -/
def relInsert (x : Release) : List Release → List Release
  | [] => [x]
  | y :: ys => if y.cyc ≤ x.cyc then y :: relInsert x ys else x :: y :: ys

def arrInsert (x : Arrival) : List Arrival → List Arrival
  | [] => [x]
  | y :: ys => if y.cyc ≤ x.cyc then y :: arrInsert x ys else x :: y :: ys

def State.pushArrival (s : State) (p : Nat) (a : Arrival) : State :=
  s.modBarr p (fun b => { b with arrivals := arrInsert a b.arrivals })

def State.pushRelease (s : State) (p : Nat) (a : Release) : State :=
  s.modBarr p (fun b => { b with releases := relInsert a b.releases })

/-- An arrival reaches its node (R225, R226). A broken barrier discards it (R230). -/
def State.arrive (s : State) (p : Nat) (a : Arrival) : State :=
  match kfind s.syn.barriers p with
  | none => s
  | some b =>
    let bit : NodeBit := { node := a.node, parity := a.parity, child := a.child }
    if b.broken then s
    else if b.bits.contains bit then s.overrun p b a.core
    else
      let b := { b with bits := bit :: b.bits }
      let s := s.modBarr p (fun _ => b)
      let full := (s.children b a.node).all (fun j =>
        b.bits.contains { node := a.node, parity := a.parity, child := j })
      if !full then s
      else
        match a.node with
        | .root =>
          let s := s.modBarr p (fun b => { b with
            bits := b.bits.filter (fun x => !(x.node == Node.root && x.parity == a.parity)) })
          b.modules.foldl (fun s m =>
            if m = s.moduleId then s.pushRelease p { node := .package, core := none, parity := a.parity, cyc := a.cyc }
            else s.sendHubSync b.run a.cyc m (syncEntry 5 b.vid.toNat 0x3FC s.moduleId 0 0 a.parity)) s
        | n =>
          if n = s.topNode b then
            if b.spans then
              if b.rootMod = s.moduleId then
                s.pushArrival p { node := .root, parity := a.parity, child := s.moduleId, core := a.core, cyc := a.cyc }
              else s.sendHubSync b.run a.cyc b.rootMod (syncEntry 4 b.vid.toNat a.core s.moduleId 0 0 a.parity)
            else s.pushRelease p { node := n, core := none, parity := a.parity, cyc := a.cyc }
          else
            let u := s.upNode n
            s.pushArrival p { node := u.1, parity := a.parity, child := u.2, core := a.core, cyc := a.cyc + u.1.lat }

/-- The oldest outstanding arrival of a barrier and parity, and the others (R225). -/
def takeArr (vid : BitVec 16) (par : Bool) : List OutArr → Option (OutArr × List OutArr)
  | [] => none
  | x :: xs =>
    if x.vid == vid && x.parity == par then some (x, xs)
    else (takeArr vid par xs).map (fun r => (r.1, x :: r.2))

/-- End a hold that satisfies `q`, frozen or not; the next ell issues no earlier than cycle t. -/
def Core.endHold (k : Core) (q : Hold → Bool) (t : Nat) : Core :=
  if k.hold != .free && q k.hold then { k with hold := .free, scyc := max k.scyc t }
  else
    match k.frozen with
    | some (ls, h) => if q h then { k with frozen := some (ls, .free) } else k
    | none => k

/-- Whether a hold is a BARR of a barrier and parity. -/
def Hold.isBarr (vid : BitVec 16) (par : Bool) : Hold → Bool
  | .barr v q _ => v == vid && q == par
  | _ => false

/-- A release reaches a core: its oldest outstanding arrival of the parity wakes; a BARR without NOWAIT holds the next ell
until the cycle after (R225), or for good after an overrun of the barrier (R226). -/
def Core.wake (k : Core) (vid : BitVec 16) (par overran : Bool) (t : Nat) : Core :=
  match takeArr vid par k.outArr with
  | none => k
  | some (x, rest) =>
    let k := { k with outArr := rest }.syncDoneAt t
    if x.nowait || overran then k else k.endHold (Hold.isBarr vid par) (t + 1)

/-- A release passes a node, clears its counter and goes on to its children, or wakes a core (R225). -/
def State.release (s : State) (p : Nat) (a : Release) : State :=
  match kfind s.syn.barriers p with
  | none => s
  | some b =>
    if b.broken then s
    else
      match a.core with
      | some c => s.modCore c (fun k => k.wake b.vid a.parity b.overran a.cyc)
      | none =>
        let s := s.modBarr p (fun b => { b with
          bits := b.bits.filter (fun x => !(x.node == a.node && x.parity == a.parity))
          gens := if a.node = s.topNode b then b.gens + 1 else b.gens })
        (s.children b a.node).foldl (fun s j =>
          match a.node.child j with
          | some n => s.pushRelease p { node := n, core := none, parity := a.parity, cyc := a.cyc + a.node.lat }
          | none => s.pushRelease p { node := a.node, core := some j, parity := a.parity, cyc := a.cyc + a.node.lat }) s

/-- Pass every release due in cycle t or earlier: an arrival of the same cycle is counted after the clear (R225). -/
def State.releasesUntil (s : State) (p t : Nat) : Nat → State
  | 0 => s
  | f + 1 =>
    match kfind s.syn.barriers p with
    | none => s
    | some b =>
      match b.releases with
      | [] => s
      | a :: rest =>
        if a.cyc ≤ t then ((s.modBarr p (fun b => { b with releases := rest })).release p a).releasesUntil p t f else s

/-! The sync slot (05 R154) -/

/-- Whether an object that a sync operation of core c names is broken (R229). -/
def State.nameBroken (s : State) (c : Nat) (barr : Bool) (vid : BitVec 16) : Bool :=
  match (s.core c).run with
  | none => false
  | some r =>
    if barr then s.syn.barriers.any (fun p => p.2.run == r && p.2.vid == vid && p.2.broken)
    else s.syn.flags.any (fun p => p.2.run == r && p.2.vid == vid && p.2.broken)

/-- A sync operation that names an object: where that is broken its ell does not issue and the core traps (R229); while a
handler runs the cause stays pending and the operation has no effect (log 25). DESIGN CHOICE (log 117): a precise cause of an
earlier slot of the ell comes before a broken object. -/
def State.syncSlot (s : State) (c : Nat) (e : EllEnd) (barr : Bool) (vid : BitVec 16) (f : State → State) : Out :=
  s.slot c 5 2 noQueue e (fun s =>
    if s.nameBroken c barr vid then
      if (s.core c).inHandler then s.raiseAsync c 0x09 (trapInfo 5 0 vid.toNat)
      else s.modCore c (fun k => k.modEll (fun l => { l with block := some (.broken vid) }))
    else f s)

def execFset (c : Nat) (e : EllEnd) (vid : BitVec 16) (s : State) : Out :=
  s.syncSlot c e false vid (fun s => s.flagSignal c (s.core c).scyc vid true)

def execFclr (c : Nat) (e : EllEnd) (vid : BitVec 16) (s : State) : Out :=
  s.syncSlot c e false vid (fun s => s.flagSignal c (s.core c).scyc vid false)

/-- FWAIT holds the next ell; the wait is satisfied at once where the view already equals VAL (R220). -/
def execFwait (c : Nat) (e : EllEnd) (vid : BitVec 16) (val autoclr : Bool) (s : State) : Out :=
  s.syncSlot c e false vid (fun s =>
    match (s.core c).run.bind (fun r => s.physFlag r vid) with
    | none => s
    | some p =>
      match kfind s.syn.flags p with
      | none => s
      | some f =>
        s.modCore c (fun k =>
          let met := if f.viewAt c k.scyc = val then some k.scyc else none
          { k with hold := .fwait vid val autoclr k.scyc met }))

/-- FTEST samples the core's view in cycle i; rd holds the result from i + 2 (R221). -/
def execFtest (c : Nat) (e : EllEnd) (vid : BitVec 16) (rd : BitVec 5) (s : State) : Out :=
  s.syncSlot c e false vid (fun s =>
    let v :=
      match (s.core c).run.bind (fun r => s.physFlag r vid) with
      | none => false
      | some p =>
        match kfind s.syn.flags p with
        | none => false
        | some f => f.viewAt c (s.core c).scyc
    s.modCore c (fun k => (k.later 2 true (.sreg rd (if v then 1 else 0))).syncDoneAt k.scyc))

/-- BARR: an arrival of the core's next generation, and unless NOWAIT a hold (R225). -/
def execBarr (c : Nat) (e : EllEnd) (vid : BitVec 16) (nowait : Bool) (s : State) : Out :=
  s.syncSlot c e true vid (fun s =>
    match (s.core c).run.bind (fun r => s.physBarr r vid) with
    | none => s
    | some p =>
      match kfind s.syn.barriers p with
      | none => s
      | some b =>
        let i := (s.core c).scyc
        let g := kget 0 b.coreGen c
        let par := decide (g % 2 = 1)
        let s := s.modBarr p (fun b => { b with coreGen := kset b.coreGen c (g + 1) })
        let s := s.pushArrival p { node := Node.ofCore c, parity := par, child := c, core := c, cyc := i + 2 }
        s.modCore c (fun k =>
          { k with
            outArr := k.outArr ++ [{ vid := vid, parity := par, nowait := nowait }]
            hold := if nowait then k.hold else .barr vid par i }))

/-- DIGEST: a digest point (02 R59). -/
def execDigest (c : Nat) (e : EllEnd) (s : State) : Out :=
  s.slot c 5 2 noQueue e (fun s => s.modCore c (fun k =>
    { k with dig := { k.dig with issued := k.dig.issued + 1, reached := kset k.dig.reached k.dig.issued k.scyc } }.syncDoneAt
      k.scyc))

/-- FENCE holds the next ell until the named units' operations have completed (R154). DEDUCED (log 60). -/
def execFence (c : Nat) (e : EllEnd) (mask : BitVec 5) (s : State) : Out :=
  s.slot c 5 2 noQueue e (fun s => s.modCore c (fun k => { k with hold := .fence mask k.scyc }))

/-- EVENT posts a program event (13 R364). -/
def execEvent (c : Nat) (e : EllEnd) (code : BitVec 16) (s : State) : Out :=
  s.slot c 5 2 noQueue e (fun s =>
    let s := s.modCore c (fun k => k.syncDoneAt k.scyc)
    match s.runOf c with
    | some (_, x) => s.postEvent x.ctx 0x01 0 c x.job.toNat code.toNat
    | none => s)

/-! Events -/

/-- The satisfied cycle of a core's FWAIT: that recorded, or the first cycle from issue on in which a change on its way
makes the view equal VAL (R220). -/
def State.fwaitMet (s : State) (c : Nat) (h : Hold) : Option Nat :=
  match h with
  | .fwait vid val _ i met =>
    match met with
    | some u => some u
    | none =>
      match (s.core c).run.bind (fun r => s.physFlag r vid) with
      | none => none
      | some p =>
        match kfind s.syn.flags p with
        | none => none
        | some f => (f.upd.find? (fun u => u.core == c && decide (i < u.cyc) && u.val == val)).map (fun u => u.cyc)
  | _ => none

/-- Whether a hold is an FWAIT. -/
def Hold.isFwait : Hold → Bool
  | .fwait _ _ _ _ _ => true
  | _ => false

/-- The hold of a core, or the one frozen with its loop state. -/
def Core.anyHold (k : Core) : Hold :=
  if k.hold != .free then k.hold
  else
    match k.frozen with
    | some (_, h) => h
    | none => .free

/-- FWAIT_WAKE: the wait of a held core is satisfied in cycle u; the next ell issues no earlier than u + 3, and with
AUTOCLR the wait acts as an FCLR of the core in cycle u (R220). A wait not satisfied goes on. -/
def execFwaitWake (c : Nat) (s : State) : Out :=
  s.coreEvent c (fun k =>
    match k.anyHold with
    | .fwait vid val auto i met =>
      match s.fwaitMet c (.fwait vid val auto i met) with
      | none => .next s
      | some u =>
        let s := s.modCore c (fun k => k.endHold Hold.isFwait (u + 3))
        .next (if auto then s.flagSignal c u vid false else s)
    | _ => .next s)

/-- Whether the units named by a FENCE have completed what was issued (R154, R222). -/
def Core.fenceDone (k : Core) (mask : BitVec 5) : Bool :=
  (!bitOf mask 0 || k.eng.loadQ.isEmpty) && (!bitOf mask 1 || k.eng.storeQ.isEmpty) &&
  (!bitOf mask 3 || (k.arr.queue.isEmpty && k.arr.columns.isEmpty && k.arr.jobs.all (fun j => !j.op.final || j.mark))) &&
  (!bitOf mask 4 || k.outArr.isEmpty)

/-- The cycle after the last named completion. -/
def Core.fenceAt (k : Core) (mask : BitVec 5) : Nat :=
  let g := fun (b : Nat) (t : Nat) => if bitOf mask b then t else 0
  max (g 0 k.eng.loadDone) (max (g 1 k.eng.storeDone) (max (g 2 k.eng.vecDone) (max (g 3 (k.arr.done + 1)) (g 4 k.eng.syncDone))))

/-- FENCE_RELEASE: the last named completion has arrived; the next ell issues in the later of i + 1 and the cycle after it
(05 R155, 08 R222). -/
def execFenceRelease (c : Nat) (s : State) : Out :=
  s.coreEvent c (fun k =>
    match k.anyHold with
    | .fence mask i =>
      if k.fenceDone mask then
        .next (s.modCore c (fun k => k.endHold (fun h => h == .fence mask i) (max (i + 1) (k.fenceAt mask))))
      else .next s
    | _ => .next s)

/-- FLAG_VIEW_UPDATE: the next change of flag p on its way to core c's view reaches it; a wait that it satisfies is
satisfied in that cycle (R218, R220). -/
def execFlagViewUpdate (p c : Nat) (s : State) : Out :=
  match kfind s.syn.flags p with
  | none => .fault .noSuchUnit
  | some f =>
    match f.upd.find? (fun u => u.core == c) with
    | none => .next s
    | some u =>
      let s := s.modFlag p (fun f => { f with view := kset f.view c u.val, upd := f.upd.erase u })
      let met := fun (h : Hold) =>
        match h with
        | .fwait vid val auto i none =>
          if vid == f.vid && val == u.val && decide (i < u.cyc) then Hold.fwait vid val auto i (some u.cyc) else h
        | h => h
      .next (if (s.core c).run == some f.run then
          s.modCore c (fun k => { k with hold := met k.hold, frozen := k.frozen.map (fun q => (q.1, met q.2)) })
        else s)

/-- Of the arrivals of the first one's cycle, one whose bit its counter does not hold, if there is one: it may complete a
generation whose release clears the bits that others find (R225). -/
def Barrier.nextArrival (b : Barrier) (a : Arrival) : Arrival :=
  (b.arrivals.find? (fun x => x.cyc == a.cyc &&
    !b.bits.contains { node := x.node, parity := x.parity, child := x.child })).getD a

/-- BARRIER_ARRIVAL: the next arrival of barrier p reaches its node, after the releases due by then (R225). -/
def execBarrierArrival (p : Nat) (s : State) : Out :=
  match kfind s.syn.barriers p with
  | none => .fault .noSuchUnit
  | some b =>
    match b.arrivals with
    | [] => .next s
    | a :: _ =>
      let s := s.releasesUntil p a.cyc 4096
      match kfind s.syn.barriers p with
      | none => .next s
      | some b =>
        let a := b.nextArrival a
        .next ((s.modBarr p (fun b => { b with arrivals := b.arrivals.erase a })).arrive p a)

/-- BARRIER_RELEASE: the next release of barrier p passes its node or reaches its core (R225). -/
def execBarrierRelease (p : Nat) (s : State) : Out :=
  match kfind s.syn.barriers p with
  | none => .fault .noSuchUnit
  | some b =>
    match b.releases with
    | [] => .next s
    | a :: rest => .next ((s.modBarr p (fun b => { b with releases := rest })).release p a)

/-- Whether a store or column that counts at digest point L or before has not yet formed its bytes (02 R59). -/
def Core.digestPending (k : Core) (l : Nat) : Bool :=
  let col := fun (o : MatOp) => o.final && !o.outv && decide (o.epoch ≤ l)
  k.eng.storeQ.any (fun o => decide (o.epoch ≤ l)) || k.arr.queue.any col || k.arr.jobs.any (fun j => !j.mark && col j.op) ||
    k.arr.columns.any (fun x => !x.outv && decide (x.epoch ≤ l))

/-- DIGEST_HANDOVER: once every store and column before the point has formed its bytes, the core hands over D_c and its
count and resets them (02 R59). -/
def execDigestHandover (c : Nat) (s : State) : Out :=
  s.coreEvent c (fun k =>
    let l := k.dig.handed
    if k.dig.issued ≤ l || k.digestPending l then .next s
    else
      match k.run with
      | none => .next s
      | some r =>
        let d := kget (0, 0) k.dig.sums l
        let at_ := kget 0 k.dig.reached l
        let s := s.modCore c (fun k => { k with
          dig := { k.dig with sums := kdel k.dig.sums l, handed := l + 1, reached := kdel k.dig.reached l } })
        .next (s.modRun r (fun x => { x with handed := x.handed ++ [(c, l, d.1, d.2, at_)] })))

/-- Whether a core is held on FWAIT or BARR, or has halted, with no load, store or matrix operation in progress (R227). -/
def Core.deadlocked (k : Core) : Bool :=
  (k.halted ||
    match k.hold with
    | .fwait _ _ _ _ _ => true
    | .barr _ _ _ => true
    | _ => false) &&
  k.eng.loadQ.isEmpty && k.eng.storeQ.isEmpty && k.arr.queue.isEmpty && k.arr.jobs.isEmpty && k.arr.columns.isEmpty

/-- The identifier that a core waits on, and whether it is a barrier. -/
def Core.waitsOn (k : Core) : Option (BitVec 16 × Bool) :=
  match k.hold with
  | .fwait v _ _ _ _ => some (v, false)
  | .barr v _ _ => some (v, true)
  | _ => none

/-- Whether every core of a run on this module is held or has halted, with nothing in progress. -/
def State.allHeld (s : State) (r : Nat) : Bool := (s.coresOf r).all (fun c => (s.core c).deadlocked)

/-- The schedule cycle from which a core that is held or has halted does nothing: it is held, and its loads, stores and matrix
operations have completed (R227). -/
def Core.stillFrom (k : Core) : Nat :=
  let held :=
    match k.hold with
    | .fwait _ _ _ i _ => i
    | .barr _ _ i => i
    | _ => 0
  max held (max k.eng.loadDone (max k.eng.storeDone k.arr.done))

/-- Whether a core of the run was held in cycle t, or had halted, with nothing in progress. -/
def Core.heldSince (k : Core) (t : Nat) : Bool := decide (k.stillFrom ≤ t)

/-- The watch for deadlock at a tick: the schedule cycle since which the condition holds; a grain of the run that lands clears
it. Cycles in which the module stalls are no schedule cycles (R227). -/
def State.watchDead (s : State) (r : Nat) (x : Run) : State :=
  let since := (s.coresOf r).foldl (fun t c => max t (s.core c).stillFrom) (x.dlSince.getD (s.nowOf x))
  s.modRun r (fun y => { y with dlSince := if s.allHeld r then some since else none })

/-- DEADLOCK: the condition has held for SYN_DL_TIMEOUT times 1,024 schedule cycles; it is logged and reported and the run ends
with TIMEOUT (R227). A run for which it has not is not touched. DEDUCED (log 133). -/
def execDeadlock (r : Nat) (s : State) : Out :=
  match s.run? r with
  | none => .fault .noSuchUnit
  | some x =>
    let cs := s.coresOf r
    match cs.filter (fun c => (s.core c).waitsOn.isSome), x.dlSince with
    | [], _ => .next s
    | _, none => .next s
    | c :: _, some u =>
      if x.phase != .active || !s.allHeld r || !(cs.all (fun c => (s.core c).heldSince u)) ||
          decide (s.nowOf x < u + s.syn.dlTimeout.toNat * 1024) then .next s
      else
        let w := (s.core c).waitsOn.getD (0, false)
        let s :=
          if bitOf s.syn.dlLog 0 then s
          else
            { s with syn := { s.syn with
              dlLog := BitVec.ofNat 32 (1 + 2 * (x.ctx % 1024))
              dlInfo := BitVec.ofNat 32 (c % 1024 + 2 ^ 10 * w.1.toNat + 2 ^ 26 * b2n w.2) } }
        .next ((s.postEvent x.ctx 0x07 0 c x.job.toNat (c % 1024 + 2 ^ 10 * w.1.toNat)).endRun r 0x07)

/-- The object of an FWAIT or BARR. -/
def Hold.object : Hold → Option (BitVec 16)
  | .fwait v _ _ _ _ => some v
  | .barr v _ _ => some v
  | _ => none

/-- Core c loses its object: a hold on it, frozen under a handler or of the handler itself, ends for good, and BROKEN_OBJECT is
pending; outstanding arrivals complete (R229). -/
def State.breakCore (s : State) (c now : Nat) : State :=
  let k := s.core c
  let cut := fun (h : Hold) => if h.object.isSome then Hold.free else h
  let s := s.modCore c (fun k => { (if k.outArr.isEmpty then k else k.syncDoneAt now) with
    outArr := []
    frozen := k.frozen.map (fun q => (q.1, cut q.2))
    hold := if k.inHandler then cut k.hold else k.hold
    scyc := if k.inHandler && k.hold.object.isSome then max k.scyc now else k.scyc })
  (k.hold.object.toList ++ (k.frozen.bind (fun q => q.2.object)).toList).foldl
    (fun s v => s.raiseAsyncAt c 0x09 (trapInfo 5 0 v.toNat) now) s

/-- Break every object of a run: operations on their way, those that reach the store in this cycle too, are discarded, and cores
held on an object get BROKEN_OBJECT (R223, R228 to R230). -/
def State.breakRun (s : State) (r : Nat) : State :=
  let fresh := s.syn.flags.any (fun p => p.2.run == r && !p.2.broken) ||
    s.syn.barriers.any (fun p => p.2.run == r && !p.2.broken)
  let now := s.nowRun r
  let s := s.reportPast
  let s := { s with syn := { s.syn with
    flags := kmap (fun _ f =>
      if f.run = r && !f.broken then
        { f with
          broken := true, upd := [], hist := [], value := (f.before now).1, last := (f.before now).2.1
          race := (f.before now).2.2, owed := false }
      else f) s.syn.flags
    barriers := kmap (fun _ b => if b.run = r then { b with broken := true, arrivals := [], releases := [] } else b)
      s.syn.barriers } }
  if !fresh then s else (s.coresOf r).foldl (fun s c => s.breakCore c now) s

/-- OBJECT_BREAK (R229). -/
def execObjectBreak (r : Nat) (s : State) : Out :=
  match s.run? r with
  | none => .fault .noSuchUnit
  | some _ => .next (s.breakRun r)

/-- Whether a core waits, held or for a queue, so that it takes an asynchronous cause at once (05 R159). -/
def Core.waits (k : Core) : Bool := k.hold != .free || k.waitQ

/-- The first cycle in which a cause is pending, none where none is. -/
def Core.causeCycle (k : Core) : Option Nat :=
  k.asyncQ.foldl (fun m x => some (match m with | none => x.cyc | some t => min t x.cyc)) none

/-- TRAP_ENTRY: the lowest pending asynchronous cause, one that the array has met by then included, is taken: with the next
ell, or at once, in the first cycle in which one is pending, by a core that is held or waits for a queue (05 R158 to R160).
While a handler runs, after HALT and with no cause nothing happens. -/
def execTrapEntry (c : Nat) (s : State) : Out :=
  s.coreEvent c (fun k =>
    if k.inHandler || k.halted || !s.running c then .next s
    else
      let now := if k.waits then max k.scyc (match k.run with | some r => s.nowRun r | none => 0) else k.scyc
      let u := s.arrayAt c now
      match (u.core c).causeCycle with
      | none => .next s
      | some t =>
        if now < t then .next s
        else .next ((u.modCore c (fun x => { x with scyc := max k.scyc t })).takeAsync c))

/-! Entries of sync grains (09 R244) -/

/-- A credit returns to a pool; above its limit it is discarded with a schedule-violation event (07 R206). -/
def State.creditBack (s : State) (c p t : Nat) : State :=
  match kfind (s.core c).pools p with
  | none => s.violation c
  | some x =>
    if x.count ≥ x.limit then s.violation c
    else
      s.modCore c (fun k => { k with
        pools := kset k.pools p { x with count := x.count + 1, since := if x.count = 0 then t else x.since } })

/-- One sync entry of a run, landing in cycle t (R219, 07 R206, 08 R225). An identifier that is no LOCAL flag, barrier or
core of the run discards it. -/
def State.syncApply (s : State) (r : Nat) (e : Nat) (t : Nat) : State :=
  let vid := BitVec.ofNat 16 (e / 2 ^ 4)
  let score := e / 2 ^ 20 % 1024
  let smod := e / 2 ^ 30 % 1024
  let par := decide (e / 2 ^ 58 % 2 = 1)
  match e % 16 with
  | 1 => match s.physFlag r vid with | some p => s.flagOp p none (smod, score) t true | none => s
  | 2 => match s.physFlag r vid with | some p => s.flagOp p none (smod, score) t false | none => s
  | 3 =>
    let c := e / 2 ^ 40 % 1024
    if (s.core c).run == some r then s.creditBack c (e / 2 ^ 50 % 256) t else s
  | 4 =>
    match s.physBarr r vid with
    | some p => s.pushArrival p { node := .root, parity := par, child := smod, core := score, cyc := t }
    | none => s
  | 5 =>
    match s.physBarr r vid with
    | some p => s.pushRelease p { node := .package, core := none, parity := par, cyc := t }
    | none => s
  | _ => s

end Sys2Proof.Machine
end

