-- ==== Sys2Proof/Machine/Links.lean ====
section
/-!
DEFINITION. The Untia ports: codewords, control grains, training, received grains, NAKs and re-sends, loss of a path, and
time transfer (09 R253 to R263; 10 R274 to R278, R292, R293).
-/

namespace Sys2Proof.Machine

/-! The Reed–Solomon code over GF(2^10) (09 R254, R255) -/

/-- Times α, with α^10 = α^3 + 1. -/
def gfX (a : Nat) : Nat := if a ≥ 512 then (2 * a % 1024) ^^^ 9 else 2 * a

def gfMulGo : Nat → Nat → Nat → Nat → Nat
  | 0, _, _, acc => acc
  | n + 1, a, b, acc => gfMulGo n (gfX a) (b / 2) (if b % 2 = 1 then acc ^^^ a else acc)

/-- Product in the field. -/
def gfMul (a b : Nat) : Nat := gfMulGo 10 a b 0

def gfPow (a : Nat) : Nat → Nat
  | 0 => 1
  | n + 1 => gfMul a (gfPow a n)

/-- a^(2^n − 1), by squaring. -/
def gfPows (a : Nat) : Nat → Nat
  | 0 => 1
  | n + 1 => gfMul a (gfMul (gfPows a n) (gfPows a n))

/-- The inverse: a^1022, the square of a^511. -/
def gfInv (a : Nat) : Nat := gfMul (gfPows a 9) (gfPows a 9)

/-- α^i. -/
def gfAlpha : Nat → Nat
  | 0 => 1
  | n + 1 => gfX (gfAlpha n)

/-- The value at x of a polynomial given highest coefficient first. -/
def gfEval (x : Nat) (cs : List Nat) : Nat := cs.foldl (fun acc c => gfMul acc x ^^^ c) 0

/-- The 16 syndromes of a codeword in the order in which it is sent. -/
def syndromes (cs : List Nat) : List Nat := (List.range 16).map (fun i => gfEval (gfAlpha i) cs)

/-- A working state of the search for the shortest recurrence of the syndromes. -/
structure Bm where
  c : List Nat
  b : List Nat
  l : Nat
  m : Nat
  d : Nat
deriving DecidableEq, Repr

/-- c − f x^m b, coefficients lowest first. -/
def polySub (c b : List Nat) (f m : Nat) : List Nat :=
  let t := List.replicate m 0 ++ b.map (gfMul f)
  (List.range (max c.length t.length)).map (fun i => c.getD i 0 ^^^ t.getD i 0)

/-- One step of the search at syndrome n. -/
def Bm.step (s : List Nat) (q : Bm) (n : Nat) : Bm :=
  let d := (List.range (q.l + 1)).foldl (fun acc i => acc ^^^ gfMul (q.c.getD i 0) (s.getD (n - i) 0)) 0
  if d = 0 then { q with m := q.m + 1 }
  else
    let c := polySub q.c q.b (gfMul d (gfInv q.d)) q.m
    if 2 * q.l ≤ n then { c := c, b := q.c, l := n + 1 - q.l, m := 1, d := d } else { q with c := c, m := q.m + 1 }

/-- Formal derivative of a polynomial, lowest coefficient first: the odd coefficients. -/
def polyDeriv (c : List Nat) : List Nat := (List.range (c.length - 1)).map (fun i => if i % 2 = 0 then c.getD (i + 1) 0 else 0)

/-- Product of two polynomials modulo x^n, coefficients lowest first. -/
def polyMulMod (n : Nat) (a b : List Nat) : List Nat :=
  (List.range n).map (fun k => (List.range (k + 1)).foldl (fun acc i => acc ^^^ gfMul (a.getD i 0) (b.getD (k - i) 0)) 0)

/-- The value at x, coefficients lowest first. -/
def polyAt (x : Nat) (c : List Nat) : Nat := gfEval x c.reverse

/-- The error positions of a codeword with its syndromes, and the locator: the degree j of each symbol in error; none where the
codeword is not correctable: more than eight errors, or a locator without all its roots among the 256 positions. -/
def rsLocate (s : List Nat) : Option (List Nat × List Nat) :=
  let q := (List.range 16).foldl (Bm.step s) { c := [1], b := [1], l := 0, m := 1, d := 1 }
  let loc := q.c.take (q.l + 1)
  let roots := (List.range 256).filter (fun j => polyAt (gfAlpha ((1023 - j) % 1023)) loc == 0)
  if q.l ≤ 8 && roots.length == q.l then some (roots, loc) else none

/-- The codeword with up to 8 symbol errors corrected, and their number; none where it is not correctable (R255). The value of
the error at degree j is X Ω(1/X) / Λ'(1/X) with X = α^j. -/
def rsDecode (cs : List Nat) : Option (List Nat × Nat) :=
  let s := syndromes cs
  if s.all (fun x => x == 0) then some (cs, 0)
  else
    (rsLocate s).map (fun r =>
      let om := polyMulMod 16 s r.2
      let dv := polyDeriv r.2
      let fix := fun (u x : Nat) =>
        if r.1.contains (255 - u) then
          let y := gfAlpha ((1023 - (255 - u)) % 1023)
          x ^^^ gfMul (gfInv y) (gfMul (polyAt y om) (gfInv (polyAt y dv)))
        else x
      (cs.zipIdx.map (fun p => fix p.2 p.1), r.1.length))

/-- g(x) = (x − α^0) … (x − α^15), highest coefficient first (R254). -/
def rsGen : List Nat :=
  (List.range 16).foldl (fun g i => List.zipWith (· ^^^ ·) (g ++ [0]) (0 :: g.map (gfMul (gfAlpha i)))) [1]

/-- The 16 symbols of msg(x) mod g(x), highest first: one message symbol at a time. -/
def rsParity (ms : List Nat) : List Nat :=
  let tail := rsGen.drop 1
  ms.foldl (fun r m =>
    let f := m ^^^ r.headD 0
    List.zipWith (· ^^^ ·) (r.drop 1 ++ [0]) (tail.map (gfMul f))) (List.replicate 16 0)

/-- encode: the 256 symbols of 300 data bytes in the order in which they are sent (R254). -/
def rsEncode (d : List Byte) : List Nat :=
  let n := leNat d
  let ms := (List.range 240).map (fun t => n / 2 ^ (10 * t) % 1024)
  ms ++ rsParity ms

/-- The 300 data bytes of a codeword. -/
def rsData (cs : List Nat) : List Byte := leBytes 300 ((cs.take 240).foldr (fun x n => x % 1024 + 1024 * n) 0)

/-! Signalling (09 R253) -/

/-- PAM4 levels of a symbol, two bits a unit interval, the first the less significant, Gray coded: 00, 01, 11, 10 upwards. -/
def levelOf (v : Nat) : Nat := v ^^^ v / 2
def symLevels (x : Nat) : List Nat := (List.range 5).map (fun i => levelOf (x / 4 ^ i % 4))
def levelsSym (ls : List Nat) : Nat := ls.foldr (fun l n => levelOf l + 4 * n) 0

/-- The two lanes of a codeword: symbol u on lane u mod 2. -/
def toLanes (cs : List Nat) : List (List Nat) × List (List Nat) :=
  ((cs.zipIdx.filter (fun p => p.2 % 2 == 0)).map (fun p => symLevels p.1),
    (cs.zipIdx.filter (fun p => p.2 % 2 == 1)).map (fun p => symLevels p.1))

def fromLanes (l : List (List Nat) × List (List Nat)) : List Nat :=
  (List.zipWith (fun a b => [levelsSym a, levelsSym b]) l.1 l.2).flatMap id

/-- One bit of the scrambling sequence of x^31 + x^28 + 1 and the next state (09 R253, log 8). -/
def scrambleBit (s : BitVec 31) : Bool × BitVec 31 :=
  let b := bitOf s 30 != bitOf s 27
  (b, (s <<< 1) ||| BitVec.ofNat 31 (b2n b))

/-- Descramble the n bits of a symbol, bit 0 first. -/
def descrambleSym : Nat → Nat → Nat → BitVec 31 → Nat × BitVec 31
  | 0, _, _, st => (0, st)
  | n + 1, v, w, st =>
    let r := scrambleBit st
    let q := descrambleSym n (v / 2) (2 * w) r.2
    ((if decide (v % 2 = 1) != r.1 then w else 0) + q.1, q.2)

/-- XOR the bits of symbols with the sequence: scrambling, and its reverse. -/
def descramble : List Nat → BitVec 31 → List Nat × BitVec 31
  | [], st => ([], st)
  | x :: xs, st =>
    let r := descrambleSym 10 x 1 st
    let q := descramble xs r.2
    (r.1 :: q.1, q.2)

/-- Received bytes fill the slots of a frame, 72 bytes each; a grain with a byte of a lost codeword is replaced by an idle grain
(R255, R256). -/
def Port.takeSlots : Nat → Port → Port
  | 0, x => x
  | f + 1, x =>
    if x.rxBytes.length < 72 then x
    else
      let b := x.rxBytes.take 72
      let g : Grain := if b.all (fun y => y.isSome) then BitVec.ofNat 576 (leNat (b.map (fun y => y.getD 0))) else idleGrain
      { x with rxBytes := x.rxBytes.drop 72, rxSlot := (x.rxSlot + 1) % 50, rxQ := x.rxQ ++ [(x.rxSlot, g)] }.takeSlots f

/-- A descrambled codeword is decoded and counted, and its data bytes go on to the slots once the port has frame lock (R255). -/
def Port.takeWord (x : Port) (cs : List Nat) : Port :=
  let x := { x with fecCw := satAdd x.fecCw 1 }
  let put := fun (x : Port) (bs : List (Option Byte)) =>
    if x.frameLock then { x with rxBytes := x.rxBytes ++ bs }.takeSlots 6 else x
  match rsDecode cs with
  | none => put { x with fecUncorr := satAdd x.fecUncorr 1 } (List.replicate 300 none)
  | some (w, n) =>
    put (if n = 0 then x else { x with fecCorr := satAdd x.fecCorr 1, fecSym := satAdd x.fecSym n }) ((rsData w).map some)

/-- A codeword arrives at a port. -/
def Port.receive (x : Port) (symbols : List Nat) : Port :=
  let d := descramble symbols x.scramble
  { x with scramble := d.2 }.takeWord d.1

/-- Whether the port grants its partner's far-end loop (R265). -/
def State.farAck (s : State) (p : Nat) : Bool :=
  let x := s.port p
  x.farReq && x.maint && x.allowFar && !s.portUsed p

/-- Whether a port is in a loop-back of the given depth (R264). -/
def Port.looped (x : Port) (depth : Nat) : Bool := x.st == 6 && x.loopSel.toNat == depth

/-- A scrambled codeword leaves by a port: in loop-back 3 it comes back to the port's own descrambler, in loop-back 4 by the
serialiser's lanes and levels too, else it is on the line (R253, R264). -/
def State.putWord (s : State) (p : Nat) (w : List Nat) : State :=
  if (s.port p).looped 3 then s.modPort p (fun x => x.receive w)
  else if (s.port p).looped 4 then s.modPort p (fun x => x.receive (fromLanes (toLanes w)))
  else { s with wire := (p, toLanes w) :: s.wire }

/-- Slot k of the frame that a port sends takes a grain; every 300 bytes make a codeword, which is encoded and scrambled, and the
scrambler runs on (R253, R254, R256). A port begins with slot 0 of a frame. -/
def State.pushSlot (s : State) (p k : Nat) (g : Grain) : State :=
  let x := s.port p
  if x.txSlot != k && k != 0 then s
  else
    let bs := (if k = 0 then [] else x.txBytes) ++ bytesOf g 72
    if bs.length < 300 then s.setPort p { x with txSlot := k + 1, txBytes := bs }
    else
      let w := descramble (rsEncode (bs.take 300)) x.txScramble
      (s.setPort p { x with txSlot := k + 1, txBytes := bs.drop 300, txScramble := w.2 }).putWord p w.1

/-- A grain leaves by a port in slot k; one in the router loop-back comes back to the router's input in its slot (R264). -/
def State.emit (s : State) (p k : Nat) (g : Grain) : State :=
  let x := s.port p
  if x.looped 2 then s.modPort p (fun x => { x with rxQ := x.rxQ ++ [(k, g)] })
  else if x.looped 3 || x.looped 4 then s.pushSlot p k g
  else (s.transmit p g).pushSlot p k g

/-- Whether a port sends frames: it is in frame lock, in the exchange or active, in a loop-back that goes by its encoder or its
partner, or answers a partner that asks for a far-end loop (R257, R258, R264, R265). -/
def Port.sendsFrames (x : Port) : Bool :=
  (decide (x.st ≥ 4) && x.st != 6) || x.looped 3 || x.looped 4 || x.looped 5 || x.farReq

/-- A slot that nothing else has taken carries an idle grain (R241), or, at a port that grants a far-end loop, the next grain that
the loop returns (R264). -/
def State.fillSlot (s : State) (p k : Nat) : State :=
  let x := s.port p
  if !x.sendsFrames || x.txSlot != k then s
  else
    match x.retQ with
    | g :: gs => if s.farAck p && k % 25 != 0 then (s.setPort p { x with retQ := gs }).emit p k g else s.pushSlot p k idleGrain
    | [] => s.pushSlot p k idleGrain

/-- CODEWORD_RECEIVE: a codeword of 256 symbols arrives at a port with codeword lock; it is descrambled, decoded and
counted (R255). A port that grants a far-end loop sends the grains that it decodes back, encoded anew; its control slots carry its
own control grains, which grant the loop (R264, R265). -/
def execCodewordReceive (port : Nat) (symbols : List (BitVec 10)) (s : State) : Out :=
  if port ≥ 32 then .fault .noSuchUnit
  else
    let x := s.port port
    if !x.cwLock || symbols.length != 256 then .next s
    else
      let y := x.receive (symbols.map (fun v => v.toNat))
      let new := (y.rxQ.drop x.rxQ.length).filter (fun e => e.1 % 25 != 0)
      .next (s.setPort port (if s.farAck port then { y with retQ := y.retQ ++ new.map (fun e => e.2) } else y))

/-! NAKs (R259 to R261) -/

/-- A NAK entry. -/
def nakWord (src reason seq : Nat) : DWord := BitVec.ofNat 64 (src % 1024 + 1024 * reason + 4096 + 65536 * (seq % 2 ^ 32))

/-- A link-local NAK entry of a frame and slot. -/
def nakLocal (frame slot : Nat) : DWord :=
  BitVec.ofNat 64 (0x3FF + 1024 * 2 + 4096 + 65536 * (frame % 65536) + 2 ^ 32 * (slot % 64))

/-- Queue a NAK entry at a port. -/
def State.queueNak (s : State) (port : Nat) (w : DWord) : State := s.modPort port (fun x => { x with naks := x.naks ++ [w] })

/-- Refuse the grain expected in a slot: a NAK goes back from the port at which it was expected (R259). Its place on its stream is
kept for the copy (R243). -/
def State.refuse (s : State) (port r src seq reason dcore strm q t : Nat) : State :=
  let n : OutNak := { run := r, dcore := dcore, strm := strm, src := src, seq := seq, tries := 0, q := q, t := t }
  { s with lnk := { s.lnk with outNaks := s.lnk.outNaks ++ [n] } }.queueNak port (nakWord src reason seq)

/-- The oldest outstanding NAK for a DCORE and STREAM, and the others (R260). -/
def takeNak (dcore strm : Nat) : List OutNak → Option (OutNak × List OutNak)
  | [] => none
  | x :: xs =>
    if x.dcore == dcore && x.strm == strm then some (x, xs) else (takeNak dcore strm xs).map (fun r => (r.1, x :: r.2))

/-- Refuse a re-sent copy: a second one ends the run with ABORTED (R261). -/
def State.refuseCopy (s : State) (port dcore strm reason : Nat) : State :=
  match takeNak dcore strm s.lnk.outNaks with
  | none => s
  | some (n, rest) =>
    if n.tries ≥ 1 then { s with lnk := { s.lnk with outNaks := rest } }.endRun n.run 0x06
    else
      { s with lnk := { s.lnk with outNaks := { n with tries := n.tries + 1 } :: rest } }.queueNak port
        (nakWord n.src reason n.seq)

/-- The port by which a NAK that arrived at a port goes on towards its source: the inbound port of a stream that leaves by the port
at which the NAK arrived, and of several that on the route to the source (R259). DEDUCED (log 134). -/
def State.nakPort (s : State) (port src : Nat) : Option Nat :=
  let ins := s.activeRuns.flatMap (fun e =>
    let ts := (s.slotsOf e.2).filter (fun t => t.kind == 4)
    (ts.filter (fun t => !t.inward && t.res == port)).filterMap (fun t =>
      (ts.find? (fun y => y.inward && y.carries t.dmod t.dcore t.stream)).map (fun y => y.res)))
  match s.route src with
  | some p => if ins.isEmpty || ins.contains p then some p else ins.head?
  | none => ins.head?

/-- A NAK entry arrives at a port: a link-local one is logged, another goes on against its grain's route, and one for a grain of this module
queues a re-send at the grain's first port, unless it is no longer retained (R259 to R261, R263). DEDUCED (log 17): of
several retained grains with the number the newest is meant. -/
def State.nakIn (s : State) (port : Nat) (w : DWord) : State :=
  if !bitOf w 12 then s
  else
    let s := s.modPort port (fun x => { x with nakRx := satAdd x.nakRx 1 })
    let src := bits w 0 10
    if src = 0x3FF then
      s.modPort port (fun x =>
        if bits w 10 2 == 2 && !bitOf x.malLog 0 then
          { x with malLog := BitVec.ofNat 32 (3 + 32 * bits w 32 6 + 2048 * bits w 16 16) }
        else x)
    else if src = s.moduleId then
      match s.lnk.retained.find? (fun e => e.seq == bits w 16 32) with
      | none => s
      | some e =>
        if e.sent ≥ 2 then s
        else
          let s := { s with lnk := { s.lnk with
            retained := s.lnk.retained.map (fun x => if x = e then { x with sent := x.sent + 1 } else x) } }
          s.modPort e.port (fun x => { x with resendQ := x.resendQ ++ [(some e.run, Grain.asResent e.g)] })
    else
      match s.nakPort port src with
      | some p => s.queueNak p w
      | none => s.noRoute

/-- NAK_RECEIVE (R260). -/
def execNakReceive (port : Nat) (nak : DWord) (s : State) : Out :=
  if port ≥ 32 then .fault .noSuchUnit else .next (s.nakIn port nak)

/-- Whether a retry slot, 24 or 49, of the tick in progress is still free at a port (R256). -/
def State.retryFree (s : State) (x : Port) : Bool :=
  (s.chn.count % 24 == 11 || s.chn.count % 24 == 23) && x.retryAt != some s.chn.count

/-- RESEND: the next re-sent grain of a port leaves in a retry slot; one of this module is counted (R260). -/
def execResend (port : Nat) (s : State) : Out :=
  if port ≥ 32 then .fault .noSuchUnit
  else
    let x := s.port port
    match x.resendQ with
    | [] => .next s
    | (own, g) :: rest =>
      if !x.active || !s.retryFree x then .next s
      else
        let k := if s.chn.count % 24 = 11 then 24 else 49
        let s := (s.setPort port { x with resendQ := rest, retryAt := some s.chn.count }).emit port k g
        match own with
        | none => .next s
        | some r =>
          let s := s.modPort port (fun x => { x with resend := satAdd x.resend 1 })
          let s := { s with det := { s.det with resend := s.det.resend.add 1 } }
          .next (s.modRun r (fun x => { x with counts := { x.counts with resend := x.counts.resend + 1 } }))

/-! Loss of a port (09 R258; 10 R292, R293) -/

/-- A management payload (10 R281): `rest` stands from byte 16. -/
def State.mgmtPayload (s : State) (type job : Nat) (rest : List Byte) : Payload :=
  payloadOf ([BitVec.ofNat 8 type, 0] ++ leBytes 2 s.moduleId ++ [0, 0, 0, 0] ++ leBytes 8 job ++ rest)

/-- Send a management grain to a module. -/
def State.sendMgmt (s : State) (dmod type job : Nat) (rest : List Byte) : State :=
  s.sendRouted (mkGrain dmod 0x3FD 0 3 false false (s.mgmtPayload type job rest))

/-- Send a management grain to every other participant of a run. -/
def State.toParticipants (s : State) (x : Run) (type : Nat) (rest : List Byte) : State :=
  (x.tun.participants.filter (fun m => m != s.moduleId)).foldl (fun s m => s.sendMgmt m type x.job.toNat rest) s

/-- A participant learns of a path loss, detected in furlong d at a port of module `owner` (10 R293). -/
def State.learnLoss (s : State) (r d owner port : Nat) : State :=
  match s.run? r with
  | none => s
  | some x =>
    if x.mode != 2 then s.endRun r 0x05
    else if d + 2 ≤ x.furlong || (x.tun.detour s.moduleId owner port).isNone then s.endRun r 0x05
    else s.setRun r { x with openFeat := x.openFeat ||| 4, detourAt := some (owner * 32 + port, d + 2) }

/-- The loss of a port for one run that uses it (10 R292). -/
def State.lossFor (s : State) (port : Nat) (reset : Bool) (r : Nat) (x : Run) : State :=
  let s := s.postEvent x.ctx 0x03 0x05 0xFFFF x.job.toNat (port + 65536 * (partnerOf (s.moduleId / 16) (s.moduleId % 16) port).1)
  let s := s.toParticipants x 5 (leBytes 4 x.furlong ++ leBytes 2 s.moduleId ++ leBytes 1 port ++ leBytes 1 (b2n reset))
  s.learnLoss r x.furlong s.moduleId port

/-- A port is declared down (R258); routes are derived from the ports that are up (10 R272). A loss for a run is logged and
announced (10 R292). -/
def State.portDown (s : State) (port : Nat) (reset : Bool) : State :=
  let x := s.port port
  if x.st = 0 then s
  else
    let users := s.runs.filter (fun e => s.usesPort e.2 port)
    let s := s.setPort port { x with
      st := 0, cwLock := false, frameLock := false, partnerFar := false, farReq := false, missed := 0, outOfSeq := 0,
      expSlot := none, naks := [], resendQ := [], outQ := [], lastHeard := none, retrain := false, rxBytes := [], rxSlot := 0
      rxQ := [], txSlot := 50, txBytes := [], retQ := [], downCount := satAdd x.downCount 1 }
    let s := { s with lnk := { s.lnk with
      portEvt := s.lnk.portEvt ||| BitVec.ofNat 32 (2 ^ port)
      routerQ := s.lnk.routerQ.filter (fun e => e.1 != port)
      heldIn := s.lnk.heldIn.filter (fun e => e.2.1 != port) } }
    match users with
    | [] => s
    | (_, x0) :: _ =>
      let log := BitVec.ofNat 32 (1 + 2 * port + 64 * (partnerOf (s.moduleId / 16) (s.moduleId % 16) port).1 +
        65536 * x0.ctx + 2 ^ 26 * b2n reset)
      let s := { s with chn := { s.chn with
        event := s.chn.event ||| 4
        pathLog := if bitOf s.chn.pathLog 0 then s.chn.pathLog else log } }
      users.foldl (fun s e => s.lossFor port reset e.1 e.2) s

/-- The partner asks for a far-end loop: its port is in loop-back, so this one sees link-down (R264), and goes on decoding and
sending control grains, by which it grants the loop or not (R265). -/
def State.farLoop (s : State) (port : Nat) : State :=
  let x := s.port port
  if x.st = 0 || x.st = 6 then s
  else
    (s.portDown port false).modPort port (fun y =>
      { y with
        cwLock := x.cwLock, frameLock := x.frameLock, farReq := true, expSlot := x.expSlot, lastHeard := x.lastHeard,
        rxBytes := x.rxBytes, rxSlot := x.rxSlot, rxQ := x.rxQ, txSlot := x.txSlot, txBytes := x.txBytes })

/-- LINK_DOWN (R258). -/
def execLinkDown (port : Nat) (why : DownCause) (s : State) : Out :=
  if port ≥ 32 then .fault .noSuchUnit else .next (s.portDown port (why == .missedControl))

/-- A port changes state: LNK_PORT_EVT; one that goes down is counted (R266). -/
def State.portState (s : State) (p : Nat) (st : BitVec 3) : State :=
  if (s.port p).st = st then s
  else
    let s := s.modPort p (fun x => { x with st := st, downCount := if st = 0 then satAdd x.downCount 1 else x.downCount })
    { s with lnk := { s.lnk with portEvt := s.lnk.portEvt ||| BitVec.ofNat 32 (2 ^ p) } }

/-- A port in training enters its next phase: codeword lock is found in the third, deskew, the seed of the scramblers and frame
lock in the fourth (R258). DEDUCED (log 132): the first codeword after frame lock begins a frame. -/
def State.nextPhase (s : State) (p : Nat) : State :=
  let st := (s.port p).st
  if st ≥ 5 then s
  else
    let s := s.portState p (st + 1)
    if st = 3 then s.modPort p (fun x => { x with cwLock := true })
    else if st = 4 then
      { s.modPort p (fun x => { x with
          frameLock := true, scramble := Config.freshSeed s.fresh, txScramble := Config.freshSeed s.fresh, rxBytes := []
          rxSlot := 0, rxQ := [], missed := 0, outOfSeq := 0, expSlot := none }) with fresh := s.fresh + 1 }
    else s

/-- The exchange ends training: module, system and port number have to match the partner that the route tables expect, else the
port stays in phase 5 and reports the partner it sees (R258). -/
def State.exchange (s : State) (p : Nat) (partner : BitVec 10) (system : BitVec 4) (partnerPort : BitVec 5) (eq0 eq1 : Byte)
    (micros : Nat) : State :=
  let want := partnerOf (s.moduleId / 16) (s.moduleId % 16) p
  let ok := want.1 == partner.toNat && want.2 == partnerPort.toNat && system == s.chn.straps.sysId
  let s := s.modPort p (fun x => { x with
    partner := partner, partnerSys := system, trainTime := BitVec.ofNat 32 micros
    eq := BitVec.ofNat 32 (eq0.toNat + 256 * eq1.toNat) })
  if ok then
    (s.modPort p (fun x => { x with trained := true, beCredit := Config.beCredits, mgCredit := Config.mgCredits })).portState p 7
  else s

/-- Whether a fatal cause switches the ports off (15 R413). -/
def portsStop (cause : Byte) : Bool := decide (1 ≤ cause.toNat) && decide (cause.toNat ≤ 4)

/-- Whether the hub leaves a port that has gone down alone for now: it retrains one at most once per 100 ms, 20,000,000 ticks,
and in host-assisted error recovery not at all (13 R369). -/
def State.restsDown (s : State) (x : Port) : Bool :=
  x.st = 0 && x.trained && (bitOf s.hub.splitAct 4 || x.retrainAt.any (fun a => decide (s.chn.count < a + 20000000)))

/-- PORT_TRAINING: the port goes through its next phase of training; the operands are what the exchange brings (R258). A port
that is active, held down or used by a run's slot tables is not trained. A port that has been active is retrained in a
maintenance window, which the hub declares itself (R258; 10 R294). In host-assisted link training only the exchange is left to
the hub, once the host has stepped the port there (13 R369). Training begins once the module is READY (15 R410). -/
def execPortTraining (port : Nat) (partner : BitVec 10) (system : BitVec 4) (partnerPort : BitVec 5) (eq0 eq1 : Byte)
    (micros : Nat) (s : State) : Out :=
  if port ≥ 32 then .fault .noSuchUnit
  else
    let x := s.port port
    if x.active || x.st = 6 || !x.enable || !s.chn.strapsOk || s.portUsed port || (bitOf s.hub.splitAct 3 && x.st != 5) ||
        s.hub.bootStage != 5 || (s.hub.fatal && portsStop s.hub.cause) || s.restsDown x then
      .next s
    else if x.st = 5 then .next (s.exchange port partner system partnerPort eq0 eq1 micros)
    else
      .next ((s.modPort port (fun x => { x with
        maint := x.maint || x.trained
        retrainAt := if x.st = 0 && x.trained then some s.chn.count else x.retrainAt })).nextPhase port)

/-! Time transfer (10 R274 to R278) -/

/-- Whether the module is the system master (10 R274). -/
def State.master (s : State) : Bool := s.chn.strapsOk && s.moduleId == 0

/-- The ports a module may take time from, in order (10 R274). -/
def State.parentPorts (s : State) : List Nat :=
  let g := s.moduleId / 16
  let m := s.moduleId % 16
  let k0 := globalIdx g 0
  if s.moduleId = 0 then []
  else if g != 0 && k0 / 2 = m then [30 + k0 % 2]
  else if m = 0 then [pairPort m (k0 / 2), pairPort m (k0 / 2) + 1]
  else [pairPort m 0, pairPort m 0 + 1]

/-- The parent port in use: the first active one. -/
def State.parentPort (s : State) : Option Nat := s.parentPorts.find? (fun p => (s.port p).active)

/-- A difference of root cycles modulo m in the signed range. -/
def rootSigned (m v : Int) : Int :=
  let u := v % m
  if u < m / 2 then u else u - m

/-- Twice the offset, and the round trip, that a slot-0 control grain of frame k, arrived in root cycle a, yields: half a round
trip need not be a whole root cycle (10 R277). -/
def chainOffset (k echo age a : Nat) : Int × Int :=
  let rtt := rootSigned (576 * 65536) ((a : Int) - 576 * echo - age)
  (rootSigned (2 * 576 * 65536) (2 * (576 * (k : Int) - a) + rtt), rtt)

/-- The offset of a slot-0 control grain of frame k is recorded and steers the next 24 ticks; DEPTH follows the parent's, and
consecutive frames within 2 root cycles of a SYNCED parent are counted; `next` says that the grain of frame k − 1 has come
(10 R276 to R278). DEDUCED (log 136): steps are whole root cycles. -/
def State.chainSteer (s : State) (k a : Nat) (next : Bool) (tt : DWord) : State :=
  let depth := bits tt 32 4
  if bits tt 16 16 = 0xFFFF then { s with chn := { s.chn with okFrames := 0 } }
  else
    let o := chainOffset k (bits tt 0 16) (bits tt 16 16) a
    let near := decide (o.1.natAbs ≤ 4) && bitOf tt 36
    let sgn : Int := if o.1 < 0 then -1 else 1
    { s with chn := { s.chn with
      theta := o.1
      rtt := BitVec.ofInt 16 o.2
      depth := if s.chn.depth = 15 then 15 else BitVec.ofNat 4 (min 15 (depth + 1))
      okFrames := if near then (if next then s.chn.okFrames + 1 else 1) else 0
      steer := if s.chn.depth = 15 then 0 else sgn * (min (o.1.natAbs / 2) 24 : Nat) } }

/-- Load a full chain count at the start of its frame (10 R278). DEDUCED (log 67). -/
def State.loadCount (s : State) (count depth : Nat) : State :=
  { s with chn := { s.chn with
    count := count, running := true, full := none, depth := BitVec.ofNat 4 (min 14 (depth + 1)), okFrames := 0 } }

/-- The master adopts a partner's count and free-runs from it as the root (10 R280). -/
def State.adoptCount (s : State) (count : Nat) : State :=
  { s with chn := { s.chn with count := count, running := true, asked := false, full := none, depth := 0, synced := true } }

/-- The slot-0 control grain of frame k, arrived in root cycle a, at a port that had heard frame `prev` last: a count for this frame
is loaded, and a parent's grain steers (10 R277, R278, R280). -/
def State.timeIn (s : State) (port k a : Nat) (prev : Option (BitVec 16 × Nat)) (tt : DWord) : State :=
  let next := prev.any (fun h => decide ((h.1.toNat + 1) % 65536 = k))
  let due := match s.chn.full with | some (f, count) => if f = k then some count else none | none => none
  if s.chn.asked && (s.port port).farSynced then
    match due with
    | some count => s.adoptCount count
    | none => s
  else
    let s := if s.parentPorts.contains port then { s with chn := { s.chn with silent := 0 } } else s
    if s.parentPort != some port then s
    else
      match due with
      | some count => (s.loadCount count (bits tt 32 4)).chainSteer k a next tt
      | none => s.chainSteer k a next tt

/-- CRC-32C over bytes 0 to 67 of a control grain (09 R257). -/
def ctlCrcOk (g : Grain) : Bool := crc32c (bytesOf g 68) == BitVec.ofNat 32 (bits g 544 32)

/-- A malformed grain at a port: counted, logged, and answered with a link-local NAK (R263). -/
def State.malformedGrain (s : State) (port cond frame slot : Nat) : State :=
  (s.modPort port (fun x =>
    { x with
      malformed := satAdd x.malformed 1
      malLog := if bitOf x.malLog 0 then x.malLog
        else BitVec.ofNat 32 (1 + 4 * cond + 32 * (slot % 64) + 2048 * (frame % 65536)) })).queueNak port
    (nakLocal frame slot)

/-- A control slot without a valid control grain: 32 in succession take the port down (R258). -/
def State.missControl (s : State) (port : Nat) : State :=
  let x := s.port port
  let s := s.setPort port { x with missed := x.missed + 1, expSlot := x.expSlot.map (fun e => (e + 1) % 131072) }
  if x.missed + 1 ≥ 32 then s.portDown port true else s

/-- The next grain that a port has received, if its slot is one that `sel` selects, and the port without it. -/
def Port.nextRx (x : Port) (sel : Nat → Bool) : Option (Nat × Grain × Port) :=
  match x.rxQ with
  | [] => none
  | (k, g) :: rest => if sel k then some (k, g, { x with rxQ := rest }) else none

/-- CONTROL_GRAIN: the grain of a control slot of a port in frame lock is taken; `arrival` is the root cycle of its
first symbol. Its NAK entries, credits, loop request and time transfer take effect (R257 to R261, R265; 10 R276 to R278).
A frame number out of sequence is malformed, and three in succession, or a RETRAIN request, take the port down.
DEDUCED (log 69). -/
def execControlGrain (port : Nat) (arrival : Nat) (s : State) : Out :=
  if port ≥ 32 then .fault .noSuchUnit
  else
    match (s.port port).nextRx (fun k => k % 25 == 0) with
    | none => .next s
    | some (_, g, x) =>
    let s := s.setPort port x
    if !x.frameLock then .next s
    else if !ctlCrcOk g then .next (s.missControl port)
    else
      let frame := bits g 0 16
      let idx := 2 * frame + bits g 16 1
      if x.expSlot.isSome && x.expSlot != some idx then
        let s := (s.malformedGrain port 5 frame (25 * bits g 16 1)).modPort port
          (fun y => { y with outOfSeq := y.outOfSeq + 1, expSlot := x.expSlot.map (fun e => (e + 1) % 131072) })
        .next (if x.outOfSeq + 1 ≥ 3 then s.portDown port false else s)
      else if bitOf g 17 then .next (s.portDown port false)
      else
        let tt : DWord := BitVec.ofNat 64 (bits g 448 64)
        let slot0 := bits g 16 1 == 0
        let s := s.setPort port { x with
          missed := 0, outOfSeq := 0, expSlot := some ((idx + 1) % 131072)
          farReq := bitOf g 18
          partnerFar := bitOf g 19 && x.loopSel == 5
          partner := BitVec.ofNat 10 (bits g 32 10)
          partnerSys := BitVec.ofNat 4 (bits g 42 4)
          beCredit := x.beCredit + bits g 384 8
          mgCredit := x.mgCredit + bits g 392 8
          depth := BitVec.ofNat 4 (bits tt 32 4)
          farSynced := bitOf tt 36
          lastHeard := if slot0 then some (BitVec.ofNat 16 frame, arrival) else x.lastHeard }
        let s := if bitOf g 18 then s.farLoop port else s
        let s := (List.range 5).foldl (fun s j => s.nakIn port (BitVec.ofNat 64 (bits g (64 + 64 * j) 64))) s
        .next (if slot0 then s.timeIn port frame arrival x.lastHeard tt else s)

/-- SYNCED: 1,024 consecutive frames were within 2 root cycles (10 R278). -/
def execSynced (s : State) : Out :=
  if s.chn.okFrames ≥ 1024 && s.chn.depth != 15 then .next { s with chn := { s.chn with synced := true } } else .next s

/-- SYNC_LOST: θ exceeds 12 root cycles, or 1,024 frames brought no grain of a parent; SYNCED is cleared (10 R278). -/
def execSyncLost (why : SyncLoss) (s : State) : Out :=
  let holds :=
    match why with
    | .offset => decide (s.chn.theta.natAbs > 24)
    | .silence => !s.parentPorts.isEmpty && decide (s.chn.silent ≥ 1024)
  if !holds || !s.chn.synced then .next s
  else .next { s with chn := { s.chn with synced := false, okFrames := 0, depth := 15, event := s.chn.event ||| 1 } }

/-! Received grains (R259, R260, R263) -/

/-- The row of the malformed-grain table that a grain meets in a slot; `ent` is the slot's entry (R263).
DEDUCED (log 68). -/
def State.malformedCond (s : State) (g : Grain) (slot : Nat) (ent : Option SlotRec) : Option Nat :=
  let dm := Grain.dmod g
  let dc := Grain.dcore g
  let sched := Grain.cls g == 0
  let cores := if dm = s.moduleId then 2 * s.coresPerDie else 576
  let fits :=
    match ent with
    | some e => e.dmod == dm && e.dcore == dc && e.stream == Grain.stream g
    | none => false
  if sched && !Grain.resent g && !fits then some 0
  else if dm / 16 > 32 then some 1
  else if decide (cores ≤ dc) && decide (dc < 0x3FC) || dc == 0x3FF then some 2
  else if (Grain.null g && (!sched || (Grain.payload g).toNat != 0)) || (Grain.resent g && slot != 24 && slot != 49) then some 3
  else if dc == 0x3FC && (Grain.cls g == 1 || (sched &&
      (List.range 8).any (fun j => decide (bits (Grain.payload g) (64 * j) 4 ≥ 6)))) then some 4
  else none

/-- The run that owns a malformed scheduled slot ends with SCHEDULE_VIOLATION (R263, 13 R364). -/
def State.slotViolation (s : State) (own : Option (Nat × Run)) : State :=
  match own with
  | none => s
  | some (r, x) => (s.postEvent x.ctx 0x04 0 0xFFFF x.job.toNat 4).endRun r 0x0B

/-- A grain that goes on from this module: one that came in a slot of a run's tables in the outbound slot of that slot's stream,
whatever its bytes (R259), a re-sent one in the next retry slot of its route, another by the route table (R249, R260; 10 R272). -/
def State.forwardOn (s : State) (own : Option (Nat × Run)) (ent : Option SlotRec) (g : Grain) : State :=
  match own, ent with
  | some (r, _), some e => s.forwardSlot r e g
  | _, _ =>
    if Grain.resent g then s.forwardResent g
    else if Grain.cls g = 0 then s
    else s.sendRouted g

/-- Whether a lost port's detour is still to come in force (10 R293). -/
def Run.detourPending (x : Run) : Bool :=
  match x.detourAt with
  | some (_, f) => decide (x.furlong < f)
  | none => false

/-- Whether the route of a slot's stream uses the lost port of a detour that is still to come: the tables of the port's module name
the stream at that port. Until then such a scheduled grain is consumed as a null grain (10 R293). -/
def Run.viaLost (x : Run) (e : SlotRec) : Bool :=
  match x.detourAt with
  | some (key, f) =>
    decide (x.furlong < f) &&
      (x.tun.slots (key / 32)).any (fun t => t.kind == 4 && t.res == key % 32 && t.carries e.dmod e.dcore e.stream)
  | none => false

/-- Refuse what a slot should have brought, if this module expects a grain there (R259); one that was to come by a lost port is
consumed as a null grain (10 R293). -/
def State.refuseSlot (s : State) (port frame slot reason : Nat) (exp : Option (Nat × Run × Nat × Nat)) : State :=
  match exp with
  | none => s
  | some (r, x, src, seq) =>
    match s.inSlot x port frame slot, s.slotNo x frame slot with
    | some e, some n =>
      let q := s.linkIndex x e n
      let t := s.linkLanding x e n
      if reason = 1 && x.viaLost e then s.flyStream r e.dcore (nullGrain e.dmod e.dcore e.stream) (fun _ => t) t q 0
      else s.refuse port r src seq reason e.dcore e.stream q t
    | _, _ => s.refuse port r src seq reason 0x3FF 0 0 0

/-- A scheduled grain for this module goes to its place (R243, R246). -/
def State.deliver (s : State) (port frame slot : Nat) (own : Option (Nat × Run)) (g : Grain) : State :=
  match own with
  | none => s
  | some (r, x) =>
    match s.inSlot x port frame slot, s.slotNo x frame slot with
    | some e, some n =>
      let t := s.linkLanding x e n
      if e.dcore ≥ 0x3F0 then s.fly { run := r, core := e.dcore, g := g, t := t, q := none, bad := 0 }
      else (s.fly { run := r, core := e.dcore, g := g, t := t, q := some (s.linkIndex x e n), bad := 0 }).sentTo e.dcore e.stream
        (s.linkIndex x e n + 1)
    | _, _ => s

/-- The frame, counted from chain count 0, in which a port's partner sent the slot that has just come (R246, R256); the router
loop-back has no link (R264). -/
def State.rxFrame (s : State) (port slot : Nat) : Nat :=
  if (s.port port).looped 2 then s.chn.count / 24 else (s.chn.count - linkTk port - slot * 24 / 50) / 24

/-- The run of a grain, and the frame of the shifted slot for which it has to wait: it lands during the stall of a late hold, in the
slot that its stream had before (10 R290). -/
def State.landsLate (s : State) (port frame slot : Nat) (g : Grain) : Option (Nat × Nat) :=
  if Grain.idle g || Grain.cls g != 0 || Grain.resent g then none
  else
    s.activeRuns.findSome? (fun e =>
      let fits := fun (f : Nat) => s.inSlotOf e.2 port f slot (Grain.dmod g) (Grain.dcore g) (Grain.stream g)
      if 0 < e.2.lateBy && fits (frame + e.2.lateBy) && !fits frame then some (e.1, frame + e.2.lateBy) else none)

/-- What a port does with the grain of a slot: it is checked, rejected, dropped as malformed, forwarded, or sent on to its landing
(R259, R260, R263). -/
def State.grainIn (s : State) (port frame slot : Nat) (g : Grain) : State :=
  let own := s.runs.find? (fun e => (s.inSlot e.2 port frame slot).isSome)
  let ent := own.bind (fun e => s.inSlot e.2 port frame slot)
  let exp := s.runs.findSome? (fun e => (s.expected e.2 port frame slot).map (fun q => (e.1, e.2, q.1, q.2)))
  let here := Grain.dmod g == s.moduleId
  let passes := ent.any (fun e => e.dmod != s.moduleId)
  if !Grain.crcOk g then
    let s := s.modPort port (fun x => { x with crcFail := satAdd x.crcFail 1 })
    if exp.isSome then s.refuseSlot port frame slot 0 exp
    else if passes then s.forwardOn own ent g
    else if Grain.idle g then s
    else if here && Grain.resent g then s.refuseCopy port (Grain.dcore g) (Grain.stream g) 0
    else if here then s
    else s.forwardOn none none g
  else if Grain.idle g then s.refuseSlot port frame slot 1 exp
  else
    match s.malformedCond g slot ent with
    | some cond =>
      let s := s.malformedGrain port cond frame slot
      let s := if cond = 0 || (cond = 3 && Grain.cls g = 0) || cond = 4 then s.slotViolation own else s
      if here && Grain.resent g then s.refuseCopy port (Grain.dcore g) (Grain.stream g) 1
      else s.refuseSlot port frame slot 1 exp
    | none =>
      let s := s.modPort port (fun x =>
        { x with
          beOwed := x.beOwed + b2n (Grain.cls g == 1)
          mgOwed := x.mgOwed + b2n (Grain.cls g == 3) })
      if exp.isSome && Grain.cls g != 0 then s.refuseSlot port frame slot 1 exp
      else if !here then (if Grain.cls g = 0 && !Grain.resent g then s.forwardOn own ent g else s.forwardOn none none g)
      else if Grain.resent g then
        match takeNak (Grain.dcore g) (Grain.stream g) s.lnk.outNaks with
        | none => s
        | some (n, rest) =>
          { s with lnk := { s.lnk with outNaks := rest } }.fly
            { run := n.run, core := n.dcore, g := g, t := n.t, q := if n.dcore ≥ 0x3F0 then none else some n.q, bad := 0 }
      else if Grain.cls g = 0 then s.deliver port frame slot own g
      else s.sendRouted g

/-- PORT_GRAIN_RECEIVE: the grain of the next slot of an active port, or of one in loop-back, is taken; its landing is an event of
its own. One that lands in the stall of a late hold waits in the landing port, and is taken when its shifted slot comes (10
R290). -/
def execPortGrainReceive (port : Nat) (s : State) : Out :=
  if port ≥ 32 then .fault .noSuchUnit
  else
    match (s.port port).nextRx (fun k => k % 25 != 0) with
    | none => .next s
    | some (slot, g, x) =>
    let s := s.setPort port x
    if !(x.active || x.st == 6) then .next s
    else
      let frame := s.rxFrame port slot
      match s.lnk.heldIn.find? (fun h => h.2.1 == port && h.2.2.1 == frame && h.2.2.2.1 == slot) with
      | some h => .next ({ s with lnk := { s.lnk with heldIn := s.lnk.heldIn.erase h } }.grainIn port frame slot h.2.2.2.2)
      | none =>
        match s.landsLate port frame slot g with
        | some f => .next { s with lnk := { s.lnk with heldIn := s.lnk.heldIn ++ [(f.1, port, f.2, slot, g)] } }
        | none => .next (s.grainIn port frame slot g)

end Sys2Proof.Machine
end

