-- ==== Sys2Proof/Machine/Loader.lean ====
section
/-!
DEFINITION. The tun loader: the image as a record, and the checks of R305 in table order (11 R300 to R306; 02 R48; 05 R142;
08 R214, R217).
-/

namespace Sys2Proof.Machine

/-! The image (R300, R301) -/

/-- Number of a big-endian byte string as a hash. -/
def hashAt (bs : List Byte) (off : Nat) : Hash := BitVec.ofNat 384 (beNat (slice bs off 48))

/-- A directory entry: type, module, offset, length and its reserved bytes. -/
structure DirEnt where
  type : Nat
  mod  : Nat
  off  : Nat
  len  : Nat
  resv : Nat
deriving DecidableEq, Repr

def DirEnt.parse (b : List Byte) : DirEnt :=
  { type := leAt b 0 2, mod := leAt b 2 2, off := leAt b 8 8, len := leAt b 16 8, resv := leAt b 4 4 + leAt b 24 8 }

/-- The directory of an image. -/
def directory (img : List Byte) : List DirEnt :=
  (records 32 ((img.drop 128).take (32 * leAt img 0x1E 2))).map DirEnt.parse

/-- The tun that an image describes (R300, R301); meaningful where the structural checks pass. -/
def parseTun (img : List Byte) : Tun :=
  let secs := (directory img).map (fun e => ({ type := e.type, mod := e.mod, bytes := (img.drop e.off).take e.len } : Section))
  let glob := fun (t : Nat) => ((secs.find? (fun x => x.type == t)).map (fun x => x.bytes)).getD []
  { modeReq := leAt img 0x14 1, freqStep := BitVec.ofNat 2 (leAt img 0x15 1), furlongN := leAt img 0x16 1
    holdFrames := leAt img 0x17 1, slack := leAt img 0x18 4, participants := (records 2 (glob 2)).map leNat
    digestPoints := leAt img 0x20 4, rows := leAt img 0x24 2, slotPeriod := leAt img 0x26 2
    features := BitVec.ofNat 32 (leAt img 0x28 4), hgMask0 := BitVec.ofNat 32 (leAt img 0x2C 4)
    hgMask1 := BitVec.ofNat 32 (leAt img 0x30 4), stoneId := hashAt img 0x38, progHash := sha384 img
    numHash := sha384 (glob 1), placeHash := sha384 (glob 3), sealedOk := false, sections := secs }

/-! Row 1: structure -/

/-- Whether every byte of a range is 0. -/
def zeros (bs : List Byte) (off n : Nat) : Bool := (slice bs off n).all (fun b => b == 0)

/-- The header's own fields (R300, R305). -/
def headerOk (img : List Byte) (len : Nat) : Bool :=
  decide (128 ≤ img.length) && leAt img 0 4 == 0x4E555457 && leAt img 4 2 == 1 && leAt img 6 2 == 128 &&
  leAt img 8 8 == img.length && len == img.length && decide (leAt img 0x14 1 ≤ 2) && decide (leAt img 0x15 1 ≤ 3) &&
  decide (leAt img 0x28 4 < 32) && decide (1 ≤ leAt img 0x1C 2) && decide (leAt img 0x1C 2 ≤ 528) &&
  decide (1 ≤ leAt img 0x24 2) && decide (leAt img 0x24 2 ≤ 512) && decide (1 ≤ leAt img 0x26 2) && zeros img 0x34 4 &&
  zeros img 0x68 24 && decide (128 + 32 * leAt img 0x1E 2 ≤ img.length)

/-- Whether two non-empty ranges overlap. -/
def overlaps (a n b m : Nat) : Bool := decide (0 < n) && decide (0 < m) && decide (a < b + m) && decide (b < a + n)

/-- Whether no two of a list of ranges overlap. -/
def disjoint : List (Nat × Nat) → Bool
  | [] => true
  | r :: rs => rs.all (fun q => !overlaps r.1 r.2 q.1 q.2) && disjoint rs

/-- A directory entry's type, scope, place and reserved bytes (R301, R302). -/
def DirEnt.ok (e : DirEnt) (lo hi : Nat) : Bool :=
  e.resv == 0 &&
  (if e.mod = 0xFFFF then decide (1 ≤ e.type) && decide (e.type ≤ 4) else decide (0x10 ≤ e.type) && decide (e.type ≤ 0x1A)) &&
  e.off % 64 == 0 && decide (lo ≤ e.off) && decide (e.off + e.len ≤ hi)

def directoryOk (img : List Byte) : Bool :=
  let d := directory img
  d.all (fun e => e.ok (128 + 32 * leAt img 0x1E 2) img.length) && disjoint (d.map (fun e => (e.off, e.len)))

/-- How many sections of a type a module has. -/
def Tun.count (t : Tun) (type mod : Nat) : Nat := (t.sections.filter (fun x => x.type == type && x.mod == mod)).length

/-- Whether a list of numbers rises strictly. -/
def ascending : List Nat → Bool
  | [] => true
  | [_] => true
  | a :: b :: rest => decide (a < b) && ascending (b :: rest)

/-- The counts of R302 and the PARTICIPANTS section. -/
def Tun.countsOk (t : Tun) (nP : Nat) : Bool :=
  [1, 2, 3, 4].all (fun k => t.count k 0xFFFF == 1) && (t.sectionBytes 2 0xFFFF).length == 2 * nP &&
  ascending t.participants &&
  t.participants.all (fun m => [0x10, 0x16, 0x18, 0x19].all (fun k => t.count k m == 1) && decide (t.count 0x1A m ≤ 1))

/-- A PLACEMENT section: its length, its reserved bytes, and no records under a zero STONE_ID (14 R397, R399). -/
def Tun.placementOk (t : Tun) : Bool :=
  let b := t.sectionBytes 3 0xFFFF
  decide (8 ≤ b.length) && b.length == 8 + 48 * leAt b 0 4 && zeros b 4 4 &&
  (records 48 (b.drop 8)).all (fun r => zeros r 10 2 && zeros r 40 8) && !(t.stoneId == 0 && leAt b 0 4 != 0)

/-- A CAPACITY section (R310). -/
def Tun.capacityOk (t : Tun) : Bool :=
  let b := t.sectionBytes 4 0xFFFF
  b.length % 8 == 0 && (records 8 b).all (fun r => zeros r 7 1)

/-- A SYNC section (R303, 08 R216). -/
def Tun.syncOk (t : Tun) (m : Nat) : Bool :=
  let b := t.sectionBytes 0x16 m
  let nf := t.nflag m
  let nb := t.nbarr m
  decide (8 ≤ b.length) && zeros b 4 4 && decide (8 + 8 * (nf + nb) ≤ b.length) &&
  (t.flagEnts m).all (fun e => bits e 18 14 == 0 && bits e 60 4 == 0) &&
  (records 8 ((b.drop (8 + 8 * nf)).take (8 * nb))).all (fun r =>
    let v := leNat r
    fld v 27 5 == 0 && decide (8 * fld v 32 16 + 2 * (v / 2 ^ 48) ≤ b.length)) &&
  (t.barriers m).all (fun x => ascending x.parts)

/-- The detour blocks of a section: owner module, lost port and slot records; none where a block runs past the end or a
reserved byte is set (R302). -/
def detourBlocks : Nat → List Byte → Option (List (Nat × Nat × List SlotRec))
  | 0, _ => some []
  | f + 1, bs =>
    if bs.isEmpty then some []
    else
      let n := leAt bs 8 4
      if bs.length < 12 || !zeros bs 3 5 || bs.length < 12 + 16 * n then none
      else
        (detourBlocks f (bs.drop (12 + 16 * n))).map (fun r =>
          (leAt bs 0 2, leAt bs 2 1, (records 16 ((bs.drop 12).take (16 * n))).map SlotRec.parse) :: r)

def Tun.detours (t : Tun) (m : Nat) : Option (List (Nat × Nat × List SlotRec)) :=
  let b := t.sectionBytes 0x1A m
  detourBlocks (b.length + 1) b

/-- SCRATCH records: address and bytes, each record padded to 64 bytes; none where one runs past the end (R302). -/
def scratchRecs : Nat → List Byte → Option (List (Nat × List Byte))
  | 0, _ => some []
  | f + 1, bs =>
    if bs.isEmpty then some []
    else
      let n := leAt bs 4 4
      let w := (8 + n + 63) / 64 * 64
      if bs.length < w then none
      else (scratchRecs f (bs.drop w)).map (fun r => (leAt bs 0 4, (bs.drop 8).take n) :: r)

def Tun.scratch (t : Tun) (i : Nat) : Option (List (Nat × List Byte)) :=
  let b := t.indexed i
  scratchRecs (b.length + 1) b

/-- Whether a core-map index is none or names a section of its type and module (R302, R304). -/
def Tun.indexOk (t : Tun) (i type m : Nat) : Bool :=
  i == 0xFFFF ||
    match t.sections[i]? with
    | some x => x.type == type && x.mod == m
    | none => false

/-- The reserved bytes of a stream record (R304). -/
def streamResv (r : List Byte) : Bool :=
  zeros r 6 2 && zeros r 15 1 && (if leAt r 1 1 = 2 then fld (leAt r 8 4) 2 6 == 0 && fld (leAt r 8 4) 16 16 == 0 else zeros r 14 1)

/-- A CORE_MAP entry with the sections it names. -/
def Tun.coreEntOk (t : Tun) (m : Nat) (e : CoreEnt) : Bool :=
  t.indexOk e.code 0x11 m && t.indexOk e.data 0x12 m && t.indexOk e.desc 0x13 m && t.indexOk e.streams 0x14 m &&
  t.indexOk e.scratch 0x17 m && t.indexOk e.credits 0x15 m &&
  (e.data == 0xFFFF || (decide (128 ≤ (t.indexed e.data).length) && decide ((t.indexed e.data).length ≤ 128 + dmemSize))) &&
  (t.indexed e.desc).length % 128 == 0 && (t.indexed e.streams).length % 16 == 0 && (t.indexed e.credits).length % 8 == 0 &&
  (records 16 (t.indexed e.streams)).all streamResv &&
  (match t.scratch e.scratch with
   | some rs => rs.all (fun r => decide (r.1 + r.2.length ≤ spadSize))
   | none => false)

/-- Whether a list has no repeats. -/
def distinct : List Nat → Bool
  | [] => true
  | a :: as => !as.contains a && distinct as

/-- This module's sections. -/
def Tun.moduleOk (t : Tun) (m : Nat) : Bool :=
  (t.sectionBytes 0x10 m).length % 32 == 0 && (records 32 (t.sectionBytes 0x10 m)).all (fun r => zeros r 18 14) &&
  distinct (t.cores m) && (t.coreMap m).all (t.coreEntOk m) && (t.sectionBytes 0x18 m).length % 16 == 0 &&
  (t.slots m).all (fun r => decide (r.kind ≤ 4)) && decide (4 ≤ (t.sectionBytes 0x19 m).length) &&
  (t.sectionBytes 0x19 m).length % 16 == 4 &&
  (match t.detours m with
   | some ds => ds.all (fun d => d.2.2.all (fun r => decide (r.kind ≤ 4)))
   | none => false)

/-- The first row of R305. -/
def State.structOk (s : State) (img : List Byte) (len : Nat) (t : Tun) : Bool :=
  headerOk img len && directoryOk img && t.countsOk (leAt img 0x1C 2) && t.placementOk && t.capacityOk &&
  t.participants.all t.syncOk && (!t.participants.contains s.moduleId || t.moduleOk s.moduleId)

/-! Row 4: presence (R306) -/

/-- The slot records of a module, those of its detours among them. -/
def Tun.allSlots (t : Tun) (m : Nat) : List SlotRec := t.slots m ++ ((t.detours m).getD []).flatMap (fun d => d.2.2)

/-- A core of this module or a hub endpoint (09 R241). -/
def State.hasEnd (s : State) (c : Nat) : Bool := s.hasCore c || c == 0x3FC || c == 0x3FD || c == 0x3FE

/-- Whether every core, port and die that this module's sections name is present and available. -/
def State.namesPresent (s : State) (t : Tun) : Bool :=
  let m := s.moduleId
  (t.cores m).all s.hasCore &&
  (t.coreMap m).all (fun e => (t.streamRecs e).all (fun r => r.smod != m || s.hasEnd r.score)) &&
  (t.allSlots m).all (fun r => (r.dmod != m || s.hasEnd r.dcore) && (r.kind != 4 || decide (r.res < 32))) &&
  (t.receives m).all (fun r => decide (r.port < 32)) &&
  ((t.detours m).getD []).all (fun d => decide (d.2.1 < 32)) && (s.hgPresent 1 || t.hgMask1 == 0)

/-! Rows 7 to 14 -/

/-- The descriptor of a DESC record. -/
def descOf (r : List Byte) : Desc := BitVec.ofNat 768 (leNat (slice r 32 96))

/-- The conditions of a Sealed run (02 R48). -/
def Tun.meetsSeal (t : Tun) : Bool :=
  decide (256 * ccPerTick t.freqStep ≤ t.slack) && !bitOf t.hgMask0 31 && !bitOf t.hgMask1 31 &&
  (t.sections.filter (fun x => x.type == 0x13)).all (fun x => (records 128 x.bytes).all (fun r => !Desc.be (descOf r)))

/-- Kinds of flag that a sync operation may name (08 R215). -/
def flagOpOk (op kind : Nat) : Bool :=
  match op with
  | 1 => true
  | 2 => decide (kind ≤ 1)
  | _ => kind == 0

/-- Whether the sync operations of a segment name what the sync section declares; a core that runs it has to take part in the
barriers named (08 R217). -/
def Tun.syncNamesOk (t : Tun) (m : Nat) (c : Option Nat) (es : List EllDec) : Bool :=
  let fs := t.flagEnts m
  let bs := t.barriers m
  es.all (fun e =>
    match e.sync with
    | none => true
    | some w =>
      let op := fld w 27 5
      let v := fld w 0 16
      if op = 4 then bs.any (fun b => b.vid == v && c.all b.parts.contains)
      else if op = 1 || op = 2 || op = 3 || op = 8 then fs.any (fun x => bits x 0 16 == v && flagOpOk op (bits x 16 2))
      else true)

/-- Code segments of this module and the segments of its cores (05 R142, 08 R217). -/
def Tun.codeOk (t : Tun) (m : Nat) : Bool :=
  (t.sections.filter (fun x => x.type == 0x11 && x.mod == m)).all (fun x =>
    (decodeSegment x.bytes).any (fun es => targetsOk es && t.syncNamesOk m none es)) &&
  (t.coreMap m).all (fun e =>
    match decodeSegment (t.indexed e.code) with
    | none => false
    | some es => (startsOf es).contains e.entry && t.syncNamesOk m (some e.core) es)

/-- Identifiers and kinds of the sync section (08 R215, R217): each once, a REMOTE one LOCAL on its target. -/
def Tun.syncEntsOk (t : Tun) (m : Nat) : Bool :=
  let fs := t.flagEnts m
  distinct (fs.map (fun e => bits e 0 16)) && distinct ((t.barriers m).map (fun b => b.vid)) &&
  fs.all (fun e => bits e 16 2 != 1 ||
    (t.participants.contains (bits e 32 10) &&
      (t.flagEnts (bits e 32 10)).any (fun x => bits x 0 16 == bits e 0 16 && bits x 16 2 == 0)))

/-- Whether every BRIDGE entry names a bridge whose setter is the context (08 R217). -/
def State.bridgesOk (s : State) (t : Tun) (f : Nat) : Bool :=
  (t.flagEnts s.moduleId).all (fun e => bits e 16 2 != 3 ||
    match kfind s.syn.bridges (bits e 52 6) with
    | some b => b.enabled && b.setter == f
    | none => false)

/-- The reserved fields of a descriptor (06 R164). -/
def descResvOk (d : Desc) : Bool :=
  bits d 3 1 == 0 && bits d 10 22 == 0 && bits d 56 8 == 0 && bits d (32 * 7 + 16) 16 == 0 && bits d (32 * 13) 32 == 0 &&
  bits d (32 * 15 + 8) 24 == 0 && bits d (32 * 21 + 29) 3 == 0 && bits d (32 * 22 + 8) 24 == 0 && bits d (32 * 23) 32 == 0

/-- The descriptor records of a core (R305). -/
def Tun.descsOk (t : Tun) (e : CoreEnt) : Bool :=
  let rs := records 128 (t.indexed e.desc)
  distinct (rs.map (fun r => leAt r 0 1)) && rs.all (fun r => zeros r 1 31 && descResvOk (descOf r))

/-- A stream record (R305, 09 R243, 13 R361). -/
def Tun.streamOk (t : Tun) (m c : Nat) (r : StreamRec) : Bool :=
  let v := if r.format = 2 then 5 else 3
  (match r.kind with
   | 0 => true
   | 1 => r.base % 64 == 0 && decide (1 ≤ r.rows) && decide (r.rows ≤ 4096)
   | 2 => (r.format == 1 || r.format == 2) && decide (r.base / 256 % 256 + v * r.rows ≤ 64)
   | _ => false) &&
  (r.smod != m || r.score != 0x3FE ||
    (t.slots m).any (fun x => x.kind == 2 && x.inward && x.dcore == c && x.stream == r.stream))

/-- The stream records of a core: each stream once. -/
def Tun.streamsOk (t : Tun) (m : Nat) (e : CoreEnt) : Bool :=
  distinct ((t.streamRecs e).map (fun r => r.stream)) && (t.streamRecs e).all (t.streamOk m e.core)

/-- The credit records of a core (R305). -/
def Tun.creditsOk (t : Tun) (e : CoreEnt) : Bool :=
  let rs := (records 8 (t.indexed e.credits)).map CreditRec.parse
  distinct (rs.map (fun r => r.pool)) && rs.all (fun r => decide (1 ≤ r.limit))

/-- Whether no resource is claimed twice at one time (R305). -/
def slotsOk : List SlotRec → Bool
  | [] => true
  | r :: rs => rs.all (fun q => !(q.kind == r.kind && q.res == r.res && q.inward == r.inward && q.time == r.time)) && slotsOk rs

/-- The slot tables of a module: those in use and those of each detour (R305). -/
def Tun.tablesOk (t : Tun) (m : Nat) : Bool := slotsOk (t.slots m) && ((t.detours m).getD []).all (fun d => slotsOk d.2.2)

/-- The status of a load: that of the first check of R305 that fails, 0 where all pass. DEDUCED (log 81). -/
def State.loadStatus (s : State) (f : Nat) (img : List Byte) (len : Nat) : Nat :=
  let t := parseTun img
  let m := s.moduleId
  if !s.structOk img len t then 2
  else if leAt img 0x10 4 != 0x00010000 then 2
  else if !t.participants.contains m then 3
  else if !s.namesPresent t then 1
  else if decide (t.furlongN < 12) || decide (t.furlongN > 20) || decide (t.slack ≥ 2 ^ t.furlongN) || t.holdFrames == 0 then 2
  else if bits t.features 1 3 != 0 && t.modeReq != 2 then 2
  else if t.modeReq == 1 && !t.meetsSeal then 2
  else if !t.codeOk m || !t.syncEntsOk m then 2
  else if t.participants.any (fun p => decide (t.nflag p > 4096) || decide (t.nbarr p > 256)) || !s.bridgesOk t f then 3
  else if !Config.numericsCountsOk (t.sectionBytes 1 0xFFFF) then 2
  else if !(t.coreMap m).all t.descsOk then 2
  else if !(t.coreMap m).all (t.streamsOk m) then 2
  else if !(t.coreMap m).all t.creditsOk then 2
  else if !t.tablesOk m then 2
  else 0

end Sys2Proof.Machine
end

