-- ==== Sys2Proof/Machine/MemoryTiers.lean ====
section
/-!
DEFINITION. Error handling, refresh, patrol and scrub of the memory tiers, and returned credits (07 R196 to R212; 02
R50, R51).
-/

namespace Sys2Proof.Machine

/-! Resident copies (14 R397) -/

/-- Discard the copies that do not pass: what they held in strata stays out of every run's reach (14 R384, R397). -/
def Ing.keep (g : Ing) (f : Nat × Copy → Bool) : Ing :=
  { g with
    copies := g.copies.filter f
    discarded := (g.discarded ++ (g.copies.filter (fun p => !f p)).flatMap (fun p => p.2.strata)).eraseDups }

/-! Hogshead reads that fail (R201, 02 R51) -/

/-- HOGSHEAD_REISSUE: the read of core c on a channel is reissued after a failed attempt, the module having stalled for 32
cc; `ok` says whether the word decodes now. The first failing attempt comes before the first reissue; the second reissue is
the third attempt. DESIGN CHOICE (log 156): the attempts are counted by die. -/
def execHogsheadReissue (c die chan : Nat) (off : Nat) (ok : Bool) (s : State) : Out :=
  if !s.hgPresent die || chan != hgChannel off || decide (off ≥ hgSize) then .fault .noSuchUnit
  else
    s.coreEvent c (fun _ =>
      let n := (s.hog die).retries
      let s := if n = 0 then s.hgDue die off else s
      let s := s.countReissue.stallNow 32
      let s := if ok then s else s.hgDue die off
      let s := s.modHog die (fun h => { h with retries := if ok || n ≥ 1 then 0 else n + 1 })
      .next (if !ok && n ≥ 1 then s.hgGiveUp c die off else s))

/-! Refresh (R200) -/

/-- The mode of the run that holds a die, none where no run does. -/
def State.hgMode (s : State) (die : Nat) : Option Nat :=
  ((s.hog die).holder.bind s.run?).map (fun x => x.mode.toNat)

/-- The RATE field of a die: 3 for a Sealed holder, else by the die's temperature, as it is in Hold, Doze and Stow (12 R331). -/
def State.hgRate (s : State) (die : Nat) : Nat :=
  if s.hgMode die = some 1 && s.pwr.st = 0 then 3
  else
    let t := if die = 0 then s.pwr.tele.hg0 else s.pwr.tele.hg1
    if t < 75 then 0 else if t ≤ 95 then 1 else 2

/-- Hub cycles between the refreshes of a channel at a RATE. -/
def refreshEvery (rate : BitVec 2) : Nat :=
  match rate.toNat with
  | 0 => 128
  | 1 => 64
  | _ => 32

/-- HOGSHEAD_REFRESH: the refresh of a channel that falls due in hub cycle `due` of the run that holds the die. In Exact and
Open it takes the first of the 64 hub cycles from then in which the run does not use the channel. Where there is none it is
forced in the 64th: the access there waits for a hub cycle, the module stalls for 1 cc and DET_REFCOLL counts it. In Sealed
and on a die that no run holds it meets no access. Which hub cycle a channel's first refresh falls due in, the spec does not
say, so it comes as an operand; each further one follows by the rate in force. DESIGN CHOICE (log 124). -/
def execHogsheadRefresh (die chan due : Nat) (s : State) : Out :=
  if !s.hgPresent die || decide (chan ≥ 13) then .fault .noSuchUnit
  else
    let m := s.hgMode die
    let h := s.hog die
    if m = none || (kfind h.due chan).any (fun d => d + refreshEvery h.rate != due) then .next s
    else
      let s := s.modHog die (fun h => { h with due := kset h.due chan due })
      if m = some 1 || !(List.range 64).all (fun d => h.uses.contains (due + d, chan)) then .next s
      else
        let s := s.modHog die (fun h => { h with uses := (due + 64, chan) :: h.uses })
        let s := ({ s with det := { s.det with refcoll := s.det.refcoll.add 1 } }).chargeRuns
          (fun k => { k with refcoll := k.refcoll + 1 })
        .next (match h.holder.bind s.run? with
          | some x => s.stallPos (s.posAt (x.coreCycle (ccPerTick s.pwr.cur) (due + 63))) 1
          | none => s)

/-- The phases of a die in which patrol and scrub may act: those that no holder's mask declares, and not the refresh phase
of a Sealed holder (R199, R202, R209). -/
def State.freePhases (s : State) (die : Nat) : List Nat :=
  (List.range 32).filter (fun p =>
    match (s.hog die).holder with
    | none => true
    | some _ => !bitOf (s.hog die).mask p && !(p == 31 && s.hgMode die == some 1))

/-! Patrol (R196, R202) -/

/-- Whether a mapped stone has bytes in the stratum of core c. -/
def State.mappedStratum (s : State) (c : Nat) : Bool :=
  s.ing.copies.any (fun p => decide (p.2.refcount > 0) && p.2.strata.any (fun r => r.1 == c))

/-- Rows were rewritten from a stone: ING_REWRITES and ING_EVENT.REWRITE (14 R403). -/
def State.countRewrites (s : State) (n : Nat) : State :=
  if n = 0 then s
  else { s with ing := { s.ing with rewrites := satAdd s.ing.rewrites n, event := s.ing.event ||| 0x10 } }

/-- Rows of a stratum. -/
def stratumRows : Nat := 36864

/-- STRATUM_PATROL: the next rows of the pass over the stratum of a core with a mapped stone and no run. Every row with a
corrected error is counted and rewritten; an uncorrectable word is counted and stays. A patrol of a core that a run has
taken waits where it is. DESIGN CHOICE (log 26): how many rows a command reads is its operand. -/
def execStratumPatrol (c rows : Nat) (s : State) : Out :=
  s.coreEvent c (fun k =>
    if k.run.isSome || !s.mappedStratum c then .next s
    else
      let r0 := k.patrol.getD 0
      let r1 := r0 + rows
      let here := fun (x : EccMark) => x.mem == .strat && decide (8 * r0 ≤ x.word) && decide (x.word < 8 * r1)
      let ces := k.ecc.filter (fun x => here x && !x.due)
      let dues := k.ecc.filter (fun x => here x && x.due)
      let g := ces.foldl (fun g x => g.countCe .strat x.word) k.eccRegs
      let g := dues.foldl (fun g x => g.countDue .strat (8 * x.word)) g
      let fixed := (ces.map (fun x => x.word / 8)).eraseDups
      .next ((s.setCore c { k with
        eccRegs := g, ecc := k.ecc.filter (fun x => !(here x && !x.due))
        patrol := if r1 ≥ stratumRows then none else some r1 }).countRewrites fixed.length))

/-- HOGSHEAD_PATROL: one line of 64 bytes, in a phase that no run holds. A code word with a corrected error is counted and
rewritten; one that stays uncorrectable is logged and written poisoned. With no such phase the patrol waits. -/
def execHogsheadPatrol (die : Nat) (line : Nat) (s : State) : Out :=
  if !s.hgPresent die || decide (64 * line ≥ hgSize) then .fault .noSuchUnit
  else if (s.freePhases die).isEmpty then .next s
  else
    let h := s.hog die
    let ces := h.badIn false (64 * line) 64
    let dues := h.badIn true (64 * line) 64
    let s := s.hgCorrected die ces
    let s := dues.foldl (fun s o => s.hgDue die o) s
    .next (s.modHog die (fun h => { h with
      bad := h.bad.filter (fun x => x.2 || !ces.contains x.1)
      patrol := if 64 * (line + 1) ≥ hgSize then none else some (line + 1) }))

/-! Scrub (R207 to R210, R212) -/

/-- Zero every store of a core but its stratum, and return its control registers to reset (R208, R210). The counters and
the log of R211 and the marks of the stratum stay. DEDUCED (log 73). -/
def Core.scrubbed (k : Core) : Core :=
  { Core.reset with
    strat := k.strat, ecc := k.ecc.filter (fun x => x.mem == .strat), eccRegs := k.eccRegs, available := k.available,
    scrubBusy := k.scrubBusy, owner := k.owner, patrol := k.patrol }

/-- The schedule cycle of core c at the core cycle in progress, and its next issue cycle where no active run occupies it. -/
def State.cycleOf (s : State) (c : Nat) : Nat :=
  match (s.core c).run.bind s.run? with
  | some x => if x.phase = .active then s.nowOf x else (s.core c).scyc
  | none => (s.core c).scyc

/-- Core c as a reader from outside finds it: the writes due by now are in it, and of one whose scrub is in progress nothing shows
(R210; 15 R417). -/
def State.coreNow (s : State) (c : Nat) : Core :=
  let k := (s.core c).retire (s.cycleOf c)
  if k.scrubBusy && k.owner.isNone then k.scrubbed else k.settle (s.cycleOf c)

/-- A core leaves its context and its scrub begins (R207). -/
def State.beginScrub (s : State) (c : Nat) : State :=
  s.modCore c (fun k => { k with owner := none, scrubBusy := true })

def State.beginScrubs (s : State) : List Nat → State
  | [] => s
  | c :: cs => (s.beginScrub c).beginScrubs cs

/-- CORE_SCRUB: a core leaves its context and every store is zeroed. A core that a run occupies does not leave. -/
def execCoreScrub (c : Nat) (s : State) : Out :=
  s.coreEvent c (fun k =>
    if k.run.isSome then .next s else .next ((s.beginScrub c).modCore c Core.scrubbed))

/-- START, a write of CORE_SCRUB: ignored while the core is owned; a scrub already running goes on. -/
def execStart (c : Nat) (v : Word) (s : State) : Out :=
  s.coreEvent c (fun k => if bitOf v 0 && k.owner.isNone then .next (s.beginScrub c) else .next s)

/-- Whether [off, off + n) of a die belongs to a grant or to a resident copy. -/
def State.regionHeld (s : State) (die off n : Nat) : Bool :=
  let meets := fun (d o l : Nat) => d == die && decide (o < off + n) && decide (off < o + l)
  s.ctxs.any (fun p => (p.2.grants0 ++ p.2.grants1).any (fun g => meets g.2.die g.2.off g.2.len)) ||
    s.ing.copies.any (fun p => p.2.hogs.any (fun h => meets h.1 h.2.1 h.2.2))

/-- Zero a region of a die with valid check bits. -/
def Hogshead.clear (h : Hogshead) (off n : Nat) : Hogshead :=
  let h := h.flush
  { h with mem := memClear h.mem off n, bad := h.bad.filter (fun x => !(decide (off ≤ x.1) && decide (x.1 < off + n))) }

/-- A region leaves its context and its scrub begins (R207, R209): zeros are written in phases that no run holds. -/
def State.beginRegionScrub (s : State) (die off n : Nat) : State :=
  let free := !(s.freePhases die).isEmpty
  s.modHog die (fun h => { (if free then h.clear off n else h) with
    scrub := if h.scrub.contains (off, n) then h.scrub else h.scrub ++ [(off, n)] })

/-- REGION_SCRUB of a region that no grant and no stone holds. -/
def execRegionScrub (die off len : Nat) (s : State) : Out :=
  if !s.hgPresent die || decide (off + len > hgSize) then .fault .noSuchUnit
  else if s.regionHeld die off len then .next s
  else .next (s.beginRegionScrub die off len)

/-! Credits (R206) -/

/-- CREDIT_RETURN: a credit returns to a pool of core c; one above the limit is discarded with a schedule violation. -/
def execCreditReturn (c : Nat) (pool : BitVec 8) (s : State) : Out :=
  s.coreEvent c (fun k =>
    match k.run with
    | none => .next s
    | some r => .next (s.creditBack c pool.toNat (s.nowRun r)))

end Sys2Proof.Machine
end

