-- ==== Sys2Proof/Machine/Network.lean ====
section
/-!
DEFINITION. Grains on the rings and at the hub: landings, collisions, best-effort injection, forwarding by the route table,
and the host endpoint (09 R238 to R252; 10 R272, R273; 13 R359 to R361).
-/

namespace Sys2Proof.Machine

/-! Landing at a core (R243, R248; 03 R91 to R93) -/

/-- Values per partial-sum grain of a format. -/
def partialV (fmt : Nat) : Nat := if fmt = 2 then 5 else 3

/-- The values of a partial-sum payload by slot, none where its trailer is a program error (03 R91, R92). -/
def partialSlots (fmt : Nat) (bs : List Byte) : Option (List (Option (Int × Bool × Bool × Bool))) :=
  let t := leAt bs 60 4
  let v := partialV fmt
  let w := if v = 5 then 12 else 20
  let bad := t / 2 ^ 20 % 16 != fmt || t / 2 ^ 24 != 0 ||
    (v == 3 && (t / 2 ^ 9 % 64 != 0 || t / 2 ^ 18 % 4 != 0))
  if bad then none
  else
    some ((List.range v).map (fun i =>
      if t / 2 ^ (15 + i) % 2 = 0 then none
      else
        some (toSigned (8 * w) (leAt bs (w * i) w), decide (t / 2 ^ (3 * i) % 2 = 1),
          decide (t / 2 ^ (3 * i + 1) % 2 = 1), decide (t / 2 ^ (3 * i + 2) % 2 = 1))))

/-- NV alone for v lanes from lane j. -/
def nvLanes (j v : Nat) : List (Nat × Int × Bool × Bool × Bool) :=
  (List.range v).map (fun i => (j + i, 0, false, false, true))

/-- The lanes that a partial-sum grain adds to, and whether it is a program error. -/
def partialLanes (e : StreamEntry) (q : Nat) (null poisoned : Bool) (bs : List Byte) :
    List (Nat × Int × Bool × Bool × Bool) × Bool :=
  let v := partialV e.format
  let j := e.lane0 + v * (q % max 1 e.count)
  if poisoned then (nvLanes j v, false)
  else if null then ([], false)
  else
    match partialSlots e.format bs with
    | none => (nvLanes j v, true)
    | some xs =>
      ((List.range v).filterMap (fun i =>
        match xs.getD i none with
        | some x => some (j + i, x.1, x.2.1, x.2.2.1, x.2.2.2)
        | none => none), false)

/-- Record a landing with a failed CRC in LNK_RING_CRC (09 R266). -/
def State.ringCrc (s : State) (bad : Bool) : State :=
  if bad then { s with lnk := { s.lnk with ringCrc := satAdd s.lnk.ringCrc 1 } } else s

/-- A grain on its way lands: the first that `sel` selects, and the state without it. The watch for deadlock of its run begins
anew (08 R227). -/
def State.takeFlight (s : State) (sel : Flight → Bool) : Option (Flight × State) :=
  (s.lnk.flights.find? sel).map (fun f =>
    (f, { s with lnk := { s.lnk with flights := s.lnk.flights.erase f } }.modRun f.run (fun x => { x with dlSince := none })))

/-- The grain for which a consumer held the module has landed. -/
def State.landed (s : State) (c st q : Nat) : State :=
  if s.lnk.awaited.any (fun a => a.1 == c && a.2.1 == st && a.2.2.1 == q) then { s with lnk := { s.lnk with awaited := none } } else s

/-- What the grain of flight f does at core c, at the landing cycle of its schedule: a consumer that comes later has waited for
it. A row beyond the scratchpad lies in no bank (07 R189) and is not written. DEDUCED (log 72). -/
def State.land (s : State) (c : Nat) (f : Flight) (how : Landing) : State :=
  let g := f.g
  let failed := how == .badCrc || !Grain.crcOk g
  let poisoned := failed || how == .badWord
  let st := Grain.stream g
  let s := s.ringCrc failed
  let s := if poisoned then s.raiseAsyncAt c 0x0A (trapInfo 6 st 2) f.t else s
  match kfind (s.core c).streams st with
  | none => s.violation c
  | some e =>
    let q := f.q.getD e.landed
    let s := s.modCore c (fun k => { k with streams := kset k.streams st { e with landed := e.landed + 1 } })
    let bs := bytesOf (Grain.payload g) 64
    match e.kind with
    | .unused => s.violation c
    | .data =>
      let a := e.rowAddr q
      if a + 64 > spadSize then s.violation c
      else
        let bad := ((List.range 8).filter (fun i => poisoned || bitOf f.bad i)).map (fun i => 8 * i)
        let now := match s.run? f.run with | some x => s.nowOf x | none => 0
        (s.access c (max f.t now) (spadBank a)).modCore c
          (fun k => k.spadLater f.t a bs bad (accessRank e.srcMod e.srcCor .store))
    | .partialSum =>
      let p := partialLanes e q (Grain.null g) poisoned bs
      let s := s.modCore c (fun k => k.bankAt e.bank (f.t + 9) (.partials p.1))
      if p.2 then s.violation c else s

/-- GRAIN_LANDING: the next grain of a stream on its way to core c lands there. With none on its way nothing happens. -/
def execGrainLanding (c : Nat) (stream : BitVec 8) (how : Landing) (s : State) : Out :=
  s.coreEvent c (fun _ =>
    match s.takeFlight (fun f => f.core == c && Grain.stream f.g == stream.toNat) with
    | none => .next s
    | some (f, s) => .next ((s.land c f how).landed c stream.toNat (f.q.getD 0)))

/-! The host endpoint (13 R359 to R361) -/

/-- A grain that the host endpoint ignores (R361). -/
def State.hostepErr (s : State) : State := { s with hub := { s.hub with hostepErr := satAdd s.hub.hostepErr 1 } }

/-- The request that holds a row as host-endpoint grains of cycle t see it (R359). -/
def Run.rowReq (x : Run) (row t : Nat) : Option Req :=
  x.reqs.find? (fun q => q.row == some row && !q.done && decide (q.effect ≤ t))

/-- Change one request of a run. -/
def Run.modReq (x : Run) (id : DWord) (f : Req → Req) : Run :=
  { x with reqs := x.reqs.map (fun q => if q.reqId = id then f q else q) }

/-- Queue a reply for a core and stream to a request that landed in cycle t (R361). -/
def State.queueReply (s : State) (r core stream t : Nat) (bs : List Byte) : State :=
  { s with lnk := { s.lnk with replies := s.lnk.replies ++ [(r, core, stream, t, payloadOf bs)] } }

/-- The row of a host-endpoint payload is one of the run's rows. -/
def Run.hasRow (x : Run) (p : Payload) : Bool := decide (bits p 16 16 < x.tun.rows)

/-- FETCH: a reply with the 64 input bytes at the offset; bytes beyond the input, and all of an empty row, are 0. -/
def State.hostFetch (s : State) (r : Nat) (x : Run) (p : Payload) (t : Nat) : State :=
  s.queueReply r (bits p 64 16) (bits p 8 8) t
    (match x.rowReq (bits p 16 16) t with
    | some q => slice q.input (bits p 32 32) 64
    | none => [])

/-- KEY: a reply with the row's sampling key, GREEDY, OCCUPIED and the digest point of its assignment. -/
def State.hostKey (s : State) (r : Nat) (x : Run) (p : Payload) (t : Nat) : State :=
  s.queueReply r (bits p 64 16) (bits p 8 8) t
    (match x.rowReq (bits p 16 16) t with
    | some q =>
      bytesOf q.samplKey 16 ++ leBytes 1 (b2n q.greedy) ++ [1, 0, 0] ++ leBytes 4 ((q.assigned.getD 0xFFFFFFFF).toNat)
    | none => [])

/-- PUT: COUNT bytes join the row's output; those beyond the output limit are dropped and set TRUNCATED; FINAL ends the
request (R361, R362). A PUT to an empty row, or to one whose request has ended, is discarded. -/
def State.hostPut (s : State) (r : Nat) (x : Run) (p : Payload) (t : Nat) : State :=
  let n := bits p 8 6
  if n > 56 then s.hostepErr
  else
    match x.rowReq (bits p 16 16) t with
    | none => s
    | some q =>
      if q.finished then s else
      let room := q.outLimit - q.outBytes.length
      let bs := ((bytesOf p 64).drop 8).take n
      s.modRun r (fun x => x.modReq q.reqId (fun q =>
        { q with
          outBytes := q.outBytes ++ bs.take room
          trunc := q.trunc || decide (n > room)
          finished := q.finished || bitOf p 14 }))

/-- A host-endpoint grain acts; one with a reserved OP or a row at or above ROWS is ignored and counted (R361). -/
def State.hostAct (s : State) (r : Nat) (x : Run) (p : Payload) (t : Nat) : State :=
  if !x.hasRow p then s.hostepErr
  else
    match bits p 0 8 with
    | 1 => s.hostFetch r x p t
    | 2 => s.hostKey r x p t
    | 3 => s.hostPut r x p t
    | _ => s.hostepErr

/-- The next host-endpoint grain of an active run with operation `op` lands and acts; with none on its way nothing happens. -/
def State.hostEvent (s : State) (r op : Nat) : Out :=
  match s.run? r with
  | none => .fault .noSuchUnit
  | some x =>
    if x.phase != .active then .fault .noSuchUnit
    else
      match s.takeFlight (fun f => f.core == 0x3FE && f.run == r && bits (Grain.payload f.g) 0 8 == op) with
      | none => .next s
      | some (f, s) => .next (s.hostAct r x (Grain.payload f.g) f.t)

/-- FETCH (R360). -/
def execFetch (r : Nat) (s : State) : Out := s.hostEvent r 1

/-- KEY (R360). -/
def execKey (r : Nat) (s : State) : Out := s.hostEvent r 2

/-- PUT (R360). -/
def execPut (r : Nat) (s : State) : Out := s.hostEvent r 3

/-- HUB_REPLY: the oldest reply for a core and stream leaves in its slot: the first hub-to-core slot 64 cc or more after its
request landed that no earlier reply has taken; it lands 40 cc later (R361). -/
def execHubReply (r : Nat) (core : Nat) (stream : BitVec 8) (s : State) : Out :=
  match s.run? r with
  | none => .fault .noSuchUnit
  | some x =>
    match s.lnk.replies.find? (fun e => e.1 == r && e.2.1 == core && e.2.2.1 == stream.toNat) with
    | none => .next s
    | some e =>
      let ts := s.hubTimes x core stream.toNat
      if x.phase != .active || ts.isEmpty then .next s
      else
        let sent := match kfind (s.core core).streams stream.toNat with | some y => y.sent | none => 0
        let q := max sent (slotsBefore ts x.periodCc (e.2.2.2.1 + 64))
        let g := mkGrain s.moduleId core stream.toNat 0 false false e.2.2.2.2
        let s := { s with lnk := { s.lnk with replies := s.lnk.replies.erase e } }
        .next ((s.fly { run := r, core := core, g := g, t := slotAt ts x.periodCc q + 40, q := some q, bad := 0 }).sentTo core
          stream.toNat (q + 1))

/-! Landing at the hub (R244, R248) -/

/-- The entries of a sync grain in index order (R244). -/
def State.syncEntries (s : State) (r t pl : Nat) : Nat → State
  | 0 => s
  | n + 1 => (s.syncApply r (pl % 2 ^ 64) t).syncEntries r t (pl / 2 ^ 64) n

/-- What a grain of flight f does at the hub. A grain of another class than scheduled, or a null one, is no sync grain. -/
def State.hubAct (s : State) (r : Nat) (f : Flight) : State :=
  match s.run? r with
  | none => s
  | some x =>
    if f.core = 0x3FE then s.hostAct r x (Grain.payload f.g) f.t
    else if f.core != 0x3FC || Grain.cls f.g != 0 || Grain.null f.g then s
    else s.syncEntries r f.t (Grain.payload f.g).toNat 8

/-- SYNC_GRAIN_LANDING: the next grain of a run on its way to the hub sync unit or the host endpoint lands. One with a failed CRC
or an uncorrectable word is discarded and the run ends as R188 ends it; LNK_RING_CRC counts a failed CRC, and every such grain
for the host endpoint (R248). DEDUCED (log 71). -/
def execSyncGrainLanding (r : Nat) (how : Landing) (s : State) : Out :=
  match s.run? r with
  | none => .fault .noSuchUnit
  | some x =>
    if x.phase != .active then .fault .noSuchUnit
    else
      match s.takeFlight (fun f => decide (f.core ≥ 0x3F0) && f.run == r) with
      | none => .next s
      | some (f, s) =>
        let failed := how == .badCrc || !Grain.crcOk f.g
        if failed || how == .badWord then .next ((s.ringCrc (failed || f.core == 0x3FE)).endRunDue r)
        else .next (s.hubAct r f)

/-! Slots of the rings and the bridge (R245 to R249) -/

/-- Where the grain of a slot record enters its ring, and how many steps it goes: known where the stream comes from a core or the
hub side to a core of this module. DEDUCED (log 16): a record names its ring and not a stop, so one of another stream is taken
to hold its slot at every stop. -/
def State.slotPath (s : State) (t : SlotRec) : Option (Nat × Nat) :=
  if t.dmod != s.moduleId || decide (t.dcore ≥ 0x3F0) then none
  else
    (kfind (s.core t.dcore).streams t.stream).bind (fun e =>
      let a := e.srcCor
      let b := t.dcore
      let home := e.srcMod == s.moduleId && decide (a < 0x3F0)
      let same := home && s.coreDie a == s.coreDie b
      let go := fun (x y : Nat) => some (x, stepsTo (!t.inward) x y)
      let bridge := fun (c : Nat) => Config.bridgeRow (s.coreDie c) (s.coreCol c)
      if t.kind = 0 then (if same && t.res == s.rowRing a then go (s.coreCol a) (s.coreCol b) else none)
      else if t.res == s.colRing b then go (if same then s.coreRow a else bridge b) (s.coreRow b)
      else if home && t.res == s.colRing a then go (s.coreRow a) (bridge a)
      else none)

/-- Whether a slot record reserves a stop's output in a direction in a cycle of the slot period: a slot goes on by one stop in
2 cc (R246). On the bridge the direction says whether the grain goes in to the die. -/
def State.reserves (s : State) (per cyc stop : Nat) (dir : Bool) (t : SlotRec) : Bool :=
  let g := stopRing stop
  if t.kind != stopKind stop || t.res != g.1 then false
  else if t.kind = 2 then t.inward == dir && t.time % per == cyc % per
  else if t.inward == dir then false
  else
    match s.slotPath t with
    | none => t.time % per == cyc % per
    | some (a, n) =>
      let j := stepsTo dir a g.2
      decide (j < n) && (t.time + 2 * j) % per == cyc % per

/-- Whether a slot that a grain holds from a stop on passes another stop's output at a position (R251). -/
def rideMeets (r : Nat × Bool × Nat × Nat) (stop : Nat) (dir : Bool) (p : Nat) : Bool :=
  let a := stopRing r.1
  let b := stopRing stop
  let j := if stopKind stop = 2 then 0 else stepsTo dir a.2 b.2
  stopKind r.1 == stopKind stop && a.1 == b.1 && r.2.1 == dir && decide (j < max 1 r.2.2.1) && r.2.2.2 + 2 * j == p

/-- Grains and hogshead units that the bridge of a die carries in a direction at a position. -/
def State.bridgeUse (s : State) (die : Nat) (dir : Bool) (p : Nat) : Nat :=
  let tables := s.activeRuns.foldl (fun n e =>
    let per := max 1 e.2.periodCc
    n + ((s.slotsOf e.2).filter (fun t => t.kind == 2 && t.res / 8 == die && t.inward == dir &&
      t.time % per == e.2.cycleAt p % per)).length) 0
  tables + (s.lnk.units.filter (fun u => u == (die, dir, p))).length +
    (s.lnk.rides.filter (fun r => stopKind r.1 == 2 && stopDie r.1 == die && r.2.1 == dir && r.2.2.2 == p)).length

/-- Whether a stop's output in a direction is free at a position: no active run's table reserves it, and no other grain holds the
slot that passes; the bridge carries 24 grains a hub cycle, of which a tick has 6 (R247, R249). -/
def State.slotFree (s : State) (stop : Nat) (dir : Bool) (p : Nat) : Bool :=
  s.activeRuns.all (fun e => !(s.slotsOf e.2).any (s.reserves (max 1 e.2.periodCc) (e.2.cycleAt p) stop dir)) &&
  !s.lnk.rides.any (fun r => rideMeets r stop dir p) &&
  (stopKind stop != 2 || decide (s.bridgeUse (stopDie stop) dir p < 24 * 6 / ccPerTick s.pwr.cur))

/-- A grain takes the slot at a stop's output at a position, for its steps on the ring. -/
def State.takeSlot (s : State) (stop : Nat) (dir : Bool) (steps p : Nat) : State :=
  { s with lnk := { s.lnk with rides := (stop, dir, steps, p) :: s.lnk.rides.filter (fun r => decide (p ≤ r.2.2.2 + 32)) } }

/-! Collisions (R250) -/

/-- The rank of a grain's source core: of the stream's source, for the hub sync unit of the core that its first entry names, else
of the endpoint (02 R52). One on its way out has that of the core that formed it. -/
def State.flightRank (s : State) (f : Flight) : Nat :=
  if 1024 ≤ f.core then 1024 * s.moduleId + (f.core - 1024)
  else if f.core = 0x3FC then 1024 * bits (Grain.payload f.g) 30 10 + bits (Grain.payload f.g) 20 10
  else
    match kfind (s.core f.core).streams (Grain.stream f.g) with
    | some e => 1024 * e.srcMod + e.srcCor
    | none => 1024 * s.moduleId + f.core

/-- A grain of a run that moves on this module's rings: one on its way here, or one formed here that goes to another module, as a
flight to the core number 1,024 plus its source. -/
def State.takeMoving (s : State) (r : Nat) (g : Grain) : Option (Flight × State) :=
  (s.takeFlight (fun f => f.run == r && f.g == g)).orElse (fun _ =>
    (s.lnk.outQ.find? (fun o => o.run == r && !o.fwd && o.g == g)).map (fun o =>
      ({ run := r, core := 1024 + o.src, g := g, t := o.t, q := none, bad := 0 },
        { s with lnk := { s.lnk with outQ := s.lnk.outQ.erase o } })))

/-- It goes on its way again. -/
def State.moveOn (s : State) (f : Flight) : State :=
  if 1024 ≤ f.core then s.waitSlot f.run (f.core - 1024) f.t f.g else s.fly f

/-- The direction in which a grain passes a stop: that of the leg of its route on the stop's ring. -/
def State.flightDir (s : State) (stop : Nat) (f : Flight) : Option Bool :=
  let src := (kfind (s.core f.core).streams (Grain.stream f.g)).bind (fun e =>
    if e.srcMod = s.moduleId && decide (e.srcCor < 0x3F0) then some e.srcCor else none)
  let legs :=
    if f.core < 0x3F0 then s.legs src (some f.core)
    else if 1024 ≤ f.core && f.core < 1024 + 0x3F0 then s.legs (some (f.core - 1024)) none
    else []
  (legs.find? (fun l => stopKind l.1 == stopKind stop && (stopRing l.1).1 == (stopRing stop).1)).map (fun l => l.2.1)

/-- The grains in a stop's collision buffer leave it. -/
def State.drainStop (s : State) (stop : Nat) : State :=
  (kget [] s.lnk.collide stop).foldl (fun s f => s.moveOn f) { s with lnk := { s.lnk with collide := kdel s.lnk.collide stop } }

/-- At a position the grain in a stop's collision buffer leaves in a slot that no table reserves at that stop (R250); where its
route does not show its direction, in one free both ways. -/
def State.drainAt (s : State) (p stop : Nat) : State :=
  match kget [] s.lnk.collide stop with
  | [] => s
  | f :: _ =>
    let ok := match s.flightDir stop f with
      | some d => s.slotFree stop d p
      | none => s.slotFree stop true p && s.slotFree stop false p
    if ok then (s.drainStop stop).takeSlot stop ((s.flightDir stop f).getD true) 1 p else s

/-- GRAIN_COLLISION: two grains of a run that move meet at one output slot of a stop. Both enter the collision buffer, after
what it holds has left; the module stalls for one cycle, in which the grain of the lower rank leaves, and the other stays until
a slot that no table reserves (R250). Two grains that do not both move here do not meet. -/
def execGrainCollision (r : Nat) (stop : Nat) (g1 g2 : Grain) (s : State) : Out :=
  match s.run? r with
  | none => .fault .noSuchUnit
  | some x =>
    match s.takeMoving r g1 with
    | none => .next s
    | some (f1, s1) =>
      match s1.takeMoving r g2 with
      | none => .next s
      | some (f2, s2) =>
        let low := decide (s.flightRank f1 ≤ s.flightRank f2)
        let s := ((s2.drainStop stop).countConflict.stallNow 1).moveOn (if low then f1 else f2)
        let s := { s with lnk := { s.lnk with collide := kset s.lnk.collide stop [if low then f2 else f1] } }
        .next (s.postEvent x.ctx 0x04 0 0xFFFF x.job.toNat (stopKind stop))

/-! Best-effort grains on the rings (R251, R252) -/

/-- Key of a stop's best-effort buffer for a direction. -/
def beKey (stop : Nat) (increasing : Bool) : Nat := 2 * stop + b2n increasing

/-- The buffer of a stop for a direction. -/
def State.beAt (s : State) (stop : Nat) (dir : Bool) : List BeGrain := kget [] s.lnk.beBuf (beKey stop dir)

def State.setBe (s : State) (stop : Nat) (dir : Bool) (q : List BeGrain) : State :=
  { s with lnk := { s.lnk with beBuf := if q.isEmpty then kdel s.lnk.beBuf (beKey stop dir) else kset s.lnk.beBuf (beKey stop dir) q } }

/-- A best-effort grain has taken the last leg of its route and leaves it at position p: it lands, padded to the contract (R246), or
goes on to the port of its route. -/
def State.beArrive (s : State) (b : BeGrain) (p : Nat) : State :=
  let c := Grain.dcore b.g
  if Grain.dmod b.g != s.moduleId then s.sendRouted b.g
  else
    let here := match s.run? b.run with | some x => x.cycleAt (p + 2) | none => 0
    let d := if c < 0x3F0 && b.src < 0x3F0 then s.hopD b.src c else 40
    s.fly { run := b.run, core := c, g := b.g, t := max (b.at0 + d) here, q := none, bad := b.bad }

/-- BEST_EFFORT_INJECT: the first grain that waits to enter a ring at a stop in a direction enters if at least two of the four
entries of the stop's buffer are free (R251). -/
def execBestEffortInject (stop : Nat) (increasing : Bool) (s : State) : Out :=
  match s.lnk.beWait.find? (fun b => b.legs.head?.any (fun l => l.1 == stop && l.2.1 == increasing)) with
  | none => .next s
  | some b =>
    let q := s.beAt stop increasing
    if q.length > 2 then .next s
    else .next ({ s with lnk := { s.lnk with beWait := s.lnk.beWait.erase b } }.setBe stop increasing (beInsert b q))

/-- At a position the head of a buffer takes a slot that is free, and holds it until it turns or ejects. DESIGN CHOICE (log 128): it
leaves only if one entry of the buffer at its turn is free then, and has that entry from then on; it reaches it 2 cc a step
later, and 2 cc for the turn from a row ring (R246). -/
def State.beMove (s : State) (p key : Nat) : State :=
  let stop := key / 2
  let dir := decide (key % 2 = 1)
  match s.beAt stop dir with
  | [] => s
  | b :: q =>
    let n := (b.legs.headD (stop, dir, 0)).2.2
    if p < b.arr || !s.slotFree stop dir p then s
    else
      match b.legs.drop 1 with
      | [] => ((s.setBe stop dir q).takeSlot stop dir n p).beArrive b (p + 2 * n)
      | m :: ms =>
        let next := s.beAt m.1 m.2.1
        if next.length ≥ 4 then s
        else
          let turn := if stopKind stop = 0 then 2 else 0
          ((s.setBe stop dir q).takeSlot stop dir n p).setBe m.1 m.2.1
            (beInsert { b with arr := p + 2 * n + turn, legs := m :: ms } next)

/-- The rings at one position: grains with no leg to go arrive, buffered ones move, and collision buffers drain. -/
def State.ringAt (s : State) (p : Nat) : State :=
  let here := s.lnk.beWait.filter (fun b => b.legs.isEmpty && decide (b.arr ≤ p))
  let s := { s with lnk := { s.lnk with beWait := s.lnk.beWait.filter (fun b => !(b.legs.isEmpty && decide (b.arr ≤ p))) } }
  let s := here.foldl (fun s b => s.beArrive b p) s
  let s := (s.lnk.beBuf.map (fun p => p.1)).foldl (fun s k => s.beMove p k) s
  (s.lnk.collide.map (fun p => p.1)).foldl (fun s k => s.drainAt p k) s

/-- Whether the router's output is free in a cycle of the tick in progress: no active run's table reserves it (R249). The router
keeps frame time (12 R317). -/
def State.routerFree (s : State) (out i : Nat) : Bool :=
  let n := ccPerTick s.pwr.cur
  s.activeRuns.all (fun e =>
    let per := max 1 e.2.periodCc
    let t := (s.chn.count - e.2.cl.getD 0 - 24 * e.2.shift) * n + i
    !(s.slotsOf e.2).any (fun t' => t'.kind == 3 && t'.res == out && t'.time % per == t % per))

/-- The grain that goes first of those that have been at an output for the router's 2 tk: a hold, then management, then best-effort,
each in order of arrival (R246, R252). -/
def State.routerPick (s : State) (out : Nat) : Option (Nat × Nat × Grain) :=
  let first := fun (c : Nat) => s.lnk.routerQ.find? (fun e => e.1 == out && decide (e.2.1 + 2 ≤ s.chn.count) && Grain.cls e.2.2 == c)
  (first 2).orElse (fun _ => (first 3).orElse (fun _ => first 1))

/-- A grain has passed the router: it waits at its port for a slot, or at the bridge to enter its die. -/
def State.routed (s : State) (out : Nat) (g : Grain) : State :=
  if out < 32 then s.modPort out (fun x => { x with outQ := x.outQ ++ [g] })
  else
    let c := Grain.dcore g
    let now := match ((s.core c).run).bind s.run? with | some x => s.nowOf x | none => 0
    s.beEnter { run := ((s.core c).run).getD 0, src := 0x3FE, at0 := now, arr := s.pos, g := g, bad := 0, legs := s.legs none (some c) }

/-- One cycle of the router at an output. -/
def State.routerCycle (s : State) (out i : Nat) : State :=
  if !s.routerFree out i then s
  else
    match s.routerPick out with
    | none => s
    | some e => { s with lnk := { s.lnk with routerQ := s.lnk.routerQ.erase e } }.routed out e.2.2

/-- The rings move up to the position reached, and the router passes what waits there. -/
def State.ringTick (s : State) : State :=
  let lo := max s.lnk.ringPos (s.pos - 2 * ccPerTick s.pwr.cur)
  let s := (List.range (s.pos - lo)).foldl (fun (s : State) i => s.ringAt (lo + i)) s
  let s := { s with lnk := { s.lnk with ringPos := s.pos } }
  let outs := (s.lnk.routerQ.map (fun e => e.1)).eraseDups
  outs.foldl (fun s o => (List.range (ccPerTick s.pwr.cur)).foldl (fun s i => s.routerCycle o i) s) s

/-! Null grains (R242; 11 R312) -/

/-- The slots of a stream at core c that have passed without a grain carry null grains. -/
def State.nullsAt (s : State) (r : Nat) (x : Run) (c st : Nat) (e : StreamEntry) : State :=
  let ts := s.ringTimes x e.srcCor s.moduleId c st
  if e.kind = .unused || e.srcMod != s.moduleId || decide (e.srcCor ≥ 0x3F0) || ts.isEmpty then s
  else
    let n := slotsBefore ts x.periodCc (s.nowOf x)
    (s.flyNulls r c st (fun i => slotAt ts x.periodCc i + s.hopD e.srcCor c - 2) e.sent (n - e.sent)).sentTo c st n

/-- The ring slots of the tick before, of cores' streams to other modules, that passed without a grain. -/
def State.nullsOut (s : State) (r : Nat) (x : Run) : State :=
  let n := ccPerTick s.pwr.cur
  (s.slotsOf x).foldl (fun s t =>
    let u := t.time % max 1 x.periodCc
    let now := s.nowOf x
    let at_ := now - n + (u + max 1 x.periodCc - (now - n) % max 1 x.periodCc) % max 1 x.periodCc
    let due := s.routerAt (at_ - 2)
    if decide (t.kind > 1) || t.dmod == s.moduleId || decide (t.dcore ≥ 0x3F0) || decide (now < n) || decide (now ≤ at_) ||
        decide (at_ < 2) || (t.kind == 1 && (s.slotsOf x).any (fun y => y.kind == 0 && y.carries t.dmod t.dcore t.stream)) ||
        s.lnk.outQ.any (fun o => o.run == r && !o.fwd && o.t == due && t.carries o.dmod o.dcor o.strm)
    then s
    else s.waitSlot r 0x3FF due (nullGrain t.dmod t.dcore t.stream)) s

def State.nullTick (s : State) : State :=
  s.activeRuns.foldl (fun s e =>
    let cs := (s.cores.filter (fun p => p.2.run == some e.1)).flatMap (fun p => p.2.streams.map (fun y => (p.1, y.1, y.2)))
    (cs.foldl (fun s y => s.nullsAt e.1 e.2 y.1 y.2.1 y.2.2) s).nullsOut e.1 e.2) s

/-! Forwarding -/

/-- GRAIN_FORWARD: a grain that is not scheduled, or a re-sent one, is forwarded by DMOD, or discarded and counted where
its route entry is invalid (10 R272, R273). -/
def execGrainForward (g : Grain) (s : State) : Out :=
  if Grain.resent g && Grain.dmod g != s.moduleId then .next (s.forwardResent g)
  else if Grain.cls g = 0 then .next s
  else .next (s.sendRouted g)

end Sys2Proof.Machine
end

