-- ==== Sys2Proof/Machine/Runs.lean ====
section
/-!
DEFINITION. The life of a run: admission and the preparation of its cores, coordinated launch, requests, digest points,
completion and the manifest (02 R44, R45, R60 to R68; 05 R141, R162; 08 R213, R233; 10 R282 to R284; 11 R307; 13 R356 to
R366; 14 R383, R385, R397).
-/

namespace Sys2Proof.Machine

/-! The manifest (02 R62 to R68) -/

/-- Whether this module is the run's entry module and coordinator: its participant with the lowest module ID (10 R282,
13 R357). -/
def State.isEntry (s : State) (x : Run) : Bool := x.tun.participants.head? == some s.moduleId

/-- The digest chain (R62). -/
def digestChain : Nat → List (Nat × DWord) → List Byte → List Byte
  | _, [], h => h
  | l, d :: ds, h => digestChain (l + 1) ds (hashBytes (sha384 (h ++ leBytes 4 l ++ leBytes 8 d.2.toNat)))

/-- The topology fingerprint (R66). -/
def State.topologyFp (s : State) (x : Run) : Hash :=
  sha384 (leBytes 2 x.tun.participants.length ++ x.tun.participants.flatMap (leBytes 2) ++
    [BitVec.ofNat 8 s.chn.straps.sysId.toNat, BitVec.ofNat 8 x.tun.freqStep.toNat, BitVec.ofNat 8 x.tun.furlongN])

/-- The key commitment of a request (R67). DEDUCED (log 29): a GREEDY request draws no samples, so its key is zero here. -/
def Req.commit (q : Req) : Hash :=
  sha384 (beBytes 16 q.nonce.toNat ++ bytesOf (if q.greedy then 0 else q.samplKey) 16 ++ leBytes 8 q.reqId.toNat)

/-- The hash of a request's input (R67). -/
def Req.inputHash (q : Req) : List Byte := hashBytes (sha384 q.input)

/-- A request's record in the manifest; one that never had a row is all zero (R65, 13 R362). -/
def Req.record (q : Req) : List Byte :=
  if q.assigned.isNone then List.replicate 176 0
  else
    leBytes 8 q.reqId.toNat ++ leBytes 8 q.outBytes.length ++ q.inputHash ++ hashBytes (sha384 q.outBytes) ++
      beBytes 16 q.nonce.toNat ++ hashBytes q.commit

/-- The request table: one record for each of NREQ, those never submitted all zero. -/
def State.requestTable (s : State) (x : Run) : List Byte :=
  if s.isEntry x then
    x.reqs.flatMap Req.record ++ List.replicate (176 * (x.nreq - x.reqs.length)) 0
  else []

/-- The input hashes of the request records, in order (R65). DEDUCED (log 78). -/
def State.inputHashes (s : State) (x : Run) : List Byte :=
  (records 176 (s.requestTable x)).flatMap (fun r => (r.drop 16).take 48)

/-- Length of a manifest with nL digest points and nR requests (R65). -/
def manifestLen (nL nR : Nat) : Nat := 448 + 16 * nL + 176 * nR + 96

/-- Requests recorded on this module (R64). -/
def State.requestCount (s : State) (x : Run) : Nat := if s.isEntry x then x.nreq else 0

/-- The digest table: L, word count, digest. -/
def digestTable : Nat → List (Nat × DWord) → List Byte
  | _, [] => []
  | l, d :: ds => leBytes 4 l ++ leBytes 4 d.1 ++ leBytes 8 d.2.toNat ++ digestTable (l + 1) ds

/-- The eight counts in the order of the manifest. -/
def RunCounts.bytes (c : RunCounts) : List Byte :=
  [c.resend, c.refcoll, c.emerg, c.stp, c.hgretry, c.conflict, c.hold, c.stallCc].flatMap
    (fun n => leBytes 8 (min n (2 ^ 64 - 1)))

/-- The active firmware slot's versions. -/
def Hub.fw (h : Hub) : FwSlot := if h.slotB then h.fwB else h.fwA

/-- The digest points that a manifest records: those completed, of the tun's DIGEST_POINTS. DESIGN CHOICE (log 125): a point
that the program adds beyond them is posted and not recorded. -/
def Run.points (x : Run) : List (Nat × DWord) := x.digests.take x.tun.digestPoints

/-- Bytes 0 to TOTAL_LEN − 97 of a manifest (R65). -/
def State.manifestBody (s : State) (x : Run) (st : Nat) : List Byte :=
  let nL := x.points.length
  let nR := s.requestCount x
  leBytes 4 0x4D465752 ++ leBytes 2 1 ++ leBytes 2 448 ++ leBytes 4 (manifestLen nL nR) ++ leBytes 2 s.moduleId ++
  leBytes 1 s.chn.straps.sysId.toNat ++ leBytes 1 (x.mode.toNat + 4 * b2n x.sealAdm) ++ leBytes 2 x.ctx ++ leBytes 1 st ++
  [x.openFeat] ++ leBytes 4 0 ++ leBytes 8 x.job.toNat ++ leBytes 8 (x.launched.getD (x.cl.getD 0)) ++ leBytes 8 s.chn.count ++
  hashBytes x.tun.progHash ++ hashBytes x.tun.numHash ++ hashBytes x.tun.stoneId ++ hashBytes (s.topologyFp x) ++
  hashBytes (sha384 (s.inputHashes x)) ++ leBytes 4 x.fw.2.1.toNat ++ leBytes 4 x.fw.2.2.toNat ++
  leBytes 1 (b2n x.fw.1) ++ [s.hub.stepping] ++ leBytes 1 x.lnchStep.toNat ++ leBytes 1 x.tun.furlongN ++
  leBytes 4 0x00010000 ++ x.counts.bytes ++ leBytes 4 nL ++ leBytes 4 nR ++ leBytes 8 0 ++
  digestChain 0 x.points (List.replicate 48 0) ++ leBytes 16 keyId.toNat ++ digestTable 0 x.points ++
  s.requestTable x

/-- Sign bytes with the device key (R68). -/
def State.signed (s : State) (bs : List Byte) : State × List Byte :=
  ({ s with fresh := s.fresh + 1 }, bs ++ deviceSign s.fresh (sha384 bs))

/-! Requests (13 R359 to R362) -/

/-- A request completes: its output is written before its completion (13 R352). -/
def State.completeReq (s : State) (x : Run) (q : Req) (st : Nat) (host : Bool) : State :=
  if !host then s
  else
    (s.hostWrite x.ctx true q.outAddr q.outBytes).complete x.ctx 0x04 st q.cmd (b2n q.trunc) x.job.toNat q.reqId.toNat
      q.outBytes.length

/-- The requests that still stand when a run ends with status st (R362); those of a killed context are SCRUBBED
(14 R391). -/
def State.endReqs (s : State) (x : Run) (st : Nat) (host : Bool) : List Req → State
  | [] => s
  | q :: qs =>
    (if q.done then s else s.completeReq x q (if q.row.isSome || st = 9 then st else 6) host).endReqs x st host qs

/-- The lowest free row of a run (11 R307). -/
def Run.freeRow (x : Run) : Option Nat := (List.range x.tun.rows).find? (fun r => !x.reqs.any (fun q => q.row == some r))

/-- Give rows to the eligible requests in order, at digest point `pt` (0xFFFFFFFF for launch), seen by host-endpoint grains
from cycle `eff` (11 R307, 13 R359). A named row that is occupied waits for a later point. -/
def Run.assignRows (byHost : Bool) (pt : Word) (eff : Nat) : Run → List Req → Run
  | x, [] => x
  | x, q :: qs =>
    let row :=
      if !q.eligible || q.assigned.isSome || q.done then none
      else if byHost then (if x.reqs.any (fun y => y.row == some q.rowWant) then none else some q.rowWant)
      else x.freeRow
    let x :=
      match row with
      | none => x
      | some r => x.modReq q.reqId (fun y => { y with row := some r, assigned := some pt, effect := eff })
    x.assignRows byHost pt eff qs

/-- Whether rows are named by the host (13 R369 bit 0). -/
def State.rowsByHost (s : State) : Bool := bitOf s.hub.splitAct 0

/-- Requests that FINAL ended complete and free their rows (R362). -/
def State.finishReqs (s : State) (r : Nat) (x : Run) : List Req → State
  | [] => s
  | q :: qs =>
    (if q.finished && !q.done then
      (s.completeReq x q 0 true).modRun r (fun y => y.modReq q.reqId (fun z => { z with done := true, row := none }))
    else s).finishReqs r x qs

/-! The end of a run on this module (02 R63, 05 R162) -/

/-- A core left by its run: nothing issues, writes on their way land, and what waits in its queues is discarded. One that was reset during the run is
scrubbed and left unowned (15 R407). -/
def Core.leave (k : Core) : Core :=
  let k := (k.settle (k.spadQ.foldl (fun m w => max m w.cyc) 0 + 1)).landed
  { k with
    run := none, ell := none, hold := .free, frozen := none, inHandler := false, waitQ := false, asyncQ := [], pendW := []
    outArr := [], bankQ := [], resetDue := false
    owner := if k.resetDue then none else k.owner
    scrubBusy := k.scrubBusy || k.resetDue
    arr := { k.arr with queue := [], jobs := [], columns := [] }
    eng := { k.eng with loadQ := [], storeQ := [] } }

/-- Objects and dies of a run are released (08 R213, 07 R199). -/
def State.releaseObjects (s : State) (r : Nat) : State :=
  { s with
    syn := { s.syn with
      flags := s.syn.flags.filter (fun p => p.2.run != r), barriers := s.syn.barriers.filter (fun p => p.2.run != r) }
    hg := kmap (fun _ h => if h.holder = some r then { h with holder := none, mask := 0 } else h) s.hg }

/-- The cores of a run leave it; they stay owned by the context (14 R383). -/
def State.leaveCores (s : State) (r : Nat) : State :=
  { s with
    ellSaved := s.ellSaved.filter (fun p => (s.core p.1).run != some r)
    cores := kmap (fun _ k => if k.run = some r then k.leave else k) s.cores }

/-- The arrays of a run's cores as of the schedule cycle reached: what the run's operations did before it ends or is saved has been
done (04 R116, R128), and races are reported (08 R223). -/
def State.catchUp (s : State) (r : Nat) (x : Run) : State :=
  ((s.coresOf r).foldl (fun s c => s.arrayAt c (s.nowOf x)) s).reportRaces (fun f => f.run == r)

/-- The cores that a pre-empted run left are no longer kept for it (14 R383). -/
def State.unmarkSaved (s : State) (x : Run) : State :=
  match x.preempt with
  | none => s
  | some p => p.cores.foldl (fun s e => s.modCore e.1 (fun k => { k with preempted := false })) s

/-- The bound of PWR_STEP.MAX and of MFR_STEP_CAP in force: a lowered one waits for a moment without an active run (12 R319,
16 R440). -/
def State.maxInForce (s : State) : BitVec 2 := if s.activeRuns.isEmpty then s.pwr.maxPend.getD s.pwr.max else s.pwr.max
def State.capInForce (s : State) : BitVec 2 := if s.activeRuns.isEmpty then s.pwr.mfrPend.getD s.pwr.mfrCap else s.pwr.mfrCap

/-- Bounds that have taken effect are stored, and CHANGING stands only while a run waits for its step (12 R319, R337). -/
def State.settleBounds (s : State) : State :=
  let s := { s with pwr := { s.pwr with
    changing := s.pwr.changing && s.runs.any (fun e => e.2.holdsUnits && e.2.stepAt.isSome) } }
  if s.activeRuns.isEmpty then
    { s with pwr := { s.pwr with max := s.maxInForce, mfrCap := s.capInForce, maxPend := none, mfrPend := none } }
  else s

/-- The grains of a run on the rings, but for those on their way. -/
def Lnk.onRings (x : Lnk) (r : Nat) : List BeGrain := (x.beWait ++ x.beBuf.flatMap (fun p => p.2)).filter (fun b => b.run == r)

/-- The network without what it holds of a run (08 R213). -/
def Lnk.without (x : Lnk) (r : Nat) : Lnk :=
  { x with
    outNaks := x.outNaks.filter (fun n => n.run != r), replies := x.replies.filter (fun e => e.1 != r)
    flights := x.flights.filter (fun f => f.run != r), outQ := x.outQ.filter (fun o => o.run != r)
    heldIn := x.heldIn.filter (fun h => h.1 != r)
    collide := kmap (fun _ q => q.filter (fun f => f.run != r)) x.collide
    beWait := x.beWait.filter (fun b => b.run != r), beBuf := kmap (fun _ q => q.filter (fun b => b.run != r)) x.beBuf }

/-- The port that the tables of a run give an outbound grain, else that of the route table. -/
def State.outPort (s : State) (x : Run) (g : Grain) : Option Nat :=
  match (s.slotsOf x).find? (fun t => t.kind == 4 && !t.inward && t.carries (Grain.dmod g) (Grain.dcore g) (Grain.stream g)) with
  | some t => some t.res
  | none => s.route (Grain.dmod g)

/-- What a run has on its way arrives before its state is taken or its end (08 R231; 10 R286; 13 R359): best-effort grains and
those in collision buffers, the grains for the hub, with `cores` those for its cores too, and grains that wait for a link
slot leave. DEDUCED (log 135). -/
def State.landAll (s : State) (r : Nat) (x : Run) (cores : Bool) : State :=
  let be := s.lnk.onRings r
  let late := (s.lnk.collide.flatMap (fun p => p.2)).filter (fun f => f.run == r)
  let s := { s with lnk := { s.lnk with
    collide := kmap (fun _ q => q.filter (fun f => f.run != r)) s.lnk.collide
    beWait := s.lnk.beWait.filter (fun b => b.run != r)
    beBuf := kmap (fun _ q => q.filter (fun b => b.run != r)) s.lnk.beBuf } }
  let s := be.foldl (fun s b => s.beArrive b s.pos) (late.foldl (fun s f => s.moveOn f) s)
  let s := (s.lnk.flights.filter (fun f => f.run == r)).foldl (fun s f =>
    if f.core ≥ 0x3F0 then s.hubAct r f else if cores then s.land f.core f .sound else s) s
  let out := s.lnk.outQ.filter (fun o => o.run == r)
  out.foldl (fun s o =>
    match s.outPort x o.g with
    | some p => if (s.port p).active then (if o.fwd then s.transmit p o.g else (s.transmit p o.g).retain r p o.g) else s
    | none => s) { s with lnk := { s.lnk with outQ := s.lnk.outQ.filter (fun o => o.run != r) } }

/-- A consumer of a run that ends or is saved holds the module no longer. -/
def State.letGo (s : State) (r : Nat) : State :=
  match s.lnk.awaited with
  | some a => if (s.core a.1).run = some r then { s with lnk := { s.lnk with awaited := none } } else s
  | none => s

/-- The status that the device writes: a code that is reserved, from a program's EXITST or an ABORT grain, is never written (13
R367). DESIGN CHOICE (log 154): ABORTED stands for it. -/
def statusWritten (st : Nat) : Nat := if st < 0x0C then st else 6

/-- A run ends on this module with a status: its manifest is written and signed, its requests and then the run complete,
and what it holds is released (02 R63, R68; 13 R352, R362), and a PREEMPT that still waits for its boundary completes. A run that
was never admitted has no manifest (log 27). Without
host writes only the release takes place (14 R391). -/
def State.finishRun (s : State) (r st : Nat) (host : Bool) : State :=
  match s.run? r with
  | none => s
  | some x =>
    let st := statusWritten st
    let admitted := x.phase != .waiting || x.launched.isSome
    let m :=
      if host && admitted then
        let q := s.signed (s.manifestBody x st)
        (q.1.hostWrite x.ctx true x.manAddr q.2, q.2.length)
      else (s, 0)
    let s := (m.1.endReqs x st host x.reqs)
    let s :=
      if host then
        let s := match x.preempt with
          | some p => if p.saved = 0 then s.complete 0 0x15 (if st = 9 then 9 else 6) p.cmd 0 x.job.toNat 0 0 else s
          | none => s
        s.complete x.ctx 0x03 st x.cmd 0 x.job.toNat m.2 s.chn.count
      else s
    let s := (((s.letGo r).releaseObjects r).leaveCores r).unmarkSaved x
    { s with
      runs := kdel s.runs r
      lnk := s.lnk.without r
      chn := { s.chn with readies := s.chn.readies.filter (fun y => y.job != x.job) } }.settleBounds

/-- The status of a run that R162 selects: the EXITST of the lowest core that has a non-zero one (05 R162). -/
def State.exitStatus (s : State) (cs : List Nat) : Nat :=
  match cs.find? (fun c => (s.core c).finalExit != 0) with
  | some c => (s.core c).finalExit.toNat
  | none => 0

/-- A run that has not launched, or one at a boundary, is over with a status and waits for RUN_COMPLETE. The status set
before stands; one that a core's EXITST gave is that of the lowest core that has one now (05 R162). -/
def State.concludeRun (s : State) (r : Nat) (st : Byte) : State :=
  let e := s.exitStatus (s.coresOf r)
  (s.modRun r (fun x => { x with
    phase := .ended, endStatus := some (if x.endExit && e != 0 then BitVec.ofNat 8 e else x.endStatus.getD st) })).settleBounds

/-- ABORT reaches a run: one that has launched ends at the next boundary, any other at once (10 R284). One that still waits for
admission has no manifest (log 27). -/
def State.abortRun (s : State) (r : Nat) (st : Byte) : State :=
  match s.run? r with
  | none => s
  | some x =>
    match x.phase with
    | .active => s.endRun r st
    | .ended => s
    | .waiting => if x.launched.isNone then s.finishRun r st.toNat true else s.concludeRun r st
    | _ => s.concludeRun r st

/-- ABORT with a status to every other participant (10 R281, R284). -/
def State.sendAbort (s : State) (x : Run) (st : Byte) : State := s.toParticipants x 4 [st]

/-- A run's cores that are not complete: halted, with every operation they issued completed (05 R162). -/
def Core.complete (k : Core) : Bool := k.halted && k.fenceDone 0x1F && k.dig.issued == k.dig.handed

/-- Whether every core of the run on this module has handed over digest point L. -/
def State.pointReached (s : State) (r : Nat) (x : Run) (l : Nat) : Bool :=
  let cs := s.coresOf r
  !cs.isEmpty && cs.all (fun c => x.handed.any (fun h => h.1 == c && h.2.1 == l))

/-- What its cores have sent to their banks and is due before schedule position t takes place, so that its events are
posted before the run ends (06 R180). -/
def State.drainBanks (s : State) (r t : Nat) : State := (s.coresOf r).foldl (fun s c => s.bankRun c t) s

/-- RUN_COMPLETE: a run that is over, or whose cores are all complete, ends; its manifest is written and its completion
posted (R63). A run that still goes on is not touched. DEDUCED (log 105). -/
def execRunComplete (r : Nat) (s : State) : Out :=
  match s.run? r with
  | none => .fault .noSuchUnit
  | some x =>
    match x.phase with
    | .ended =>
      let s := (s.catchUp r x).landAll r x false
      .next ((s.drainBanks r ((x.furlong + 1) * 2 ^ x.tun.furlongN)).finishRun r (x.endStatus.getD 0).toNat true)
    | .active =>
      let cs := s.coresOf r
      if x.endStatus.isSome || !(cs.all (fun c => (s.core c).complete)) || s.pointReached r x x.digests.length then .next s
      else .next ((((s.catchUp r x).landAll r x false).drainBanks r (2 ^ 64)).finishRun r (s.exitStatus cs) true)
    | _ => .next s

/-! Admission (02 R45, 13 R356) -/

/-- The first `n` numbers below `lim` that a table does not hold. -/
def freeKeys {α : Type} (m : KMap α) (lim n : Nat) : List Nat :=
  ((List.range lim).filter (fun i => (kfind m i).isNone)).take n

/-- A free physical flag allocated to a virtual flag of a run (08 R213). -/
def Flag.fresh (ctx r : Nat) (vid : BitVec 16) : Flag :=
  { value := false, owner := ctx, run := r, vid := vid, broken := false, last := none, race := false, cyc := none,
    setOp := false, origin := none, issuers := [], owed := false, view := [], upd := [], hist := [] }

/-- A free physical barrier allocated to a barrier record (08 R213). `all` are the modules that take part. -/
def Barrier.fresh (ctx r : Nat) (b : BarrRec) (all : List Nat) : Barrier :=
  { vid := BitVec.ofNat 16 b.vid, owner := ctx, run := r, broken := false, spans := b.spans, rootMod := b.root,
    modules := all, parts := b.parts, gens := 0, overran := false, coreGen := [], bits := [], arrivals := [], releases := [] }

/-- The modules that declare participants of a barrier that spans modules (08 R224, R225). -/
def Tun.barrModules (t : Tun) (vid : Nat) : List Nat :=
  t.participants.filter (fun m => (t.barriers m).any (fun b => b.vid == vid && !b.parts.isEmpty))

/-- The LOCAL flags that a module's sync section declares. -/
def Tun.localFlags (t : Tun) (m : Nat) : List (BitVec 16) :=
  ((t.flagEnts m).filter (fun e => bits e 16 2 == 0)).map (fun e => BitVec.ofNat 16 (bits e 0 16))

/-- Allocate the objects of a run (08 R213). -/
def State.allocate (s : State) (r : Nat) (x : Run) : State :=
  let vs := x.tun.localFlags s.moduleId
  let bs := x.tun.barriers s.moduleId
  let fs := (freeKeys s.syn.flags 8192 vs.length).zip vs
  let gs := (freeKeys s.syn.barriers 512 bs.length).zip bs
  { s with syn := { s.syn with
    flags := fs.foldl (fun m p => kset m p.1 (Flag.fresh x.ctx r p.2)) s.syn.flags
    barriers := gs.foldl (fun m p => kset m p.1 (Barrier.fresh x.ctx r p.2
      (if p.2.spans then x.tun.barrModules p.2.vid else [s.moduleId]))) s.syn.barriers } }

/-- A stream record as a table entry (11 R304, 09 R243). -/
def StreamRec.entry (q : StreamRec) : StreamEntry :=
  { kind := match q.kind with | 1 => .data | 2 => .partialSum | _ => .unused
    srcMod := q.smod, srcCor := q.score, base := q.base, rows := q.rows, bank := q.base % 4, lane0 := q.base / 256 % 256
    count := q.rows, format := q.format, landed := 0, sent := 0 }

/-- The preparation of a core at admission (05 R141): code and start bits, data memory, tables and SCRATCH records are
written, and everything else but the rest of the scratchpad, the stratum and the logs is as reset leaves it. -/
def Core.prepare (k : Core) (t : Tun) (e : CoreEnt) (ctx r : Nat) : Core :=
  let k := k.leave
  let code := t.indexed e.code
  let dat := t.indexed e.data
  let recs := (t.scratch e.scratch).getD []
  let base :=
    { Core.reset with
      spad := k.spad, strat := k.strat, ecc := k.ecc.filter (fun x => x.mem == .spad || x.mem == .strat), eccRegs := k.eccRegs
      available := k.available, patrol := k.patrol, owner := some ctx, run := some r, pc := e.entry
      imem := memWrites [] 0 code, starts := startsOf ((decodeSegment code).getD []), segLen := code.length / 2
      dmem := memWrites [] 0 (dat.drop 128)
      tpar := ((List.range 16).map (fun i => (i, BitVec.ofNat 64 (leAt dat (8 * i) 8)))).filter (fun p => p.2 != 0)
      descs := (records 128 (t.indexed e.desc)).foldl (fun m q => kset m (leAt q 0 1) (descOf q)) []
      streams := (t.streamRecs e).foldl (fun m q => kset m q.stream q.entry) []
      pools := ((records 8 (t.indexed e.credits)).map CreditRec.parse).foldl (fun m q => kset m q.pool
        { dmod := q.dmod, dcore := q.dcore, limit := q.limit, count := q.limit, since := 0, flag := BitVec.ofNat 16 q.flag }) [] }
  recs.foldl (fun k q => k.spadPut q.1 q.2 []) base

/-- Prepare every core that the tun occupies here. -/
def State.prepareCores (s : State) (r : Nat) (x : Run) : List CoreEnt → State
  | [] => s
  | e :: es => (s.modCore e.core (fun k => k.prepare x.tun e x.ctx r)).prepareCores r x es

/-- Whether a run declares a hogshead die (07 R199). -/
def Tun.usesDie (t : Tun) (d : Nat) : Bool := bitOf t.features 4 && (if d = 0 then t.hgMask0 else t.hgMask1) != 0

/-- A run takes the dies that it declares; their refresh rate is that of its mode (07 R199, R200). -/
def State.holdDies (s : State) (r : Nat) (x : Run) : State :=
  [0, 1].foldl (fun s d =>
    if x.tun.usesDie d then
      let s := s.modHog d (fun h => { h.flush with
        holder := some r, mask := if d = 0 then x.tun.hgMask0 else x.tun.hgMask1, uses := [], due := [] })
      s.modHog d (fun h => { h with rate := BitVec.ofNat 2 (s.hgRate d) })
    else s) s

/-- The status of the mode check (02 R45). -/
def State.modeDenied (s : State) (t : Tun) : Bool :=
  let m := s.det.active.toNat
  (t.modeReq == 1 && m != 1) || (t.modeReq == 2 && m != 2) || (t.modeReq == 0 && m == 1 && !t.sealedOk)

/-- The copy of a run's stone that its context maps (14 R397). -/
def State.mappedCopy (s : State) (x : Run) : Option Copy :=
  ((s.ctx x.ctx).stones.filterMap (fun i => kfind s.ing.copies i)).find?
    (fun k => k.stoneHash == x.tun.stoneId && k.placeHash == x.tun.placeHash)

/-- Whether a SPACE 0x2 record lies within the grants and the stone regions of the context (14 R385). An empty region
reaches nothing and passes (log 28). -/
def State.hogRecordOk (s : State) (x : Run) (d : Desc) : Bool :=
  let p := s.hogRanges x.ctx
  let rs := if Desc.wr d then p.1 else p.1 ++ p.2
  let q := Desc.scaleRegion d
  Desc.space d != 2 || (inRegions rs (Desc.rlo d) (Desc.rhi d) &&
    (!Desc.mx d || (decide (0 ≤ q.1) && inRegions rs q.1.toNat q.2.toNat)))

/-- The status that ends an admission, 0 where nothing does: absent cores (00 R4), mode, step, straps, stone, grants and the
manifest length (02 R45, R64; 10 R271; 12 R319; 14 R385, R397, R400, R401). -/
def State.admitStatus (s : State) (x : Run) : Nat :=
  let es := x.tun.coreMap s.moduleId
  if !(es.all (fun e => s.hasCore e.core)) then 1
  else if s.modeDenied x.tun then 3
  else if decide (x.tun.freqStep.toNat > s.maxInForce.toNat) || decide (x.tun.freqStep.toNat > s.capInForce.toNat) then 3
  else if !s.chn.strapsOk && x.tun.participants != [s.moduleId] then 3
  else if x.tun.stoneId != 0 && (s.mappedCopy x).isNone then 3
  else if x.tun.stoneId != 0 && (s.mappedCopy x).any (fun k => k.revoked) then 3
  else if x.tun.stoneId != 0 && (s.mappedCopy x).any (fun k => k.damaged) then 4
  else if !(es.all (fun e => (records 128 (x.tun.indexed e.desc)).all (fun q => s.hogRecordOk x (descOf q)))) then 3
  else if decide (manifestLen x.tun.digestPoints (s.requestCount x) > x.manLen) then 2
  else 0

/-- Whether the stone rows that a run maps still wait to be rewritten (07 R188, R202). -/
def State.rewriteOwed (s : State) (x : Run) : Bool :=
  match s.mappedCopy x with
  | none => false
  | some k =>
    k.strata.any (fun q => (s.core q.1).dueIn .strat q.2.1 q.2.2) ||
      k.hogs.any (fun q => !((s.hog q.1).badIn true q.2.1 q.2.2).isEmpty)

/-- Whether the module takes admissions now: Active (12 R335), READY (15 R406), no pending mode (02 R43), repair (15 R420) or
firmware change for which no run is active (15 R418), and no fatal error. A repair that is pending waits for the runs that have been pre-empted, so it
does not keep those from their RESUME (01 R33). -/
def State.admitting (s : State) (resumed : Bool) : Bool :=
  s.board.loadOn && s.hub.ready && !s.hub.fatal && s.pwr.st == 0 && !s.det.changePend && (resumed || !bitOf s.hub.repairSt 0) &&
    !bitOf s.hub.repairSt 4 && (s.hub.fwState != 3 || !s.activeRuns.isEmpty)

/-- Whether a run is its context's oldest one that waits (13 R356). -/
def State.firstWaiting (s : State) (r : Nat) (x : Run) : Bool :=
  !(s.runs.any (fun p => decide (p.1 < r) && p.2.ctx == x.ctx && p.2.phase == .waiting))

/-- Whether a core can be given to a run now: free of runs, of pre-empted runs and of scrubs, and unowned or the context's
own (14 R383, 07 R207). DEDUCED (log 79). -/
def Core.readyFor (k : Core) (ctx : Nat) : Bool :=
  k.run.isNone && !k.preempted && !k.scrubBusy && (k.owner.isNone || k.owner == some ctx)

/-- Whether a pre-empted core is one that the run itself left (14 R387). -/
def Run.ownsSaved (x : Run) (c : Nat) : Bool :=
  match x.preempt with
  | some p => (kfind p.cores c).isSome
  | none => false

/-- Whether a core can be given to a run, which takes none in the core grain loop (15 R422). -/
def State.coreReady (s : State) (x : Run) (c : Nat) : Bool :=
  let k := s.core c
  !s.coreLooped c && (if x.ownsSaved c then { k with preempted := false } else k).readyFor x.ctx

/-- Whether two tuns name no flag and no barrier alike on a module. -/
def Tun.namesApart (m : Nat) (t u : Tun) : Bool :=
  (t.flagEnts m).all (fun e => (u.flagEnts m).all (fun f => bits e 0 16 != bits f 0 16)) &&
    (t.barriers m).all (fun b => (u.barriers m).all (fun c => b.vid != c.vid))

/-- Whether a context's runs together keep within the flags and barriers that it may map, and each identifier occurs once in its
map (08 R214, R215). DEDUCED (log 150): a run waits for one of its context that uses an identifier of its own. -/
def State.mapsFit (s : State) (x : Run) : Bool :=
  let held := fun (n : Tun → Nat) =>
    s.runs.foldl (fun a p => if p.2.ctx == x.ctx && p.2.holdsUnits then a + n p.2.tun else a) (n x.tun)
  s.runs.all (fun p => p.2.ctx != x.ctx || !p.2.holdsUnits || p.2.tun.namesApart s.moduleId x.tun) &&
  decide (held (fun t => t.nflag s.moduleId) ≤ 4096) && decide (held (fun t => t.nbarr s.moduleId) ≤ 256)

/-- The ports that a tun's tables for this module use. -/
def State.tunPorts (s : State) (t : Tun) : List Nat :=
  ((t.slots s.moduleId).filter (fun r => r.kind == 4)).map (fun r => r.res) ++ (t.receives s.moduleId).map (fun r => r.port)

/-- Whether every resource of a run is free, and a run of several modules finds the chain count SYNCED and the ports that its
tables use active (08 R213, R214; 07 R199; 12 R319; 10 R278, R294). -/
def State.resourcesFree (s : State) (x : Run) : Bool :=
  (x.tun.participants.length ≤ 1 || (s.chn.synced && (s.tunPorts x.tun).all (fun p => (s.port p).active))) && s.mapsFit x &&
  (s.pwr.cur == x.tun.freqStep || !(s.runs.any (fun p => p.2.holdsUnits))) &&
  [0, 1].all (fun d => !x.tun.usesDie d || ((s.hog d).holder.isNone && (s.hog d).ready)) &&
  decide (s.syn.flags.length + (x.tun.localFlags s.moduleId).length ≤ 8192) &&
  decide (s.syn.barriers.length + (x.tun.barriers s.moduleId).length ≤ 512)

/-- Cores of other contexts that a run needs and that nothing holds are taken and scrubbed (14 R383). -/
def State.takeCores (s : State) (x : Run) : List CoreEnt → State
  | [] => s
  | e :: es =>
    let k := s.core e.core
    (if k.owner.isSome && k.owner != some x.ctx && k.run.isNone && !k.preempted then s.beginScrub e.core else s).takeCores x es

/-- OPEN_FEATURES of a run (02 R38, R47). -/
def Tun.openFeatures (t : Tun) : Byte :=
  BitVec.ofNat 8 (b2n (bitOf t.features 1) + 2 * b2n (bitOf t.features 2) + 8 * b2n (bitOf t.features 0))

/-! Launch (10 R282 to R284) -/

/-- The least multiple of 24 not below n. -/
def ceil24 (n : Nat) : Nat := 24 * ((n + 23) / 24)

/-- A participant that cannot launch in time: CHN_EVENT.LATE_LAUNCH, ABORT with TIMEOUT to all, and its own end (R284). -/
def State.lateLaunch (s : State) (r : Nat) (x : Run) : State :=
  ({ s with chn := { s.chn with event := s.chn.event ||| 8 } }.sendAbort x 7).concludeRun r 7

/-- A participant learns C_L (R284), an event that is known from then on (12 R335). -/
def State.learnLaunch (s : State) (r c : Nat) : State :=
  match s.run? r with
  | none => s
  | some x =>
    if x.phase != .admitted || x.cl.isSome then s
    else
      let s' := s.setRun r { x with cl := some c }
      if s.chn.count + 24 > c then s'.lateLaunch r x else s'.newEvent c

/-- The READY record of a run on this module (R281, R283). -/
def State.readyRec (s : State) (x : Run) : ReadyRec :=
  { job := x.job, sender := s.moduleId, ph := BitVec.ofNat 128 (beNat ((hashBytes x.tun.progHash).take 16))
    mode := BitVec.ofNat 8 x.mode.toNat, fstep := BitVec.ofNat 8 x.tun.freqStep.toNat, fn := BitVec.ofNat 8 x.tun.furlongN }

/-- The coordinator compares the READY records once every participant is ready (R283). -/
def State.tryLaunch (s : State) (r : Nat) : State :=
  match s.run? r with
  | none => s
  | some x =>
    if x.phase != .admitted || x.cl.isSome || !s.isEntry x then s
    else
      let me := s.readyRec x
      let got := s.chn.readies.filter (fun y => y.job == x.job)
      if !(x.tun.participants.all (fun m => got.any (fun y => y.sender == m))) then s
      else
        let same := got.all (fun y => !x.tun.participants.contains y.sender ||
          (y.ph == me.ph && y.mode == me.mode && y.fstep == me.fstep && y.fn == me.fn))
        if same then
          let c := ceil24 (s.chn.count + s.chn.margin.toNat)
          (s.toParticipants x 3 (leBytes 8 c)).learnLaunch r c
        else (s.sendAbort x 3).concludeRun r 3

/-- Store a READY record; a later one of a sender replaces an earlier one. -/
def State.putReady (s : State) (y : ReadyRec) : State :=
  { s with chn := { s.chn with readies := s.chn.readies.filter (fun z => z.job != y.job || z.sender != y.sender) ++ [y] } }

/-- An admitted run goes on to its launch (R282, R283). -/
def State.towardsLaunch (s : State) (r : Nat) (x : Run) : State :=
  if x.launchFld != 0 then s.learnLaunch r x.launchFld.toNat
  else if x.tun.participants.length ≤ 1 then s.learnLaunch r (ceil24 (s.chn.count + 24))
  else if s.isEntry x then
    ((s.putReady (s.readyRec x)).modRun r (fun x => { x with readyAt := some s.chn.count })).tryLaunch r
  else
    let y := s.readyRec x
    s.sendMgmt (x.tun.participants.headD 0) 2 x.job.toNat (beBytes 16 y.ph.toNat ++ [y.mode, y.fstep, y.fn])

/-! Restoring a pre-empted run (14 R388, 08 R231) -/

/-- The objects of a saved run in free physical numbers. -/
def State.restoreObjects (s : State) (r : Nat) (p : Preempt) : State :=
  let fs := (freeKeys s.syn.flags 8192 p.flags.length).zip p.flags
  let gs := (freeKeys s.syn.barriers 512 p.barriers.length).zip p.barriers
  { s with syn := { s.syn with
    flags := fs.foldl (fun m q => kset m q.1 { q.2 with run := r }) s.syn.flags
    barriers := gs.foldl (fun m q => kset m q.1 { q.2 with run := r }) s.syn.barriers } }

/-- The saved cores, as they stood at the boundary. Logs and strata stay. -/
def State.restoreCores (s : State) (r : Nat) (cs : KMap Core) : State :=
  cs.foldl (fun s p => s.modCore p.1 (fun k =>
    { p.2 with
      run := some r, preempted := false, strat := k.strat, eccRegs := k.eccRegs, available := k.available, patrol := k.patrol
      ecc := p.2.ecc.filter (fun x => x.mem != .strat) ++ k.ecc.filter (fun x => x.mem == .strat) })) s

/-- A run takes its cores, objects and dies. -/
def State.occupy (s : State) (r : Nat) (x : Run) : State :=
  match x.preempt with
  | some p => ((s.restoreObjects r p).restoreCores r p.cores).holdDies r x
  | none => ((s.allocate r x).prepareCores r x (x.tun.coreMap s.moduleId)).holdDies r x

/-- The run as it is admitted: it keeps the mode in force (02 R44, R71). A resumed one keeps what it had. -/
def State.admitted (s : State) (x : Run) : Run :=
  match x.preempt with
  | some p =>
    { x with
      phase := .admitted, cl := none, readyAt := none, startF := p.furlong, furlong := p.furlong, exts := [], stallK := 0, holdsSent := 0,
      preempt := none }
  | none =>
    { x with
      phase := .admitted, mode := s.det.active, sealAdm := s.det.sealLock, coreDetail := s.det.coreDetail
      openFeat := x.tun.openFeatures, lnchStep := x.tun.freqStep, fw := (s.hub.slotB, s.hub.fw.hubV, s.hub.fw.mpV)
      compare := x.refAddr != 0 && !bitOf s.hub.splitAct 5 }

/-- A command with a length or an address out of its range is counted (13 R368). -/
def State.countMalformed (s : State) (f : Nat) : State := s.modCtx f (fun x => { x with malformed := satAdd x.malformed 1 })

/-- RUN_ADMISSION: a waiting run is refused with the status of the first check that fails, waits for what it needs, or is
admitted (13 R356). -/
def execRunAdmission (r : Nat) (s : State) : Out :=
  match s.run? r with
  | none => .fault .noSuchUnit
  | some x =>
    if x.phase != .waiting || !s.admitting x.preempt.isSome || !s.firstWaiting r x then .next s
    else
      let gateShut :=
        match x.gate with
        | some b => !((kfind s.syn.bridges b).any (fun y => y.enabled && y.value))
        | none => false
      let st := s.admitStatus x
      if st != 0 then .next ((if st = 2 then s.countMalformed x.ctx else s).finishRun r st true)
      else if gateShut || !s.resourcesFree x || s.rewriteOwed x then .next s
      else
        let es := x.tun.coreMap s.moduleId
        if !(es.all (fun e => s.coreReady x e.core)) then .next (s.takeCores x es)
        else
          let s := s.settleBounds
          let s := { s with pwr := { s.pwr with cur := x.tun.freqStep } }
          let s :=
            match x.gate with
            | some b =>
              let bs := kmap (fun i (y : Bridge) => if i = b then { y with value := false } else y) s.syn.bridges
              { s with syn := { s.syn with bridges := bs } }
            | none => s
          let s := (s.occupy r x).setRun r (s.admitted x)
          .next (s.towardsLaunch r (s.admitted x))

/-- REQUEST_ELIGIBLE: the input of a request has been read into the staging store; `input` is what the read brought. A failed
read ends the request; one that does not fit waits (R359). The store holds 1,024 units of 64 KiB. -/
def State.stageUsed (s : State) : Nat :=
  s.runs.foldl (fun n p => p.2.reqs.foldl (fun n q => if q.eligible && !q.done then n + (q.inLen + 65535) / 65536 else n) n) 0

def execRequestEligible (r : Nat) (reqId : DWord) (input : Dma) (s : State) : Out :=
  match s.run? r with
  | none => .fault .noSuchUnit
  | some x =>
    match x.reqs.find? (fun q => q.reqId == reqId) with
    | none => .fault .noSuchUnit
    | some q =>
      if q.eligible || q.done then .next s
      else
        match input with
        | none =>
          let s := s.dmaFailed
          .next ((s.completeReq x q 6 true).modRun r (fun x => x.modReq reqId (fun q => { q with done := true })))
        | some bs =>
          if s.stageUsed + (q.inLen + 65535) / 65536 > 1024 then .next s
          else .next (s.modRun r (fun x => x.modReq reqId (fun q => { q with eligible := true, input := slice bs 0 q.inLen })))

/-! Digest points (02 R60; 13 R362, R365, R366) -/

/-- The cores' entries of a point, in core order. -/
def State.pointParts (s : State) (r : Nat) (x : Run) (l : Nat) : List (Nat × Nat × DWord × Nat × Nat) :=
  (s.coresOf r).filterMap (fun c => x.handed.find? (fun h => h.1 == c && h.2.1 == l))

/-- The comparison of a point with the reference table's entry (R366): the run's flags, whether the point mismatches and
whether it is the first to do so. -/
def Run.compareWith (x : Run) (l cnt : Nat) (d : DWord) (ent : List Byte) : Bool :=
  x.compare && decide (l < x.tun.digestPoints) &&
    !(leAt ent 4 4 == cnt && leAt ent 8 8 == d.toNat)

/-- LAYER_DIGEST_POST: once every core of a run here has reached its next digest point, the module layer digest is posted,
recorded and compared, finished requests complete and rows are given out, for grains that land 64 cc or more after the last core
reached the point (13 R359). `ref` is the reference table's entry as read. -/
def execLayerDigestPost (r : Nat) (ref : Dma) (s : State) : Out :=
  match s.run? r with
  | none => .fault .noSuchUnit
  | some x =>
    let l := x.digests.length
    if x.phase != .active || !s.pointReached r x l then .next s
    else
      let ps := s.pointParts r x l
      let d : DWord := ps.foldl (fun a p => a + p.2.2.1) 0
      let cnt := min (ps.foldl (fun a p => a + p.2.2.2.1) 0) (2 ^ 32 - 1)
      let t := ps.foldl (fun a p => max a p.2.2.2.2) 0
      let mism := match ref with | some ent => x.compareWith l cnt d ent | none => false
      let failed := x.compare && decide (l < x.tun.digestPoints) && ref.isNone
      let s := s.postDigest x.ctx 0 0xFFFF x.job.toNat (b2n mism) l cnt d
      let s := if x.coreDetail then ps.foldl (fun s p => s.postDigest x.ctx 1 p.1 x.job.toNat 0 l p.2.2.2.1 p.2.2.1) s else s
      let s := if mism && !x.mismatch then s.postEvent x.ctx 0x05 0 0xFFFF x.job.toNat l else s
      let s := if failed then
          s.dmaFailed.postEvent x.ctx 0x09 0 0xFFFF x.job.toNat 3
        else s
      let x := { x with
        digests := x.digests ++ [(cnt, d)], handed := x.handed.filter (fun h => h.2.1 != l)
        mismatch := x.mismatch || mism, compare := x.compare && !failed }
      let s := (s.setRun r x).finishReqs r x x.reqs
      if x.tun.digestPoints = 0 then .next s
      else
        .next (s.modRun r (fun x => x.assignRows s.rowsByHost (BitVec.ofNat 32 l) (t + 64) x.reqs))

/-- COORDINATION_TIMEOUT: 100 ms, 20,000,000 ticks, after the coordinator became ready a participant is not; ABORT with TIMEOUT to
all (10 R283). -/
def execCoordinationTimeout (r : Nat) (s : State) : Out :=
  match s.run? r with
  | none => .fault .noSuchUnit
  | some x =>
    if x.phase != .admitted || x.cl.isSome || !s.isEntry x || !x.readyAt.any (fun a => decide (a + 20000000 ≤ s.chn.count)) then
      .next s
    else .next ((s.sendAbort x 7).concludeRun r 7)

end Sys2Proof.Machine
end

