-- ==== Sys2Proof/Machine/Submit.lean ====
section
/-!
DEFINITION. Submissions: reading an entry, and the commands of 13 R354 to R362, R368 and of 14 R382 to R393 but for the
stones.
-/

namespace Sys2Proof.Machine

/-! Entries (13 R354, R355; 14 R386) -/

/-- Bytes [lo, lo + n) of an entry as the bits that a command may use. -/
def useBytes (lo n : Nat) : Entry := BitVec.ofNat 512 ((2 ^ (8 * n) - 1) * 2 ^ (8 * lo))

/-- OPCODE and CMD_ID. -/
def useHead : Entry := useBytes 0 1 ||| useBytes 2 2

/-- Bytes [lo, lo + n) of an entry as a number. -/
def Entry.at (e : Entry) (lo n : Nat) : Nat := bits e (8 * lo) (8 * n)

def Entry.op (e : Entry) : Nat := Entry.at e 0 1

/-- The opcodes of the table; every other one is reserved. -/
def opcodes : List Nat := [0, 1, 2, 3, 4, 5, 0x10, 0x11, 0x12, 0x13, 0x14, 0x15, 0x16, 0x17, 0x18, 0x19]

/-- Opcodes that only context 0 may issue (14 R386). -/
def opsOfZero : List Nat := [0x12, 0x13, 0x14, 0x15, 0x16]

/-- JOB_ID of an entry, 0 where its layout has none. -/
def Entry.job (e : Entry) : Nat := if [3, 4, 5, 0x15, 0x16].contains (Entry.op e) then Entry.at e 8 8 else 0

/-- Completion bytes 16–23 that name the request or the tun whatever the status. -/
def Entry.names (e : Entry) : Nat :=
  if Entry.op e = 4 then Entry.at e 16 8 else if Entry.op e = 2 then Entry.at e 4 2 else 0

/-- The command as its completion names it, once the entry has been read. -/
def State.cmdOf (s : State) (f : Nat) (e : Entry) : Cmd :=
  { id := BitVec.ofNat 16 (Entry.at e 2 2), head := (s.ctx f).sq.cons }

/-- Set bits of ING_EVENT (14 R403). -/
def State.ingEvent (s : State) (b : Byte) : State := { s with ing := { s.ing with event := s.ing.event ||| b } }

/-- A STONE_LOAD completes: LOAD_DONE stands (14 R403). -/
def State.loadDone (s : State) (f : Nat) (c : Cmd) (st q16 : Nat) : State :=
  (s.ingEvent 1).complete f 0x10 st c 0 0 q16 0

/-- The completion of an entry that has just been read; that of a RUN bears END_CHAIN (R363). DEDUCED (log 107). -/
def State.reply (s : State) (f : Nat) (e : Entry) (st q16 : Nat) : State :=
  (if Entry.op e = 0x10 then s.ingEvent 1 else s).complete f (Entry.op e) st (s.cmdOf f e) 0 (Entry.job e) q16 (if Entry.op e = 3 then s.chn.count else 0)

/-- A completion with a status other than OK. -/
def State.deny (s : State) (f : Nat) (e : Entry) (st : Nat) : State := s.reply f e st (Entry.names e)

/-- A MALFORMED entry (13 R368). -/
def State.malformed (s : State) (f : Nat) (e : Entry) : State :=
  (s.countMalformed f).deny f e 2

/-- Whether the device reads a context's next submission: its function and rings are enabled, an entry is posted, and fewer
than 64 completions are held (13 R342, R351, R353, R368), while no kill of the context is in progress (14 R391), on a module that is powered and Active (12 R331) and not in a reset, in
which doorbells are accepted but not acted on (15 R406). After a fatal error every submission is answered (15 R414). -/
def State.reads (s : State) (f : Nat) : Bool :=
  let x := s.ctx f
  s.board.loadOn && ((s.pwr.st == 0 && !s.pwr.calDue) || s.hub.fatal) && s.ctxEnabled f && x.ringsEn && !x.ringErr && x.kill.isNone && x.sq.cons != x.sq.prod &&
    decide (x.held.length < 64)

/-- The head of the SQ advances past an entry that has been read (13 R351). -/
def State.headOn (s : State) (f : Nat) : State :=
  s.modCtx f (fun x =>
    let h := (x.sq.cons + 1) % x.sq.size
    { x with
      sq := { x.sq with cons := h }
      readAt := match x.bells with | b :: _ => b.2 | [] => s.chn.count
      bells := match x.bells with | b :: bs => if b.1 = h then bs else x.bells | [] => [] })

/-- What every submission goes through before its own effect: after a fatal error it is ABORTED (15 R414), in recovery
DENIED (15 R410), a context may be refused the command (14 R386), and a reserved opcode or byte is MALFORMED (13 R368).
An entry with the opcode of another command is that command's, and stays for it: DESIGN CHOICE (log 142). `use` are the bits
that the command's layout uses. -/
def State.submission (s : State) (f op : Nat) (e use : Entry) (body : State → State) : Out :=
  if f > 512 then .fault .noSuchUnit
  else if Entry.op e != op && opcodes.contains (Entry.op e) then .next s
  else if !s.reads f then .next s
  else
    let s := s.headOn f
    if s.hub.fatal then .next (s.deny f e 6)
    else if s.hub.bootStage = 6 then .next (s.deny f e 3)
    else if opsOfZero.contains (Entry.op e) && f != 0 then .next (s.deny f e 3)
    else if Entry.op e != op || (e &&& ~~~use) != 0 then .next (s.malformed f e)
    else .next (body s)

/-- NOP (13 R354). With no entry the read of the entry failed: RING_ERR stands and the head does not move (13 R368). -/
def execNop (f : Nat) (e : Option Entry) (s : State) : Out :=
  match e with
  | some e => s.submission f 0 e useHead (fun s => s.reply f e 0 0)
  | none =>
    if f > 512 then .fault .noSuchUnit
    else if !s.reads f then .next s
    else .next ((s.dmaFailed.modCtx f (fun x => { x with ringErr := true })).postEvent f 0x09 0 0xFFFF 0 0)

/-! Tuns (13 R354, R355; 11 R305) -/

/-- The lowest free handle, 1 to 16. -/
def Ctx.freeHandle (x : Ctx) : Option Nat := ((List.range 16).map (· + 1)).find? (fun h => (kfind x.tuns h).isNone)

/-- TUN_LOAD: the loader's first failing check gives the status. -/
def execTunLoad (f : Nat) (e : Entry) (img : Dma) (s : State) : Out :=
  s.submission f 1 e (useHead ||| useBytes 8 16) (fun s =>
    match (s.ctx f).freeHandle with
    | none => s.deny f e 3
    | some h =>
      match img with
      | none => s.dmaFailed.deny f e 6
      | some bs =>
        let st := s.loadStatus f bs (Entry.at e 16 8)
        if st != 0 then s.deny f e st
        else
          let t := parseTun bs
          let t := { t with sealedOk := t.modeReq != 2 && t.meetsSeal }
          (s.modCtx f (fun x => { x with tuns := kset x.tuns h t })).reply f e 0 h)

/-- Runs of a context, whatever their phase. -/
def State.ctxRuns (s : State) (f : Nat) : List (Nat × Run) := s.runs.filter (fun p => p.2.ctx == f)

/-- TUN_UNLOAD: DENIED for an unknown handle and while a run of the context uses the tun. -/
def execTunUnload (f : Nat) (e : Entry) (s : State) : Out :=
  s.submission f 2 e (useHead ||| useBytes 4 2) (fun s =>
    let h := Entry.at e 4 2
    if (kfind (s.ctx f).tuns h).isNone || (s.ctxRuns f).any (fun p => p.2.handle == h) then s.deny f e 3
    else (s.modCtx f (fun x => { x with tuns := kdel x.tuns h })).reply f e 0 h)

/-! Runs (13 R355 to R358) -/

/-- Whether a run is pending or active, from its submission to its completion. -/
def Run.live (x : Run) : Bool := x.phase != .preempted

/-- The pending or active run of a context with a JOB_ID. -/
def State.liveRun (s : State) (f job : Nat) : Option (Nat × Run) :=
  s.runs.find? (fun p => p.2.ctx == f && p.2.live && p.2.job.toNat == job)

/-- A run as it is submitted by an entry that was posted in tick `posted`, under firmware `fw`. -/
def Run.new (f : Nat) (cmd : Cmd) (e : Entry) (t : Tun) (posted : Nat) (fw : Bool × Word × Word) : Run :=
  { ctx := f, cmd := cmd, job := BitVec.ofNat 64 (Entry.at e 8 8), handle := Entry.at e 4 2, tun := t
    launchFld := BitVec.ofNat 64 (Entry.at e 16 8), cl := none, launched := none, manAddr := Entry.at e 24 8
    manLen := Entry.at e 32 4, nreq := Entry.at e 36 2, refAddr := Entry.at e 40 8
    gate := if bitOf e 8 then some (Entry.at e 6 1) else none, phase := .waiting, mode := 0, sealAdm := false
    coreDetail := false, openFeat := 0, lnchStep := 0, fw := fw, counts := RunCounts.zero, digests := [], compare := false
    mismatch := false, reqs := [], furlong := 0, exts := [], startF := 0, stallK := 0, holdsSent := 0, endStatus := none, endExit := false
    stepAt := none, preempt := none, handed := [], detourAt := none, seqNext := 0, posted := posted, readyAt := none, opens := [], openAt := 0, exempt := 0, lateBy := 0, hubMark := (0, 0), dlSince := none }

/-- Whether a gate is a bridge of which the context is not the waiter (08 R233). DEDUCED (log 80). -/
def State.gateDenied (s : State) (f : Nat) (e : Entry) : Bool :=
  bitOf e 8 &&
    match kfind s.syn.bridges (Entry.at e 6 1) with
    | some b => !b.enabled || b.waiter != f
    | none => true

/-- RUN: the run waits for its admission. -/
def execRun (f : Nat) (e : Entry) (s : State) : Out :=
  s.submission f 3 e (useHead ||| BitVec.ofNat 512 256 ||| useBytes 4 3 ||| useBytes 8 30 ||| useBytes 40 8) (fun s =>
    let job := Entry.at e 8 8
    if job = 0 || Entry.at e 24 8 % 64 != 0 || Entry.at e 16 8 % 24 != 0 then s.malformed f e
    else
      match kfind (s.ctx f).tuns (Entry.at e 4 2) with
      | none => s.deny f e 3
      | some t =>
        if (s.liveRun f job).isSome || s.gateDenied f e then s.deny f e 3
        else { s.setRun s.nextRun (Run.new f (s.cmdOf f e) e t (s.ctx f).readAt (s.hub.slotB, s.hub.fw.hubV, s.hub.fw.mpV)) with nextRun := s.nextRun + 1 })

/-- Whether an accepted run still takes a request (13 R357, R359). A REQ_ID is unique in the run (R355). -/
def State.requestDenied (s : State) (x : Run) (e : Entry) : Bool :=
  !s.isEntry x || decide (x.reqs.length ≥ x.nreq) || x.phase == .ended ||
    x.reqs.any (fun q => q.reqId.toNat == Entry.at e 16 8) || (x.phase == .active && x.tun.digestPoints == 0) ||
    (s.rowsByHost && x.reqs.any (fun q => q.row == some (Entry.at e 4 2)))

/-- REQUEST: accepted, it waits for its input to be staged. The crypto engine draws KEY_NONCE, and under entropy-seeded
sampling the key (02 R67, 03 R103). DEDUCED (log 83). -/
def execRequest (f : Nat) (e : Entry) (s : State) : Out :=
  s.submission f 4 e (useHead ||| BitVec.ofNat 512 256 ||| useBytes 4 2 ||| useBytes 8 56) (fun s =>
    let n := Entry.at e 32 4
    if Entry.at e 8 8 = 0 || Entry.at e 16 8 = 0 || n = 0 || n > 16777216 then s.malformed f e
    else
      match s.liveRun f (Entry.at e 8 8) with
      | none => s.deny f e 3
      | some (r, x) =>
        if s.rowsByHost && decide (Entry.at e 4 2 ≥ x.tun.rows) then s.malformed f e
        else if s.requestDenied x e then s.deny f e 3
        else
          let q : Req :=
            { cmd := s.cmdOf f e, reqId := BitVec.ofNat 64 (Entry.at e 16 8), rowWant := Entry.at e 4 2, greedy := bitOf e 8
              samplKey := if bitOf x.tun.features 2 then Config.freshKey s.fresh else BitVec.ofNat 128 (Entry.at e 48 16)
              nonce := if bitOf e 8 then 0 else Config.freshNonce s.fresh, inLen := n, outLimit := Entry.at e 36 4
              outAddr := Entry.at e 40 8, input := [], eligible := false, row := none, effect := 0, assigned := none
              finished := false, trunc := false, outBytes := [], done := false }
          { s.setRun r { x with reqs := x.reqs ++ [q] } with fresh := s.fresh + 1 })

/-- CANCEL: a pending run completes with ABORTED at once; an active one ends at a boundary on every participant (13 R358). -/
def execCancel (f : Nat) (e : Entry) (s : State) : Out :=
  s.submission f 5 e (useHead ||| useBytes 8 8) (fun s =>
    if Entry.at e 8 8 = 0 then s.malformed f e
    else
      match s.liveRun f (Entry.at e 8 8) with
      | none => s.deny f e 3
      | some (r, x) =>
        let s := if x.phase == .waiting then s.finishRun r 6 true else (s.sendAbort x 6).abortRun r 6
        s.reply f e 0 0)

/-! Grants (14 R382, R386) -/

def mib : Nat := 1048576

/-- The grants of a context on a die. -/
def Ctx.grants (x : Ctx) (die : Nat) : KMap Grant := if die = 0 then x.grants0 else x.grants1

def Ctx.setGrants (x : Ctx) (die : Nat) (g : KMap Grant) : Ctx :=
  if die = 0 then { x with grants0 := g } else { x with grants1 := g }

/-- Whether [off, off + n) of a die meets a grant, a resident stone region, or a region still being scrubbed. -/
def State.grantBlocked (s : State) (die off n : Nat) : Bool :=
  s.regionHeld die off n || (s.hog die).scrub.any (fun r => decide (r.1 < off + n) && decide (off < r.1 + r.2))

/-- The lowest free grant index of a context on a die, 0 to 7. -/
def Ctx.freeGrant (x : Ctx) (die : Nat) : Option Nat := (List.range 8).find? (fun i => (kfind (x.grants die) i).isNone)

/-- GRANT. DEDUCED (log 82). -/
def execGrant (f : Nat) (e : Entry) (s : State) : Out :=
  s.submission f 0x12 e (useHead ||| useBytes 4 3 ||| useBytes 8 8) (fun s =>
    let c := Entry.at e 4 2
    let die := Entry.at e 6 1
    let off := Entry.at e 8 4 * mib
    let n := Entry.at e 12 4 * mib
    if c > 512 || die > 1 || n = 0 then s.malformed f e
    else if !s.hgPresent die then s.deny f e 1
    else if decide (off + n > hgSize) || s.grantBlocked die off n then s.deny f e 3
    else
      match (s.ctx c).freeGrant die with
      | none => s.deny f e 3
      | some i =>
        (s.modCtx c (fun x => x.setGrants die (kset (x.grants die) i { die := die, off := off, len := n }))).reply f e 0 i)

/-- Whether a descriptor reaches a region of a die, with its rows or with its scale plane. -/
def descMeets (d : Desc) (die off n : Nat) : Bool :=
  let a := hgAddr die off
  let p := Desc.scaleRegion d
  Desc.space d == 2 && ((decide (Desc.rlo d < a + n) && decide (a < Desc.rhi d)) ||
    (Desc.mx d && decide (p.1 < (a + n : Nat)) && decide ((a : Int) < p.2)))

/-- The descriptors that a core holds: its table, and the copies in operations that it has issued. -/
def Core.descsHeld (k : Core) : List Desc :=
  k.descs.map (fun d => d.2) ++ (k.eng.loadQ ++ k.eng.storeQ).flatMap (fun o => [o.src.d, o.dst.d]) ++
    (k.arr.queue ++ k.arr.jobs.map (fun j => j.op)).map (fun o => o.od.d) ++ k.arr.columns.map (fun x => x.od.d)

/-- Whether a run of the context uses a region: by a descriptor of its tun, of a core that it occupies, or of one as a
pre-emption saved it. -/
def State.regionUsed (s : State) (f die off n : Nat) : Bool :=
  (s.ctxRuns f).any (fun p =>
    (p.2.tun.coreMap s.moduleId).any (fun c =>
      (records 128 (p.2.tun.indexed c.desc)).any (fun q => descMeets (descOf q) die off n)) ||
    (s.cores.filter (fun k => k.2.run == some p.1) ++ (p.2.preempt.map (fun q => q.cores)).getD []).any (fun k =>
      k.2.descsHeld.any (fun d => descMeets d die off n)))

/-- REVOKE_GRANT: the region is scrubbed and free. -/
def execRevokeGrant (f : Nat) (e : Entry) (s : State) : Out :=
  s.submission f 0x13 e (useHead ||| useBytes 4 4) (fun s =>
    let c := Entry.at e 4 2
    let die := Entry.at e 6 1
    if c > 512 || die > 1 then s.malformed f e
    else if !s.hgPresent die then s.deny f e 1
    else
      match kfind ((s.ctx c).grants die) (Entry.at e 7 1) with
      | none => s.deny f e 3
      | some g =>
        if s.regionUsed c die g.off g.len then s.deny f e 3
        else
          ((s.modCtx c (fun x => x.setGrants die (kdel (x.grants die) (Entry.at e 7 1)))).beginRegionScrub die g.off g.len).reply
            f e 0 0)

/-! Opt-in, consent and release (14 R386, R392, R401) -/

/-- PM_OPTIN: `pubkey` is the key as read; it must be a valid point (R392). A length of 0 opts out. -/
def execPmOptin (f : Nat) (e : Entry) (pubkey : Dma) (s : State) : Out :=
  s.submission f 0x17 e (useHead ||| useBytes 8 12 ||| useBytes 24 8) (fun s =>
    if Entry.at e 16 4 = 0 then (s.modCtx f (fun x => { x with pmOpt := none })).reply f e 0 0
    else
      match pubkey with
      | none => s.dmaFailed.deny f e 6
      | some bs =>
        if (keyPoint bs).isNone then s.malformed f e
        else (s.modCtx f (fun x => { x with pmOpt := some (Entry.at e 8 8, Entry.at e 16 4, bs) })).reply f e 0 0)

/-- DEBUG_CONSENT. -/
def execDebugConsent (f : Nat) (e : Entry) (s : State) : Out :=
  s.submission f 0x18 e (useHead ||| BitVec.ofNat 512 (2 ^ 32)) (fun s =>
    (s.modCtx f (fun x => { x with consent := bitOf e 32 })).reply f e 0 0)

/-- The cores that a context owns. -/
def State.ownedCores (s : State) (f : Nat) : List Nat := (s.cores.filter (fun p => p.2.owner == some f)).map (fun p => p.1)

/-- RELEASE: every core of the context is released and scrubbed, unless a run of the context uses one of them. -/
def execRelease (f : Nat) (e : Entry) (s : State) : Out :=
  s.submission f 0x19 e useHead (fun s =>
    let cs := s.ownedCores f
    if (s.ctxRuns f).any (fun p => (p.2.tun.cores s.moduleId).any cs.contains) then s.deny f e 3
    else (s.beginScrubs cs).reply f e 0 cs.length)

/-! Pre-emption (14 R387 to R389) -/

/-- Bytes of a save image of n cores. -/
def saveLen (n : Nat) : Nat := 64 + 65536 + 1179648 * n + 16

/-- PREEMPT: the run is saved when furlong f_P opens, furlong 0 at its launch (10 R285). After that boundary has begun it is too late,
and the run is aborted on every participant (R387). DEDUCED (log 85). -/
def execPreempt (f : Nat) (e : Entry) (s : State) : Out :=
  s.submission f 0x15 e (useHead ||| useBytes 4 2 ||| useBytes 8 12 ||| useBytes 24 16) (fun s =>
    if Entry.at e 8 8 = 0 || Entry.at e 4 2 > 512 then s.malformed f e
    else
      match s.liveRun (Entry.at e 4 2) (Entry.at e 8 8) with
      | none => s.deny f e 3
      | some (r, x) =>
        if !x.holdsUnits || x.preempt.isSome then s.deny f e 3
        else if Entry.at e 32 8 < saveLen (s.coresOf r).length then s.malformed f e
        else if Entry.at e 16 4 ≤ x.furlong && x.launched.isSome then ((s.sendAbort x 6).abortRun r 6).deny f e 6
        else
          let p : Preempt :=
            { cmd := s.cmdOf f e, furlong := Entry.at e 16 4, addr := Entry.at e 24 8, len := Entry.at e 32 8, saveKey := 0
              saved := 0, cores := [], flags := [], barriers := [] }
          s.setRun r { x with preempt := some p })

/-- Whether a save image is the one that was written for the run (R389). -/
def Preempt.imageOk (p : Preempt) (bs : List Byte) : Bool :=
  let n := saveLen p.cores.length
  (gcmOpen (beBytes 16 p.saveKey.toNat) (slice bs 22 12) (bs.take 64) (slice bs 64 (n - 80)) (slice bs (n - 16) 16)).isSome

/-- RESUME: the pre-empted run waits for its admission again, once its image has been read and verified (R388, R389); its
bridge served its first admission (08 R233). DESIGN
CHOICE (log 30): RESUME completes then. -/
def execResume (f : Nat) (e : Entry) (image : Dma) (s : State) : Out :=
  s.submission f 0x16 e (useHead ||| useBytes 4 2 ||| useBytes 8 16 ||| useBytes 24 16) (fun s =>
    if Entry.at e 8 8 = 0 || Entry.at e 4 2 > 512 || Entry.at e 16 8 % 24 != 0 then s.malformed f e
    else
      match s.runs.find? (fun p => p.2.ctx == Entry.at e 4 2 && p.2.phase == .preempted && p.2.job.toNat == Entry.at e 8 8) with
      | none => s.deny f e 3
      | some (r, x) =>
        match x.preempt with
        | none => s.deny f e 3
        | some p =>
          if Entry.at e 32 8 < saveLen p.cores.length then (s.finishRun r 6 true).deny f e 4
          else
            match image with
            | none => s.dmaFailed.deny f e 6
            | some bs =>
              if !p.imageOk bs then (s.finishRun r 6 true).deny f e 4
              else
                (s.setRun r { x with
                  phase := .waiting, launchFld := BitVec.ofNat 64 (Entry.at e 16 8), cl := none, gate := none }).reply
                  f e 0 0)

/-! Retention (14 R392, R393) -/

/-- One record of a retention blob: kind, core, address and bytes. -/
def pmRecord (kind core addr : Nat) (bs : List Byte) : List Byte :=
  leBytes 2 kind ++ leBytes 2 core ++ leBytes 4 0 ++ leBytes 8 addr ++ leBytes 8 bs.length ++ bs

/-- The records of a context in their order. -/
def State.pmRecords (s : State) (f : Nat) : List (List Byte) :=
  let cs := s.ownedCores f
  let t := fun (k : Core) => k.settle (k.spadQ.foldl (fun m w => max m w.cyc) 0 + 1)
  cs.map (fun c => pmRecord 1 c 0 (memReads (t (s.core c)).spad 0 spadSize)) ++
  cs.map (fun c => pmRecord 2 c 0 (memReads (s.core c).dmem 0 dmemSize)) ++
  [0, 1].flatMap (fun d =>
    let gs := ((s.ctx f).grants d).map (fun p => (p.2.off, p.2.len))
    (gs.foldl (fun m g => kset m g.1 g.2) []).map (fun g =>
      pmRecord 3 0 (hgAddr d g.1) (memReads (s.hog d).flush.mem g.1 g.2)))

/-- As many of the records as fit in n bytes, and whether one was left out. -/
def pmFit : Nat → List (List Byte) → List Byte × Bool
  | _, [] => ([], false)
  | n, r :: rs =>
    if r.length > n then ([], true)
    else
      let q := pmFit (n - r.length) rs
      (r ++ q.1, q.2)

/-- The retention blob of a context for a public key and a buffer length, with TRUNCATED. -/
def State.pmBlob (s : State) (f len : Nat) (pub : List Byte) : List Byte × Bool :=
  let k := Config.freshScalar s.fresh % (n384 - 1) + 1
  let body := pmFit (len - 160) (s.pmRecords f)
  let nonce := beBytes 12 (Config.freshGcmNonce s.fresh).toNat
  let hdr := leBytes 4 0x4D505457 ++ leBytes 2 1 ++ leBytes 2 f ++ leBytes 2 s.moduleId ++ leBytes 6 0 ++
    leBytes 8 (144 + body.1.length + 16) ++ pubOf k ++ leBytes 7 0 ++ nonce ++ leBytes 4 0
  let info := [0x57, 0x45, 0x4C, 0x56, 0x49, 0x4E, 0x2D, 0x50, 0x4D] ++ leBytes 2 f ++ leBytes 2 s.moduleId
  let c := gcmSeal (hkdf16 (ecdh k pub) info) nonce hdr body.1
  (hdr ++ c.1 ++ c.2, body.2)

/-- Retention of a killed context that has opted in. A buffer too short for a blob without records takes nothing
(log 31). Whether the host takes every byte is not the module's to say: a write that fails ends the blob and sets FAILED
(log 141). -/
def State.retention (s : State) (f : Nat) : State :=
  match (s.ctx f).pmOpt with
  | none => s
  | some (addr, len, pub) =>
    if len < 160 then s.postEvent f 0x08 0 0xFFFF 0 (2 ^ 32)
    else
      let b := s.pmBlob f len pub
      match Config.writeCut s.fresh addr b.1.length with
      | none =>
        ({ s.hostWrite f false addr b.1 with fresh := s.fresh + 1 }.ingEvent 0x80).postEvent f 0x08 0 0xFFFF 0
          (b.1.length + 2 ^ 32 * b2n b.2)
      | some n =>
        let bs := b.1.take n
        { s.hostWrite f false addr bs with fresh := s.fresh + 1 }.postEvent f 0x08 0 0xFFFF 0
          (bs.length + 2 ^ 32 * b2n b.2 + 2 ^ 33)

/-! Kill (14 R391) -/

/-- End every run of a context with SCRUBBED; the objects of an active one break on every module. -/
def State.killRuns (s : State) (host : Bool) : List (Nat × Run) → State
  | [] => s
  | p :: ps =>
    let s := if p.2.holdsUnits then (s.breakRun p.1).toParticipants p.2 7 [] else s
    (s.finishRun p.1 9 host).killRuns host ps

/-- Loads of a context that still wait complete with SCRUBBED; an ingest for which nobody waits any more ends. -/
def State.killLoads (s : State) (f : Nat) (host : Bool) : List (Nat × Copy) → State
  | [] => s
  | p :: ps =>
    let mine := p.2.waiters.filter (fun w => w.1 == f)
    let s := if host then mine.foldl (fun s w => s.loadDone f w.2 9 0) s else s
    let others := p.2.waiters.filter (fun w => w.1 != f)
    let g :=
      if p.2.loading && others.isEmpty then s.ing.keep (fun q => q.1 != p.1)
      else { s.ing with copies := kset s.ing.copies p.1 { p.2 with waiters := others } }
    let s := { s with ing := g }
    s.killLoads f host ps

/-- A context's mapping of copies is released (14 R397). -/
def State.unmapAll (s : State) (f : Nat) : State :=
  let ms := (s.ctx f).stones
  let cs := kmap (fun i (k : Copy) => if ms.contains i then { k with refcount := k.refcount - 1 } else k) s.ing.copies
  { s with ing := { s.ing with copies := cs } }.modCtx f (fun x => { x with stones := [] })

/-- Steps 1 to 3 of a kill, or of a context reset, which writes nothing to host memory, and the start of the scrubs of step 4. -/
def State.killStart (s : State) (f : Nat) (host : Bool) : State :=
  let s := (s.killLoads f host s.ing.copies)
  let s := s.killRuns host (s.ctxRuns f)
  let s := if host then s.retention f else s
  let s := s.beginScrubs (s.ownedCores f)
  ((s.ctx f).grants0 ++ (s.ctx f).grants1).foldl (fun s g => s.beginRegionScrub g.2.die g.2.off g.2.len) s

/-- Step 5, and the grants are free. -/
def State.killEnd (s : State) (f : Nat) : State :=
  (s.unmapAll f).modCtx f (fun x => { x with grants0 := [], grants1 := [], tuns := [], pmOpt := none, consent := false })

/-- The five steps for a context reset, whose end nothing reports. -/
def State.killContext (s : State) (f : Nat) (host : Bool) : State := (s.killStart f host).killEnd f

/-- Whether the scrubs of a kill have ended. -/
def State.killDone (s : State) (k : Kill) : Bool :=
  k.cores.all (fun c => !(s.core c).scrubBusy) && k.regions.all (fun g => !(s.hog g.1).scrub.any (fun r => r.1 == g.2))

/-- A kill whose scrubs have ended takes its last step, and CTX_KILL completes (R391). -/
def State.settleKill (s : State) (f : Nat) : State :=
  match (s.ctx f).kill with
  | none => s
  | some k =>
    if !s.killDone k then s
    else
      let s := (s.killEnd f).modCtx f (fun x => { x with kill := none })
      k.cmds.foldl (fun s c => s.complete 0 0x14 0 c 0 0 0 0) s

/-- Every kill in progress. -/
def State.settleKills (s : State) : State := (s.ctxs.map (fun p => p.1)).foldl (fun s f => s.settleKill f) s

/-- CTX_KILL: it completes when its last step ends, be the context reset meanwhile or not (R391; 15 R405). DESIGN CHOICE (log 155): its
writes to host memory come with the command. -/
def execCtxKill (f : Nat) (e : Entry) (s : State) : Out :=
  s.submission f 0x14 e (useHead ||| useBytes 4 2) (fun s =>
    let c := Entry.at e 4 2
    if c = 0 || c > 512 then s.malformed f e
    else
      let was := (s.ctx c).kill.getD { cmds := [], cores := [], regions := [] }
      let gs := ((s.ctx c).grants0 ++ (s.ctx c).grants1).map (fun g => (g.2.die, g.2.off))
      let k : Kill :=
        { cmds := was.cmds ++ [s.cmdOf f e], cores := was.cores ++ s.ownedCores c, regions := was.regions ++ gs }
      ((s.killStart c true).modCtx c (fun x => { x with kill := some k })).settleKill c)

/-! The ends of scrubs (07 R207 to R209) -/

/-- SCRUB_COMPLETE: SCRUB_BUSY falls and the core may be given to any context; a kill that waited for it goes on. -/
def execScrubComplete (c : Nat) (s : State) : Out :=
  s.coreEvent c (fun k =>
    if k.scrubBusy then .next (s.setCore c { k.scrubbed with scrubBusy := false }).settleKills else .next s)

/-- REGION_SCRUB_COMPLETE: every byte is zero and the region is free; a kill that waited for it goes on. Where the die's holder
holds every phase the scrub waits. -/
def execRegionScrubComplete (die off : Nat) (s : State) : Out :=
  if !s.hgPresent die then .fault .noSuchUnit
  else if (s.freePhases die).isEmpty then .next s
  else .next (s.modHog die (fun h =>
    let h := (h.scrub.filter (fun r => r.1 == off)).foldl (fun h r => h.clear r.1 r.2) h
    { h with scrub := h.scrub.filter (fun r => r.1 != off) })).settleKills

end Sys2Proof.Machine
end

