-- ==== Sys2Proof/Machine/Chain.lean ====
section
/-!
DEFINITION. Management grains, furlong boundaries, holds and pre-emption at a boundary (10 R278, R280 to R293; 12 R320,
R321, R329; 14 R387, R389, R390).
-/

namespace Sys2Proof.Machine

/-! Management grains (R281) -/

/-- A management payload of a command's type; one of a reserved type is discarded, and one of another type is another
command's. DESIGN CHOICE (log 142). -/
def State.mgmt (s : State) (type : Nat) (p : Payload) (f : State) : Out :=
  .next (if bits p 0 8 = type then f else s)

/-- Sender and JOB_ID of a management payload. -/
def mgmtSender (p : Payload) : Nat := bits p 16 16
def mgmtJob (p : Payload) : Nat := bits p 64 64

/-- The runs that a grain of a sender names: those with its JOB_ID in which the sender takes part. DEDUCED (log 86). -/
def State.namedRuns (s : State) (p : Payload) : List Nat :=
  (s.runs.filter (fun e => e.2.job.toNat == mgmtJob p && e.2.tun.participants.contains (mgmtSender p))).map (fun e => e.1)

/-- Do something for each run of a list. -/
def State.eachRun (s : State) (f : State → Nat → State) (rs : List Nat) : State := rs.foldl f s

/-- The port whose partner is a module. -/
def State.portTo (s : State) (m : Nat) : Option Nat :=
  (List.range 32).find? (fun p => (s.port p).active && (partnerOf (s.moduleId / 16) (s.moduleId % 16) p).1 == m)

/-- CHAIN_FULL: a module with DEPTH 15 loads the count at the start of the named frame (R278): at once where that frame is
the latest heard from its parent, else when its control grain arrives. A master that has asked for a count takes that of the
SYNCED partner that sent it (R280). DEDUCED (log 96). -/
def execChainFull (p : Payload) (s : State) : Out :=
  s.mgmt 1 p (
    let f := bits p 192 16
    let n := bits p 128 64
    let from_ := if s.master then (if s.chn.asked then s.portTo (mgmtSender p) else none) else s.parentPort
    if s.chn.depth != 15 || (s.master && from_.isNone) then s
    else
      let wait := { s with chn := { s.chn with full := some (f, n) } }
      match from_ with
      | none => wait
      | some q =>
        let x := s.port q
        if !x.lastHeard.any (fun h => h.1.toNat == f) then wait
        else if s.master then (if x.farSynced then s.adoptCount n else s)
        else s.loadCount n x.depth.toNat)

/-- READY: the record is kept, and a coordinator that has all of them launches or aborts (R283). -/
def execReady (p : Payload) (s : State) : Out :=
  s.mgmt 2 p (
    let y : ReadyRec :=
      { job := BitVec.ofNat 64 (mgmtJob p), sender := mgmtSender p, ph := BitVec.ofNat 128 (beNat ((bytesOf p 32).drop 16))
        mode := BitVec.ofNat 8 (bits p 256 8), fstep := BitVec.ofNat 8 (bits p 264 8), fn := BitVec.ofNat 8 (bits p 272 8) }
    (s.putReady y).eachRun (fun s r => s.tryLaunch r) (s.namedRuns p))

/-- LAUNCH: a participant learns C_L (R282, R284). -/
def execLaunch (p : Payload) (s : State) : Out :=
  s.mgmt 3 p (s.eachRun (fun s r => s.learnLaunch r (bits p 128 64)) (s.namedRuns p))

/-- ABORT: the run completes with the status that the grain carries (R284). -/
def execAbort (p : Payload) (s : State) : Out :=
  s.mgmt 4 p (s.eachRun (fun s r => s.abortRun r (BitVec.ofNat 8 (bits p 128 8))) (s.namedRuns p))

/-- PATH_LOST (R293). -/
def execPathLost (p : Payload) (s : State) : Out :=
  s.mgmt 5 p (s.eachRun (fun s r => s.learnLoss r (bits p 128 32) (bits p 160 16) (bits p 176 8)) (s.namedRuns p))

/-- BREAK (08 R228). -/
def execBreakObjects (p : Payload) (s : State) : Out :=
  s.mgmt 7 p (s.eachRun (fun s r => s.breakRun r) (s.namedRuns p))

/-- A STEP reaches a run (R291; 12 R320, R321). -/
def State.stepFor (s : State) (r f : Nat) (stp : BitVec 2) : State :=
  match s.run? r with
  | none => s
  | some x =>
    if !x.holdsUnits || x.mode = 1 then s
    else if s.activeRuns.any (fun e => e.1 != r) then (s.sendAbort x 6).abortRun r 6
    else if f ≤ x.furlong && x.phase == .active then
      { s with chn := { s.chn with event := s.chn.event ||| 32 } }.endRun r 6
    else { s.setRun r { x with stepAt := some (f, stp) } with pwr := { s.pwr with changing := true } }

/-- STEP. It ends a power state (12 R335). -/
def execStep (p : Payload) (s : State) : Out :=
  s.mgmt 6 p (s.wake.eachRun (fun s r => s.stepFor r (bits p 128 32) (BitVec.ofNat 2 (bits p 160 8))) (s.namedRuns p))

/-- MASTER_LISTEN_TIMEOUT: 2 ms, 400,000 ticks, after reset. Where a partner reports SYNCED the system master asks it for its count, else it starts
at 0 and free-runs as the root (R280). DEDUCED (log 33): it asks by reporting DEPTH 15, on which a partner sends CHAIN_FULL
(R278), and counts as SYNCED once its count runs. -/
def execMasterListenTimeout (s : State) : Out :=
  if !s.master || s.chn.running || s.chn.count < 400000 then .next s
  else if (List.range 32).any (fun p => (s.port p).active && (s.port p).farSynced) then
    .next { s with chn := { s.chn with asked := true } }
  else .next (s.adoptCount 0)

/-! Furlongs (R285 to R290) -/

/-- Record that furlong f of a run is extended index times (R289). -/
def Run.extend (x : Run) (f index : Nat) : Run := { x with exts := kset x.exts f (max index (kget 0 x.exts f)) }

/-- One hold extension of a run: DET_HOLD and its manifest (R289, 02 R53). -/
def State.countHold (s : State) (r : Nat) : State :=
  { s with det := { s.det with hold := s.det.hold.add 1 } }.modRun r
    (fun x => { x with counts := { x.counts with hold := x.counts.hold + 1 } })

/-- The payload of a hold grain (R288). -/
def holdPayload (job f index h origin count : Nat) : Payload :=
  payloadOf (leBytes 8 job ++ leBytes 4 f ++ leBytes 1 index ++ leBytes 1 h ++ leBytes 2 origin ++ leBytes 8 count)

/-- Send a hold on every active port but one. -/
def State.flood (s : State) (p : Payload) (except : Nat) : State :=
  ((List.range 32).filter (fun q => q != except && (s.port q).active)).foldl
    (fun s q => s.queueOut q (mkGrain (partnerOf (s.moduleId / 16) (s.moduleId % 16) q).1 0x3FC 0 2 false false p)) s

/-- Remember a hold's identity; the last 64 are kept (R289). -/
def State.sawHold (s : State) (job : DWord) (f index : Nat) : State :=
  { s with chn := { s.chn with holdsSeen := ((job, f, index) :: s.chn.holdsSeen).take 64 } }

/-- HOLD_ORIGINATE: the stall cycles of the furlong reach the next threshold (R288). A hold that has come from another module
has gone on and taken effect already (R289). -/
def execHoldOriginate (r : Nat) (s : State) : Out :=
  match s.run? r with
  | none => .fault .noSuchUnit
  | some x =>
    let c := x.holdsSent
    if x.phase != .active || decide (x.stallK < x.tun.slack + c * s.extCc x + 1) then .next s
    else if s.chn.holdsSeen.contains (x.job, x.furlong, c + 1) then .next (s.setRun r { x with holdsSent := c + 1 })
    else
      let s := s.setRun r ({ x with holdsSent := c + 1 }.extend x.furlong (c + 1))
      let s := (s.countHold r).sawHold x.job x.furlong (c + 1)
      .next (s.flood (holdPayload x.job.toNat x.furlong (c + 1) x.tun.holdFrames s.moduleId s.chn.count) 32)

/-- A hold reaches a run. One for a furlong whose original end has passed is late, and the module stalls at once for the whole
extension; where the next furlong has opened, all that follows moves by it (R290). -/
def State.holdFor (s : State) (r f index : Nat) : State :=
  match s.run? r with
  | none => s
  | some x =>
    if x.phase != .active then s
    else
      let n := (index - kget 0 x.exts f) * s.extCc x
      let late := decide (f < x.furlong) || (f == x.furlong && decide (x.openAt + x.furlongCc ≤ s.clk))
      let s := (s.setRun r (x.extend f index)).countHold r
      let s := if late then
          { s with chn := { s.chn with lateHold := satAdd s.chn.lateHold 1, event := s.chn.event ||| 16 } }
        else s
      if x.furlong ≤ f then s
      else
        (s.stallNow n).modRun r (fun y => { y with
          exempt := y.exempt + n, openAt := y.openAt + n
          lateBy := y.lateBy + (index - kget 0 x.exts f) * x.tun.holdFrames })

/-- HOLD: a hold grain arrives at a port; one not seen before goes on and takes effect (R289). -/
def execHold (port : Nat) (p : Payload) (s : State) : Out :=
  if port ≥ 32 then .fault .noSuchUnit
  else
    let job : DWord := BitVec.ofNat 64 (bits p 0 64)
    let f := bits p 64 32
    let index := bits p 96 8
    if s.chn.holdsSeen.contains (job, f, index) then .next s
    else
      let s := (s.sawHold job f index).flood p port
      .next (s.eachRun (fun s r => s.holdFor r f index) ((s.runs.filter (fun e => e.2.job == job)).map (fun e => e.1)))

/-! Pre-emption at a boundary (14 R387, R389, R390; 08 R231) -/

/-- The start bits of a core as bytes, one bit per parcel. -/
def startBytes (ss : List Nat) : List Byte :=
  (List.range 8192).map (fun i => BitVec.ofNat 8 ((List.range 8).foldl (fun a j => a + 2 ^ j * b2n (ss.contains (8 * i + j))) 0))

/-- A part of a save record whose inner layout the spec does not give: n bytes that the state in it fixes. -/
def savePart {α : Type} (saved : α) (n : Nat) : List Byte := slice (Config.saveCorePart saved) 0 n

/-- The save record of a core, in the order of R390's table: parts whose layout is known as they stand, the others as free
functions of what they hold. -/
def Core.saveRecord (k : Core) : List Byte :=
  let q := k.settle (k.spadQ.foldl (fun m w => max m w.cyc) 0 + 1)
  memReads q.spad 0 spadSize ++ memReads k.imem 0 imemSize ++ startBytes k.starts ++ memReads k.dmem 0 dmemSize ++
  (List.range 256).flatMap (fun h => bytesOf (k.desc (BitVec.ofNat 8 h)) 96) ++ savePart k.arr.acc 131072 ++
  savePart (k.banks, k.bankQ) 8192 ++ savePart (k.arr.copy0, k.arr.copy1, k.arr.ptr) 18432 ++
  (List.range 32).flatMap (fun r => bytesOf (k.v (BitVec.ofNat 5 r)) 256) ++
  savePart (k.sregs, k.ctl, k.loops, k.hold, k.pc, k.scyc) 512 ++
  (List.range 16).flatMap (fun i => bytesOf (k.tparam i) 8) ++ savePart k.streams 4096 ++ savePart k.pools 1024 ++
  savePart (k.eng, k.arr.queue, k.arr.resultQ) 4096 ++ List.replicate 20864 0

/-- The save image of a run (R389). DEDUCED (log 30): the header fields stand one after another. -/
def State.saveImage (s : State) (r : Nat) (x : Run) (f : Nat) (cs : List Nat) : List Byte :=
  let nonce := beBytes 12 (Config.freshGcmNonce s.fresh).toNat
  let hdr := slice (leBytes 4 0x56535457 ++ leBytes 2 1 ++ leBytes 2 x.ctx ++ leBytes 2 s.moduleId ++ leBytes 8 x.job.toNat ++
    leBytes 4 f ++ nonce) 0 64
  let objects := (s.syn.flags.filter (fun e => e.2.run == r), s.syn.barriers.filter (fun e => e.2.run == r))
  let body := slice (Config.saveModuleRecord (x, objects)) 0 65536 ++ cs.flatMap (fun c => (s.core c).saveRecord)
  let c := gcmSeal (beBytes 16 (Config.freshSaveKey s.fresh).toNat) nonce hdr body
  hdr ++ c.1 ++ c.2

/-- The run is saved, once what it sent has been delivered, its objects and dies are released, and its cores stay owned and are
marked pre-empted (R387; 08 R231). -/
def State.saveRun (s : State) (r : Nat) (p : Preempt) : State :=
  let s := match s.run? r with
    | some x => ((s.catchUp r x).landAll r x true).letGo r
    | none => s
  let cs := s.coresOf r
  match s.run? r with
  | none => s
  | some x =>
  let img := s.saveImage r x p.furlong cs
  let q : Preempt :=
    { p with
      saveKey := Config.freshSaveKey s.fresh, saved := img.length
      cores := s.cores.filter (fun e => e.2.run == some r)
      flags := (s.syn.flags.filter (fun e => e.2.run == r)).map (fun e => e.2)
      barriers := (s.syn.barriers.filter (fun e => e.2.run == r)).map (fun e => e.2) }
  let s := { s.hostWrite 0 false p.addr img with fresh := s.fresh + 1 }
  let s := s.setRun r { x with phase := .preempted, preempt := some q, furlong := p.furlong }
  let s := (s.releaseObjects r).complete 0 0x15 0 p.cmd 0 x.job.toNat img.length 0
  { s with
    lnk := s.lnk.without r
    ellSaved := s.ellSaved.filter (fun e => !cs.contains e.1)
    cores := kmap (fun _ k => if k.run = some r then { k with run := none, preempted := true } else k) s.cores }.settleBounds

/-- RUN_LAUNCH: tick C_L begins. The run becomes active, requests that are eligible get their rows, and LAUNCHED is posted
(R282; 13 R356, R359); one whose pre-emption is due at furlong 0 is saved there (R285; 14 R387). A module that is not Active, or was not at tick C_L − 24, aborts the run (12 R335), and a run that has learnt of a lost path ends
at this instant (R293). -/
def execRunLaunch (r : Nat) (s : State) : Out :=
  match s.run? r with
  | none => .fault .noSuchUnit
  | some x =>
    match x.cl with
    | none => .next s
    | some c =>
      if x.phase != .admitted then .next s
      else if s.pwr.st != 0 then .next (if s.chn.count + 24 > c then s.lateLaunch r x else s)
      else if s.chn.count < c then .next s
      else if s.pwr.lastOut.1 + 24 ≤ c && c < s.pwr.lastOut.2 + 24 then .next (s.lateLaunch r x)
      else if x.endStatus.isSome then .next (s.concludeRun r 0)
      else
        let at0 := s.tickAt - (s.chn.count - c) * ccPerTick s.pwr.cur
        let y := if x.launched.isNone then { x with lnchStep := s.pwr.cur }.assignRows s.rowsByHost 0xFFFFFFFF 0 x.reqs else x
        let y := { y with
          phase := .active, launched := some (x.launched.getD c), openAt := at0
          opens := kset x.opens x.startF (s.pos - (s.clk - at0)), hubMark := (at0, 0) }
        let s := (s.setRun r y).postEvent x.ctx 0x02 0 0xFFFF x.job.toNat 0
        match x.preempt with
        | some p => .next (if p.furlong = x.startF then s.saveRun r p else s)
        | none => .next s

/-! The boundary (R285, R287, R291, R293) -/

/-- PWR_STATE.CUR changes: PWR_EVENT.STATE_CHANGE, and LAST where a state is entered (12 R337). In Hold, Doze and Stow the
hogsheads refresh at the Exact rates (12 R331). -/
def State.powerTo (s : State) (st : BitVec 3) : State :=
  if s.pwr.st = st then s
  else
    let out := if st = 0 then (s.pwr.lastOut.1, s.chn.count) else if s.pwr.st = 0 then (s.chn.count, s.chn.count) else s.pwr.lastOut
    let s := { s with pwr := { s.pwr with
      st := st, last := if st = 0 then s.pwr.last else st, event := s.pwr.event ||| 0x80, lastOut := out } }
    [0, 1].foldl (fun s d => if s.hgPresent d then s.modHog d (fun h => { h with rate := BitVec.ofNat 2 (s.hgRate d) }) else s) s

/-- Back in Active. -/
def State.toActive (s : State) : State :=
  let s := s.powerTo 0
  { s with pwr := { s.pwr with transition := false, untilTk := none } }

/-- A module held at a boundary is in Active again at that boundary (12 R336). -/
def State.leaveHold (s : State) : State := s.toActive

/-- Whether the module carries exactly one active run, and that run is in Exact or Open (12 R329). -/
def State.singleRun (s : State) : Bool :=
  match s.activeRuns with
  | [(_, x)] => x.mode != 1
  | _ => false

/-- The step change that falls due at the boundary opening furlong f, unless an emergency stall stands (12 R330). It is by one step
to no more than the run's launch step, on a module that carries this run alone; any other is not carried out (12 R320).
DEDUCED (log 139). -/
def State.stepDue (s : State) (r f : Nat) : State :=
  match s.run? r with
  | none => s
  | some x =>
    match x.stepAt with
    | none => s
    | some (g, stp) =>
      let one := stp.toNat + 1 == s.pwr.cur.toNat || s.pwr.cur.toNat + 1 == stp.toNat
      if g > f || !s.pwr.standing.isEmpty then s
      else if !one || !s.singleRun || decide (x.lnchStep.toNat < stp.toNat) then
        (s.setRun r { x with stepAt := none }).settleBounds
      else
        let n := ccPerTick s.pwr.cur
        { s.setRun r { x with
          stepAt := none, counts := { x.counts with stp := x.counts.stp + 1 }
          hubMark := (x.openAt, x.hubCycle n x.openAt) } with
          pwr := { s.pwr with cur := stp }
          det := { s.det with stp := s.det.stp.add 1 } }.settleBounds

/-- The emergency stall of SEAL_DUTY beats at a boundary of a multi-run or Sealed module (12 R329). -/
def State.sealDutyStall (s : State) : State :=
  if !s.pwr.duty || s.singleRun || s.activeRuns.isEmpty then s
  else { s.countEmerg false with pwr := { (s.countEmerg false).pwr with dutyLeft := s.pwr.sealDuty.toNat } }

/-- The refresh rate of the dies that a run holds follows the temperature at a boundary (07 R200). -/
def State.refreshRates (s : State) (r : Nat) : State :=
  [0, 1].foldl (fun s d =>
    if (s.hog d).holder = some r then s.modHog d (fun h => { h with rate := BitVec.ofNat 2 (s.hgRate d) }) else s) s

/-- The run's cores stand at the schedule position of the boundary that opens furlong f, and its positions count from there
(R287). -/
def State.openFurlong (s : State) (r f t : Nat) : State :=
  { s.modRun r (fun x => { x with
      furlong := f, stallK := 0, holdsSent := 0, openAt := t, opens := kset x.opens f (s.pos - (s.clk - t)) }) with
    cores := kmap (fun _ k =>
      if k.run = some r then
        { k with scyc := max k.scyc (((s.run? r).map (fun x => f * x.furlongCc)).getD 0) }
      else k) s.cores }

/-- FURLONG_BOUNDARY: the boundary that opens the run's next furlong, in the tick that holds its core cycle. The cycles up to it
pass, in which a module that has executed its furlong is held; then a run that has to end ends, a pre-emption saves the run, and
what changes only at boundaries changes. Where runs stay on a module that is too warm it stalls (12 R329). -/
def execFurlongBoundary (r : Nat) (s : State) : Out :=
  match s.run? r with
  | none => .fault .noSuchUnit
  | some x =>
    if x.phase != .active then .next s
    else if (s.coresOf r).any (fun c => (s.core c).ell.isSome) then .fault .slotOrder
    else if s.clk + ccPerTick s.pwr.cur ≤ s.boundaryAt x then .next s
    else
      let f := x.furlong + 1
      let t := s.boundaryAt x
      let s := s.cycles (t - s.clk)
      let s := if s.pwr.st = 1 then s.leaveHold else s
      if x.endStatus.isSome then .next (s.concludeRun r 0).sealDutyStall
      else
        let s := s.openFurlong r f t
        match x.preempt with
        | some p =>
          if p.furlong = f then .next (s.saveRun r p).sealDutyStall
          else .next (((s.stepDue r f).refreshRates r).sealDutyStall)
        | none => .next (((s.stepDue r f).refreshRates r).sealDutyStall)

end Sys2Proof.Machine
end

