-- ==== Sys2Proof/Machine/Stones.lean ====
section
/-!
DEFINITION. Weight stones: verification, placement, residence and rewriting, trust anchors and revocation (14 R394 to
R403; 07 R188, R194, R202).
-/

namespace Sys2Proof.Machine

/-! The stone (R394) -/

/-- A tensor entry. -/
structure TensorEnt where
  id    : Nat
  fmt   : Nat
  nrow  : Nat
  nelem : Nat
  eoff  : Nat
  soff  : Nat
deriving DecidableEq, Repr

def TensorEnt.parse (b : List Byte) : TensorEnt :=
  { id := leAt b 0 4, fmt := leAt b 4 1, nrow := leAt b 8 4, nelem := leAt b 12 4, eoff := leAt b 16 8, soff := leAt b 24 8 }

/-- Bytes of a row of its element plane and of its scale plane. -/
def TensorEnt.rowLen (t : TensorEnt) : Nat := (t.nelem * codeWidth t.fmt + 7) / 8
def TensorEnt.scaleLen (t : TensorEnt) : Nat := if isMx t.fmt then t.nelem / 32 else 0

def stoneTensors (bs : List Byte) : List TensorEnt := (records 64 ((bs.drop 256).take (64 * leAt bs 0x14 4))).map TensorEnt.parse

/-- A manifest entry: stored offset, stored length, coding and hash. -/
structure ChunkEnt where
  off    : Nat
  len    : Nat
  coding : Nat
  hash   : Hash
deriving DecidableEq, Repr

def ChunkEnt.parse (b : List Byte) : ChunkEnt :=
  { off := leAt b 0 8, len := leAt b 8 4, coding := leAt b 12 1, hash := hashAt b 16 }

def chunkSize : Nat := 1048576

def manifestOff (bs : List Byte) : Nat := 256 + 64 * leAt bs 0x14 4
def sigOff (bs : List Byte) : Nat := manifestOff bs + 64 * leAt bs 0x10 4

def stoneChunks (bs : List Byte) : List ChunkEnt :=
  (records 64 ((bs.drop (manifestOff bs)).take (64 * leAt bs 0x10 4))).map ChunkEnt.parse

/-- A tensor entry's own conditions. -/
def tensorOk (pay : Nat) (b : List Byte) : Bool :=
  let t := TensorEnt.parse b
  (fmtOf t.fmt).isSome && zeros b 5 3 && (!isMx t.fmt || t.nelem % 32 == 0) && (codeWidth t.fmt != 6 || t.nelem % 4 == 0) &&
  decide (t.eoff + t.nrow * t.rowLen ≤ pay) && decide (t.soff + t.nrow * t.scaleLen ≤ pay) && (isMx t.fmt || t.soff == 0)

/-- The header, the offsets and the tensor entries (R394, R398). With HEADER_ONLY the host supplies bytes 0 to
SIG_OFF + 95. -/
def stoneOk (bs : List Byte) (len : Nat) (headerOnly : Bool) : Bool :=
  let pay := leAt bs 0x18 8
  let nc := leAt bs 0x10 4
  let nt := leAt bs 0x14 4
  let so := sigOff bs
  leAt bs 0 4 == 0x4E545357 && leAt bs 4 2 == 1 && leAt bs 6 2 == 256 && zeros bs 0x58 168 && pay % 64 == 0 &&
  decide (1 ≤ nc) && nc == (pay + chunkSize - 1) / chunkSize && decide (1 ≤ nt) && decide (nt ≤ 65535) &&
  leAt bs 0x38 8 == 256 && leAt bs 0x40 8 == manifestOff bs && leAt bs 0x48 8 == so &&
  decide (so + 96 ≤ leAt bs 0x50 8) && leAt bs 0x50 8 % 64 == 0 && decide (leAt bs 0x50 8 ≤ leAt bs 8 8) &&
  decide (so + 96 ≤ bs.length) && (headerOnly || (leAt bs 8 8 == len && bs.length == len)) &&
  (records 64 ((bs.drop 256).take (64 * nt))).all (tensorOk pay) && distinct ((stoneTensors bs).map (fun t => t.id)) &&
  (records 64 ((bs.drop (manifestOff bs)).take (64 * nc))).all (fun r => zeros r 13 3 &&
    decide (leAt bs 0x50 8 + leAt r 0 8 + leAt r 8 4 ≤ leAt bs 8 8))

/-! The block code (R395) -/

/-- A sparse block: bytes i to 63, and what is left of the input. -/
def sparseBlock (mask : Nat) : Nat → Nat → List Byte → Option (List Byte × List Byte)
  | 0, _, bs => some ([], bs)
  | n + 1, i, bs =>
    if mask / 2 ^ i % 2 = 1 then
      match bs with
      | [] => none
      | b :: rest => (sparseBlock mask n (i + 1) rest).map (fun q => (b :: q.1, q.2))
    else (sparseBlock mask n (i + 1) bs).map (fun q => ((0 : Byte) :: q.1, q.2))

/-- The block that follows a tag and what is left of the input; none where it is malformed. -/
def nextBlock (prev : Option (List Byte)) (tag : Byte) (bs : List Byte) : Option (List Byte × List Byte) :=
  match tag.toNat with
  | 0 => some (List.replicate 64 0, bs)
  | 1 => prev.map (fun p => (p, bs))
  | 2 => if bs.length < 64 then none else some (bs.take 64, bs.drop 64)
  | 3 => match bs with | [] => none | b :: rest => some (List.replicate 64 b, rest)
  | 4 => if bs.length < 8 then none else sparseBlock (leNat (bs.take 8)) 64 0 (bs.drop 8)
  | _ => none

/-- Decode stored bytes. -/
def decodeBlocks : Nat → Option (List Byte) → List Byte → Option (List Byte)
  | 0, _, _ => some []
  | _ + 1, _, [] => some []
  | n + 1, prev, tag :: bs =>
    match nextBlock prev tag bs with
    | none => none
    | some (blk, rest) => (decodeBlocks n (some blk) rest).map (fun q => blk ++ q)

/-- The payload bytes of a chunk of length n from its stored bytes (R394, R395). -/
def ChunkEnt.decode (c : ChunkEnt) (stored : List Byte) (n : Nat) : Option (List Byte) :=
  let out :=
    match c.coding with
    | 0 => some stored
    | 1 => decodeBlocks (stored.length + 1) none stored
    | _ => none
  match out with
  | some bs => if bs.length = n then some bs else none
  | none => none

/-! Placement (R399) -/

/-- A placement record. -/
structure PlaceRec where
  tensor : Nat
  tfmt   : Nat
  kind   : Nat
  mod    : Nat
  core   : Nat
  row0   : Nat
  nrows  : Nat
  dest   : Nat
  stride : Nat
  sdest  : Nat
  elem0  : Nat
  nelems : Nat
deriving DecidableEq, Repr

def PlaceRec.parse (b : List Byte) : PlaceRec :=
  { tensor := leAt b 0 4, tfmt := leAt b 4 1, kind := leAt b 5 1, mod := leAt b 6 2, core := leAt b 8 2, row0 := leAt b 12 4
    nrows := leAt b 16 4, dest := leAt b 20 4, stride := leAt b 24 4, sdest := leAt b 28 4, elem0 := leAt b 32 4
    nelems := leAt b 36 4 }

/-- The records that place bytes on a module. -/
def Tun.places (t : Tun) (m : Nat) : List PlaceRec :=
  ((records 48 ((t.sectionBytes 3 0xFFFF).drop 8)).map PlaceRec.parse).filter (fun p => p.mod == m)

/-- Binary32 and BF16, the sources that may be converted. -/
def convertible (fmt : Nat) : Bool := fmt == 0xC || fmt == 0xD

/-- Bytes of a destination row and of its scales. -/
def PlaceRec.rowLen (p : PlaceRec) : Nat := (p.nelems * codeWidth p.tfmt + 7) / 8
def PlaceRec.scaleLen (p : PlaceRec) : Nat := if isMx p.tfmt then p.nelems / 32 else 0

/-- The destination ranges of a record, row by row: address and length. -/
def PlaceRec.ranges (p : PlaceRec) : List (Nat × Nat) :=
  (List.range p.nrows).flatMap (fun i => [(p.dest + i * p.stride, p.rowLen), (p.sdest + i * p.scaleLen, p.scaleLen)])

/-- A record's own conditions: its tensor, rows, elements, formats and pair, and the space of its destination. Binary32 is no array
format, so nothing is converted to it (04 R113). -/
def State.placeOk (s : State) (ts : List TensorEnt) (p : PlaceRec) : Bool :=
  let space := if p.kind = 0 then stratumSize else if s.hgPresent 1 then 2 * hgSize else hgSize
  match ts.find? (fun t => t.id == p.tensor) with
  | none => false
  | some t =>
    (fmtOf p.tfmt).isSome && decide (p.kind ≤ 1) && decide (p.row0 + p.nrows ≤ t.nrow) && decide (p.elem0 + p.nelems ≤ t.nelem) &&
    (!(isMx p.tfmt || isMx t.fmt) || (p.elem0 % 32 == 0 && p.nelems % 32 == 0)) && (isMx p.tfmt || p.sdest == 0) &&
    (p.tfmt == t.fmt || (convertible t.fmt && p.tfmt != 0xD)) && p.ranges.all (fun r => r.2 == 0 || decide (r.1 + r.2 ≤ space))

/-- Whether two records overlap in their destination. -/
def PlaceRec.meets (p q : PlaceRec) : Bool :=
  p.kind == q.kind && (p.kind == 1 || p.core == q.core) &&
    p.ranges.any (fun a => q.ranges.any (fun b => overlaps a.1 a.2 b.1 b.2))

def placesDisjoint : List PlaceRec → Bool
  | [] => true
  | p :: ps => ps.all (fun q => !p.meets q) && placesDisjoint ps

/-- The source bytes of row i of a record: ranges of the payload. -/
def PlaceRec.source (p : PlaceRec) (t : TensorEnt) (i : Nat) : List (Nat × Nat) :=
  let w := codeWidth t.fmt
  let a := p.elem0 * w / 8
  let b := ((p.elem0 + p.nelems) * w + 7) / 8
  [(t.eoff + (p.row0 + i) * t.rowLen + a, b - a),
   (t.soff + (p.row0 + i) * t.scaleLen + p.elem0 / 32, if isMx t.fmt then p.nelems / 32 else 0)]

/-- The chunks that ranges of the payload touch, in ascending order. -/
def chunksOf (n : Nat) (rs : List (Nat × Nat)) : List Nat :=
  (List.range n).filter (fun j => rs.any (fun r => overlaps r.1 r.2 (j * chunkSize) chunkSize))

/-- A destination row as bytes and scales: copied, quantised in groups of 32, or converted with saturation. -/
def PlaceRec.convert (p : PlaceRec) (t : TensorEnt) (pay : List Byte) (i : Nat) : List Byte × List Byte :=
  let w := codeWidth t.fmt
  let row := slice pay (t.eoff + (p.row0 + i) * t.rowLen) t.rowLen
  let codes := (List.range p.nelems).map (fun k => unpackAt w (p.elem0 + k) row)
  if p.tfmt = t.fmt then
    (packBytes w codes, slice pay (t.soff + (p.row0 + i) * t.scaleLen + p.elem0 / 32) p.scaleLen)
  else
    match fmtOf t.fmt, fmtOf p.tfmt with
    | some f, some g =>
      let vs := codes.map (decodeEl f)
      if isMx p.tfmt then
        let qs := (List.range (p.nelems / 32)).map (fun k => mxQuantise g ((vs.drop (32 * k)).take 32))
        (packBytes g.width (qs.flatMap (fun q => q.2)), qs.map (fun q => BitVec.ofNat 8 q.1))
      else (packBytes g.width (vs.map (roundVal g true)), [])
    | _, _ => ([], [])

/-- A destination as placed rows: a hogshead offset names die and offset (R165); a row across the dies is cut. -/
def placeRow (p : PlaceRec) (addr : Nat) (bs : List Byte) (chunks : List Nat) : List PlacedRow :=
  if bs.isEmpty then []
  else if p.kind = 0 then [{ hog := false, unit := p.core, addr := addr, bytes := bs, chunks := chunks }]
  else
    let n := hgSize - addr % hgSize
    let r := fun (a : Nat) (b : List Byte) => ({ hog := true, unit := a / hgSize, addr := a % hgSize, bytes := b, chunks := chunks } : PlacedRow)
    if bs.length ≤ n then [r addr bs] else [r addr (bs.take n), r (addr + n) (bs.drop n)]

/-- The placed rows of a record. -/
def PlaceRec.rows (p : PlaceRec) (ts : List TensorEnt) (nc : Nat) (pay : List Byte) : List PlacedRow :=
  match ts.find? (fun t => t.id == p.tensor) with
  | none => []
  | some t =>
    (List.range p.nrows).flatMap (fun i =>
      let b := p.convert t pay i
      let ch := chunksOf nc (p.source t i)
      placeRow p (p.dest + i * p.stride) b.1 ch ++ placeRow p (p.sdest + i * p.scaleLen) b.2 ch)

/-- The chunks that a load reads. -/
def neededChunks (ts : List TensorEnt) (nc : Nat) (ps : List PlaceRec) : List Nat :=
  chunksOf nc (ps.flatMap (fun p =>
    match ts.find? (fun t => t.id == p.tensor) with
    | none => []
    | some t => (List.range p.nrows).flatMap (p.source t)))

/-- Stored bytes of a chunk in a stone. -/
def storedOf (bs : List Byte) (c : ChunkEnt) : List Byte := slice bs (leAt bs 0x50 8 + c.off) c.len

/-- The first needed chunk that fails, as a status: 4 for its hash, 2 for its coding; 0 where none does. -/
def chunkStatus (bs : List Byte) (cs : List ChunkEnt) : List Nat → Nat
  | [] => 0
  | j :: js =>
    match cs[j]? with
    | none => 2
    | some c =>
      if sha384 (storedOf bs c) != c.hash then 4
      else if (c.decode (storedOf bs c) (min chunkSize (leAt bs 0x18 8 - j * chunkSize))).isNone then 2
      else chunkStatus bs cs js

/-- The payload, with zeros for the chunks that are not read. -/
def payloadBytes (bs : List Byte) (cs : List ChunkEnt) (need : List Nat) : List Byte :=
  (List.range cs.length).flatMap (fun j =>
    let n := min chunkSize (leAt bs 0x18 8 - j * chunkSize)
    match cs[j]? with
    | none => List.replicate n 0
    | some c => if need.contains j then (c.decode (storedOf bs c) n).getD (List.replicate n 0) else List.replicate n 0)

/-! Copies (R397) -/

/-- Whether a placed row meets a copy's bytes. -/
def PlacedRow.meetsCopy (r : PlacedRow) (k : Copy) : Bool :=
  (if r.hog then k.hogs else k.strata).any (fun q => q.1 == r.unit && overlaps q.2.1 q.2.2 r.addr r.bytes.length)

/-- Whether a placed row meets a grant. -/
def State.rowGranted (s : State) (r : PlacedRow) : Bool :=
  r.hog && s.ctxs.any (fun p => (p.2.grants0 ++ p.2.grants1).any (fun g =>
    g.2.die == r.unit && overlaps g.2.off g.2.len r.addr r.bytes.length))

/-- A context maps a copy; one that it maps already is not counted again. -/
def State.mapCopy (s : State) (f i : Nat) : State :=
  if (s.ctx f).stones.contains i then s
  else
    let cs := kmap (fun j (k : Copy) => if j = i then { k with refcount := k.refcount + 1 } else k) s.ing.copies
    { s with ing := { s.ing with copies := cs } }.modCtx f (fun x => { x with stones := x.stones ++ [i] })

/-- A load that ends SIGNATURE, or DENIED by anchor or revocation, is counted in ING_VERIFY_FAIL. -/
def State.verifyFail (s : State) : State := { s with ing := { s.ing with verifyFail := satAdd s.ing.verifyFail 1 } }

/-- Whether a stone is revoked (R396). -/
def Ing.revokes (g : Ing) (h : Hash) (publisher : BitVec 128) (version : DWord) : Bool :=
  g.revList.any (fun e =>
    (leAt e 0 1 == 1 && slice e 16 48 == hashBytes h) ||
    (leAt e 0 1 == 2 && beNat (slice e 16 16) == publisher.toNat && decide (version.toNat < leAt e 32 8)))

/-- PUBLISHER_ID of a key (R394). -/
def publisherOf (pub : List Byte) : Nat := beNat ((hashBytes (sha384 pub)).take 16)

/-- The key of the enabled, unrevoked anchor of a publisher. -/
def Ing.anchorFor (g : Ing) (publisher : Nat) : Option (List Byte) :=
  (g.anchors.find? (fun p => p.2.prov && !p.2.revoked && publisherOf p.2.pubkey == publisher)).map (fun p => p.2.pubkey)

/-- Whether a context maps the copy that a tun names already. -/
def State.mapsStone (s : State) (f : Nat) (t : Tun) : Bool :=
  (s.ctx f).stones.any (fun i => (kfind s.ing.copies i).any (fun k => k.stoneHash == t.stoneId && k.placeHash == t.placeHash))

/-- Loads and mappings of a context, of which there are at most 8 (R382). -/
def State.mappings (s : State) (f : Nat) : Nat :=
  (s.ctx f).stones.length + (s.ing.copies.filter (fun p => p.2.waiters.any (fun w => w.1 == f))).length

/-- The lowest copy index that is free, 0 to 63. -/
def Ing.freeCopy (g : Ing) : Option Nat := (List.range 64).find? (fun i => (kfind g.copies i).isNone)

/-- REWRITING falls once no intact copy has marked rows in a stratum (15 R420). -/
def State.settleRewrites (s : State) : State :=
  let owed := s.ing.copies.any (fun p => p.2.valid && !p.2.damaged &&
    p.2.strata.any (fun q => (s.core q.1).dueIn .strat q.2.1 q.2.2))
  if owed then s else { s with hub := { s.hub with repairSt := s.hub.repairSt &&& 15 } }

/-- The ingest of a stone that passed its signature: chunk hashes and coding, placement, and the start of the copy. -/
def State.ingest (s : State) (f : Nat) (c : Cmd) (t : Tun) (bs : List Byte) (h : Hash) (hostVer : Bool) : State :=
  let ts := stoneTensors bs
  let cs := stoneChunks bs
  let ps := t.places s.moduleId
  let need := neededChunks ts cs.length ps
  let st := chunkStatus bs cs need
  if st = 4 then (s.verifyFail.ingEvent 4).loadDone f c 4 0
  else if st = 2 || !ps.all (s.placeOk ts) || !placesDisjoint ps then s.loadDone f c 2 0
  else if bitOf s.hub.splitAct 2 && !ps.all (fun p => ts.any (fun x => x.id == p.tensor && x.fmt == p.tfmt)) then s.loadDone f c 2 0
  else if !ps.all (fun p => p.kind != 0 || s.hasCore p.core) then s.loadDone f c 1 0
  else
    let rows := ps.flatMap (fun p => p.rows ts cs.length (payloadBytes bs cs need))
    let met := s.ing.copies.filter (fun p => rows.any (fun r => r.meetsCopy p.2))
    if met.any (fun p => decide (p.2.refcount > 0) || p.2.loading) || rows.any s.rowGranted then s.loadDone f c 3 0
    else
      let s := { s with ing := s.ing.keep (fun p => !met.any (fun q => q.1 == p.1)) }.settleRewrites
      match s.ing.freeCopy with
      | none => s.loadDone f c 3 0
      | some i =>
        let k : Copy :=
          { stoneHash := h, placeHash := t.placeHash, valid := false, loading := true, revoked := false, damaged := false
            hostVer := hostVer, refcount := 0, publisher := BitVec.ofNat 128 (beNat (slice bs 0x20 16))
            version := BitVec.ofNat 64 (leAt bs 0x30 8)
            strata := (rows.filter (fun r => !r.hog)).map (fun r => (r.unit, r.addr, r.bytes.length))
            hogs := (rows.filter (fun r => r.hog)).map (fun r => (r.unit, r.addr, r.bytes.length))
            rows := rows, hashes := need.foldl (fun m j => kset m j ((cs[j]?.map (fun x => x.hash)).getD 0)) []
            waiters := [(f, c)] }
        { s with ing := { s.ing with copies := kset s.ing.copies i k } }

/-- The verification of R398 with the changes of R402. -/
def State.verify (s : State) (f : Nat) (c : Cmd) (t : Tun) (bs : List Byte) (len : Nat) (headerOnly : Bool) : State :=
  let host := bitOf s.hub.splitAct 1
  let pub := beNat (slice bs 0x20 16)
  let anchor := s.ing.anchorFor pub
  let h := sha384 (bs.take (sigOff bs))
  if !stoneOk bs len headerOnly then s.loadDone f c 2 0
  else if !host && anchor.isNone then s.verifyFail.loadDone f c 3 0
  else if h != t.stoneId then s.loadDone f c 2 0
  else if s.ing.revokes h (BitVec.ofNat 128 pub) (BitVec.ofNat 64 (leAt bs 0x30 8)) then (s.verifyFail.ingEvent 8).loadDone f c 3 0
  else if !host && !ecdsaVerify (anchor.getD []) h (slice bs (sigOff bs) 96) then (s.verifyFail.ingEvent 2).loadDone f c 4 0
  else
    match s.ing.copies.find? (fun p => p.2.stoneHash == h && p.2.placeHash == t.placeHash) with
    | some (i, k) =>
      if k.valid then (s.mapCopy f i).loadDone f c 0 (i + 65536)
      else if headerOnly then s.loadDone f c 3 0
      else { s with ing := { s.ing with copies := kset s.ing.copies i { k with waiters := k.waiters ++ [(f, c)] } } }
    | none => if headerOnly then s.loadDone f c 3 0 else s.ingest f c t bs h host

/-- STONE_LOAD: `stone` are the bytes as the device reads them. DEDUCED (log 84). -/
def execStoneLoad (f : Nat) (e : Entry) (stone : Dma) (s : State) : Out :=
  s.submission f 0x10 e (useHead ||| BitVec.ofNat 512 256 ||| useBytes 4 2 ||| useBytes 8 16) (fun s =>
    let c := s.cmdOf f e
    match kfind (s.ctx f).tuns (Entry.at e 4 2) with
    | none => s.loadDone f c 3 0
    | some t =>
      if (s.mappings f ≥ 8 && !s.mapsStone f t) || (bitOf s.hub.splitAct 1 && f != 0 && !bitOf e 8) then s.loadDone f c 3 0
      else
        match stone with
        | none => s.dmaFailed.loadDone f c 6 0
        | some bs => s.verify f c t bs (Entry.at e 16 8) (bitOf e 8))

/-- Whether a run of the context uses a copy. -/
def State.copyUsed (s : State) (f : Nat) (k : Copy) : Bool :=
  (s.ctxRuns f).any (fun p => p.2.tun.stoneId == k.stoneHash && p.2.tun.placeHash == k.placeHash)

/-- STONE_UNMAP. -/
def execStoneUnmap (f : Nat) (e : Entry) (s : State) : Out :=
  s.submission f 0x11 e (useHead ||| useBytes 4 2) (fun s =>
    let i := Entry.at e 4 2
    match kfind s.ing.copies i with
    | none => s.deny f e 3
    | some k =>
      if !(s.ctx f).stones.contains i || s.copyUsed f k then s.deny f e 3
      else
        let cs := kset s.ing.copies i { k with refcount := k.refcount - 1 }
        ({ s with ing := { s.ing with copies := cs } }.modCtx f (fun x => { x with stones := x.stones.filter (fun j => j != i) })).reply f e 0 0)

/-! Residence and rewriting (R400; 07 R188, R202) -/

/-- Whether ingest may write a place now: a core that no run occupies, or a die with a phase that no run holds and no scrub
of the region. -/
def State.ingestFree (s : State) (r : PlacedRow) : Bool :=
  if r.hog then
    ((s.hog r.unit).holder.isNone || (s.hog r.unit).mask != 0xFFFFFFFF) &&
      !(s.hog r.unit).scrub.any (fun q => overlaps q.1 q.2 r.addr r.bytes.length)
  else (s.core r.unit).run.isNone

/-- Write part of a placed row, from byte lo of its place up to byte hi, with fresh check bits. -/
def State.writeRow (s : State) (r : PlacedRow) (lo hi : Nat) : State :=
  let a := max r.addr lo
  let n := min (r.addr + r.bytes.length) hi - a
  let bs := slice r.bytes (a - r.addr) n
  if r.hog then
    s.modHog r.unit (fun h =>
      let h := h.flush
      { h with mem := memWrites h.mem a bs, bad := h.bad.filter (fun x => !(decide (a ≤ x.1) && decide (x.1 < a + n))) })
  else s.modCore r.unit (fun k => { k.merge .strat a n with strat := memWrites k.strat a bs })

/-- The first load that waits for a copy is its own; the others share it. A copy that was revoked while it loaded gets no mapping
(R401). -/
def State.finishLoads (s : State) (i : Nat) (shared : Nat) : List (Nat × Cmd) → State
  | [] => s
  | w :: ws =>
    (if (kfind s.ing.copies i).any (fun k => k.revoked) then s.loadDone w.1 w.2 3 0
      else (s.mapCopy w.1 i).loadDone w.1 w.2 0 (i + 65536 * shared)).finishLoads i 1 ws

/-- STONE_RESIDENT: every record is written and the copy becomes resident; it waits for cores and dies in use. -/
def execStoneResident (copy : Nat) (s : State) : Out :=
  match kfind s.ing.copies copy with
  | none => .fault .noSuchUnit
  | some k =>
    if !k.loading || !k.rows.all s.ingestFree then .next s
    else
      let s := k.rows.foldl (fun s r => s.writeRow r r.addr (r.addr + r.bytes.length)) s
      let cs := kset s.ing.copies copy { k with valid := true, loading := false, waiters := [] }
      .next ({ s with ing := { s.ing with copies := cs } }.finishLoads copy 0 k.waiters)

/-- Whether the chunks as read again match their manifest hashes, in order. -/
def rereadOk (hs : KMap Hash) : List Nat → List Dma → Bool
  | [], _ => true
  | j :: js, some bs :: ds => kfind hs j == some (sha384 bs) && rereadOk hs js ds
  | _ :: _, _ => false

/-- STRATUM_REWRITE: a marked row of 64 bytes of a stratum, or a marked line of a die, is rewritten from the chunks of a
resident copy, read again as `chunks` in ascending order; a failed read or hash marks the copy DAMAGED (R400). -/
def execStratumRewrite (copy : Nat) (chunks : List Dma) (hogshead : Bool) (unit addr : Nat) (s : State) : Out :=
  match kfind s.ing.copies copy with
  | none => .fault .noSuchUnit
  | some k =>
    let lo := addr / 64 * 64
    let rs := k.rows.filter (fun r => r.hog == hogshead && r.unit == unit && overlaps r.addr r.bytes.length lo 64)
    let marked := if hogshead then !((s.hog unit).badIn true lo 64).isEmpty else (s.core unit).dueIn .strat lo 64
    let need := (List.range 65536).filter (fun j => rs.any (fun r => r.chunks.contains j))
    if !k.valid || rs.isEmpty || !marked || !rs.all s.ingestFree then .next s
    else if !rereadOk k.hashes need chunks then
      let cs := kset s.ing.copies copy { k with damaged := true }
      let failedHash := !chunks.any (fun d => d.isNone)
      let s := if failedHash then s.ingEvent 4 else s.dmaFailed
      .next ({ s with ing := { s.ing with copies := cs } }.ingEvent 0x20).settleRewrites
    else .next ((rs.foldl (fun s r => s.writeRow r lo (lo + 64)) s).countRewrites 1).settleRewrites

/-! Trust anchors and revocation (R396, R403) -/

/-- An anchor slot. -/
def Ing.anchor (g : Ing) (i : Nat) : Anchor := kget { pubkey := [], prov := false, revoked := false } g.anchors i

/-- PROGRAM: the staging key goes into the selected slot, once; otherwise ANCHOR_BAD stands. -/
def execProgram (s : State) : Out :=
  s.mmio (fun s =>
    let i := s.ing.anchorSel.toNat
    let a := s.ing.anchor i
    let key := memReads s.ing.stageKey 0 97
    if a.prov || (keyPoint key).isNone then s.ingEvent 0x40
    else { s with ing := { s.ing with anchors := kset s.ing.anchors i { a with pubkey := key, prov := true } } })

/-- REVOKE: the selected slot is disabled for good. -/
def execRevoke (s : State) : Out :=
  s.mmio (fun s =>
    let i := s.ing.anchorSel.toNat
    { s with ing := { s.ing with anchors := kset s.ing.anchors i { s.ing.anchor i with revoked := true } } })

/-- ING_ANCHOR_DATA: a write of four bytes of the staging key, or a read of four bytes of the selected slot's key. Each access
advances ING_ANCHOR_ADDR by 4. DESIGN CHOICE (log 32): the 7-bit address wraps, and bytes past 96 read 0. -/
def execIngAnchorData (write : Option Word) (s : State) : Out :=
  s.mmio (fun s =>
    let a := s.ing.anchorAddr.toNat
    let s :=
      match write with
      | some v => { s with ing := { s.ing with stageKey := memWrites s.ing.stageKey a (leBytes 4 v.toNat) } }
      | none => { s with busOut := some (BitVec.ofNat 32 (leAt (s.ing.anchor s.ing.anchorSel.toNat).pubkey a 4)) }
    { s with ing := { s.ing with anchorAddr := s.ing.anchorAddr + 4 } })

/-- ING_REVOKE_DATA: four bytes of the staging entry. -/
def execIngRevokeData (v : Word) (s : State) : Out :=
  s.mmio (fun s =>
    { s with ing := { s.ing with
      revStage := memWrites s.ing.revStage s.ing.revAddr.toNat (leBytes 4 v.toNat), revAddr := s.ing.revAddr + 4 } })

/-- REVOKE_ADD: the staging entry joins the list, and every resident copy that it matches is REVOKED (R401). -/
def execRevokeAdd (s : State) : Out :=
  s.mmio (fun s =>
    let e := memReads s.ing.revStage 0 64
    if s.ing.revList.length ≥ 1024 || (leAt e 0 1 != 1 && leAt e 0 1 != 2) then s
    else
      let g := { s.ing with revList := s.ing.revList ++ [e] }
      let hit := fun (k : Copy) => g.revokes k.stoneHash k.publisher k.version && !k.revoked
      let s := if g.copies.any (fun p => hit p.2) then ({ s with ing := g }).ingEvent 8 else { s with ing := g }
      let cs := kmap (fun _ (k : Copy) => if hit k then { k with revoked := true } else k) s.ing.copies
      { s with ing := { s.ing with copies := cs } })

end Sys2Proof.Machine
end

