-- ==== Sys2Proof/Machine/Regs.lean ====
section
/-!
DEFINITION. What every register of the module reads as: the blocks of PF BAR0, the windows of the contexts and VF BAR0
(02 R69; 07 R211; 08 R236; 09 R266; 10 R295; 12 R337; 13 R344 to R346, R378 to R380; 14 R403; 15 R424). The effects that a
read has are in Registers.
-/

namespace Sys2Proof.Machine

/-- A word from a number. -/
def word (n : Nat) : Word := BitVec.ofNat 32 n

/-- The low or the high half of a number of 64 bits. -/
def half (n : Nat) (hi : Bool) : Word := word (if hi then n / 2 ^ 32 else n)

/-! HUB_ (13 R378, 15 R424) -/

/-- Runs of a context that are pending or active (13 R379 CTX_STATUS.RUNS). -/
def State.liveRuns (s : State) (f : Nat) : Nat := ((s.ctxRuns f).filter (fun p => p.2.live)).length

def State.hubRead (s : State) (off : Nat) : Word :=
  let h := s.hub
  match off with
  | 0x000 => word (h.stepping.toNat + 2 ^ 8 * h.grade.toNat + 2 ^ 10 + 2 ^ 11 + 2 ^ 16 * s.coresPerDie)
  | 0x004 => word ((if s.hgPresent 1 then 3 else 1) + 2 ^ 8 * (if s.hgPresent 1 then 4 else 2) + 2 ^ 16 * 0x200)
  | 0x008 => h.fw.hubV
  | 0x00C => h.fw.mpV
  | 0x010 => word (h.splitMode.toNat + 2 ^ 16 * h.splitAct.toNat)
  | 0x014 => word (b2n h.ready + 2 * b2n h.fatalShown + 4 * h.pcieRate.toNat + 16 * h.pcieWidth.toNat + 2 ^ 9 * b2n h.flit +
      2 ^ 16 * h.vfs)
  | 0x018 => half h.dumpBase.toNat false
  | 0x01C => half h.dumpBase.toNat true
  | 0x020 => h.dumpLen
  | 0x024 => word (1024 - s.stageUsed)
  | 0x028 => h.hostepErr
  | 0x02C => h.dmaErr
  | 0x030 => h.malformed
  | 0x108 => word (h.bootStage.toNat + 2 ^ 4 * b2n h.slotB + 2 ^ 5 * b2n h.aOk + 2 ^ 6 * b2n h.bOk + 2 ^ 7 * b2n h.fallback +
      2 ^ 8 * b2n h.trialOk + 2 ^ 16 * h.fw.svn.toNat)
  | 0x10C => word (b2n (h.fwState == 1) + 2 * b2n (h.fwState == 3))
  | 0x110 => half h.stageAddr.toNat false
  | 0x114 => half h.stageAddr.toNat true
  | 0x118 => h.stageLen
  | 0x11C => word (h.fwState.toNat + 2 ^ 8 * h.fwCode.toNat)
  | 0x120 => word h.floorSvn.toNat
  | 0x124 => h.bist
  | 0x128 => word (h.repairReq.toNat + 2 ^ 31 * b2n (bitOf h.repairSt 0))
  | 0x12C => word h.repairSt.toNat
  | 0x130 => word (min h.repairMap.length 255 + 2 ^ 8 * min h.rowRepairs 255)
  | 0x134 => word (h.cause.toNat + 2 ^ 16 * h.causeMask.toNat)
  | 0x138 => word h.dumpSt.toNat
  | 0x13C => word h.dbgSel.toNat
  | _ => 0

/-! DET_ (02 R69) -/

/-- The counter of a _LO or _HI offset of the DET_ block. -/
def Det.counter (d : Det) (off : Nat) : Option Counter64 :=
  match off / 8 with
  | 8 => some d.resend
  | 9 => some d.refcoll
  | 10 => some d.emerg
  | 11 => some d.stp
  | 12 => some d.hgretry
  | 13 => some d.conflict
  | 14 => some d.hold
  | 15 => some d.stallCc
  | _ => none

/-- A _LO is the low half; a _HI is the half that the last _LO read latched, or the present one before any. -/
def Counter64.read (c : Counter64) (hi : Bool) : Word := if hi then c.latch.getD (half c.val true) else half c.val false

/-- The DET_ block. DEDUCED (log 99): PENDING_MODE reads 0 when no change waits. -/
def State.detRead (s : State) (off : Nat) : Word :=
  let d := s.det
  match off with
  | 0x000 => word (d.mode.toNat + 2 ^ 8 * b2n d.sealLock)
  | 0x004 => word (d.active.toNat + 4 * (if d.changePend then d.pendMode.toNat else 0) + 16 * b2n d.changePend +
      2 ^ 8 * b2n d.sealLock + 2 ^ 16 * s.activeRuns.length)
  | 0x008 => word (b2n d.coreDetail)
  | 0x00C => 0x100
  | 0x010 => 0x00010000
  | 0x014 => word (bits keyId 0 32)
  | 0x018 => word (bits keyId 32 32)
  | 0x01C => word (bits keyId 64 32)
  | 0x020 => word (bits keyId 96 32)
  | 0x024 => word certificate.length
  | 0x028 => d.certAddr
  | 0x02C => word (leAt certificate d.certAddr.toNat 4)
  | _ =>
    match d.counter off with
    | some c => if off % 4 = 0 then c.read (off % 8 == 4) else 0
    | none => 0

/-! CHN_ (10 R295) -/

def State.strapWord (s : State) : Nat :=
  s.moduleId + 2 ^ 10 * s.chn.straps.sysId.toNat + 2 ^ 14 * b2n s.chn.straps.mgr

/-- MASTER stands once the master's count runs. DEDUCED (log 33): at reset CHN_SYNC reads 0x3C on every module. -/
def State.chnRead (s : State) (off : Nat) : Word :=
  let c := s.chn
  match off with
  | 0x000 => 0x00140C18
  | 0x004 => word (s.strapWord + 2 ^ 15 * b2n c.strapsOk)
  | 0x008 => half c.count false
  | 0x00C => c.latch
  | 0x010 => word (b2n c.synced + 2 * b2n (s.master && c.running) + 4 * c.depth.toNat + 2 ^ 6 * s.parentPort.getD 0 +
      2 ^ 11 * b2n s.parentPort.isSome)
  | 0x014 => word ((BitVec.ofInt 16 (c.theta / 2)).toNat + 2 ^ 16 * c.rtt.toNat)
  | 0x018 => c.slew
  | 0x01C => word c.margin.toNat
  | 0x020 => 0x70
  | 0x024 => word c.event.toNat
  | 0x028 => c.lateHold
  | 0x02C => c.noRoute
  | 0x030 => word c.routeSel.toNat
  | 0x034 =>
    match s.route c.routeSel.toNat with
    | some p =>
      let k := (routeRule s.moduleId c.routeSel.toNat).1
      word (p + 2 ^ 5 + 2 ^ 6 * b2n (k == 1) + 2 ^ 7 * b2n (k == 2))
    | none => 0
  | 0x038 => c.pathLog
  | _ => 0

/-! PWR_ (12 R337) -/

def State.bridge (s : State) (b : Nat) : Bridge := kget Bridge.reset s.syn.bridges b

/-- The tick in which a moderation timer expires (13 R373). -/
def Moder.expiry (m : Moder) : Option Nat :=
  if bits m.reg 8 16 = 0 then none else m.firstAt.map (fun a => a + 200 * bits m.reg 8 16)

/-- The ticks of the known events of 12 R334: boundaries of held runs, the declared submission, moderation timers, timeouts of
bridges, and launches. -/
def State.knownEvents (s : State) : List Nat :=
  let n := ccPerTick s.pwr.cur
  (s.activeRuns.filter (fun e => s.heldAt e.2)).map (fun e => s.chn.count + (s.boundaryAt e.2 - s.clk) / n) ++
  (if s.pwr.nextAt = 0 then [] else [s.pwr.nextAt.toNat]) ++
  (s.evc.mpmod ++ s.evc.hmod ++ s.ctxs.map (fun p => (p.1, p.2.moder))).filterMap (fun p => p.2.expiry) ++
  s.runs.filterMap (fun p => if p.2.phase == .waiting then p.2.gate.map (fun b => p.2.posted + 200 * (s.bridge b).timeout) else none) ++
  s.runs.filterMap (fun p => if p.2.phase == .admitted then p.2.cl else none)

/-- The tick of the earliest known event, or with none the end of PWR_HORIZON. -/
def State.nextEvent (s : State) : Nat :=
  match s.knownEvents with
  | [] => s.chn.count + 200 * s.pwr.horizon.toNat
  | e :: es => es.foldl min e

/-- PWR_DELTA: the present Δ in ns; until the module is READY the value of reset (12 R334, R337). -/
def State.presentDelta (s : State) : Word :=
  if s.hub.ready then BitVec.ofNat 32 (min (5 * (s.nextEvent - s.chn.count)) 0xFFFFFFFF) else 0xFFFFFFFF

def State.pwrRead (s : State) (off : Nat) : Word :=
  let p := s.pwr
  match off with
  | 0x000 => 0x001F160F
  | 0x004 => word (p.cur.toNat + 2 ^ 4 * s.maxInForce.toNat + 2 ^ 8 * b2n p.changing)
  | 0x008 => word (p.st.toNat + 2 ^ 4 * p.last.toNat + 2 ^ 8 * b2n p.transition)
  | 0x00C => word (b2n p.autoHold + 2 * b2n p.autoDoze + 4 * b2n p.autoStow + 2 ^ 4 * p.hostTarget.toNat)
  | 0x010 => word p.horizon.toNat
  | 0x014 => p.nextLo
  | 0x018 => p.nextHi
  | 0x01C => s.presentDelta
  | 0x020 => word (p.thStep.toNat + 2 ^ 8 * p.thEmerg.toNat + 2 ^ 16 * p.sealDuty.toNat)
  | 0x024 => word (p.tele.hottest % 256 + 2 ^ 8 * (p.tele.hubCore % 256) + 2 ^ 16 * (p.tele.hg0 % 256) + 2 ^ 24 * (p.tele.hg1 % 256))
  | 0x028 => word (min p.tele.power10ms 65535 + 2 ^ 16 * min p.peak1ms 65535)
  | 0x02C => word (min p.tele.nbrDev 255 + 2 ^ 8 * min p.tele.nbrTemp 255 + 2 ^ 16 * (p.tele.nbrPair % 64))
  | 0x030 => word p.event.toNat
  | 0x034 => p.beatStall
  | 0x038 => p.stretch
  | 0x03C => p.emerg
  | 0x040 => p.xcalSel
  | 0x044 => word (kget 0 p.xcal (bits p.xcalSel 0 6 + 64 * bits p.xcalSel 8 2)).toNat
  | 0x048 => p.resDoze
  | 0x04C => p.resStow
  | _ => 0

/-! SYN_ (08 R216, R236) -/

/-- The entries of a context's flag map: those of its runs that hold objects, in run order, with their physical flags.
DEDUCED (log 90). -/
def State.flagMapOf (s : State) (f : Nat) : List Nat :=
  (s.ctxRuns f).flatMap (fun p =>
    if p.2.holdsUnits then
      (p.2.tun.flagEnts s.moduleId).map (fun e =>
        if flagKind e = 0 then (putBits e 18 13 ((s.physFlag p.1 (BitVec.ofNat 16 (bits e 0 16))).getD 0)).toNat else e.toNat)
    else [])

/-- The entries of a context's barrier map. -/
def State.barrMapOf (s : State) (f : Nat) : List Nat :=
  (s.ctxRuns f).flatMap (fun p =>
    if p.2.holdsUnits then
      (p.2.tun.barriers s.moduleId).map (fun b =>
        b.vid + 2 ^ 16 * (s.physBarr p.1 (BitVec.ofNat 16 b.vid)).getD 0 + 2 ^ 25 * b2n b.spans + 2 ^ 26 * b.root)
    else [])

/-- The selected map entry, 0 beyond the context's entries. -/
def State.mapEntry (s : State) : Nat :=
  let f := bits s.syn.mapSel 0 10
  let m := if bitOf s.syn.mapSel 28 then s.barrMapOf f else s.flagMapOf f
  m.getD (bits s.syn.mapSel 16 12) 0

/-- Whether a core waits on a flag (08 R235). -/
def Core.waitsFlag (k : Core) (f : Flag) : Bool :=
  k.run == some f.run &&
    match k.anyHold with
    | .fwait v _ _ _ _ => v == f.vid
    | _ => false

/-- The waiter set of the selected flag. -/
def State.waiterSet (s : State) : List Nat :=
  match kfind s.syn.flags s.syn.fsel.toNat with
  | none => []
  | some f => (s.cores.filter (fun p => p.2.waitsFlag f)).map (fun p => p.1)

/-- Arrival bits of a barrier's module node in the counter of a parity. -/
def State.nodeBits (s : State) (b : Barrier) (parity : Bool) : Nat :=
  (b.bits.filter (fun x => x.node == s.topNode b && x.parity == parity)).length

/-- Runs that wait at a bridge. -/
def State.gated (s : State) (b : Nat) : Nat := (s.runs.filter (fun p => p.2.phase == .waiting && p.2.gate == some b)).length

def State.synRead (s : State) (off : Nat) : Word :=
  let y := s.syn
  let br := s.bridge y.brgSel.toNat
  match off with
  | 0x000 => 0x10002000
  | 0x004 => 0x81000200
  | 0x008 => word ((8192 - y.flags.length) + 2 ^ 16 * (512 - y.barriers.length))
  | 0x00C => word y.dlTimeout.toNat
  | 0x010 => y.dlLog
  | 0x014 => y.dlInfo
  | 0x018 => y.race
  | 0x01C => y.ovrLog
  | 0x040 => word y.fsel.toNat
  | 0x044 =>
    match kfind y.flags y.fsel.toNat with
    | some f => word (b2n (f.before (s.nowRun f.run)).1 + 2 + 4 * b2n f.broken + 2 ^ 16 * f.owner)
    | none => 0x03FF0000
  | 0x048 =>
    match kfind y.flags y.fsel.toNat with
    | some f =>
      match (f.before (s.nowRun f.run)).2.1 with
      | some l => word (l.2 % 1024 + 2 ^ 10 * (l.1 % 1024) + 2 ^ 20 + 2 ^ 21 * b2n (f.before (s.nowRun f.run)).2.2)
      | none => 0
    | none => 0
  | 0x04C => word s.waiterSet.length
  | 0x0A0 => word y.bsel.toNat
  | 0x0A4 =>
    match kfind y.barriers y.bsel.toNat with
    | some b => word (b.gens % 65536 + 2 ^ 16 * b.owner + 2 ^ 26 * b2n b.broken + 2 ^ 27 * b2n b.spans)
    | none => 0x03FF0000
  | 0x0A8 =>
    match kfind y.barriers y.bsel.toNat with
    | some b => word (s.nodeBits b false + 2 ^ 16 * s.nodeBits b true)
    | none => 0
  | 0x100 => word y.brgSel.toNat
  | 0x104 => word (br.setter + 2 ^ 16 * br.waiter + 2 ^ 31 * b2n br.enabled)
  | 0x108 => word br.timeout
  | 0x10C => word (b2n br.value + 2 * b2n br.enabled + 2 ^ 16 * s.gated y.brgSel.toNat)
  | 0x120 => y.mapSel
  | 0x124 => half s.mapEntry false
  | 0x128 => half s.mapEntry true
  | _ =>
    if 0x050 ≤ off && off < 0x098 && off % 4 = 0 then
      let w := (off - 0x050) / 4
      word (s.waiterSet.foldl (fun a c => if c / 32 = w then a + 2 ^ (c % 32) else a) 0)
    else 0

/-! LNK_ (09 R266) -/

def State.portRead (s : State) (p off : Nat) : Word :=
  let x := s.port p
  match off with
  | 0x00 => word (b2n x.enable + 2 * b2n x.retrain + 4 * x.loopSel.toNat + 2 ^ 5 * b2n x.allowFar +
      2 ^ 6 * b2n (x.maint && !s.portUsed p))
  | 0x04 => word (x.st.toNat + 2 ^ 3 * b2n x.cwLock + 2 ^ 4 * b2n x.frameLock + 2 ^ 5 * b2n x.partnerFar +
      2 ^ 16 * x.partner.toNat + 2 ^ 26 * x.partnerSys.toNat)
  | 0x08 => word ((partnerOf (s.moduleId / 16) (s.moduleId % 16) p).1 + 2 ^ 10 * b2n (decide (30 ≤ p)))
  | 0x0C => x.fecCw
  | 0x10 => x.fecCorr
  | 0x14 => x.fecSym
  | 0x18 => x.fecUncorr
  | 0x1C => x.crcFail
  | 0x20 => x.nakTx
  | 0x24 => x.nakRx
  | 0x28 => x.resend
  | 0x2C => x.malformed
  | 0x30 => x.malLog
  | 0x34 => x.downCount
  | 0x38 => x.trainTime
  | 0x3C => x.eq
  | _ => 0

def State.lnkRead (s : State) (off : Nat) : Word :=
  match off with
  | 0x000 => 0x00023220
  | 0x004 => word s.strapWord
  | 0x008 => word s.portUp
  | 0x00C => s.lnk.portEvt
  | 0x010 => s.lnk.ringCrc
  | 0x014 => word (min s.lnk.retained.length 65535)
  | 0x018 => word (s.lnk.loopCore.toNat + 2 ^ 15 * b2n s.lnk.loopEn)
  | _ => if 0x100 ≤ off && off < 0x900 then s.portRead ((off - 0x100) / 0x40) ((off - 0x100) % 0x40) else 0

/-! ING_ (14 R403) -/

/-- Loads in progress. -/
def State.loading (s : State) : Nat := (s.ing.copies.filter (fun p => p.2.loading)).length

def Copy.stateWord (k : Copy) : Nat :=
  b2n k.valid + 2 * b2n k.loading + 4 * b2n k.revoked + 8 * b2n k.damaged + 16 * b2n k.hostVer + 2 ^ 16 * k.refcount

def State.ingRead (s : State) (off : Nat) : Word :=
  let g := s.ing
  let a := g.anchor g.anchorSel.toNat
  let id := fun (i : Nat) => if a.prov then word (leAt (hashBytes (sha384 a.pubkey)) (4 * i) 4) else 0
  let copyHash := fun (i : Nat) =>
    match kfind g.copies g.copySel.toNat with
    | some k => word (leAt (hashBytes k.stoneHash) (4 * i) 4)
    | none => 0
  match off with
  | 0x000 => 0x04004010
  | 0x004 => word (b2n (decide (0 < s.loading)) + 2 * b2n (bitOf s.hub.splitAct 1) + 4 * b2n (bitOf s.hub.splitAct 2) +
      2 ^ 8 * (s.loading - 1))
  | 0x008 => word g.event.toNat
  | 0x00C => 0x00120000
  | 0x010 => word g.anchorSel.toNat
  | 0x014 => word (b2n a.prov + 2 * b2n a.revoked)
  | 0x018 => word g.anchorAddr.toNat
  | 0x01C => word (leAt a.pubkey g.anchorAddr.toNat 4)
  | 0x024 => id 0
  | 0x028 => id 1
  | 0x02C => id 2
  | 0x030 => id 3
  | 0x040 => word g.revList.length
  | 0x044 => word g.revAddr.toNat
  | 0x060 => word g.copySel.toNat
  | 0x064 => word (((kfind g.copies g.copySel.toNat).map Copy.stateWord).getD 0)
  | 0x068 => copyHash 0
  | 0x06C => copyHash 1
  | 0x070 => copyHash 2
  | 0x074 => copyHash 3
  | 0x078 => g.rewrites
  | 0x07C => g.verifyFail
  | _ => 0

/-! EVC_ (13 R370 to R373, R380) -/

/-- Whether a core of a die's row meets a condition. -/
def State.rowAny (s : State) (d r : Nat) (q : Core → Bool) : Bool :=
  s.cores.any (fun p => s.coreDie p.1 == d && s.coreRow p.1 == r && q p.2)

/-- Whether a context's rings raise its source (R371). -/
def Ctx.level (x : Ctx) : Bool :=
  (x.cqIe && x.cq.prod != x.cq.cons) || (x.eqIe && x.eq.prod != x.eq.cons) || (x.dqIe && x.dq.prod != x.dq.cons)

/-- The level of a source; those that no condition drives, and numbers that are reserved, never assert (R370). -/
def State.level (s : State) (src : Nat) : Bool :=
  if src < 6 then bitOf s.chn.event src
  else if 8 ≤ src && src < 16 then bitOf s.pwr.event (src - 8)
  else if src = 17 then bitOf s.syn.dlLog 0
  else if src = 18 then bitOf s.syn.ovrLog 0
  else if src = 20 then bitOf s.hgRegs.log 0
  else if 24 ≤ src && src < 32 then bitOf s.ing.event (src - 24)
  else if src = 32 then s.hub.aerCorr
  else if src = 33 then s.hub.aerUncorr
  else if src = 34 then s.hub.fatalShown
  else if 64 ≤ src && src < 128 then
    let p := (src - 64) / 2
    if src % 2 = 0 then bitOf s.lnk.portEvt p else bitOf (s.port p).malLog 0
  else if 128 ≤ src && src < 256 then
    let d := (src - 128) / 64
    let r := (src - 128) % 64
    if r < 9 then s.rowAny d r (fun k => bitOf k.eccRegs.log 0)
    else if 16 ≤ r && r < 25 then s.rowAny d (r - 16) (fun k => k.fatalRec.isSome)
    else false
  else if 256 ≤ src && src ≤ 768 then (s.ctx (src - 256)).level
  else false

/-- Whether a number is a source at all (R370). -/
def isSource (src : Nat) : Bool :=
  src < 6 || (8 ≤ src && src ≤ 18) || src == 20 || (24 ≤ src && src ≤ 34) || (48 ≤ src && src ≤ 51) ||
    (64 ≤ src && src < 128) || (128 ≤ src && src < 256 && ((src - 128) % 64 < 9 ||
      (16 ≤ (src - 128) % 64 && (src - 128) % 64 < 25))) || (256 ≤ src && src ≤ 784)

/-- EVC_TGT of a source (R380). -/
def State.tgt (s : State) (src : Nat) : Word := kget (if 256 ≤ src && src ≤ 768 then 3 else 0) s.evc.tgt src

/-- Whether a source is pending (R372). -/
def State.evPending (s : State) (src : Nat) : Bool :=
  isSource src && bitOf (s.tgt src) 0 && !s.evc.insvc.contains src && (s.level src || s.evc.sw.contains src)

/-- Word w of a bitmap of sources. -/
def sourceWord (q : Nat → Bool) (w : Nat) : Word :=
  word ((List.range 32).foldl (fun a k => if q (32 * w + k) then a + 2 ^ k else a) 0)

/-- Moderation of a management processor or of a PF vector. -/
def State.mpMod (s : State) (n : Nat) : Moder := kget Moder.reset s.evc.mpmod n
def State.hMod (s : State) (v : Nat) : Moder := kget Moder.reset s.evc.hmod v

def State.evcRead (s : State) (off : Nat) : Word :=
  if off % 4 != 0 then 0
  else if off = 0x000 then 0x004043FF
  else if off = 0x004 then s.evc.spurious
  else if off = 0x00C then s.evc.msgCount
  else if 0x040 ≤ off && off < 0x050 then (s.mpMod ((off - 0x040) / 4)).reg
  else if 0x100 ≤ off && off < 0x180 then sourceWord s.level ((off - 0x100) / 4)
  else if 0x180 ≤ off && off < 0x200 then sourceWord s.evPending ((off - 0x180) / 4)
  else if 0x200 ≤ off && off < 0x280 then sourceWord s.evc.sw.contains ((off - 0x200) / 4)
  else if 0x280 ≤ off && off < 0x300 then sourceWord s.evc.insvc.contains ((off - 0x280) / 4)
  else if 0x400 ≤ off && off < 0x500 then (s.hMod ((off - 0x400) / 4)).reg
  else if 0x1000 ≤ off && off < 0x1FFC then s.tgt ((off - 0x1000) / 4)
  else 0

/-! CORE_ (07 R211) -/

/-- One bit per hogshead die. -/
def State.dieBits (s : State) (q : Hogshead → Bool) : Nat :=
  b2n (s.hgPresent 0 && q (s.hog 0)) + 2 * b2n (s.hgPresent 1 && q (s.hog 1))

/-- The shared page. -/
def State.corePage (s : State) (off : Nat) : Word :=
  match off with
  | 0x000 => if s.hgPresent 1 then 0x0003200D else 0x0001200D
  | 0x004 => word (s.dieBits (fun h => h.ready) + 4 * s.dieBits (fun h => h.holder.isSome) +
      16 * s.dieBits (fun h => !h.scrub.isEmpty) + 64 * s.dieBits (fun h => h.patrol.isSome) + 2 ^ 8 * (s.hog 0).rate.toNat + 2 ^ 10 * (s.hog 1).rate.toNat)
  | 0x008 => (s.hog 0).ce
  | 0x00C => if s.hgPresent 1 then (s.hog 1).ce else 0
  | 0x010 => s.hgRegs.due
  | 0x014 => s.hgRegs.log
  | 0x018 => s.hgRegs.addr
  | _ => 0

/-- The window of core c. That of a core that is not present or not available reads 0. -/
def State.coreWindow (s : State) (c off : Nat) : Word :=
  if !s.hasCore c then 0
  else
    let k := s.core c
    match off with
    | 0x00 => word spadSize
    | 0x04 => word stratumSize
    | 0x08 => word imemSize
    | 0x0C => word dmemSize
    | 0x10 => 0x00FF0410
    | 0x14 => word (b2n k.available + 2 * b2n k.scrubBusy + 4 * b2n (k.patrol.isSome && k.run.isNone) + 2 ^ 16 * k.owner.getD 0x3FF)
    | 0x18 => k.eccRegs.ceSpad
    | 0x1C => k.eccRegs.ceStrat
    | 0x20 => k.eccRegs.ceCode
    | 0x24 => k.eccRegs.due
    | 0x28 => k.eccRegs.log
    | 0x2C => k.eccRegs.addr
    | _ => 0

def State.coreRead (s : State) (off : Nat) : Word :=
  if off < 0x100 then s.corePage off
  else if 0x1000 ≤ off && off < 0x25000 then s.coreWindow ((off - 0x1000) / 0x100) ((off - 0x1000) % 0x100)
  else 0

/-! CTX_ windows (13 R379) -/

/-- The ring at an offset of a window: SQ, CQ, EQ, DQ. -/
def Ctx.ring (x : Ctx) : Nat → Ring
  | 0 => x.sq
  | 1 => x.cq
  | 2 => x.eq
  | _ => x.dq

def State.ctxRead (s : State) (f off : Nat) : Word :=
  let x := s.ctx f
  let base := fun (i : Nat) (r : Ring) =>
    match i with
    | 0 => half r.base false
    | 4 => half r.base true
    | 8 => word r.k
    | _ => 0
  match off with
  | 0x000 => word f
  | 0x004 => word (b2n (s.ctxShown f) + 2 * b2n x.ringErr + 2 ^ 16 * min 1023 (s.liveRuns f))
  | 0x008 => word (b2n x.ringsEn + 2 * b2n x.cqIe + 4 * b2n x.eqIe + 8 * b2n x.dqIe)
  | 0x050 => word x.sq.cons
  | 0x054 => word x.sq.prod
  | 0x058 => word x.cq.prod
  | 0x05C => word x.cq.cons
  | 0x060 => word x.eq.prod
  | 0x064 => word x.eq.cons
  | 0x068 => word x.dq.prod
  | 0x06C => word x.dq.cons
  | 0x070 => x.dbErr
  | 0x074 => x.eqLost
  | 0x078 => x.dqLost
  | 0x07C => x.malformed
  | 0x080 => x.moder.reg
  | _ => if 0x010 ≤ off && off < 0x050 then base (off % 16) (x.ring ((off - 0x010) / 16)) else 0

/-! BARs (13 R343 to R346) -/

/-- A word of a function's MSI-X table. PRESUMED (log 34): PCI Express resets every vector masked. -/
def State.msixWord (s : State) (f i : Nat) : Word := kget (if i % 4 = 3 then 1 else 0) s.evc.msix (256 * f + i)

/-- The dword of a function's MSI-X capability that holds its message control: table size − 1 in [26:16], the function mask in [30] and
the enable in [31], both 0 after reset. PRESUMED (log 102). -/
def State.msixControl (s : State) (f : Nat) : Word := kget 0 s.evc.msixCtl f ||| word (2 ^ 16 * (if f = 0 then 63 else 0))

/-- PCI Express configuration space of a function: MSI-X message control and, of context 0, the uncorrectable and correctable error
status of AER, in which what a reported error shows is left open (R341, R374). PRESUMED (log 102). -/
def State.configRead (s : State) (f off : Nat) : Word :=
  match off with
  | 0x0B0 => s.msixControl f
  | 0x104 => if f = 0 && s.hub.aerUncorr then Config.aerStatus true else 0
  | 0x110 => if f = 0 && s.hub.aerCorr then Config.aerStatus false else 0
  | _ => 0

/-- Pending-bit words of a function. -/
def State.msixPba (s : State) (f : Nat) (hi : Bool) : Word :=
  word ((List.range 32).foldl (fun a k =>
    if s.evc.msixPend.contains (f, k + (if hi then 32 else 0)) then a + 2 ^ k else a) 0)

/-- PF BAR0. -/
def State.barRead (s : State) (off : Nat) : Word :=
  if off % 4 != 0 then 0
  else if off < 0x1000 then s.hubRead off
  else if off < 0x2000 then s.detRead (off - 0x1000)
  else if off < 0x3000 then s.chnRead (off - 0x2000)
  else if off < 0x4000 then s.pwrRead (off - 0x3000)
  else if off < 0x5000 then s.synRead (off - 0x4000)
  else if off < 0x6000 then s.lnkRead (off - 0x5000)
  else if off < 0x8000 then s.ingRead (off - 0x6000)
  else if 0x10000 ≤ off && off < 0x12000 then s.evcRead (off - 0x10000)
  else if 0x40000 ≤ off && off < 0x65000 then s.coreRead (off - 0x40000)
  else if 0x400000 ≤ off && off < 0x601000 then s.ctxRead ((off - 0x400000) / 0x1000) (off % 0x1000)
  else if 0x800000 ≤ off && off < 0x800400 then s.msixWord 0 ((off - 0x800000) / 4)
  else if off = 0x801000 then s.msixPba 0 false
  else if off = 0x801004 then s.msixPba 0 true
  else 0

/-- VF BAR0 of context f: its window, the mirror page and its MSI-X structures (R346). -/
def State.vfRead (s : State) (f off : Nat) : Word :=
  if off % 4 != 0 then 0
  else if off < 0x1000 then s.ctxRead f off
  else if off = 0x1000 then s.hubRead 0
  else if off = 0x1004 then s.hubRead 4
  else if off = 0x1008 then s.chnRead 4
  else if off = 0x100C then s.detRead 4
  else if off = 0x1010 then s.detRead 0x10
  else if off = 0x1014 then s.pwrRead 4
  else if 0x8000 ≤ off && off < 0x8010 then s.msixWord f ((off - 0x8000) / 4)
  else if off = 0xC000 then s.msixPba f false
  else 0

/-- Bytes of a range of PF BAR0, as a dump holds them. -/
def State.barBytes (s : State) (base n : Nat) : List Byte :=
  (List.range (n / 4)).flatMap (fun i => leBytes 4 (s.barRead (base + 4 * i)).toNat)

end Sys2Proof.Machine
end

