-- ==== Sys2Proof/Machine/Scalar.lean ====
section
/-!
DEFINITION. The empty ell and the scalar slot (05 R138, R144 to R148, R155, R159, R162).
-/

namespace Sys2Proof.Machine

/-- Sign-extended immediate. -/
def sext (v : BitVec 16) : Word := v.signExtend 32

/-- Zero-extended immediate. -/
def zext (v : BitVec 16) : Word := v.setWidth 32

/-- EMPTY_ELL: occupies IDLE + 1 issue cycles and issues nothing (05 R138). -/
def execEmptyEll (c : Nat) (idle : BitVec 10) (s : State) : Out :=
  if !s.hasCore c then .fault .noSuchUnit
  else if (s.core c).ell.isSome then .fault .slotOrder
  else .next ((s.openEll c 0 0 noQueue).endEll c idle.toNat)

/-- A scalar operation whose result `v` is written to rd `lat` cycles after issue (05 R155). -/
def State.scalarOp (s : State) (c : Nat) (e : EllEnd) (rd : BitVec 5) (lat : Nat) (v : Core → Word) : Out :=
  s.slot c 0 2 noQueue e (fun s => s.modCore c (fun k => k.later lat false (.sreg rd (v k))))

/-- As `scalarOp`, where the encoding is reserved if `bad` (05 R144, R158). -/
def State.scalarOpIf (s : State) (c : Nat) (e : EllEnd) (bad : Bool) (rd : BitVec 5) (lat : Nat) (v : Core → Word) :
    Out :=
  s.slotP c 0 2 noQueue e (fun _ => if bad then some (illegal 0) else none)
    (fun s => s.modCore c (fun k => k.later lat false (.sreg rd (v k))))

def execAdd (c : Nat) (e : EllEnd) (rd ra rb : BitVec 5) (s : State) : Out :=
  s.scalarOp c e rd 1 (fun k => k.s ra + k.s rb)

def execSub (c : Nat) (e : EllEnd) (rd ra rb : BitVec 5) (s : State) : Out :=
  s.scalarOp c e rd 1 (fun k => k.s ra - k.s rb)

def execAnd (c : Nat) (e : EllEnd) (rd ra rb : BitVec 5) (s : State) : Out :=
  s.scalarOp c e rd 1 (fun k => k.s ra &&& k.s rb)

def execOr (c : Nat) (e : EllEnd) (rd ra rb : BitVec 5) (s : State) : Out :=
  s.scalarOp c e rd 1 (fun k => k.s ra ||| k.s rb)

def execXor (c : Nat) (e : EllEnd) (rd ra rb : BitVec 5) (s : State) : Out :=
  s.scalarOp c e rd 1 (fun k => k.s ra ^^^ k.s rb)

/-- Shifts use bits [4:0] of the count (05 R144). -/
def execShl (c : Nat) (e : EllEnd) (rd ra rb : BitVec 5) (s : State) : Out :=
  s.scalarOp c e rd 1 (fun k => k.s ra <<< bits (k.s rb) 0 5)

def execShr (c : Nat) (e : EllEnd) (rd ra rb : BitVec 5) (s : State) : Out :=
  s.scalarOp c e rd 1 (fun k => k.s ra >>> bits (k.s rb) 0 5)

def execSra (c : Nat) (e : EllEnd) (rd ra rb : BitVec 5) (s : State) : Out :=
  s.scalarOp c e rd 1 (fun k => (k.s ra).sshiftRight (bits (k.s rb) 0 5))

def execSlt (c : Nat) (e : EllEnd) (rd ra rb : BitVec 5) (s : State) : Out :=
  s.scalarOp c e rd 1 (fun k => if (k.s ra).slt (k.s rb) then 1 else 0)

def execSltu (c : Nat) (e : EllEnd) (rd ra rb : BitVec 5) (s : State) : Out :=
  s.scalarOp c e rd 1 (fun k => if (k.s ra).ult (k.s rb) then 1 else 0)

def execMul (c : Nat) (e : EllEnd) (rd ra rb : BitVec 5) (s : State) : Out :=
  s.scalarOp c e rd 3 (fun k => k.s ra * k.s rb)

/-- Bits [63:32] of the signed product. -/
def execMulh (c : Nat) (e : EllEnd) (rd ra rb : BitVec 5) (s : State) : Out :=
  s.scalarOp c e rd 3 (fun k => BitVec.ofInt 32 ((k.s ra).toInt * (k.s rb).toInt / 2 ^ 32))

/-- Bits [63:32] of the unsigned product. -/
def execMulhu (c : Nat) (e : EllEnd) (rd ra rb : BitVec 5) (s : State) : Out :=
  s.scalarOp c e rd 3 (fun k => BitVec.ofNat 32 ((k.s ra).toNat * (k.s rb).toNat / 2 ^ 32))

def execMin (c : Nat) (e : EllEnd) (rd ra rb : BitVec 5) (s : State) : Out :=
  s.scalarOp c e rd 1 (fun k => if (k.s ra).slt (k.s rb) then k.s ra else k.s rb)

def execMax (c : Nat) (e : EllEnd) (rd ra rb : BitVec 5) (s : State) : Out :=
  s.scalarOp c e rd 1 (fun k => if (k.s ra).slt (k.s rb) then k.s rb else k.s ra)

def execAddi (c : Nat) (e : EllEnd) (rd ra : BitVec 5) (imm : BitVec 16) (s : State) : Out :=
  s.scalarOp c e rd 1 (fun k => k.s ra + sext imm)

def execAndi (c : Nat) (e : EllEnd) (rd ra : BitVec 5) (imm : BitVec 16) (s : State) : Out :=
  s.scalarOp c e rd 1 (fun k => k.s ra &&& zext imm)

def execOri (c : Nat) (e : EllEnd) (rd ra : BitVec 5) (imm : BitVec 16) (s : State) : Out :=
  s.scalarOp c e rd 1 (fun k => k.s ra ||| zext imm)

def execXori (c : Nat) (e : EllEnd) (rd ra : BitVec 5) (imm : BitVec 16) (s : State) : Out :=
  s.scalarOp c e rd 1 (fun k => k.s ra ^^^ zext imm)

/-- imm16[15:5] must be 0 (05 R144). -/
def execShli (c : Nat) (e : EllEnd) (rd ra : BitVec 5) (imm : BitVec 16) (s : State) : Out :=
  s.scalarOpIf c e (bits imm 5 11 != 0) rd 1 (fun k => k.s ra <<< bits imm 0 5)

def execShri (c : Nat) (e : EllEnd) (rd ra : BitVec 5) (imm : BitVec 16) (s : State) : Out :=
  s.scalarOpIf c e (bits imm 5 11 != 0) rd 1 (fun k => k.s ra >>> bits imm 0 5)

def execSrai (c : Nat) (e : EllEnd) (rd ra : BitVec 5) (imm : BitVec 16) (s : State) : Out :=
  s.scalarOpIf c e (bits imm 5 11 != 0) rd 1 (fun k => (k.s ra).sshiftRight (bits imm 0 5))

def execLui (c : Nat) (e : EllEnd) (rd : BitVec 5) (imm : BitVec 16) (s : State) : Out :=
  s.scalarOp c e rd 1 (fun _ => zext imm <<< 16)

/-! Data memory -/

/-- The data address ra + sign-extended imm16 (05 R144). -/
def Core.dataAddr (k : Core) (ra : BitVec 5) (imm : BitVec 16) : Nat := (k.s ra + sext imm).toNat

/-- DMEM_RANGE: a byte outside data memory, or a misaligned word (05 R145). -/
def dmemCause (a n : Nat) : Option Cause :=
  if a + n > dmemSize || a % n != 0 then some { code := 0x03, info := trapInfo 0 0 a } else none

/-- A load of `n` bytes: rd := 0 when the code word is uncorrectable (05 R145, 07 R185, R187). -/
def State.loadOp (s : State) (c : Nat) (e : EllEnd) (rd ra : BitVec 5) (imm : BitVec 16) (n : Nat) : Out :=
  s.slotP c 0 2 noQueue e (fun s => dmemCause ((s.core c).dataAddr ra imm) n)
    (fun s => s.modCore c (fun k =>
      let a := k.dataAddr ra imm
      if k.dueIn .dmem a n then
        (k.later 3 false (.sreg rd 0)).modEll (fun l => { l with dues := l.dues ++ [(0, .dmem, a)] })
      else (k.noteRead .dmem a n).later 3 false (.sreg rd (BitVec.ofNat 32 (leNat (memReads k.dmem a n))))))

/-- A store of the low `n` bytes of rd, read by a load issued in the next cycle (05 R145, R155). -/
def State.storeOp (s : State) (c : Nat) (e : EllEnd) (rd ra : BitVec 5) (imm : BitVec 16) (n : Nat) : Out :=
  s.slotP c 0 2 noQueue e (fun s => dmemCause ((s.core c).dataAddr ra imm) n)
    (fun s => s.modCore c (fun k =>
      let a := k.dataAddr ra imm
      { k with dmem := memWrites k.dmem a (leBytes n (k.s rd).toNat) }.merge .dmem a n))

def execLw (c : Nat) (e : EllEnd) (rd ra : BitVec 5) (imm : BitVec 16) (s : State) : Out := s.loadOp c e rd ra imm 4

def execLbu (c : Nat) (e : EllEnd) (rd ra : BitVec 5) (imm : BitVec 16) (s : State) : Out := s.loadOp c e rd ra imm 1

def execSw (c : Nat) (e : EllEnd) (rd ra : BitVec 5) (imm : BitVec 16) (s : State) : Out := s.storeOp c e rd ra imm 4

def execSb (c : Nat) (e : EllEnd) (rd ra : BitVec 5) (imm : BitVec 16) (s : State) : Out := s.storeOp c e rd ra imm 1

/-! Control transfers -/

/-- The number of active levels whose body ends at the program counter, outermost first. -/
def Core.endingLevel (k : Core) : Option Nat :=
  (List.range 4).find? (fun l =>
    let x := k.loops.getD l LoopLevel.idle
    x.active && x.last == k.pc)

/-- The precise cause of a taken transfer to parcel `t`: BAD_TARGET where no ell starts (05 R145), LOOP_NEST in the end
ell of an active body (R148). -/
def Core.jumpCause (k : Core) (t : Nat) : Option Cause :=
  if !(k.starts.contains t) then some { code := 0x02, info := trapInfo 0 0 t }
  else if k.inHandler then none
  else k.endingLevel.map (fun l => { code := 0x04, info := trapInfo 0 0 l })

/-- Take a transfer: the target ell issues at i + 3 (05 R155). -/
def Core.jump (k : Core) (t : Nat) : Core := k.modEll (fun l => { l with target := some t, penalty := 3 })

/-- The parcel address at a signed offset from this ell's header. -/
def Core.rel (k : Core) (off : Int) : Nat := ofSigned 32 ((k.pc : Int) + off)

/-- A conditional branch (05 R144, R155). -/
def State.branchOp (s : State) (c : Nat) (e : EllEnd) (cond : Core → Bool) (off : BitVec 16) : Out :=
  s.slotP c 0 2 noQueue e
    (fun s => if cond (s.core c) then (s.core c).jumpCause ((s.core c).rel off.toInt) else none)
    (fun s => s.modCore c (fun k => if cond k then k.jump (k.rel off.toInt) else k))

def execBeq (c : Nat) (e : EllEnd) (ra rb : BitVec 5) (off : BitVec 16) (s : State) : Out :=
  s.branchOp c e (fun k => k.s ra == k.s rb) off

def execBne (c : Nat) (e : EllEnd) (ra rb : BitVec 5) (off : BitVec 16) (s : State) : Out :=
  s.branchOp c e (fun k => k.s ra != k.s rb) off

def execBlt (c : Nat) (e : EllEnd) (ra rb : BitVec 5) (off : BitVec 16) (s : State) : Out :=
  s.branchOp c e (fun k => (k.s ra).slt (k.s rb)) off

def execBge (c : Nat) (e : EllEnd) (ra rb : BitVec 5) (off : BitVec 16) (s : State) : Out :=
  s.branchOp c e (fun k => !(k.s ra).slt (k.s rb)) off

def execBltu (c : Nat) (e : EllEnd) (ra rb : BitVec 5) (off : BitVec 16) (s : State) : Out :=
  s.branchOp c e (fun k => (k.s ra).ult (k.s rb)) off

def execBgeu (c : Nat) (e : EllEnd) (ra rb : BitVec 5) (off : BitVec 16) (s : State) : Out :=
  s.branchOp c e (fun k => !(k.s ra).ult (k.s rb)) off

/-- A jump with a link to the next ell, visible at i + 1 (05 R144, R155). -/
def State.jumpOp (s : State) (c : Nat) (e : EllEnd) (rd : BitVec 5) (t : Core → Nat) : Out :=
  s.slotP c 0 2 noQueue e (fun s => (s.core c).jumpCause (t (s.core c)))
    (fun s => s.modCore c (fun k => (k.jump (t k)).modEll (fun l => { l with link := some rd })))

def execJal (c : Nat) (e : EllEnd) (rd : BitVec 5) (off : BitVec 21) (s : State) : Out :=
  s.jumpOp c e rd (fun k => k.rel off.toInt)

def execJalr (c : Nat) (e : EllEnd) (rd ra : BitVec 5) (imm : BitVec 16) (s : State) : Out :=
  s.jumpOp c e rd (fun k => (k.s ra + sext imm).toNat)

/-! Hardware loops -/

/-- The parcel address of the ell after the one at `a`: the next start, or the end of the segment. -/
def Core.nextStart (k : Core) (a : Nat) : Nat := (k.starts.find? (fun x => decide (a < x))).getD k.segLen

/-- The end ell of the body a LOOP at this ell starts. -/
def Core.loopLast (k : Core) (imm : BitVec 16) : Nat := k.pc + imm.toNat

/-- LOOP_NEST: level `l` active, a level below it inactive, an end that lies outside the body of an enclosing level or
before the body, or a handler running (05 R147, R161). DEDUCED (log 12): the last three of these are read as the same
fault. -/
def Core.loopBad (k : Core) (l : Nat) (imm : BitVec 16) : Bool :=
  k.inHandler || (k.loops.getD l LoopLevel.idle).active || imm == 0 ||
    (k.loops.take l).any (fun x => !x.active || decide (x.last < k.loopLast imm))

/-- The precise cause of a LOOP: ILLEGAL where rd[4:2] is not 0 (05 R144); BAD_TARGET where the end of a skipped body
is no ell start (R145; DEDUCED, log 162, for the end); LOOP_NEST (R147). -/
def Core.loopCause (k : Core) (lv ra : BitVec 5) (imm : BitVec 16) : Option Cause :=
  let l := bits lv 0 2
  if bits lv 2 3 != 0 then some (illegal 0)
  else if k.loopBad l imm then some { code := 0x04, info := trapInfo 0 0 l }
  else if k.s ra == 0 && !(k.starts.contains (k.loopLast imm)) then
    some { code := 0x02, info := trapInfo 0 0 (k.loopLast imm) }
  else none

/-- LOOP: a count of 0 skips the body as a taken branch does; a count c runs it c times (05 R147). -/
def execLoop (c : Nat) (e : EllEnd) (lv ra : BitVec 5) (imm : BitVec 16) (s : State) : Out :=
  s.slotP c 0 2 noQueue e (fun s => (s.core c).loopCause lv ra imm)
    (fun s => s.modCore c (fun k =>
      if k.s ra == 0 then k.jump (k.nextStart (k.loopLast imm))
      else k.modEll (fun x => { x with loop := some (bits lv 0 2, (k.s ra).toNat, k.loopLast imm) })))

/-- LIDX: the index of a level, 0 when it is inactive (05 R144, R148). -/
def execLidx (c : Nat) (e : EllEnd) (rd : BitVec 5) (imm : BitVec 16) (s : State) : Out :=
  s.scalarOpIf c e (bits imm 2 14 != 0) rd 1 (fun k => BitVec.ofNat 32 (k.loopIdx (bits imm 0 2)))

/-! Control registers -/

/-- The numbers of R156's map are 0x00 to 0x0C; any other number, and a non-zero imm16[15:8], is reserved (05 R146). -/
def badCtl (imm : BitVec 16) : Bool := decide (imm.toNat > 0x0C)

/-- The value a CRR reads in its issue cycle (05 R155, R156). -/
def State.ctlRead (s : State) (c n : Nat) : Word :=
  let k := s.core c
  match n with
  | 0x00 => k.ctl.nstat.setWidth 32
  | 0x04 => k.ctl.trapCause
  | 0x05 => k.ctl.trapInfo
  | 0x08 => BitVec.ofNat 32 k.scyc
  | 0x09 => k.ctl.scycHi
  | 0x0A => BitVec.ofNat 32 c
  | 0x0B => BitVec.ofNat 32 s.moduleId
  | 0x0C => BitVec.ofNat 32 (loopst k.loops)
  | _ => k.ctl.rwValue n

/-- CRR: samples the register in cycle i; reading SCYC_LO latches SCYC_HI (05 R155, R156). -/
def execCrr (c : Nat) (e : EllEnd) (rd : BitVec 5) (imm : BitVec 16) (s : State) : Out :=
  s.slotP c 0 2 noQueue e (fun _ => if badCtl imm then some (illegal 0) else none)
    (fun s =>
      let v := s.ctlRead c imm.toNat
      s.modCore c (fun k =>
        let k := k.later 2 false (.sreg rd v)
        if imm.toNat = 0x08 then { k with ctl := { k.ctl with scycHi := BitVec.ofNat 32 (k.scyc / 2 ^ 32) } } else k))

/-- A write of a control register, visible at i + 2 (05 R146, R155). -/
def State.ctlOp (s : State) (c : Nat) (e : EllEnd) (imm : BitVec 16) (t : Core → Target) : Out :=
  s.slotP c 0 2 noQueue e (fun _ => if badCtl imm then some (illegal 0) else none)
    (fun s => s.modCore c (fun k => k.later 2 false (t k)))

def execCrw (c : Nat) (e : EllEnd) (ra : BitVec 5) (imm : BitVec 16) (s : State) : Out :=
  s.ctlOp c e imm (fun k => .ctlWrite imm.toNat (k.s ra))

def execCrs (c : Nat) (e : EllEnd) (ra : BitVec 5) (imm : BitVec 16) (s : State) : Out :=
  s.ctlOp c e imm (fun k => .ctlSet imm.toNat (k.s ra))

def execCrc (c : Nat) (e : EllEnd) (ra : BitVec 5) (imm : BitVec 16) (s : State) : Out :=
  s.ctlOp c e imm (fun k => .ctlClear imm.toNat (k.s ra))

/-- TPW: tile-parameter entry rd[3:0] := rb × 2^32 + ra; rd[4] must be 0 (05 R144, R155). -/
def execTpw (c : Nat) (e : EllEnd) (rd ra rb : BitVec 5) (s : State) : Out :=
  s.slotP c 0 2 noQueue e (fun _ => if bitOf rd 4 then some (illegal 0) else none)
    (fun s => s.modCore c (fun k => k.later 2 false (.tpar (bits rd 0 4) (k.s rb ++ k.s ra))))

/-! Traps -/

/-- TRAP: SWTRAP, taken after the ell issues, with TRAP_INFO := imm16 as its detail (05 R158, R159). -/
def execTrap (c : Nat) (e : EllEnd) (imm : BitVec 16) (s : State) : Out :=
  s.slot c 0 2 noQueue e
    (fun s => s.modCore c (fun k => k.modEll (fun l => { l with swtrap := some (trapInfo 0 0 imm.toNat) })))

/-- ERET: return from a trap when the ell has issued (05 R155, R159). DEDUCED (log 47). -/
def execEret (c : Nat) (e : EllEnd) (s : State) : Out :=
  s.slot c 0 2 noQueue e (fun s => s.modCore c (fun k => k.modEll (fun l => { l with eret := true })))

/-- HALT stops issue after its ell (05 R162). -/
def execHalt (c : Nat) (e : EllEnd) (s : State) : Out :=
  s.slot c 0 2 noQueue e (fun s => s.modCore c (fun k => k.modEll (fun l => { l with halt := true })))

end Sys2Proof.Machine
end

