-- ==== Sys2Proof/Machine/Service.lean ====
section
/-!
DEFINITION. Bring-up, resets, fatal errors and their dump, firmware and repair (15 R404 to R420, R424, R425; 01 R26, R29,
R32, R33; 13 R369).
-/

namespace Sys2Proof.Machine

/-! The fatal dump (R415, R416) -/

/-- A record: its header and its body, padded to 16 bytes. -/
def dumpRecord (type core ctx : Nat) (body : List Byte) : List Byte :=
  leBytes 2 type ++ leBytes 2 core ++ leBytes 2 ctx ++ [0, 0] ++ leBytes 8 body.length ++ padBlock body

/-- The logical cores that are present and available. -/
def State.coreList (s : State) : List Nat := (List.range (2 * s.coresPerDie)).filter s.hasCore

/-- Whether a core's context is context 0 or has given debug consent. -/
def State.dumpsTenant (s : State) (c : Nat) : Bool :=
  match (s.core c).owner with
  | some f => f == 0 || (s.ctx f).consent
  | none => false

/-- The causes recorded on a halt as they stand in the word of TRAP_CAUSE (05 R161, R162): the first in bits 7 to 0, and every one by
number from bit 16 on. DEDUCED (log 123). -/
def recordedCauses (cs : List Byte) : Word :=
  BitVec.ofNat 32 ((cs.headD 0).toNat + 2 ^ 16 * ((List.range 16).foldl (fun a i => a + b2n (cs.contains (BitVec.ofNat 8 i)) * 2 ^ i) 0))

/-- The body of a core record. Scalar registers show as zero where the core's context has not consented, and where it is unowned, a
scrubbed core or one whose scrub is in progress (07 R210). Causes recorded on a halt stand in the word of TRAP_CAUSE. -/
def State.coreDump (s : State) (c : Nat) : List Byte :=
  let k := s.coreNow c
  let hidden := !s.dumpsTenant c
  let sreg := fun (r : Nat) => if hidden then (0 : Word) else k.s (BitVec.ofNat 5 r)
  let ctl := fun (n : Nat) =>
    match n, k.fatalRec with
    | 4, some (x :: xs) => recordedCauses (x :: xs)
    | _, _ => (s.setCore c k).ctlRead c n
  slice ((List.range 13).flatMap (fun n => bytesOf (ctl n) 4) ++ leBytes 4 k.pc ++
    slice (Config.dumpLoops (k.loops.map (fun l => (l.count, l.index)))) 0 32 ++
    (List.range 32).flatMap (fun r => bytesOf (sreg r) 4) ++
    slice (Config.dumpQueues k.eng.loadQ.length k.eng.storeQ.length k.arr.queue.length) 0 8) 0 256

/-- Scratchpad, data memory and vector registers of a core. -/
def State.tenantDump (s : State) (c : Nat) : List Byte :=
  let k := s.core c
  let q := k.settle (k.spadQ.foldl (fun m w => max m w.cyc) 0 + 1)
  memReads q.spad 0 spadSize ++ memReads k.dmem 0 dmemSize ++
    (List.range 32).flatMap (fun r => bytesOf (k.v (BitVec.ofNat 5 r)) 256)

/-- The register record's body. -/
def State.blockDump (s : State) : List Byte :=
  s.barBytes 0 0x6000 ++ s.barBytes 0x6000 0x2000 ++ s.barBytes 0x10000 0x2000 ++ s.barBytes 0x40000 151552

/-- The owner of a core as a record names it. -/
def State.dumpOwner (s : State) (c : Nat) : Nat := (s.core c).owner.getD 0xFFFF

/-- The core records. -/
def State.coreRecords (s : State) : List (List Byte) := s.coreList.map (fun c => dumpRecord 2 c (s.dumpOwner c) (s.coreDump c))

/-- Every record in writing order; `cores` are the core records, which show the cores as the error found them. -/
def State.dumpRecords (s : State) (cores : List (List Byte)) : List (List Byte) :=
  let cs := s.coreList
  let own := s.dumpOwner
  [dumpRecord 1 0xFFFF 0xFFFF s.blockDump] ++ cores ++
  (List.range 4).map (fun n => dumpRecord 3 0xFFFF 0xFFFF (slice (Config.mpDump s.fresh n) 0 8192)) ++
  [dumpRecord 4 0xFFFF 0xFFFF (slice (Config.mpDump s.fresh 4) 0 65536)] ++
  (cs.filter s.dumpsTenant).map (fun c => dumpRecord 5 c (own c) (s.tenantDump c))

/-- The records that fit in n bytes, those after the first that does not fit left out, and whether one was. -/
def dumpFit : Nat → List (List Byte) → List (List Byte) × Bool
  | _, [] => ([], false)
  | n, r :: rs =>
    if r.length > n then ([], true)
    else
      let q := dumpFit (n - r.length) rs
      (r :: q.1, q.2)

/-- The dump's header. -/
def State.dumpHeader (s : State) (rs : List (List Byte)) (total : Nat) (trunc : Bool) : List Byte :=
  let h := s.hub
  let tenant := rs.any (fun r => leAt r 0 2 == 5)
  slice (leBytes 4 0x504D4457 ++ leBytes 2 1 ++ leBytes 2 128 ++ leBytes 8 total ++ leBytes 2 s.moduleId ++
    leBytes 1 s.chn.straps.sysId.toNat ++ [h.stepping, h.cause, BitVec.ofNat 8 (b2n trunc + 2 * b2n tenant), 0, 0] ++
    leBytes 4 h.causeMask.toNat ++ leBytes 4 rs.length ++ leBytes 8 h.fatalChain ++ leBytes 4 h.fw.hubV.toNat ++
    leBytes 4 h.fw.mpV.toNat ++ leBytes 1 (b2n h.slotB) ++ List.replicate 15 0 ++ leBytes 16 keyId.toNat) 0 128

/-- Write the records of a dump into the registered buffer, or set NONE and owe it. The header comes last, when the dump ends
(R415); a write that fails ends the dump without one and sets FAILED (log 141). -/
def State.writeDump (s : State) (cores : List (List Byte)) : State :=
  let recs := s.dumpRecords cores
  let len := s.hub.dumpLen.toNat
  let need := 128 + 96 + (recs.headD []).length
  if len < need then { s with hub := { s.hub with dumpSt := 8, dumpOwed := true, fatalShown := true } }
  else
    let fit := dumpFit (len - 224) recs
    let body := fit.1.flatMap id
    let q := s.signed (s.dumpHeader fit.1 (224 + body.length) fit.2 ++ body)
    let base := s.hub.dumpBase.toNat
    match Config.writeCut s.fresh base q.2.length with
    | none =>
      let s := q.1.hostWrite 0 true (base + 128) (q.2.drop 128)
      { s with hub := { s.hub with
        dumpLeft := some (base, q.2.take 128, BitVec.ofNat 4 (1 + 2 * b2n fit.2)), dumpSt := 0, dumpOwed := false } }
    | some n =>
      let s := q.1.hostWrite 0 true (base + 128) ((q.2.drop 128).take n)
      { s with hub := { s.hub with dumpSt := BitVec.ofNat 4 (4 + 2 * b2n fit.2), dumpOwed := false, fatalShown := true } }

/-- A dump in progress ends: its header is written, and FATAL is set (R414, R415). Until then a reset stops it (R421). DESIGN CHOICE
(log 144): it ends with the tick. -/
def State.endDump (s : State) : State :=
  match s.hub.dumpLeft with
  | none => s
  | some (a, h, st) =>
    { s.hostWrite 0 true a h with hub := { s.hub with dumpSt := st, dumpLeft := none, fatalShown := true } }

/-- HUB_DUMP_BASE_WRITE. DESIGN CHOICE (log 35): the write of the high half registers the buffer, and an owed dump is then
written. -/
def execHubDumpBaseWrite (hi : Bool) (v : Word) (s : State) : Out :=
  s.mmio (fun s =>
    let b := s.hub.dumpBase
    let s := { s with hub := { s.hub with
      dumpBase := if hi then putBits b 32 32 v.toNat else putBits b 0 32 (v.toNat / 4096 * 4096) } }
    if hi && s.hub.dumpOwed && s.hub.fatal then s.writeDump s.coreRecords else s)

/-! Fatal errors (R413, R414) -/

/-- Every port that is not down stops. -/
def State.stopPorts (s : State) : State :=
  let up := (List.range 32).filter (fun p => (s.port p).st != 0)
  up.foldl (fun s p =>
    let x := s.port p
    let s := s.setPort p { x with
      st := 0, cwLock := false, frameLock := false, partnerFar := false, farReq := false, missed := 0, outOfSeq := 0
      expSlot := none, naks := [], resendQ := [], outQ := [], lastHeard := none, retrain := false, rxBytes := [], rxSlot := 0
      rxQ := [], txSlot := 50, txBytes := [], retQ := [], downCount := satAdd x.downCount 1 }
    { s with lnk := { s.lnk with portEvt := s.lnk.portEvt ||| BitVec.ofNat 32 (2 ^ p) } }) s

/-- ABORT to the participants of every admitted or active run. -/
def State.abortActive (s : State) : State :=
  s.runs.foldl (fun s p => if p.2.holdsUnits then s.sendAbort p.2 6 else s) s

/-- End every run with a status: its RUN is a command that is pending, also where the run has been pre-empted. -/
def State.endAll (s : State) (st : Nat) (host : Bool) : State := s.runs.foldl (fun s p => s.finishRun p.1 st host) s

/-- Loads in progress are dropped; the commands that wait for them complete with ABORTED. -/
def State.dropLoads (s : State) (host : Bool) : State :=
  let s := if host then
      s.ing.copies.foldl (fun s p => p.2.waiters.foldl (fun s w => s.loadDone w.1 w.2 6 0) s) s
    else s
  { s with ing := s.ing.keep (fun p => !p.2.loading) }

/-- Kills in progress end, and their commands complete with ABORTED (R414). -/
def State.dropKills (s : State) : State :=
  s.ctxs.foldl (fun s p =>
    match p.2.kill with
    | none => s
    | some k =>
      let s := (s.killEnd p.1).modCtx p.1 (fun x => { x with kill := none })
      k.cmds.foldl (fun s c => s.complete 0 0x14 6 c 0 0 0 0) s) s

/-- The compute-die and hogshead rails are off: their stores are lost. -/
def State.railsOff (s : State) : State :=
  { s with
    cores := kmap (fun _ (k : Core) => { Core.reset with owner := k.owner, available := k.available }) s.cores
    hg := kmap (fun _ (_ : Hogshead) => Hogshead.reset) s.hg }

/-- A fatal error, in the order of R414. HUB_STATUS.FATAL is set last, when the dump has ended. A further cause is only added to
CAUSE_MASK. -/
def State.fatal (s : State) (cause : Byte) : State :=
  let s := { s with hub := { s.hub with causeMask := s.hub.causeMask ||| BitVec.ofNat 16 (2 ^ cause.toNat) } }
  if s.hub.fatal then s
  else
    let s := { s with hub := { s.hub with
      cause := cause, fatalChain := s.chn.count, warming := false, fwState := if s.hub.fwState = 3 then 2 else s.hub.fwState } }
    let off := fun (s : State) => if cause = 1 || cause = 4 then s.railsOff else s
    let cores := (off s).coreRecords
    let s := if portsStop cause then s.stopPorts else s
    let s := off ((s.abortActive.endAll 6 true).dropLoads true).dropKills
    { s.writeDump cores with hub := { (s.writeDump cores).hub with fatal := true } }

/-- FATAL_ERROR: a cause of R413. -/
def execFatalError (cause : Byte) (s : State) : Out :=
  if decide (cause.toNat = 0) || decide (cause.toNat > 8) then .fault .noSuchUnit
  else if !s.board.loadOn then .next s
  else .next (s.fatal cause)

/-- PLL_UNLOCK. -/
def execPllUnlock (s : State) : Out := .next (if s.board.loadOn then s.fatal 3 else s)

/-- RAIL_FAULT. -/
def execRailFault (s : State) : Out := .next (if s.board.loadOn then s.fatal 4 else s)

/-! Firmware (R408, R418, R419, R424) -/

/-- The management processors restart: no handler runs. -/
def State.restartMps (s : State) : State := { s with evc := { s.evc with mps := [] } }

/-- The ROM restarts the previous slot: REVERTED. -/
def State.revertTrial (s : State) : State :=
  { s with hub := { s.hub with slotB := !s.hub.slotB, fwState := 5, trialOk := false } }.restartMps

/-- MP_WATCHDOG: fatal, but on trial the previous slot is restarted (R413, R418). -/
def execMpWatchdog (s : State) : Out :=
  .next (if !s.board.loadOn then s else if s.hub.fwState = 4 then s.revertTrial else s.fatal 6)

/-- A compressed key as an uncompressed one; none where its x-coordinate is not on the curve (R408). -/
def decompress (key : List Byte) : Option (List Byte) :=
  let x := beNat (slice key 1 48)
  let r := powGo p384 ((x * x * x + (p384 - 3) * x + b384) % p384) ((p384 + 1) / 4) 384 1
  let y := if decide (r % 2 = 1) == bitOf (key.headD 0) 0 then r else (p384 - r) % p384
  if (key.headD 0 == 2 || key.headD 0 == 3) && onCurve x y then some (keyBytes (x, y)) else none

/-- The layout of a firmware image. -/
def imageOk (bs : List Byte) : Bool :=
  decide (256 ≤ bs.length) && decide (bs.length ≤ 16777216) && leAt bs 0 4 == 0x57465457 && leAt bs 4 2 == 1 &&
    leAt bs 0x10 8 + 256 == bs.length && (slice bs 0x79 39).all (fun b => b == 0)

/-- Key, signature, body hash and security version. -/
def imageTrusted (floor : Nat) (bs : List Byte) : Bool :=
  let key := slice bs 0x48 49
  let body := bs.drop 256
  sha384 key == Config.firmwareKeyHash && sha384 body == BitVec.ofNat 384 (beNat (slice bs 0x18 48)) &&
    decide (floor ≤ leAt bs 6 2) &&
    match decompress key with
    | some pub => ecdsaVerify pub (sha384 (bs.take 160 ++ body)) (slice bs 0xA0 96)
    | none => false

/-- The status of a stage: MALFORMED, SIGNATURE or OK. -/
def stageStatus (floor : Nat) (bs : List Byte) : Nat :=
  if !imageOk bs then 2 else if !imageTrusted floor bs then 4 else 0

/-- Whether HUB_FW_CTRL acts: also in recovery, not after a fatal error (R409, R425). -/
def State.fwActs (s : State) : Bool := s.board.loadOn && s.pwr.st != 4 && !s.hub.fatal

/-- Whether a staging may begin or go on: not while an activation is pending or on trial (log 36). -/
def State.stages (s : State) : Bool := s.fwActs && s.hub.fwState != 3 && s.hub.fwState != 4

/-- Staging begins: STATE is 1, and `fwPrev` keeps the state to which a failed stage returns (log 36). -/
def State.beginStage (s : State) : State :=
  if s.stages && s.hub.fwState != 1 then { s with hub := { s.hub with fwState := 1, fwPrev := s.hub.fwState } } else s

/-- A stage that fails leaves the inactive slot as it was and reports why. -/
def State.stageFailed (s : State) (code : Byte) : State :=
  { s with hub := { s.hub with fwState := s.hub.fwPrev, fwCode := code } }

/-- STAGE: `img` is the image as read. It is read, verified and written to the inactive slot. -/
def execStage (img : Dma) (s : State) : Out :=
  if !s.stages then .next s
  else
    let s := s.beginStage
    match img with
    | none => .next (s.dmaFailed.stageFailed 6)
    | some bs =>
      let bs := slice bs 0 s.hub.stageLen.toNat
      let st := stageStatus s.hub.floorSvn.toNat bs
      if st != 0 then .next (s.stageFailed (BitVec.ofNat 8 st))
      else
        let slot : FwSlot :=
          { valid := true, image := bs, svn := BitVec.ofNat 16 (leAt bs 6 2), hubV := BitVec.ofNat 32 (leAt bs 8 4)
            mpV := BitVec.ofNat 32 (leAt bs 12 4) }
        let h := s.hub
        let h := if h.slotB then { h with fwA := slot, aOk := true } else { h with fwB := slot, bOk := true }
        .next { s with hub := { h with fwState := 2, fwCode := 0 } }

/-- ACTIVATE: ignored unless an image is staged. -/
def execActivate (s : State) : Out :=
  .next (if s.fwActs && s.regsAct && s.hub.fwState = 2 then { s with hub := { s.hub with fwState := 3 } } else s)

/-- FW_CANCEL: a pending activation is withdrawn. -/
def execFwCancel (s : State) : Out :=
  .next (if s.fwActs && s.regsAct && s.hub.fwState = 3 then { s with hub := { s.hub with fwState := 2 } } else s)

/-- RAISE_FLOOR: the floor rises to the active SVN after TRIAL_OK. -/
def execRaiseFloor (s : State) : Out :=
  .next (if s.fwActs && s.regsAct && s.hub.trialOk then
    { s with hub := { s.hub with
      floorSvn := BitVec.ofNat 16 (max s.hub.floorSvn.toNat s.hub.fw.svn.toNat) } } else s)

/-- FIRMWARE_ACTIVATION: with no run active the processors restart from the staged slot on trial; a pending repair comes
first (R418). -/
def execFirmwareActivation (s : State) : Out :=
  if s.hub.fwState != 3 || s.hub.fatal || !s.activeRuns.isEmpty || bitOf s.hub.repairSt 0 then .next s
  else
    .next ({ s with hub := { s.hub with
      slotB := !s.hub.slotB, fwState := 4, trialOk := false, trialAt := s.chn.count } }.restartMps)

/-- TRIAL_TIMEOUT: 1 s, 200,000,000 ticks, without TRIAL_OK. -/
def execTrialTimeout (s : State) : Out :=
  .next (if s.hub.fwState = 4 && decide (s.hub.trialAt + 200000000 ≤ s.chn.count) then s.revertTrial else s)

/-- TRIAL_OK: the trial ends well. DEDUCED (log 37): the active-slot record then names the new slot. -/
def execTrialOk (s : State) : Out :=
  .next (if s.hub.fwState = 4 then
    { s with hub := { s.hub with trialOk := true, fwState := 0, activeRec := s.hub.slotB } } else s)

/-- DUTY_SPLIT_APPLY (13 R369). -/
def execDutySplitApply (s : State) : Out :=
  .next (if s.activeRuns.isEmpty then { s with hub := { s.hub with splitAct := s.hub.splitMode } } else s)

/-! Repair (01 R29, R32, R33; 15 R411, R420) -/

/-- Physical rows of a die that hold clusters in the grade. -/
def State.gridRows (s : State) : Nat := s.coresPerDie / 32

/-- The logical column at a physical site of a row, if one is there. -/
def Hub.columnAt (h : Hub) (die row site : Nat) : Option Nat :=
  match h.mappedSite die row with
  | none => if site < 8 then some site else none
  | some p => if site < p then some site else if site = p then none else some (site - 1)

/-- The number of a logical cluster. -/
def State.clusterOf (s : State) (die row col : Nat) : Nat := die * (s.coresPerDie / 4) + row * 8 + col

/-- Map out a site: through the row's spare, or, where that is in use, as an unavailable cluster. -/
def State.mapOut (s : State) (die row site : Nat) : State :=
  match s.hub.mappedSite die row with
  | none => { s with hub := { s.hub with repairMap := s.hub.repairMap ++ [(die, row, site)] } }
  | some _ =>
    match s.hub.columnAt die row site with
    | none => s
    | some c =>
      let n := s.clusterOf die row c
      if s.hub.unavail.contains n || row ≥ s.gridRows then s
      else { s with hub := { s.hub with unavail := s.hub.unavail ++ [n] } }

/-- The clusters that change physical site when a site is mapped out. -/
def State.movedClusters (s : State) (die row site : Nat) : List Nat :=
  match s.hub.mappedSite die row with
  | some _ => []
  | none => if row ≥ s.gridRows then [] else ((List.range 8).filter (fun c => decide (site ≤ c))).map (s.clusterOf die row)

/-- HUB_REPAIR_REQ: the fields are stored, and GO submits them. A place that does not exist or a site already mapped out is
refused. REWRITING stands until the rewrites of an earlier repair are complete. -/
def execHubRepairReq (v : Word) (s : State) : Out :=
  s.mmio (fun s =>
    let busy := bitOf s.hub.repairSt 0
    let s := { s with hub := { s.hub with repairReq := v &&& 0x1FF } }
    let die := bits v 0 1
    let row := bits v 1 4
    let site := bits v 5 4
    if !bitOf v 31 || busy then s
    else
      let going := s.hub.repairSt &&& 0x10
      if row ≥ 9 || site ≥ 9 || s.hub.mappedSite die row == some site then { s with hub := { s.hub with repairSt := going ||| 4 } }
      else { s with hub := { s.hub with repairSt := going ||| 1, repairPend := some (die, row, site) } })

/-- Mark every code word of a stratum range as to be rewritten. -/
def Core.markStratum (k : Core) (a n : Nat) : Core :=
  (List.range ((a + n + 7) / 8 - a / 8)).foldl (fun k i => k.poison .strat (a / 8 * 8 + 8 * i)) k

/-- The rows of resident copies on a core that has moved wait to be rewritten. -/
def State.markCopies (s : State) (c : Nat) : State :=
  s.ing.copies.foldl (fun s p =>
    p.2.strata.foldl (fun s q => if p.2.valid && q.1 == c then s.modCore c (fun k => k.markStratum q.2.1 q.2.2) else s) s) s

/-- A cluster that moves to the next site finds there the strata of the cluster that left it, or those of the spare, which
nothing has written (01 R29). -/
def State.shiftStrata (s : State) (n : Nat) (next : Bool) : State :=
  (List.range 4).foldl (fun s i =>
    let from_ := s.core (4 * (n + 1) + i)
    s.modCore (4 * n + i) (fun k => { k with
      strat := if next then from_.strat else []
      ecc := k.ecc.filter (fun x => x.mem != .strat) ++ (if next then from_.ecc.filter (fun x => x.mem == .strat) else [])
      patrol := none })) s

/-- REPAIR_APPLY: with no job left, one that is pre-empted or waits to go on included (01 R33), and no load in progress the map changes, moved clusters are scrubbed, and their stone rows
wait to be rewritten (R420). DEDUCED (log 93). -/
def execRepairApply (s : State) : Out :=
  match s.hub.repairPend with
  | none => .next s
  | some (die, row, site) =>
    if s.runs.any (fun p => p.2.holdsUnits || p.2.phase == .preempted || p.2.preempt.isSome) || s.ing.copies.any (fun p => p.2.loading) then .next s
    else
      let moved := s.movedClusters die row site
      let spare := (s.hub.mappedSite die row).isSome
      let s := (moved.foldl (fun s n => s.shiftStrata n (moved.contains (n + 1))) s).mapOut die row site
      let cs := moved.flatMap (fun n => (List.range 4).map (fun i => 4 * n + i))
      let s := cs.foldl (fun s c => (s.beginScrub c).markCopies c) s
      let st := 2 + 8 * b2n spare + 16
      .next { s with hub := { s.hub with repairSt := BitVec.ofNat 5 st, repairPend := none } }.settleRewrites

/-! Resets (R404 to R407) -/

/-- A bridge is destroyed: gated submissions that wait complete with BROKEN_OBJECT (08 R234). -/
def State.destroyBridge (s : State) (b : Nat) : State :=
  let s := s.runs.foldl (fun s p => if p.2.phase == .waiting && p.2.gate == some b then s.finishRun p.1 8 true else s) s
  let bs := kmap (fun i (y : Bridge) => if i = b then { y with enabled := false, value := false } else y) s.syn.bridges
  { s with syn := { s.syn with bridges := bs } }

def State.destroyBridges (s : State) : State := (s.syn.bridges.map (fun p => p.1)).foldl (fun s b => s.destroyBridge b) s

/-- A context reset: a kill without host writes, and the window at its reset values; a CTX_KILL in progress goes on to its end
(R405). DEDUCED (log 97). -/
def State.resetContext (s : State) (f : Nat) : State :=
  (s.killContext f false).modCtx f (fun x => { Ctx.reset with enabled := x.enabled, kill := x.kill })

/-- MSI-X state of a function as a function-level reset leaves it. -/
def State.resetMsix (s : State) (f : Nat) : State :=
  { s with evc := { s.evc with
    msix := s.evc.msix.filter (fun p => p.1 / 256 != f), msixCtl := kdel s.evc.msixCtl f
    msixPend := s.evc.msixPend.filter (fun p => p.1 != f) } }

/-- CONTEXT_RESET: function-level reset of VF f, absorbed into a warm reset that is in progress (R405). -/
def execContextReset (f : Nat) (s : State) : Out :=
  if f = 0 || f > 512 then .fault .noSuchUnit
  else .next (if s.hub.warming then s else (s.resetContext f).resetMsix f)

/-- Every context that has state. -/
def State.liveCtxs (s : State) : List Nat :=
  (List.range 513).filter (fun f => (kfind s.ctxs f).isSome || s.runs.any (fun p => p.2.ctx == f) ||
    s.cores.any (fun p => p.2.owner == some f) || s.ing.copies.any (fun p => p.2.waiters.any (fun w => w.1 == f)))

def State.resetContexts (s : State) : State := s.liveCtxs.foldl (fun s f => s.resetContext f) s

/-- VF Enable cleared: no tenant function is enabled (13 R342). -/
def State.vfsOff (s : State) : State :=
  { s with
    hub := { s.hub with vfs := 0 }
    ctxs := kmap (fun _ (x : Ctx) => { x with enabled := false }) s.ctxs }

/-- PF_FUNCTION_LEVEL_RESET, absorbed into a warm reset that is in progress (R405). -/
def execPfFunctionLevelReset (s : State) : Out :=
  if s.hub.warming then .next s else
  let s := s.resetContexts.vfsOff.destroyBridges
  .next { s with evc := { s.evc with msix := [], msixCtl := [], msixPend := [] } }

/-- Bytes of a die that lie in a resident copy. -/
def State.inCopy (s : State) (d a : Nat) : Bool :=
  s.ing.copies.any (fun p => p.2.hogs.any (fun h => h.1 == d && decide (h.2.1 ≤ a) && decide (a < h.2.1 + h.2.2)))

/-- The stores after the scrubs of a warm reset: every core, and the dies outside resident copies. -/
def State.scrubAll (s : State) : State :=
  { s with
    cores := kmap (fun _ (k : Core) => { k.scrubbed with owner := none, scrubBusy := false }) s.cores
    ellSaved := []
    hg := kmap (fun d (h : Hogshead) =>
      let h := h.flush
      { h with
        mem := h.mem.filter (fun p => s.inCopy d p.1), bad := h.bad.filter (fun p => s.inCopy d p.1), holder := none
        mask := 0, scrub := [], retries := 0 }) s.hg }

/-- The dies of the grade become READY. -/
def State.hogsReady (s : State) : State :=
  [0, 1].foldl (fun s d => if s.hgPresent d then s.modHog d (fun h => { h with ready := true }) else s) s

/-- What a warm reset does to the module, but for the restart of the processors (R404; 12 R333). -/
def State.warmEffects (s : State) : State :=
  let s := (s.resetContexts.destroyBridges.dropLoads false).scrubAll
  let cs := kmap (fun _ (k : Copy) => { k with refcount := 0, waiters := [] }) s.ing.copies
  { s with
    ing := { s.ing with copies := cs }
    ctxs := kmap (fun _ (x : Ctx) => { x with kill := none }) s.ctxs
    evc := { Evc.reset with msix := s.evc.msix, msixCtl := s.evc.msixCtl, msixPend := s.evc.msixPend }
    hub := { s.hub with
      splitMode := 0, splitAct := 0, dumpBase := 0, dumpLen := 0, dumpSt := 0, dumpOwed := false, dumpLeft := none, fatal := false, fatalShown := false, cause := 0
      causeMask := 0 } }

/-- A warm or cold reset during staging leaves the slot marked invalid, and no image is staged any more (R419). -/
def Hub.spoilStaging (h : Hub) : Hub :=
  let back := if h.fwPrev = 2 then 0 else h.fwPrev
  if h.fwState != 1 then h
  else if h.slotB then { h with fwA := { h.fwA with valid := false }, aOk := false, fwState := back }
  else { h with fwB := { h.fwB with valid := false }, bOk := false, fwState := back }

def State.spoil (s : State) : State := { s with hub := s.hub.spoilStaging }

/-- The slot that the ROM boots: the one that the record names, else the other; none where neither is accepted (R409). -/
def Hub.romSlot (h : Hub) : Option Bool :=
  let ok := fun (b : Bool) => if b then h.bOk else h.aOk
  if ok h.activeRec then some h.activeRec else if ok (!h.activeRec) then some (!h.activeRec) else none

/-- The crossings are to be calibrated before the module is READY (12 R327). -/
def State.needCal (s : State) : State :=
  { s with pwr := { s.pwr with calDue := true, xcal := [] }, hub := { s.hub with ready := false } }

/-- The processors restart from the active slot: a firmware on trial, which is not in the record yet, gives way (R404, R418). -/
def State.endTrial (s : State) : State := if s.hub.fwState = 4 then s.revertTrial else s.restartMps

/-- A warm reset, absorbed before the boot ROM has run and into one that is in progress (R405). From recovery the ROM tries the slots again; from Off it powers the
dies as EXIT_OFF does. READY reads 0 until the crossings have been calibrated (R406; 12 R327). DEDUCED (log 140). -/
def State.warmReset (s : State) : State :=
  if s.hub.bootStage.toNat < 5 || s.hub.warming || (s.hub.fatal && portsStop s.hub.cause) then s
  else
    let s := s.spoil.warmEffects.toActive.endTrial.hogsReady
    if s.hub.bootStage = 6 then
      match s.hub.romSlot with
      | none => s
      | some b => { s with hub := { s.hub with bootStage := 5, slotB := b, fallback := b != s.hub.activeRec } }.needCal
    else { s with hub := { s.hub with bootStage := 5, warming := true } }.needCal

/-- WARM_RESET. -/
def execWarmReset (s : State) : Out := .next (if s.board.loadOn then s.warmReset else s)

/-- HUB_RESET_WARM, ignored after a fatal error whose recovery is a cold reset (R425). -/
def execHubResetWarm (s : State) : Out := .next (if s.board.loadOn then s.warmReset else s)

/-- What a cold reset clears: everything but OTP and non-volatile memory (R404). The host's memory, what the device has sent,
the board's supply and the commands that wait are not the device's state. -/
def State.coldCleared (s : State) : State :=
  let h := s.hub.spoilStaging
  { State.reset with
    pending := s.pending, fresh := s.fresh, hostMem := s.hostMem, msi := s.msi, tx := s.tx, board := s.board
    ing := { Ing.reset with anchors := s.ing.anchors, revList := s.ing.revList }
    hub := { Hub.reset with
      grade := s.hub.grade, stepping := s.hub.stepping, fwA := h.fwA, fwB := h.fwB, activeRec := s.hub.activeRec
      floorSvn := s.hub.floorSvn, repairMap := s.hub.repairMap, rowMap := s.hub.rowMap, unavail := s.hub.unavail } }

/-- HUB_RESET_COLD: all is cleared, and the boot that follows is the event COLD_RESET (log 38). -/
def execHubResetCold (s : State) : Out :=
  if !s.board.loadOn then .next s
  else
    let t := s.coldCleared
    .next { t with chn := { t.chn with straps := s.chn.straps, strapsOk := s.chn.strapsOk } }

/-- The straps as sampled (10 R270, R271). -/
def State.sampleStraps (s : State) (st : Straps) : State :=
  let ok := decide (st.grp.toNat ≤ 32) && (st.mgr == (st.mbr == 0))
  { s with chn := { s.chn with straps := st, strapsOk := ok, event := if ok then s.chn.event else s.chn.event ||| 2 } }

/-- The failed rows of one array that are not mapped out yet are added to its map (R411). -/
def Hub.addRow (h : Hub) (f : FailedRow) : Hub :=
  let k := arrayKey f.die f.row f.site f.core
  let out := kget [] h.rowMap k
  if f.die ≥ 2 || f.row ≥ 9 || f.site ≥ 9 || f.core ≥ 4 || f.prow ≥ 66 || out.contains f.prow then h
  else { h with rowMap := kset h.rowMap k (out.filter (fun p => decide (p < f.prow)) ++ [f.prow] ++ out.filter (fun p => decide (f.prow < p))) }

/-- The sites that hold an array with three or more failed rows (01 R28). -/
def Hub.worseSites (h : Hub) : List (Nat × Nat × Nat) :=
  ((h.rowMap.filter (fun p => decide (p.2.length ≥ 3))).map (fun p => (p.1 / 324, p.1 / 36 % 9, p.1 / 4 % 9))).eraseDups

/-- The self-test's outcome: an array with one or two failed rows is repaired at row level, and a worse one or any other
failure maps out its cluster (01 R26, R28, R29; R411, R424). -/
def State.selfTest (s : State) (bf : BootFindings) : State :=
  let before := s.hub.repairMap.length
  let rows := s.hub.rowRepairs
  let s := { s with hub := bf.rows.foldl Hub.addRow s.hub }
  let sites := bf.sites.filter (fun r => decide (r.1 < 2) && decide (r.2.1 < 9) && decide (r.2.2 < 9)) ++
    (s.hub.worseSites.filter (fun r => !s.hub.repairMap.contains r))
  let s := sites.eraseDups.foldl (fun s r => s.mapOut r.1 r.2.1 r.2.2) s
  let fresh := s.hub.rowRepairs - rows
  let clean := sites.isEmpty && fresh == 0
  let pass := bf.hubPass && (clean || Config.bistPass fresh sites.length)
  { s with hub := { s.hub with
    bist := BitVec.ofNat 32 (1 + 2 * b2n pass + 4 * min fresh 255 +
      2 ^ 10 * min (s.hub.repairMap.length - before) 63 + 2 ^ 16 * min s.hub.unavail.length 63 + 2 ^ 22 * b2n (!bf.hubPass)) } }

/-! Calibration (12 R322, R326, R327) -/

/-- A crossing's contract covers the least latency found for it, at every step. -/
def calFits (ls : List Nat) : Bool :=
  (List.range 192).all (fun i => decide (ls.getD i 0 ≤ Config.xcalShare (i / 4) (i % 4)))

/-- L and pad of each directed crossing at each step. -/
def calTable (ls : List Nat) : KMap (BitVec 9) :=
  (List.range 192).foldl (fun m i =>
    let l := ls.getD i 0
    kset m (i / 4 + 64 * (i % 4)) (BitVec.ofNat 9 (l % 16 + 16 * ((Config.xcalShare (i / 4) (i % 4) - l) % 16) + 256))) []

/-- Bring-up fails: STAGE is FAILED, READY is 0 and the fault is a fatal cause (R410). -/
def State.bootFailed (s : State) (cause : Byte) : State :=
  { s with hub := { s.hub with bootStage := 7, ready := false, boot := none } }.fatal cause

/-- Calibration finds these latencies; a crossing beyond its share is fatal and bring-up does not complete. -/
def State.calibrate (s : State) (ls : List Nat) : State :=
  let s := { s with hub := { s.hub with warming := false } }
  if calFits ls then { s with pwr := { s.pwr with xcal := calTable ls, calDue := false } }
  else { s with pwr := { s.pwr with event := s.pwr.event ||| 0x40, calDue := false, xcal := [] } }.bootFailed 8

/-- Whether the ROM accepts a slot that reads back well: it is marked valid, and its image passes the checks of R409. The delivered
image is a good one (log 2). -/
def FwSlot.accepted (w : FwSlot) (floor : Nat) : Bool :=
  w.valid && decide (floor ≤ w.svn.toNat) && (decide (w.image = Config.factoryImage) || (imageOk w.image && imageTrusted floor w.image))

/-- The ROM has read and verified the slots: it boots one, or the module enters recovery (R409). Self-test runs at every cold reset
(R411). -/
def State.bootVerify (s : State) (bf : BootFindings) : State :=
  let h := s.hub
  let h := { h with
    aOk := bf.slotAOk && h.fwA.accepted h.floorSvn.toNat, bOk := bf.slotBOk && h.fwB.accepted h.floorSvn.toNat }
  match h.romSlot with
  | none => { s with hub := { h with bootStage := 6, slotB := h.activeRec, boot := none } }.selfTest bf
  | some b => { s with hub := { h with bootStage := 2, slotB := b, fallback := b != h.activeRec } }

/-- The regions are calibrated (R410). Where that fails the self-test's outcome stands all the same (R411). -/
def State.bootCalibrate (s : State) (bf : BootFindings) : State :=
  if calFits bf.cal then
    let s := s.calibrate bf.cal
    { s with hub := { s.hub with bootStage := 3 } }
  else (s.selfTest bf).calibrate bf.cal

/-- The self-test has ended (R410, R411). -/
def State.bootTest (s : State) (bf : BootFindings) : State :=
  let s := s.selfTest bf
  if bf.hubPass then { s with hub := { s.hub with bootStage := 4 } } else s.bootFailed 5

/-- The cold tier has been trained and refreshed, and the module is READY (R410). -/
def State.bootReady (s : State) : State :=
  { s with hub := { s.hub with bootStage := 5, ready := true, boot := none } }.hogsReady

/-- What a tick of a cold start brings, by the ticks since t0: the slots are read from 1 ms and verified by 30 ms, then come
calibration, from 30.4 ms the self-test, from 78 ms the cold tier, and READY at 100 ms (R410). DEDUCED (log 38). -/
def State.bootStep (s : State) (bf : BootFindings) : State :=
  let n := s.hub.bootTk + 1
  let s := { s with hub := { s.hub with bootTk := n } }
  if n = 200000 then { s with hub := { s.hub with bootStage := 1 } }
  else if n = 6000000 then s.bootVerify bf
  else if n = 6080000 then s.bootCalibrate bf
  else if n = 15600000 then s.bootTest bf
  else if n = 20000000 then s.bootReady
  else s

/-- COLD_RESET: power-on or PERST#, at t0 (log 38): everything is cleared, the straps are sampled and the ROM starts. A load that is
off comes on again only with ENABLE mated and an input that has stayed in range for 10 ms, 2,000,000 ticks (16 R429, R430). -/
def execColdReset (st : Straps) (bf : BootFindings) (s : State) : Out :=
  if !s.board.loadOn && !(bf.enable && decide (2000000 ≤ s.board.vinTk)) then .next s
  else
    let s := (s.coldCleared).sampleStraps st
    .next { s with
      hub := { s.hub with
        boot := some bf, pcieRate := BitVec.ofNat 2 Config.pcieRate.val, pcieWidth := BitVec.ofNat 5 (4 * 2 ^ Config.pcieWidth.val)
        flit := Config.pcieRate == 2 }
      board := { s.board with loadOn := true, pwrOk := true } }

/-- HUB_CORE_RESET: a core that a run occupies halts with ABORTED, its run's objects break everywhere and the run ends at
the next boundary; then, and at once where no run occupies it, the core is scrubbed and left unowned (R407).
DEDUCED (log 92). -/
def execHubCoreReset (v : Word) (s : State) : Out :=
  let c := bits v 0 10
  if !bitOf v 31 || !s.regsAct || s.hub.fatal || s.hub.warming || !s.hasCore c || (s.core c).resetDue then .next s
  else
    let k := s.core c
    match s.runOf c with
    | some (r, x) =>
      let s := { s.modCore c (fun k => { k.landed with
          ctl := { k.landed.ctl with exitst := 0x06 }, halted := true, ell := none, hold := .free, resetDue := true }) with
        ellSaved := kdel s.ellSaved c }
      .next (((s.endRunExit c 0x06).breakRun r).toParticipants x 7 [])
    | none =>
      if k.scrubBusy then .next s
      else .next ((s.beginScrub c).modCore c (fun k => { k with preempted := false }))

end Sys2Proof.Machine
end

