-- ==== Sys2Proof/Machine/Board.lean ====
section
/-!
DEFINITION. The board: supply, SMBus target and JTAG (16 R429 to R441; 15 R423; 13 R341). PRESUMED (log 43): the bits of
STATUS_INPUT, STATUS_TEMPERATURE, STATUS_CML and STATUS_WORD are those of PMBus 1.3.
-/

namespace Sys2Proof.Machine

/-! Supply (R430, R433) -/

/-- Change the board. -/
def State.modBoard (s : State) (f : Board → Board) : State := { s with board := f s.board }

/-- Bits of STATUS_INPUT for an input above or below its range. -/
def Board.vinBit (b : Board) (high low : Byte) : Byte := if b.tele.vin > 60 then high else low

/-- The load is off: whatever the module held is lost, and nothing more is written. -/
def State.loadOff (s : State) : State :=
  s.coldCleared.modBoard (fun b => { b with loadOn := false, pwrOk := false, vinTk := 0 })

/-- INPUT_EXCURSION: an excursion of at most 100 µs sets the VIN warning only. -/
def execInputExcursion (s : State) : Out :=
  .next (s.modBoard (fun b => { b with stInput := b.stInput ||| b.vinBit 0x40 0x20 }))

/-- INPUT_SUPPLY: a longer one is fatal, and then the load is switched off. DEDUCED (log 94). -/
def execInputSupply (s : State) : Out :=
  let s := s.modBoard (fun b => { b with stInput := b.stInput ||| b.vinBit 0xC0 0x30 })
  if !s.board.loadOn then .next s
  else
    let t := (s.fatal 2).endDump
    let u := t.loadOff
    .next { u with hub := { u.hub with
      fatal := true, fatalShown := true, cause := t.hub.cause, causeMask := t.hub.causeMask, fatalChain := t.hub.fatalChain } }

/-- LOAD_LOSS: no manifest, completion or dump is written. -/
def execLoadLoss (s : State) : Out := .next s.loadOff

/-- MALFORMED_TLP: reported through AER (13 R341), sources 32 and 33. PRESUMED (log 102). -/
def execMalformedTlp (correctable : Bool) (s : State) : Out :=
  if !s.board.loadOn then .next s
  else if correctable then .next { s with hub := { s.hub with aerCorr := true } }
  else .next { s with hub := { s.hub with aerUncorr := true } }

/-! SMBus (R439, R440) -/

/-- Answer an SMBus read. -/
def State.answer (s : State) (v : BitVec 16) : State := { s with pmbusOut := some v }

def State.answerByte (s : State) (b : Byte) : State := s.answer (b.setWidth 16)

/-- A status byte: read, or bits cleared by a write of 1. -/
def State.statusByte (s : State) (clear : Option Byte) (get : Board → Byte) (set : Board → Byte → Board) : State :=
  match clear with
  | none => s.answerByte (get s.board)
  | some v => { s.modBoard (fun b => set b (get b &&& ~~~v)) with pmbusOut := none }

/-- SMBALERT# is asserted. -/
def Board.alert (b : Board) : Bool := b.stInput != 0 || b.stTemp != 0

/-- CAPABILITY. -/
def execCapability (s : State) : Out := .next (s.answerByte 0xB0)

/-- STATUS_WORD: the summary of the status bytes. -/
def execStatusWord (s : State) : Out :=
  let b := s.board
  .next (s.answer (BitVec.ofNat 16 (2 * b2n (b.stCml != 0) + 4 * b2n (b.stTemp != 0) + 8 * b2n (bitOf b.stInput 4) +
    2 ^ 13 * b2n (b.stInput != 0))))

/-- STATUS_INPUT. -/
def execStatusInput (clear : Option Byte) (s : State) : Out :=
  .next (s.statusByte clear (fun b => b.stInput) (fun b v => { b with stInput := v }))

/-- STATUS_TEMPERATURE. -/
def execStatusTemperature (clear : Option Byte) (s : State) : Out :=
  .next (s.statusByte clear (fun b => b.stTemp) (fun b v => { b with stTemp := v }))

/-- STATUS_CML. -/
def execStatusCml (clear : Option Byte) (s : State) : Out :=
  .next (s.statusByte clear (fun b => b.stCml) (fun b v => { b with stCml := v }))

/-- READ_VIN. -/
def execReadVin (s : State) : Out := .next (s.answer (Config.linear11 s.board.tele.vin))

/-- READ_IIN. -/
def execReadIin (s : State) : Out := .next (s.answer (Config.linear11 s.board.tele.iin))

/-- READ_PIN: as PWR_POWER[15:0]. -/
def execReadPin (s : State) : Out := .next (s.answer (Config.linear11 s.board.tele.power10ms))

/-- READ_TEMPERATURE_1: the hottest compute region. -/
def execReadTemperature1 (s : State) : Out := .next (s.answer (Config.linear11 s.board.tele.hottest))

/-- READ_TEMPERATURE_2: the hub core region. -/
def execReadTemperature2 (s : State) : Out := .next (s.answer (Config.linear11 s.board.tele.hubCore))

/-- READ_TEMPERATURE_3: the coolant outlet. -/
def execReadTemperature3 (s : State) : Out := .next (s.answer (Config.linear11 s.board.tele.coolant))

/-- MFR_STEP_CAP: a write acts as a lowered PWR_STEP.MAX does, at the next moment with no run active. -/
def execMfrStepCap (write : Option Byte) (s : State) : Out :=
  match write with
  | none => .next (s.answerByte (s.capInForce.setWidth 8))
  | some v =>
    let m : BitVec 2 := v.setWidth 2
    let s := { s.settleBounds with pmbusOut := none }
    if s.activeRuns.isEmpty then
      .next { s with pwr := { s.pwr with mfrCap := m, mfrPend := none } }
    else .next { s with pwr := { s.pwr with mfrPend := some m } }

/-- MFR_STATE. -/
def execMfrState (s : State) : Out :=
  .next (s.answerByte (BitVec.ofNat 8 (s.pwr.st.toNat + 8 * b2n s.hub.fatalShown + 16 * b2n s.board.pwrOk)))

/-- The codes of R439. -/
def pmbusCodes : List Nat := [0x19, 0x79, 0x7C, 0x7D, 0x7E, 0x88, 0x89, 0x97, 0x8D, 0x8E, 0x8F, 0xD0, 0xD1]

/-- UNSUPPORTED_COMMAND: NAKed and recorded in STATUS_CML, as is a command whose packet error check fails. A code of R439 that
is checked well is not one. -/
def execUnsupportedCommand (code : Byte) (badPec : Bool) (s : State) : Out :=
  if badPec then .next { s.modBoard (fun b => { b with stCml := b.stCml ||| 0x20 }) with pmbusOut := none }
  else if pmbusCodes.contains code.toNat then .next s
  else .next { s.modBoard (fun b => { b with stCml := b.stCml ||| 0x80 }) with pmbusOut := none }

/-! JTAG (15 R423). The instructions are numbered 0 EXTEST, 1 IDCODE, 2 SAMPLE/PRELOAD, 3 BYPASS (log 5). -/

/-- BYPASS: one bit shifts through the bypass register. -/
def execBypass (tdi : Bool) (s : State) : Out := .next (s.modBoard (fun b => { b with jtagIr := 3, jtagDr := [tdi] }))

/-- IDCODE's 32 bits. -/
def State.idcode (s : State) : Word :=
  BitVec.ofNat 32 (1 + 2 * Config.manufacturerId.toNat + 2 ^ 12 * (if s.hub.grade = 0 then 0x540A else 0x540B) +
    2 ^ 28 * b2n (s.hub.stepping == 0xB0))

/-- IDCODE: captured for shifting out, bit 0 first. -/
def execIdcode (s : State) : Out :=
  .next (s.modBoard (fun b => { b with jtagIr := 1, jtagDr := (List.range 32).map (fun i => bitOf s.idcode i) }))

/-- SAMPLE/PRELOAD: the pins are captured. -/
def execSamplePreload (pins : List Bool) (s : State) : Out :=
  .next (s.modBoard (fun b => { b with jtagIr := 2, jtagDr := pins }))

/-- EXTEST: the boundary register drives the pins. -/
def execExtest (pins : List Bool) (s : State) : Out :=
  .next (s.modBoard (fun b => { b with jtagIr := 0, jtagDr := pins, pinsOut := pins }))

end Sys2Proof.Machine
end

