-- ==== Sys2Proof/Machine/Doorbells.lean ====
section
/-!
DEFINITION. Doorbells, ring enabling, and the event controller with its entry and exit sequences (13 R347, R350 to R353, R370
to R377, R380, R381).
-/

namespace Sys2Proof.Machine

/-! Doorbells (R349, R350) -/

/-- Whether function f reaches its doorbell page and window: it is enabled, and the module is powered, not in Off and not in
recovery (R342; 12 R333; 15 R409). -/
def State.reachable (s : State) (f : Nat) : Bool := s.regsAct && s.ctxEnabled f

/-- A doorbell that is not accepted: counted and reported. -/
def State.doorbellError (s : State) (f off : Nat) (v : Word) : State :=
  (s.modCtx f (fun x => { x with dbErr := satAdd x.dbErr 1 })).postEvent f 0x06 0 0xFFFF 0 (off % 4096 + 2 ^ 32 * v.toNat)

/-- Distance around a ring. -/
def Ring.dist (r : Ring) (a b : Nat) : Nat := (a + r.size - b % r.size) % r.size

/-- Whether a tail may move to v. -/
def Ring.tailOk (r : Ring) (v : Nat) : Bool := decide (v < r.size) && decide (r.dist r.prod r.cons ≤ r.dist v r.cons)

/-- Whether a consumer head may move to v. -/
def Ring.headOk (r : Ring) (v : Nat) : Bool := decide (v < r.size) && decide (r.dist v r.cons ≤ r.dist r.prod r.cons)

/-- A doorbell of context f at an offset: `ok` accepts the value and `g` takes it. One that is accepted ends a power state (12 R335). One
written during a warm reset is accepted and not acted on (15 R406). -/
def State.doorbell (s : State) (f off : Nat) (v : Word) (ok : Ctx → Bool) (g : Ctx → Ctx) (after : State → State) : Out :=
  if f > 512 then .fault .noSuchUnit
  else if !s.reachable f || s.hub.warming then .next s
  else if (s.ctx f).ringsEn && ok (s.ctx f) then .next (after (s.modCtx f g)).wake
  else .next (s.doorbellError f off v)

/-- SQ_TAIL. -/
def execSqTail (f : Nat) (v : Word) (s : State) : Out :=
  s.doorbell f 0x000 v (fun x => x.sq.tailOk v.toNat)
    (fun x => { x with
      sq := { x.sq with prod := v.toNat }
      bells := if x.sq.prod = v.toNat then x.bells else x.bells ++ [(v.toNat, s.chn.count)] }) id

/-- Held completions are written while the CQ has room (R353). -/
def State.flushHeld (s : State) (f : Nat) : Nat → State
  | 0 => s
  | n + 1 =>
    let x := s.ctx f
    match x.held with
    | [] => s
    | e :: es => if x.cq.full then s else ((s.setCtx f { x with held := es }).cqWrite f e).flushHeld f n

/-- CQ_HEAD: space frees and held completions follow. -/
def execCqHead (f : Nat) (v : Word) (s : State) : Out :=
  s.doorbell f 0x004 v (fun x => x.cq.headOk v.toNat) (fun x => { x with cq := { x.cq with cons := v.toNat } })
    (fun s => s.flushHeld f (s.ctx f).held.length)

/-- EQ_HEAD. -/
def execEqHead (f : Nat) (v : Word) (s : State) : Out :=
  s.doorbell f 0x008 v (fun x => x.eq.headOk v.toNat) (fun x => { x with eq := { x.eq with cons := v.toNat } }) id

/-- DQ_HEAD. -/
def execDqHead (f : Nat) (v : Word) (s : State) : Out :=
  s.doorbell f 0x00C v (fun x => x.dq.headOk v.toNat) (fun x => { x with dq := { x.dq with cons := v.toNat } }) id

/-! RINGS_EN (R347, R379) -/

/-- Whether a context has a run or a command in progress. -/
def State.busyCtx (s : State) (f : Nat) : Bool :=
  !(s.ctxRuns f).isEmpty || s.ing.copies.any (fun p => p.2.waiters.any (fun w => w.1 == f)) ||
    (f == 0 && (s.runs.any (fun p => p.2.preempt.any (fun q => q.saved == 0)) || s.ctxs.any (fun p => p.2.kill.isSome)))

/-- An empty ring in its first pass. -/
def Ring.restart (r : Ring) : Ring := { r with prod := 0, cons := 0, phase := true }

/-- A write of CTX_CTRL.RINGS_EN: setting it restarts the rings and ends RING_ERR; a clear waits for the context to be idle. -/
def State.writeRingsEn (s : State) (f : Nat) (en : Bool) : State :=
  let x := s.ctx f
  if en && !x.ringsEn then
    (s.setCtx f { x with
      ringsEn := true, ringErr := false, sq := x.sq.restart, bells := [], cq := x.cq.restart, eq := x.eq.restart
      dq := x.dq.restart }).flushHeld f x.held.length
  else if !en && x.ringsEn && !s.busyCtx f then s.setCtx f { x with ringsEn := false }
  else s

/-- RINGS_EN. -/
def execRingsEn (f : Nat) (v : Word) (s : State) : Out :=
  if f > 512 then .fault .noSuchUnit
  else .next (if s.reachable f then s.writeRingsEn f (bitOf v 0) else s)

/-! Sources (R370 to R374, R380, R381) -/

/-- Whether a source belongs to the physical function. -/
def pfOwned (src : Nat) : Bool := !(decide (257 ≤ src) && decide (src ≤ 768))

/-- A host source leaves service. -/
def State.leaveService (s : State) (src : Nat) : State :=
  if bitOf (s.tgt src) 1 then { s with evc := { s.evc with insvc := s.evc.insvc.filter (fun x => x != src) } } else s

/-- Set a source's software bit. DEDUCED (log 88). -/
def State.softSet (s : State) (src : Nat) : State :=
  if isSource src && !s.evc.sw.contains src then { s with evc := { s.evc with sw := s.evc.sw ++ [src] } } else s

/-- CTX_IRQ_ACK. -/
def execCtxIrqAck (f : Nat) (v : Word) (s : State) : Out :=
  if f > 512 then .fault .noSuchUnit
  else .next (if s.reachable f && bitOf v 0 then s.leaveService (256 + f) else s)

/-- CTX_IRQ_TEST. -/
def execCtxIrqTest (f : Nat) (v : Word) (s : State) : Out :=
  if f > 512 then .fault .noSuchUnit
  else .next (if s.reachable f && bitOf v 0 then s.softSet (256 + f) else s)

/-- EVC_HACK: a PF-owned source. -/
def execEvcHack (v : Word) (s : State) : Out :=
  s.mmio (fun s => if pfOwned (bits v 0 10) then s.leaveService (bits v 0 10) else s)

/-- EVC_SWSET: word w of the bitmap. -/
def execEvcSwset (w : Nat) (v : Word) (s : State) : Out :=
  if w ≥ 32 then .fault .noSuchUnit
  else s.mmio (fun s => (List.range 32).foldl (fun s k => if bitOf v k then s.softSet (32 * w + k) else s) s)

/-- A source is no longer counted towards a delivery. -/
def State.uncount (s : State) (src : Nat) : State :=
  { s with evc := { s.evc with counted := s.evc.counted.filter (fun x => x != src) } }

/-- A write of EVC_TGT: target fields change only while ENABLE is 0, a VF's source has vector 0, and clearing ENABLE withdraws
the source. -/
def State.writeTgt (s : State) (src : Nat) (v : Word) : State :=
  let v := v &&& 0x3FFF
  let old := s.tgt src
  if !pfOwned src && bits v 8 6 != 0 then s
  else if bitOf old 0 && bits v 1 13 != bits old 1 13 then s
  else
    let s := { s with evc := { s.evc with tgt := kset s.evc.tgt src v } }
    if bitOf v 0 then s
    else ({ s with evc := { s.evc with insvc := s.evc.insvc.filter (fun x => x != src) } }).uncount src

/-- EVC_TGT. -/
def execEvcTgt (src : Nat) (v : Word) (s : State) : Out :=
  if src ≥ 1023 then .fault .noSuchUnit else s.mmio (fun s => s.writeTgt src v)

/-! Moderation and delivery (R373, R374) -/

/-- The target of a source: the vector of the owning function, or a management processor. -/
def State.target (s : State) (src : Nat) : EvTarget :=
  let t := s.tgt src
  if !bitOf t 1 then .mp (bits t 2 2) else if pfOwned src then .pf (bits t 8 6) else .vf (src - 256)

/-- The moderation of a target. -/
def State.moder (s : State) (t : EvTarget) : Moder :=
  match t with
  | .mp n => s.mpMod n
  | .pf v => s.hMod v
  | .vf f => (s.ctx f).moder

def State.setModer (s : State) (t : EvTarget) (m : Moder) : State :=
  match t with
  | .mp n => { s with evc := { s.evc with mpmod := kset s.evc.mpmod n m } }
  | .pf v => { s with evc := { s.evc with hmod := kset s.evc.hmod v m } }
  | .vf f => s.modCtx f (fun x => { x with moder := m })

/-- SOURCE_PENDING: a source becomes pending and its target counts it; one of a management processor ends a power state (12 R335). -/
def execSourcePending (src : Nat) (s : State) : Out :=
  if !s.evPending src || s.evc.counted.contains src then .next s
  else
    let t := s.target src
    let m := s.moder t
    let s := s.setModer t { m with count := m.count + 1, firstAt := some (m.firstAt.getD s.chn.count) }
    let s := match t with | .mp _ => s.wake | _ => s
    .next { s with evc := { s.evc with counted := s.evc.counted ++ [src] } }

/-- WITHDRAWN: a counted source has lost level and software bit and is pending no longer. -/
def execWithdrawn (src : Nat) (s : State) : Out := .next (if s.evPending src then s else s.uncount src)

/-- Sources that can be pending: numbers below 1,023. -/
def allSources : List Nat := List.range 1023

/-- The pending sources of a target. -/
def State.pendingOf (s : State) (t : EvTarget) : List Nat :=
  allSources.filter (fun src => s.evPending src && s.target src == t)

/-- A management processor, at first in thread code. -/
def State.mp (s : State) (n : Nat) : Mp := kget Mp.reset s.evc.mps n

/-- Whether a target is idle. -/
def State.idleTarget (s : State) (t : EvTarget) : Bool :=
  match t with
  | .mp n => (s.mp n).stack.isEmpty
  | _ => !s.evc.insvc.any (fun src => s.target src == t)

/-- Whether a delivery is due: the count, the time in µs of 200 ticks, or an idle target. -/
def State.due (s : State) (t : EvTarget) : Bool :=
  let m := s.moder t
  let time := bits m.reg 8 16
  decide (bits m.reg 0 8 ≤ m.count) || (time != 0 && m.firstAt.any (fun a => decide (a + 200 * time ≤ s.chn.count))) ||
    (bitOf m.reg 24 && s.idleTarget t && decide (1 ≤ m.count))

/-- Function and vector of a host target. -/
def vectorOf (t : EvTarget) : Nat × Nat :=
  match t with
  | .vf f => (f, 0)
  | .pf v => (0, v)
  | .mp _ => (0, 0)

/-- Whether a vector's message is held back: the vector or its function is masked, or MSI-X is not enabled there (R374).
PRESUMED (log 102). -/
def State.msixHeld (s : State) (fv : Nat × Nat) : Bool :=
  bitOf (s.msixWord fv.1 (4 * fv.2 + 3)) 0 || bits (s.msixControl fv.1) 30 2 != 2

/-- Send an MSI-X message; one that is held back stays pending (R343, R374). -/
def State.sendMsix (s : State) (fv : Nat × Nat) : State :=
  if s.msixHeld fv then
    { s with evc := { s.evc with
      msixPend := if s.evc.msixPend.contains fv then s.evc.msixPend else s.evc.msixPend ++ [fv] } }
  else { s with msi := fv :: s.msi, evc := { s.evc with msgCount := satAdd s.evc.msgCount 1 } }

/-- Sources enter service: their software bits clear and they are counted no longer. -/
def State.service (s : State) (srcs : List Nat) : State :=
  { s with evc := { s.evc with
    insvc := s.evc.insvc ++ srcs
    sw := s.evc.sw.filter (fun x => !srcs.contains x)
    counted := s.evc.counted.filter (fun x => !srcs.contains x) } }

/-! Entry and exit (R375 to R377) -/

/-- Priority of a source. -/
def State.prio (s : State) (src : Nat) : Nat := bits (s.tgt src) 4 4

/-- Whether source a ranks above source b. -/
def State.above (s : State) (a b : Nat) : Bool :=
  decide (s.prio a < s.prio b) || (s.prio a == s.prio b && decide (a < b))

/-- The highest-ranked pending source of a processor. -/
def State.best (s : State) (n : Nat) : Option Nat :=
  (s.pendingOf (.mp n)).foldl (fun b src =>
    match b with
    | none => some src
    | some x => if s.above src x then some src else some x) none

/-- The priority that runs at the top of a stack; thread code ranks below every source. -/
def runningPrio (st : List (Nat × Nat)) : Nat :=
  match st with
  | [] => 16
  | (_, p) :: _ => p

/-- Whether a pending source of a processor ranks above the state that a stack leaves running. -/
def State.outranks (s : State) (n : Nat) (st : List (Nat × Nat)) : Bool :=
  (s.best n).any (fun src => decide (s.prio src < runningPrio st))

def State.setMp (s : State) (n : Nat) (m : Mp) : State := { s with evc := { s.evc with mps := kset s.evc.mps n m } }

/-- The processor runs the top of a stack: its level's frame is selected, and it fetches at an address (R375, R377). -/
def State.setStack (s : State) (n : Nat) (st : List (Nat × Nat)) (rs : List MpRecord) (a : Word) : State :=
  s.setMp n { stack := st, entering := false, chaining := false, records := rs, frame := st.length, fetch := a }

/-- DELIVERY: a due delivery resets the count. A host delivery sends its message and takes every pending source of the target
into service; with none it sends nothing. At a management processor it starts the entry sequence where the processor is idle or
the source ranks above the handler that runs, up to 16 levels (R374, R375). -/
def execDelivery (t : EvTarget) (s : State) : Out :=
  if !s.board.loadOn || !s.due t then .next s
  else
    let srcs := s.pendingOf t
    let s := s.setModer t { s.moder t with count := 0, firstAt := none }
    match t with
    | .mp n =>
      let m := s.mp n
      .next (if s.outranks n m.stack && !m.chaining && decide (m.stack.length < 16) then
        s.setMp n { m with entering := true } else s)
    | _ => if srcs.isEmpty then .next s else .next ((s.sendMsix (vectorOf t)).service srcs)

/-- The handler address of a source, as a processor reads it from its vector table (R375). -/
def State.vector (s : State) (n src : Nat) : Word := Config.mpVector s.hub.fw.mpV n src

/-- A claim at a level above `below`, whose return records are `rs`: the highest-ranked pending source, or the spurious number where
none is pending, and its handler's address. -/
def State.claim (s : State) (n : Nat) (below : List (Nat × Nat)) (rs : List MpRecord) : State :=
  match s.best n with
  | some src => (s.service [src]).setStack n ((src, s.prio src) :: below) rs (s.vector n src)
  | none =>
    let p := (Config.spuriousPrio s.fresh).toNat
    let s := { s with fresh := s.fresh + 1, evc := { s.evc with spurious := satAdd s.evc.spurious 1 } }
    s.setStack n ((0x3FF, p) :: below) rs (s.vector n 0x3FF)

/-- The return record that an entry writes for its level: where the processor stands and the priority that it runs at (R375). -/
def State.returnRecord (s : State) (n : Nat) : MpRecord :=
  let p := Config.mpState s.fresh
  { resume := p.1, status := p.2, prio := runningPrio (s.mp n).stack }

/-- ENTRY_SEQUENCE: an entry that a delivery has started has written its return record and reaches cycle 10, in which the
highest-ranked source that is then pending is claimed, be it the one that started the entry or not (R375, R376). -/
def execEntrySequence (mp : Nat) (s : State) : Out :=
  if mp ≥ 4 then .fault .noSuchUnit
  else if !(s.mp mp).entering then .next s
  else
    let r := s.returnRecord mp
    .next ({ s with fresh := s.fresh + 1 }.claim mp (s.mp mp).stack (r :: (s.mp mp).records))

/-- EXIT_SEQUENCE: the handled source leaves service, and the processor goes on at the resume address of its return record. Where a pending request ranks above the state returned to, the exit ends
in a chain sequence, and the next EXIT_SEQUENCE is its claim, which takes the level of the handler that has ended (R377).
No handler returns while an entry above it is in progress. -/
def execExitSequence (mp : Nat) (s : State) : Out :=
  if mp ≥ 4 then .fault .noSuchUnit
  else
    let m := s.mp mp
    match m.stack with
    | [] => .next s
    | (src, _) :: below =>
      if m.chaining then .next (s.claim mp below m.records)
      else if m.entering then .next s
      else
        let s := { s with evc := { s.evc with insvc := s.evc.insvc.filter (fun x => x != src) } }
        .next (if s.outranks mp below then s.setMp mp { m with chaining := true } 
          else s.setStack mp below (m.records.drop 1) ((m.records.map (fun r => r.resume)).headD 0))

end Sys2Proof.Machine
end

