-- ==== Sys2Proof/Machine/Engine.lean ====
section
/-!
DEFINITION. The load and store slots and the engines' run-ahead queues (06 R168, R170 to R176, R182; 07 R187, R204,
R205).
-/

namespace Sys2Proof.Machine

/-! Issue (06 R172, R173) -/

def loadFull : Core → Bool := fun k => decide (k.eng.loadQ.length ≥ 8)
def storeFull : Core → Bool := fun k => decide (k.eng.storeQ.length ≥ 8)

/-- An operation with its copies of descriptors, row, source register and digest epoch taken at issue (R168, 02 R59). -/
def Core.engOp (k : Core) (kind : EngKind) (h dst : BitVec 8) (row : Nat) (reg : BitVec 5) (bank : Nat) : EngOp :=
  { kind := kind, issued := k.scyc, src := k.operand h, dst := k.operand dst, row := row, reg := reg, bank := bank,
    data := k.v reg, epoch := k.dig.issued }

/-- The row r := (imm16 + s(rs)) mod 2^32. -/
def Core.rowOf (k : Core) (rs : BitVec 5) (imm : BitVec 16) : Nat := (imm.toNat + (k.s rs).toNat) % 2 ^ 32

def State.loadSlot (s : State) (c : Nat) (e : EllEnd) (f : Core → EngOp) : Out :=
  s.slot c 3 3 loadFull e (fun s => s.modCore c (fun k => { k with eng := { k.eng with loadQ := k.eng.loadQ ++ [f k] } }))

def State.storeSlot (s : State) (c : Nat) (e : EllEnd) (f : Core → EngOp) : Out :=
  s.slot c 4 3 storeFull e (fun s =>
    s.modCore c (fun k => { k with eng := { k.eng with storeQ := k.eng.storeQ ++ [f k] } }))

def execLdv (c : Nat) (e : EllEnd) (h : BitVec 8) (vd rs : BitVec 5) (imm : BitVec 16) (s : State) : Out :=
  s.loadSlot c e (fun k => k.engOp .ldv h h (k.rowOf rs imm) vd 0)

def execLds (c : Nat) (e : EllEnd) (h dst : BitVec 8) (s : State) : Out :=
  s.loadSlot c e (fun k => k.engOp .lds h dst 0 0 0)

def execLdb (c : Nat) (e : EllEnd) (h : BitVec 8) (rs : BitVec 5) (imm : BitVec 16) (bank : BitVec 2) (s : State) : Out :=
  s.loadSlot c e (fun k => k.engOp .ldb h h (k.rowOf rs imm) 0 bank.toNat)

/-- CTRL keeps only its RW fields (R164). -/
def dwrMask (w : Nat) (v : Word) : Word := if w = 0 then v &&& 0x3F7 else v

/-- Word indices 24 to 31 are reserved (R172); the entry is seen by operations issued in the next cycle (R168). -/
def execDwr (c : Nat) (e : EllEnd) (h : BitVec 8) (rs widx : BitVec 5) (s : State) : Out :=
  s.slotP c 3 3 noQueue e (fun _ => if widx.toNat ≥ 24 then some (illegal 3) else none)
    (fun s => s.modCore c (fun k =>
      k.later 1 false (.descWord h widx.toNat (dwrMask widx.toNat (k.s rs)))))

/-- BASE := (BASE + s(rs)) mod 2^32. -/
def execDadd (c : Nat) (e : EllEnd) (h : BitVec 8) (rs : BitVec 5) (s : State) : Out :=
  s.slot c 3 3 noQueue e (fun s => s.modCore c (fun k =>
    k.later 1 false (.descWord h 2 (BitVec.ofNat 32 (Desc.base (k.desc h)) + k.s rs))))

def execStv (c : Nat) (e : EllEnd) (h : BitVec 8) (va rs : BitVec 5) (imm : BitVec 16) (s : State) : Out :=
  s.storeSlot c e (fun k => k.engOp .stv h h (k.rowOf rs imm) va 0)

def execSts (c : Nat) (e : EllEnd) (h dst : BitVec 8) (s : State) : Out :=
  s.storeSlot c e (fun k => k.engOp .sts h dst 0 0 0)

def execStb (c : Nat) (e : EllEnd) (h : BitVec 8) (rs : BitVec 5) (imm : BitVec 16) (bank : BitVec 2) (s : State) : Out :=
  s.storeSlot c e (fun k => k.engOp .stb h h (k.rowOf rs imm) 0 bank.toNat)

/-! Occupancy and checks (R170, R172, R173, 07 R205) -/

/-- Scale bytes of an operand's rows (06 R167). -/
def Desc.scaleBytes (d : Desc) : Nat := if Desc.mx d then Desc.nrow d * (Desc.nelem d / 32) else 0

/-- Occupancy of the engine in cc (R173); 1 where the fields give none (R170). -/
def EngOp.occ (o : EngOp) : Nat :=
  let d := o.src.d
  match o.kind with
  | .ldb => 24
  | .stb => 24
  | k =>
    if Desc.fmt d == 0xF || Desc.rowBits d % 8 != 0 then 1
    else if k = .lds || k = .sts then Desc.nrow d * units (Desc.rb d) + units (Desc.scaleBytes d)
    else units (Desc.rb d)

/-- Whether the operation is the store engine's. -/
def EngKind.isStore : EngKind → Bool
  | .stv => true
  | .sts => true
  | .stb => true
  | _ => false

/-- The descriptor through which the operation writes outside the registers, if any. -/
def EngOp.writes (o : EngOp) : Option Operand :=
  match o.kind with
  | .stv => some o.src
  | .stb => some o.src
  | .sts => some o.dst
  | _ => none

/-- DESC_BOUNDS: the handle at fault (R170, R172). A copy's source is checked before its destination; a mismatch of the
two is the destination's (log 21). -/
def EngOp.bounds (o : EngOp) (g : Reach) : Option (BitVec 8) :=
  let d := o.src.d
  let n := Desc.nelem d
  let all := fun (x : Operand) (w : Bool) => x.fails g 0 (Desc.nrow x.d - 1) w (Desc.nelem x.d) false
  let copy := fun (own other : Desc) =>
    Desc.nrow own != Desc.nrow other || Desc.rb own != Desc.rb other || Desc.mx own != Desc.mx other
  match o.kind with
  | .ldv => if o.src.fails g o.row o.row false n false || decide (Desc.rb d > 256) then some o.src.h else none
  | .stv => if o.src.fails g o.row o.row true n false || decide (Desc.rb d > 256) then some o.src.h else none
  | .ldb =>
    if o.src.fails g o.row o.row false n false || Desc.fmt d != 0xE || n != 64 then some o.src.h else none
  | .stb =>
    if o.src.fails g o.row o.row true n false || Desc.fmt d != 0xE || n != 64 then some o.src.h else none
  | .lds =>
    if all o.src false then some o.src.h
    else if all o.dst true || Desc.space o.dst.d != 0 || copy d o.dst.d then some o.dst.h else none
  | .sts =>
    if all o.src false || Desc.space d != 0 then some o.src.h
    else if all o.dst true || copy d o.dst.d then some o.dst.h else none

/-- Why an operation performs no access: the cause and the handle. -/
def State.engFault (s : State) (c : Nat) (o : EngOp) : Option (Byte × BitVec 8) :=
  match o.bounds (s.reach c) with
  | some h => some (0x07, h)
  | none =>
    let w := o.writes
    match w with
    | some x => if s.writeRefused c x.d then some (0x08, x.h) else none
    | none => if Desc.space o.src.d == 3 && s.outsideRun c o.src.d then some (0x08, o.src.h) else none

/-! Effects of a start -/

/-- Write a part of a vector register in a cycle, as an operation of the load slot issued at `issued`. -/
def Core.loadReg (k : Core) (cyc issued : Nat) (r : BitVec 5) (mask v : VReg) : Core :=
  { k with pendW := pendInsert { cyc := cyc, issued := issued, late := true, tgt := .vreg r mask v } k.pendW }

/-- LDV delivers: unit j of 64 bytes at `cyc j`, and the bytes beyond the row as zeros with the first unit. -/
def Core.ldvDeliver (k : Core) (issued : Nat) (r : BitVec 5) (cyc : Nat → Nat) (bs : List Byte) : Core :=
  let v := BitVec.ofNat 2048 (leNat bs)
  let n := bs.length
  let tail : VReg := BitVec.ofNat 2048 ((2 ^ 2048 - 1) / 2 ^ (8 * n) * 2 ^ (8 * n))
  (List.range (units n)).foldl (fun k j =>
    let m : VReg := BitVec.ofNat 2048 ((2 ^ (8 * min 64 (n - 64 * j)) - 1) * 2 ^ (512 * j))
    k.loadReg (cyc j) issued r m v) (k.loadReg (cyc 0) issued r tail 0)

/-- The records of an LDB as partial sums for lanes 0 to 63, and how many of them are program errors (03 R93,
07 R187). -/
def ldbRecords (bs : List Byte) (bad : List Nat) : List (Nat × Int × Bool × Bool × Bool) × Nat :=
  let rs := (List.range 64).map (fun j =>
    if bad.any (fun o => decide (24 * j ≤ o) && decide (o < 24 * j + 24)) then (j, none, false)
    else
      match parseRecord (slice bs (24 * j) 24) with
      | some p => (j, some p, false)
      | none => (j, none, true))
  (rs.map (fun r =>
    match r.2.1 with
    | some p => (r.1, p.1, p.2.1, p.2.2.1, p.2.2.2)
    | none => (r.1, 0, false, false, true)), (rs.filter (fun r => r.2.2)).length)

def Core.doneAt (k : Core) (store : Bool) (t : Nat) : Core := if store then k.storeDoneAt t else k.loadDoneAt t

/-- One row of a copy that starts in cycle t: read, what it met reported, digest where the store engine writes it, and
write (R171, R173, 07 R187). DESIGN CHOICE (log 159): each row of an STS is a write of its own, so a logical word that two rows touch
contributes twice. -/
def State.copyRow (s : State) (c : Nat) (o : EngOp) (w : Way) (reply : Fetched) (r t : Nat) (sa da n : Nat)
    (acc digest : Bool) : State :=
  let q := s.readBytes acc w reply sa n t
  let st := o.kind.isStore
  let s := q.1.readReport c (if st then 4 else 3) o.src.h.toNat w t q.2.2
  let s := if digest && st then s.modCore c (fun k => k.addDigest o.epoch (o.dst.digest r 0 q.2.1)) else s
  let tl := if st then t + 4 else t + w.lat
  let s := s.writeBytes acc (if st then .store else .load) c o.dst.d da tl t q.2.1 q.2.2
  s.modCore c (fun k => k.doneAt st (s.writeDone c o.dst.d tl t n))

/-- The rows of a copy from row r, row r starting at cycle t. DEDUCED (log 52). -/
def State.copyRows (s : State) (c : Nat) (o : EngOp) (w : Way) (reply : Fetched) : Nat → Nat → Nat → State
  | 0, _, _ => s
  | f + 1, r, t =>
    let n := Desc.rb o.src.d
    (s.copyRow c o w reply r t (o.src.addr r 0) (o.dst.addr r 0) n true true).copyRows c o w (reply.after n) f (r + 1)
      (t + units n)

/-- The scale bytes of the rows of an MX copy, 64 a cycle from cycle t (R172, R173). DESIGN CHOICE (log 158): they are not digested.
DESIGN CHOICE (log 160): to another core's scratchpad or a stream those of each row go as grains of their own. -/
def State.copyScales (s : State) (c : Nat) (o : EngOp) (w : Way) (reply : Fetched) : Nat → Nat → Nat → Nat → State
  | 0, _, _, _ => s
  | f + 1, r, t, pos =>
    let n := Desc.nelem o.src.d / 32
    (s.copyRow c o w reply r (t + pos / 64) (o.src.scaleAddr r 0) (o.dst.scaleAddr r 0) n
      (pos % 64 == 0 || decide (pos / 64 != (pos - 1) / 64) || o.src.scaleAddr r 0 % 64 == 0) false).copyScales c o w
        (reply.after n) f (r + 1) t (pos + n)

/-- The effect of an operation that starts in cycle t and passes its check. DEDUCED (log 50). DESIGN CHOICE (log 161): the bank effect of
an LDB follows its last unit by 4 cc, wherever that comes from. -/
def State.engRun (s : State) (c : Nat) (o : EngOp) (t : Nat) (reply : Fetched) : State :=
  let d := o.src.d
  let n := Desc.rb d
  let w := s.way c d
  let h := o.src.h.toNat
  match o.kind with
  | .ldv =>
    let q := s.readBytes true w reply (o.src.addr o.row 0) n t
    let cyc := fun j => t + w.lat + w.spread j
    (q.1.modCore c (fun k => (k.ldvDeliver o.issued o.reg cyc q.2.1).loadDoneAt (cyc (units n - 1)))).readReport c 3 h w t
      q.2.2
  | .ldb =>
    let q := s.readBytes true w reply (o.src.addr o.row 0) n t
    let p := ldbRecords q.2.1 q.2.2
    let at_ := t + w.lat + w.spread 23 + 4
    let s := (q.1.modCore c (fun k => (k.bankAt o.bank at_ (.partials p.1)).loadDoneAt at_)).readReport c 3 h w t q.2.2
    s.violations c p.2
  | .lds =>
    let a := s.copyRows c o w reply (Desc.nrow d) 0 t
    if Desc.mx d then
      a.copyScales c o w (reply.after (Desc.nrow d * n)) (Desc.nrow d) 0 (t + Desc.nrow d * units n) 0
    else a
  | .sts =>
    let a := s.copyRows c o w reply (Desc.nrow d) 0 t
    if Desc.mx d then a.copyScales c o w ([], []) (Desc.nrow d) 0 (t + Desc.nrow d * units n) 0 else a
  | .stv =>
    let bs := bytesOf o.data n
    let s := s.modCore c (fun k => k.addDigest o.epoch (o.src.digest o.row 0 bs))
    let s := s.writeBytes true .store c d (o.src.addr o.row 0) (t + 4) t bs []
    s.modCore c (fun k => k.storeDoneAt (s.writeDone c d (t + 4) t n))
  | .stb =>
    let s := s.bankRun c t
    let bs := ((s.core c).bankLanes o.bank).flatMap Bushel.record
    let s := s.modCore c (fun k => (k.bankRead o.bank).addDigest o.epoch (o.src.digest o.row 0 bs))
    let s := s.writeBytes true .store c d (o.src.addr o.row 0) (t + 4) t bs []
    s.modCore c (fun k => k.storeDoneAt (s.writeDone c d (t + 4) t n))

/-- The local scratchpad reads of an operation that starts in cycle t: core, cycle, address and length of each unit. -/
def State.opReads (s : State) (c : Nat) (o : EngOp) (t : Nat) : List (Nat × Nat × Nat × Nat) :=
  let d := o.src.d
  let w := s.way c d
  let row := fun (r t0 : Nat) => (List.range (units (Desc.rb d))).map (fun j =>
    (w.core, t0 + j + w.dist, o.src.addr r 0 + 64 * j, min 64 (Desc.rb d - 64 * j)))
  if w.away || (w.sp != 0 && w.sp != 3) then []
  else
    match o.kind with
    | .stv => []
    | .stb => []
    | .ldv => row o.row t
    | .ldb => row o.row t
    | _ =>
      let n := Desc.nrow d * units (Desc.rb d)
      (List.range (Desc.nrow d)).flatMap (fun r => row r (t + r * units (Desc.rb d))) ++
        (if Desc.mx d then
          (List.range (Desc.nrow d)).map (fun r =>
            (w.core, t + n + r * (Desc.nelem d / 32) / 64 + w.dist, o.src.scaleAddr r 0, Desc.nelem d / 32))
        else [])

/-- The grain that an operation which starts in cycle t waits for, with the core to which it goes: one that writes a row it
reads, or adds to the bank that an STB samples (02 R40). -/
def State.opLate (s : State) (c : Nat) (o : EngOp) (t : Nat) : Option (Nat × Nat × Nat × Nat) :=
  if o.kind = .stb then (s.lateBank c t o.bank).map (fun g => (c, g))
  else (s.opReads c o t).findSome? (fun r => (s.lateRow r.1 r.2.1 r.2.2.1 r.2.2.2).map (fun g => (r.1, g)))

/-- Start an operation unless it waits for a grain. -/
def State.opStart (s : State) (c : Nat) (o : EngOp) (t : Nat) (go : State) : State :=
  match s.opLate c o t with
  | some g => s.await g.1 g.2
  | none => go

/-- Scratchpad writes that no read still to come precedes are made, and accesses long past are dropped. -/
def Core.tidy (k : Core) : Core :=
  let head := fun (q : List EngOp) (free : Nat) =>
    match q with
    | [] => k.scyc
    | o :: _ => max o.issued free
  let t := min k.scyc (min (head k.eng.loadQ k.eng.loadFree) (head k.eng.storeQ k.eng.storeFree))
  let array := match firstJob k.arr.jobs with
    | some x => x.1
    | none => t
  let k := k.pruneAccs (k.arr.queue.foldl (fun m o => min m o.issued) (min t array) - 1024)
  if k.arr.jobs.isEmpty && k.arr.queue.isEmpty then k.settle t else k

/-- The head of an engine's queue leaves it and occupies the engine from cycle t. -/
def Core.popOp (k : Core) (store : Bool) (t occ : Nat) : Core :=
  let k :=
    if store then { k with eng := { k.eng with storeQ := k.eng.storeQ.drop 1, storeFree := t + occ } }
    else { k with eng := { k.eng with loadQ := k.eng.loadQ.drop 1, loadFree := t + occ } }
  k.queueFreed t

/-- ENGINE_OP_START (R170, R173): the operation at the head of an engine's queue starts, at the later of its issue, the
end of the previous occupancy and the cycle of its credit. `reply` and `bad` bring the bytes of a read of another module
and the offsets of those in words that travel marked poisoned (07 R187). With an
empty queue, no active run, a stalled module, no credit or a grain still to land nothing starts (log 22; 02 R40). DEDUCED (log 61). -/
def execEngineOpStart (c : Nat) (store : Bool) (reply : List Byte) (bad : List Nat) (s : State) : Out :=
  s.coreEvent c (fun k =>
    if s.stalled || !s.running c then .next s
    else
      match (if store then k.eng.storeQ else k.eng.loadQ) with
      | [] => .next s
      | o :: _ =>
        let t := max o.issued (if store then k.eng.storeFree else k.eng.loadFree)
        match s.engFault c o with
        | some x =>
          .next ((s.modCore c (fun k => k.popOp store t o.occ)).raiseAsyncAt c x.1
            (trapInfo (if store then 4 else 3) x.2.toNat 0) t)
        | none =>
          match o.writes.bind (fun x => Desc.pool x.d) with
          | none => .next (s.opStart c o t ((s.modCore c (fun k => k.tidy.popOp store t o.occ)).engRun c o t (reply, bad)))
          | some p =>
            if k.credits p = 0 then .next s
            else
              let t := max t (k.creditAt p)
              .next (s.opStart c o t
                ((s.modCore c (fun k => (k.tidy.popOp store t o.occ).takeCredit p)).engRun c o t (reply, bad))))

end Sys2Proof.Machine
end

