-- ==== Sys2Proof/Machine/LinkControl.lean ====
section
/-!
DEFINITION. Bridges and the control of ports (08 R232 to R234, R236, R237; 09 R258, R264 to R267; 13 R369; 15 R404). A
command that writes one field of a register takes the word that is written and acts on its own field; REGISTER_WRITE acts on
all of them.
-/

namespace Sys2Proof.Machine

/-! Bridges -/

/-- Change the selected bridge. -/
def State.setBridge (s : State) (b : Nat) (y : Bridge) : State :=
  { s with syn := { s.syn with bridges := kset s.syn.bridges b y } }

/-- ENABLE: a write of SYN_BRG_CFG for the bridge that SYN_BRG_SEL names. -/
def execEnable (v : Word) (s : State) : Out :=
  s.mmio (fun s =>
    let b := s.syn.brgSel.toNat
    let y := s.bridge b
    let st := bits v 0 10
    let wt := bits v 16 10
    let good := decide (1 ≤ st) && decide (st ≤ 512) && decide (1 ≤ wt) && decide (wt ≤ 512) && st != wt
    if y.enabled then (if bitOf v 31 then s else s.destroyBridge b)
    else if !bitOf v 31 then s.setBridge b { y with setter := st, waiter := wt }
    else if good then s.setBridge b { y with setter := st, waiter := wt, enabled := true, value := false }
    else s)

/-- BRIDGE_TIMEOUT: a gated submission has waited longer than its bridge allows since the doorbell that posted it (R233); a
microsecond is 200 ticks. -/
def execBridgeTimeout (r : Nat) (s : State) : Out :=
  match s.run? r with
  | none => .fault .noSuchUnit
  | some x =>
    .next (if x.phase == .waiting && x.gate.any (fun b => decide (x.posted + 200 * (s.bridge b).timeout < s.chn.count)) then
      s.finishRun r 7 true else s)

/-! Ports -/

/-- Training begins in phase 1, with neither lock. -/
def State.beginTraining (s : State) (p : Nat) : State :=
  ((if (s.port p).st = 6 then s else s.portDown p false).modPort p (fun x =>
    { x with cwLock := false, frameLock := false, partnerFar := false, retrain := false })).portState p 1

/-- ENABLE field: 0 holds the port down. A port's reset is absorbed into a warm one (15 R405). -/
def State.ctrlEnable (s : State) (p : Nat) (v : Word) : State :=
  if s.portUsed p || s.hub.warming then s
  else if bitOf v 0 then s.modPort p (fun x => { x with enable := true })
  else ((if (s.port p).st = 6 then s.portState p 0 else s.portDown p false)).modPort p (fun x =>
    { x with enable := false, trained := false, retrainAt := none, loopSel := 0, cwLock := false, frameLock := false, partnerFar := false, retrain := false })

/-- MAINT field: rejected while a slot table uses the port. -/
def State.ctrlMaint (s : State) (p : Nat) (v : Word) : State :=
  if s.portUsed p then s else s.modPort p (fun x => { x with maint := bitOf v 6 })

/-- LOOP field: a depth of 2 to 5 puts the port in loop-back, 0 ends it and starts training; ignored unless MAINT is 1. A port that
is held down, by ENABLE 0 or a strap error (10 R271), stays down. A far-end loop is asked for and granted in control grains
(R265), so it keeps the lock on the partner; a near-end loop locks on the port's own codewords (R264). -/
def State.ctrlLoop (s : State) (p : Nat) (v : Word) : State :=
  let n := bits v 2 3
  let x := s.port p
  if s.portUsed p || !x.maint || n = 1 || n ≥ 6 || x.loopSel.toNat = n || !x.enable || !s.chn.strapsOk then s
  else if n = 0 then (s.modPort p (fun x => { x with loopSel := 0 })).beginTraining p
  else
    let near := n == 3 || n == 4
    ((if x.st = 6 then s else s.portDown p false).portState p 6).modPort p (fun y =>
      { y with
        loopSel := BitVec.ofNat 3 n
        cwLock := near || (x.cwLock && n == 5)
        frameLock := near || (x.frameLock && n == 5)
        scramble := if near then y.txScramble else x.scramble
        rxBytes := if n = 5 then x.rxBytes else [], rxSlot := if n = 5 then x.rxSlot else 0, rxQ := []
        expSlot := if n = 5 then x.expSlot else none, txSlot := 50, txBytes := [] })

/-- RETRAIN: training begins, accepted only while MAINT is 1. An active port first asks its partner to retrain in its next control
grain (R257). A port that is training absorbs it (15 R405), save that in host-assisted link training it goes on by one phase (13
R369). -/
def State.ctrlRetrain (s : State) (p : Nat) : State :=
  let x := s.port p
  if s.portUsed p || !x.maint || !x.enable || x.st = 6 || !s.chn.strapsOk || s.hub.warming then s
  else if x.active then s.modPort p (fun x => { x with retrain := true })
  else if x.st != 0 then (if bitOf s.hub.splitAct 3 then s.nextPhase p else s)
  else s.beginTraining p

/-- PORT_ENABLE. -/
def execPortEnable (port : Nat) (v : Word) (s : State) : Out :=
  if port ≥ 32 then .fault .noSuchUnit else s.mmio (fun s => s.ctrlEnable port v)

/-- RETRAIN. -/
def execRetrain (port : Nat) (s : State) : Out :=
  if port ≥ 32 then .fault .noSuchUnit else s.mmio (fun s => s.ctrlRetrain port)

/-- LOOPBACK. -/
def execLoopback (port : Nat) (v : Word) (s : State) : Out :=
  if port ≥ 32 then .fault .noSuchUnit else s.mmio (fun s => s.ctrlLoop port v)

/-- MAINT. -/
def execMaint (port : Nat) (v : Word) (s : State) : Out :=
  if port ≥ 32 then .fault .noSuchUnit else s.mmio (fun s => s.ctrlMaint port v)

/-- A whole write of LNK_CTRL: for a port that a slot table uses only ALLOW_FAR changes (R267). -/
def State.writeLnkCtrl (s : State) (p : Nat) (v : Word) : State :=
  let s := s.modPort p (fun x => { x with allowFar := bitOf v 5 })
  let s := ((s.ctrlEnable p v).ctrlMaint p v).ctrlLoop p v
  if bitOf v 1 then s.ctrlRetrain p else s

/-- LNK_CORE_LOOP: ignored for an owned core. -/
def execLnkCoreLoop (v : Word) (s : State) : Out :=
  s.mmio (fun s =>
    if (s.core (bits v 0 10)).owner.isSome then s
    else { s with lnk := { s.lnk with loopCore := BitVec.ofNat 10 (bits v 0 10), loopEn := bitOf v 15 } })

end Sys2Proof.Machine
end

