-- ==== Sys2Proof/Machine/Matrix.lean ====
section
/-!
DEFINITION. The matrix slot and the events of the matrix array (04 R118 to R130, R445; 05 R149 to R153; 06 R170, R178,
R448).
-/

namespace Sys2Proof.Machine

/-! Issue (05 R149, R151 to R153) -/

/-- The command queue holds two operations (R153). -/
def matFull : Core → Bool := fun k => decide (k.arr.queue.length ≥ 2)

/-- TP_INVALID of an entry, an operation with raw records for the result queue, or a chunk count above L (R151, R152). -/
def Core.tpCause (k : Core) (tp : BitVec 4) (outv : Bool) (cs : Nat) : Option Cause :=
  match tileOf (k.tparam tp.toNat) with
  | some p =>
    if (outv && p.of == 0xE) || decide (cs > p.lanes) then some { code := 0x05, info := trapInfo 2 0 tp.toNat } else none
  | none => some { code := 0x05, info := trapInfo 2 0 tp.toNat }

/-- An operation with its copies taken at issue (R149, 06 R168). -/
def Core.matOp (k : Core) (kind : MatKind) (tp : BitVec 4) (n cs : Nat) (mask : DWord) (start final outv : Bool)
    (sh th oh : BitVec 8) : MatOp :=
  { kind := kind, issued := k.scyc, behind := !k.arr.queue.isEmpty, tp := k.tparam tp.toNat, n := n, cs := cs,
    mask := mask, start := start, final := final, outv := outv, sd := k.operand sh, td := k.operand th,
    od := k.operand oh, epoch := k.dig.issued }

def Core.pushMat (k : Core) (o : MatOp) : Core := { k with arr := { k.arr with queue := k.arr.queue ++ [o] } }

/-- An N of 0 makes the tile do nothing (R153). -/
def execTile (c : Nat) (e : EllEnd) (tp : BitVec 4) (sh th oh : BitVec 8) (nreg : BitVec 5) (start final outv : Bool)
    (s : State) : Out :=
  s.slotP c 2 3 matFull e (fun s => (s.core c).tpCause tp outv 0)
    (fun s => s.modCore c (fun k =>
      let n := (k.s nreg).toNat
      if n = 0 then k else k.pushMat (k.matOp .tile tp n 0 0 start final outv sh th oh)))

/-- MASKREG names an even register; it holds rows 0 to 31 and the next one rows 32 to 63 (R152). -/
def execSload (c : Nat) (e : EllEnd) (tp : BitVec 4) (sh : BitVec 8) (maskreg : BitVec 5) (csm1 : BitVec 3) (s : State) :
    Out :=
  s.slotP c 2 3 matFull e
    (fun s => if bitOf maskreg 0 then some (illegal 2) else (s.core c).tpCause tp false (csm1.toNat + 1))
    (fun s => s.modCore c (fun k =>
      let mask := BitVec.ofNat 64 ((k.s maskreg).toNat + 2 ^ 32 * (k.s (maskreg + 1)).toNat)
      k.pushMat (k.matOp .sload tp 0 (csm1.toNat + 1) mask false false true sh sh sh)))

def execSwap (c : Nat) (e : EllEnd) (s : State) : Out :=
  s.slot c 2 3 matFull e (fun s => s.modCore c (fun k => k.pushMat (k.matOp .swap 0 0 0 0 false false true 0 0 0)))

def execMstream (c : Nat) (e : EllEnd) (tp : BitVec 4) (th oh : BitVec 8) (nbm1 : BitVec 6) (csm1 : BitVec 3)
    (start final outv : Bool) (s : State) : Out :=
  s.slotP c 2 3 matFull e (fun s => (s.core c).tpCause tp outv (csm1.toNat + 1))
    (fun s => s.modCore c (fun k =>
      k.pushMat (k.matOp .mstream tp (nbm1.toNat + 1) (csm1.toNat + 1) 0 start final outv th th oh)))

/-! Checks at the start (06 R170) -/

/-- Reduction positions that the operation reads of each row: K of the entry, of which an explicit operation reads its chunks
(R170). -/
def MatOp.depth (o : MatOp) (p : TileP) : Nat := if o.kind = .tile then p.k else min p.k (64 * o.cs)

def MatOp.statFails (o : MatOp) (p : TileP) (g : Reach) : Bool :=
  let d := o.sd.d
  let rows := if o.kind = .tile then p.m else p.rows
  Desc.space d != 0 || Desc.fmt d != p.sf || decide (Desc.nelem d < p.k) ||
    o.sd.fails g 0 (rows - 1) false (o.depth p) true

def MatOp.streamFails (o : MatOp) (p : TileP) (g : Reach) : Bool :=
  let d := o.td.d
  decide (Desc.space d > 1) || Desc.fmt d != p.tf || decide (Desc.nelem d < p.k) ||
    o.td.fails g 0 (o.n - 1) false (o.depth p) false

def MatOp.outFails (o : MatOp) (p : TileP) (g : Reach) : Bool :=
  let d := o.od.d
  Desc.space d == 1 || Desc.fmt d != p.of || decide (Desc.nelem d < p.m) || o.od.fails g 0 (o.n - 1) true p.m false

/-- The first handle that fails, in the order stationary, streaming, output (log 24). -/
def MatOp.badHandle (o : MatOp) (p : TileP) (g : Reach) : Option (BitVec 8) :=
  if o.kind = .tile && o.statFails p g then some o.sd.h
  else if o.streamFails p g then some o.td.h
  else if !o.outv && o.outFails p g then some o.od.h
  else none

/-- The rule of R124 is broken, or that of R125. -/
def Core.accWrong (k : Core) (o : MatOp) (p : TileP) : Bool :=
  if (!o.start || !o.final) && (decide (p.m > 64) || decide (o.n > 64)) then true
  else !o.start && (o.names p).any (fun i => (kget AccEntry.blank k.arr.acc i).wbase != some p.wb)

/-- Record the WBASE of the entries that an operation with START = 1 starts (R125). DESIGN CHOICE (log 112): entries of
masked rows are named and recorded like the others. -/
def Core.record (k : Core) (o : MatOp) (p : TileP) : Core :=
  if o.start then
    { k with arr := { k.arr with acc := (o.names p).foldl (fun m i =>
      let e := kget AccEntry.blank m i
      kset m i { e with wbase := some p.wb }) k.arr.acc } }
  else k

/-- The work of a tile or MSTREAM that starts: its job, or the responses of R124, R125, R170 and R445. -/
def State.matStart (s : State) (c : Nat) (o : MatOp) (p : TileP) (load w : Nat) : State :=
  let bad := (s.core c).accWrong o p
  let fault := o.badHandle p (s.reach c)
  let job : Job :=
    { op := o, mark := bad, set := 0, phase := if o.kind = .tile then 0 else 2, grp := 0, load := load, w := w }
  let s :=
    if bad then s.violation c else if fault.isNone then s.modCore c (fun k => k.record o p) else s
  let s :=
    if bad || fault.isNone then s.modCore c (fun k => { k with arr := { k.arr with jobs := k.arr.jobs ++ [job] } }) else s
  match fault with
  | some h => s.raiseAsyncAt c 0x07 (trapInfo 2 h.toNat 0) load
  | none => s

/-- The head of the command queue leaves it in cycle t. -/
def Core.popMat (k : Core) (t : Nat) (f : ArrayState → ArrayState) : Core :=
  ({ k with arr := f { k.arr with queue := k.arr.queue.drop 1 } }).queueFreed t

/-- An event of the command queue: the head is an operation of the kind, and the array runs. -/
def State.matEvent (s : State) (c : Nat) (kind : MatKind) (f : Core → MatOp → TileP → State) : Out :=
  s.coreEvent c (fun k =>
    if s.stalled || !s.running c then .next s
    else
      match k.arr.queue with
      | [] => .next s
      | o :: _ =>
        if o.kind = kind then
          match (if kind = .swap then tileOf 0 else tileOf o.tp) with
          | some p => .next (f k o p)
          | none => .next s
        else .next s)

/-- TILE_START: the first background load begins, and the cycles of the whole tile are fixed (R128, R129). DESIGN CHOICE
(log 115): it waits for the injections of an SLOAD ahead of it, and not for an explicit SWAP that is still waiting. -/
def execTileStart (c : Nat) (s : State) : Out :=
  s.matEvent c .tile (fun k o p =>
    let a := k.arr
    let t0 := max o.issued (max a.nextLoad a.injFree)
    let w1 := max (t0 + 66) a.lastEntry
    let n := o.setCount p
    let tl := o.setT p (n - 1)
    let ws := w1 + o.span p - max tl 67
    let last := ws + tl
    let lastLoad := if n = 1 then t0 else ws - max (o.setT p (n - 2)) 67 + 1
    let s := s.modCore c (fun k => k.popMat t0 (fun a =>
      { a with nextLoad := ws + 1, injFree := lastLoad + 66, lastEntry := last, aheadEnd := last + 1,
               done := max a.done (last + (if o.final then p.colLat else p.lat)) }))
    s.matStart c o p t0 w1)

/-- BACKGROUND_LOAD_START: an SLOAD starts in the cycle after the later of its issue and any injection in progress; it
checks rows 0 to min(M, 64) − 1 (R130). DESIGN CHOICE (log 114): under a tile it waits for the tile's last load, and behind a
SWAP it starts after that. -/
def execBackgroundLoadStart (c : Nat) (s : State) : Out :=
  s.matEvent c .sload (fun k o p =>
    let t := max (o.issued + 1) k.arr.injFree
    let s := s.modCore c (fun k => k.popMat t (fun a =>
      { a with injFree := t + 66, aheadEnd := t, done := max a.done (t + 65) }))
    if o.statFails p (s.reach c) then s.raiseAsyncAt c 0x07 (trapInfo 2 o.sd.h.toNat 0) t
    else
      s.modCore c (fun k => { k with arr := { k.arr with
        jobs := k.arr.jobs ++ [{ op := o, mark := false, set := 0, phase := 0, grp := 0, load := t, w := t }] } }))

/-- SWAP_EFFECT: a SWAP leaves the queue, at once if nothing was ahead of it, else in the cycle after the last sub-vector
of the operation ahead, and inverts the pointer; before c + 66 the module stalls until then (R118 to R120, 05 R153).
While the array waits for a grain it stays in the queue (02 R40). DESIGN CHOICE (log 116): behind an SLOAD or a SWAP, which have no sub-vector, it takes effect in the cycle in which that
started. -/
def execSwapEffect (c : Nat) (s : State) : Out :=
  s.matEvent c .swap (fun k o _ =>
    let w := if o.behind then max o.issued k.arr.aheadEnd else o.issued
    let s := s.arrayAt c w
    if (firstJob (s.core c).arr.jobs).any (fun x => decide (x.1 ≤ w)) then s
    else
      let s := s.swapAt c w
      s.modCore c (fun k => k.popMat w (fun a => { a with aheadEnd := w, injFree := max a.injFree (w + 1), done := max a.done w })))

/-- MSTREAM_START: the first sub-vector enters at the later of issue + 1 and the cycle after the last sub-vector of the
preceding tile or MSTREAM (05 R153). -/
def execMstreamStart (c : Nat) (s : State) : Out :=
  s.matEvent c .mstream (fun k o p =>
    let e1 := max (o.issued + 1) (k.arr.lastEntry + 1)
    let last := e1 + o.setT p 0 - 1
    let s := s.modCore c (fun k => k.popMat e1 (fun a =>
      { a with lastEntry := last, aheadEnd := last + 1,
               done := max a.done (last + (if o.final then p.colLat else p.lat)) }))
    s.matStart c o p e1 (e1 - 1))

/-! Result columns (04 R109, R127; 06 R178, R448) -/

/-- The elements of a converted column, and its scale bytes for an MX format (03 R78, R87). -/
def Column.elements (x : Column) : List Nat × List Nat :=
  let f := (fmtOf x.fmt.toNat).getD .f32
  if isMx x.fmt.toNat then
    let vs := x.vals.map (fun v => match v with | some b => b.value x.wbase | none => Val.zero)
    let a := mxQuantise f (vs.take 32)
    let b := mxQuantise f (vs.drop 32)
    (a.2 ++ b.2, if vs.length > 32 then [a.1, b.1] else [a.1])
  else (x.vals.map (fun v => match v with | some b => b.convert x.wbase f x.sat | none => 0), [])

/-- The bytes of a column: values in the output format, or raw records (05 R151). -/
def Column.bytes (x : Column) : List Byte :=
  if x.fmt == 0xE then
    x.vals.flatMap (fun v => match v with | some b => b.record | none => List.replicate 24 0)
  else packBytes (codeWidth x.fmt.toNat) x.elements.1

/-- A column as the result queue holds it: part 0, and for an MX format the scales in bytes 248 and 249 (06 R178). -/
def Column.vreg (x : Column) : VReg :=
  let w := codeWidth x.fmt.toNat
  let sc := x.elements.2
  BitVec.ofNat 2048 (packNat w x.elements.1 + (sc.getD 0 0 + 256 * sc.getD 1 0) * 2 ^ (8 * 248))

/-- The store engine writes a column (R448): the bytes from its cycle of availability, one access a cycle, then the scale
bytes; every element byte through a tagged handle is digested (06 R171). DESIGN CHOICE (log 158): scale bytes are not. -/
def State.writeColumn (s : State) (c : Nat) (x : Column) : State :=
  let o := x.od
  let bs := x.bytes
  let sc := x.elements.2.map (BitVec.ofNat 8)
  let a := o.addr x.n x.first
  let s := s.modCore c (fun k => k.addDigest x.epoch (o.digest x.n x.first bs))
  let s := s.writeBytes true .column c o.d a x.avail x.avail bs []
  let t := x.avail + units bs.length
  let s := if sc.isEmpty then s else s.writeBytes true .column c o.d (o.scaleAddr x.n x.first) t t sc []
  s.modCore c (fun k => k.storeDoneAt (s.writeDone c o.d x.avail x.avail (bs.length + (if sc.isEmpty then 0 else 64))))

/-- Remove the oldest column. -/
def Core.popColumn (k : Core) : Core := { k with arr := { k.arr with columns := k.arr.columns.drop 1 } }

/-- Mark the oldest column as waiting for a credit. -/
def Core.holdColumn (k : Core) : Core :=
  match k.arr.columns with
  | [] => k
  | x :: xs => { k with arr := { k.arr with columns := { x with wait := true } :: xs } }

/-- RESULT_COLUMN: the next completed column becomes available; its flags reach NSTAT, but a raw column's do not (05 R151).
It enters the result queue or is discarded where that is full, or the store engine writes it; a remote column takes its
credit, and without one the module stalls until it returns (04 R109, 06 R178, R448, 07 R204, R205). -/
def execResultColumn (c : Nat) (s : State) : Out :=
  s.coreEvent c (fun k0 =>
    if (s.stalled && !k0.columnWaits) || !s.running c then .next s
    else
      let s := s.advance c (2 ^ 64) true k0.jobFuel
      let k := s.core c
      match k.arr.columns with
      | [] => .next s
      | x :: _ =>
        let flags := if x.fmt == 0xE || x.wait then 0 else flagsOrSome x.vals
        let done := fun (s : State) => s.modCore c (fun k => k.popColumn.nstatAt x.avail flags)
        if x.outv then
          if k.arr.resultQ.length ≥ 4 then .next ((done s).violation c)
          else .next ((done s).modCore c (fun k => { k with arr := { k.arr with resultQ := k.arr.resultQ ++ [x.vreg] } }))
        else if s.writeRefused c x.od.d then
          .next ((done s).raiseAsyncAt c 0x08 (trapInfo 2 x.od.h.toNat 0) x.avail)
        else
          match Desc.pool x.od.d with
          | none => .next ((done s).writeColumn c x)
          | some p =>
            if k.credits p = 0 then
              if x.wait then .next s
              else .next ((s.modCore c (fun k => k.holdColumn.nstatAt x.avail flags)).violation c)
            else .next (((done s).modCore c (fun k => k.takeCredit p)).writeColumn c x))

end Sys2Proof.Machine
end

