-- ==== Sys2Proof/Machine/Power.lean ====
section
/-!
DEFINITION. Beats, thermal and power limits, power states and calibration (12 R324 to R337).
-/

namespace Sys2Proof.Machine

/-- Set bits of PWR_EVENT. -/
def State.pwrEvent (s : State) (b : Byte) : State := { s with pwr := { s.pwr with event := s.pwr.event ||| b } }

/-- Whether the compute regions are clocked: a powered module in Active, without a fatal error. -/
def State.clocked (s : State) : Bool := s.board.loadOn && s.pwr.st == 0 && !s.hub.fatal

/-! Regions and crossings (R317, R322) -/

/-- Regions by number: 9 times the die plus the row for the compute rows, then the hub core, the management processors and the
hogshead dies. DESIGN CHOICE (log 137). -/
def regHub : Nat := 18
def regMp : Nat := 19
def regHg0 : Nat := 20
def regHg1 : Nat := 21

/-- The root domain, at the far end of a crossing of the hub core. -/
def regRoot : Nat := 22

/-- N, the edges of a region in a beat (R317). -/
def State.edges (s : State) (region : Nat) : Nat :=
  if region < regHub then ccPerTick s.pwr.cur else if region = regMp then 4 else 6

/-- The 24 pairs of neighbours (R322). The directed crossings 2i and 2i + 1 join pair i. DESIGN CHOICE (log 137). -/
def neighbours : List (Nat × Nat) :=
  (List.range 18).map (fun i => (i, i / 9 * 9 + (i % 9 + 1) % 9)) ++
    [(4, regHub), (13, regHub), (regHub, regMp), (regHub, regHg0), (regHub, regHg1), (regHub, regRoot)]

/-- Whether a region is clocked: in Doze and Stow the compute regions are not, and in Hold, where the region edges are gated, none is
(R331). DEDUCED (log 143). -/
def State.regionClocked (s : State) (region : Nat) : Bool :=
  s.clocked || (s.board.loadOn && !s.hub.fatal && (s.pwr.st == 2 || s.pwr.st == 3) && decide (regHub ≤ region))

/-! Beats (R323 to R325) -/

/-- PERIOD_STRETCH: a region stretches one of the periods of its beat, at most each of its edges once. -/
def execPeriodStretch (region : Nat) (s : State) : Out :=
  if region ≥ 22 then .fault .noSuchUnit
  else if !s.regionClocked region || kget 0 s.pwr.stretches region ≥ s.edges region then .next s
  else
    .next { s with pwr := { s.pwr with
      stretch := satAdd s.pwr.stretch 1
      stretches := kset s.pwr.stretches region (kget 0 s.pwr.stretches region + 1) } }

/-- Whether a region with n stretches has completed a beat of `root` root cycles at the sample: N periods take 4,200 ps at every
rate (R323), a stretch 200 ps, the sample comes 100 ps before the tick, and 24 root cycles last 5,000 ps (R324). -/
def completed (root n : Nat) : Bool := decide ((4200 + 200 * n + 100) * 24 ≤ 5000 * root)

/-- BEAT_STALL: a region has not completed the beat at its sample, so that the next tick extends it. The stall is counted once,
its cycles by that tick. -/
def execBeatStall (s : State) : Out :=
  if s.pwr.extend || s.pwr.stretches.all (fun p => !s.regionClocked p.1 || completed s.pwr.beatRoot p.2) then .next s
  else
    let s := s.pwrEvent 0x20
    .next ({ s with pwr := { s.pwr with beatStall := satAdd s.pwr.beatStall 1, extend := true } }.countEmerg true)

/-! Thermal and power limits (R328 to R330) -/

/-- The hottest region of the package. -/
def maxRegion (t : Telemetry) : Nat := max (max (max t.hottest t.hubCore) (max t.hg0 t.hg1)) t.mp

/-- Whether a step condition holds: 64 consecutive beats at TH_STEP, or an average above 800 W. -/
def State.stepCondNow (s : State) (why : StepCond) : Bool :=
  match why with
  | .thermStep => decide (64 ≤ s.pwr.hotBeats)
  | .powerAvg => decide (800 < s.pwr.tele.power10ms)

/-- A single-run module asks every participant, itself among them, for a step at f + 2 (10 R291). -/
def State.requestStep (s : State) (stp : BitVec 2) : State :=
  match s.activeRuns with
  | [(r, x)] =>
    if x.stepAt.isSome then s
    else (s.toParticipants x 6 (leBytes 4 (x.furlong + 2) ++ leBytes 1 stp.toNat)).stepFor r (x.furlong + 2) stp
  | _ => s

/-- THERMAL_STEP_REQUEST: a step condition has lasted. Its event stands once on entry (R338); a single-run module steps down by
one, any other stalls at its boundaries (R329). -/
def execThermalStepRequest (why : StepCond) (s : State) : Out :=
  if !s.clocked || !s.stepCondNow why then .next s
  else
    let s :=
      if s.pwr.stepCond.contains why then s
      else
        let s := s.pwrEvent (match why with | .thermStep => 0x01 | .powerAvg => 0x08)
        let b := s.board
        let s := { s with board := { b with stTemp := if why = StepCond.thermStep then b.stTemp ||| 0x40 else b.stTemp } }
        { s with pwr := { s.pwr with stepCond := s.pwr.stepCond ++ [why] } }
    if s.activeRuns.isEmpty then .next s
    else if s.singleRun then .next (if s.pwr.cur != 0 then s.requestStep (s.pwr.cur - 1) else s)
    else .next { s with pwr := { s.pwr with duty := true } }

/-- The core cycle in which the run's furlong before the present one opened, none in its first. -/
def State.lastOpen (s : State) (x : Run) : Option Nat :=
  if x.furlong ≤ x.startF then none
  else some (x.openAt - x.furlongCc - kget 0 x.exts (x.furlong - 1) * s.extCc x)

/-- STEP_UP_REQUEST: for one whole furlong every region was at most TH_STEP − 10 °C and power at most 720 W, below the launch
step. -/
def execStepUpRequest (s : State) : Out :=
  let cool := s.activeRuns.any (fun p => decide (s.pwr.cur.toNat < p.2.lnchStep.toNat) &&
    (s.lastOpen p.2).any (fun o => s.pwr.coolAt.any (fun c => decide (c ≤ o))))
  if !s.clocked || !s.singleRun || !cool then .next s else .next (s.requestStep (s.pwr.cur + 1))

/-- Whether an emergency condition holds: power above 850 W, or above 800 W for more than 1 ms, 200,000 beats.
DEDUCED (log 39). -/
def State.emergNow (s : State) (why : EmergCond) : Bool :=
  let t := s.pwr.tele
  match why with
  | .therm => decide (s.pwr.thEmerg.toNat ≤ maxRegion t)
  | .power => decide (850 < t.power) || decide (200000 < s.pwr.overBeats)
  | .neighbour => decide (60 < t.nbrDev) || decide (25 < t.nbrTemp)

/-- Whether an emergency condition has ended. -/
def State.emergOver (s : State) (why : EmergCond) : Bool :=
  let t := s.pwr.tele
  match why with
  | .therm => decide (maxRegion t < 100)
  | .power => decide (t.power < 800)
  | .neighbour => decide (t.nbrDev ≤ 50) && decide (t.nbrTemp ≤ 20)

/-- PWR_EVENT bit of an emergency condition. -/
def emergBit : EmergCond → Byte
  | .therm => 0x02
  | .power => 0x10
  | .neighbour => 0x04

/-- EMERGENCY_STALL: the module is held as a unit while the stall stands; it counts once. A condition that has cleared and recurs while
the stall stands sets its bit again (R338). -/
def execEmergencyStall (why : EmergCond) (s : State) : Out :=
  if !s.board.loadOn || s.pwr.st = 4 || s.hub.fatal || s.pwr.emergIn.contains why || !s.emergNow why then .next s
  else
    let s := s.pwrEvent (emergBit why)
    let s := { s with pwr := { s.pwr with emergIn := s.pwr.emergIn ++ [why] } }
    let b := s.board
    let s := { s with board := { b with
      stTemp := if why = EmergCond.therm then b.stTemp ||| 0x80 else b.stTemp
      stInput := if why = EmergCond.power then b.stInput ||| 0x01 else b.stInput } }
    if s.pwr.standing.contains why then .next s
    else .next ({ s with pwr := { s.pwr with standing := s.pwr.standing ++ [why] } }.countEmerg false)

/-- EMERGENCY_STALL_END. -/
def execEmergencyStallEnd (why : EmergCond) (s : State) : Out :=
  if !s.emergOver why then .next s
  else .next { s with pwr := { s.pwr with standing := s.pwr.standing.filter (fun c => c != why) } }

/-- THERMAL_TRIP: a region at 115 °C or above is fatal. -/
def execThermalTrip (s : State) : Out :=
  .next (if s.board.loadOn && decide (115 ≤ maxRegion s.pwr.tele) then s.fatal 1 else s)

/-! Power states (R331 to R336) -/

/-- Whether R332 allows a state: 1 Hold, 2 Doze, 3 Stow. -/
def State.allowed (s : State) (st : Nat) : Bool :=
  match st with
  | 1 => s.activeRuns.all (fun e => s.heldAt e.2)
  | 2 => s.activeRuns.isEmpty
  | 3 => s.activeRuns.isEmpty && s.cores.all (fun p => p.2.owner.isNone)
  | _ => false

/-- Exit time and break-even of a state together, in ns. -/
def stateCost (st : Nat) : Nat :=
  match st with
  | 1 => 150
  | 2 => 80000
  | _ => 10000000

/-- Exit time of a state in ticks. -/
def exitTk (st : Nat) : Nat :=
  match st with
  | 1 => 10
  | 2 => 4000
  | _ => 400000

/-- The AUTO bit of a state. -/
def Pwr.auto (p : Pwr) (st : Nat) : Bool :=
  match st with
  | 1 => p.autoHold
  | 2 => p.autoDoze
  | _ => p.autoStow

/-- The state chosen for Δ, deepest first (R334). -/
def State.choose (s : State) (delta : Nat) : Nat :=
  (([3, 2, 1].find? (fun st => s.pwr.auto st && s.allowed st && decide (stateCost st ≤ delta)))).getD 0

/-- Enter a state for an event of tick `due`; in Stow every store of the compute dies but the strata is lost. DESIGN CHOICE
(log 40): the entry takes no time. -/
def State.enter (s : State) (st due : Nat) : State :=
  let s := s.powerTo (BitVec.ofNat 3 st)
  let s := { s with pwr := { s.pwr with untilTk := some due } }
  if st = 3 then { s with cores := kmap (fun _ (k : Core) => k.scrubbed) s.cores, ellSaved := [] } else s

/-- Take a state that has been chosen: a deeper one is entered; for a shallower one the present state is left first. -/
def State.goTo (s : State) (st due : Nat) : State :=
  if st < s.pwr.st.toNat then s.wake
  else if st = s.pwr.st.toNat then { s with pwr := { s.pwr with untilTk := some due } }
  else s.enter st due

/-- POWER_STATE_ENTRY: the module is idle or the time Δ to the next known event has changed. In host-assisted mode only Hold at
furlong boundaries is the device's choice (R336). -/
def execPowerStateEntry (s : State) : Out :=
  if !s.board.loadOn || s.pwr.st = 4 || s.hub.fatal || !s.hub.ready || s.pwr.transition then .next s
  else
    let due := s.nextEvent
    let d := 5 * (due - s.chn.count)
    let st := s.choose d
    if bitOf s.hub.splitAct 6 && (st != 1 || s.activeRuns.isEmpty) then .next s
    else .next (s.goTo st due)

/-- POWER_STATE_EXIT: the planned exit, at the event's time less the exit time, or the end of an exit that an event of R335 has
begun. From Stow every crossing is calibrated first (R327). -/
def execPowerStateExit (s : State) : Out :=
  let st := s.pwr.st.toNat
  let planned := s.pwr.untilTk.any (fun u => decide (u ≤ s.chn.count + exitTk st))
  if st = 0 || st = 4 || !s.board.loadOn || !(s.pwr.transition || planned) then .next s
  else if st = 3 then .next { s with pwr := { s.pwr with transition := true, calDue := true, xcal := [] } }
  else .next s.toActive

/-- The state that R332 allows among those not deeper than a target. -/
def State.allowedUpTo (s : State) : Nat → Nat
  | 0 => 0
  | st + 1 => if s.allowed (st + 1) then st + 1 else s.allowedUpTo st

/-- HOST_TARGET: a write of PWR_CTRL.HOST_TARGET; a reserved target is ignored. In host-assisted mode the module enters the
target, or the deepest allowed shallower state, and has no planned exit (R336). The field takes its value in Off too (R333). -/
def execHostTarget (v : Word) (s : State) : Out :=
  if !s.board.loadOn || s.hub.bootStage = 6 then .next s
  else
    let t := bits v 4 3
    let s := { s with pwr := { s.pwr with hostTarget := if t ≤ 3 then BitVec.ofNat 3 t else s.pwr.hostTarget } }
    if s.pwr.st = 4 || !bitOf s.hub.splitAct 6 || t > 3 || s.hub.fatal then .next s
    else
      let s := s.goTo (s.allowedUpTo t) s.nextEvent
      .next { s with pwr := { s.pwr with untilTk := none } }

/-- ENTER_OFF: with no run active and no port used by a run (R332, R333). -/
def execEnterOff (s : State) : Out :=
  if !s.regsAct || s.hub.fatal || !s.activeRuns.isEmpty || (List.range 32).any s.portUsed then .next s
  else
    let s := (s.spoil.warmEffects.stopPorts).powerTo 4
    .next { s with
      ing := { s.ing with copies := [], discarded := [] }
      cores := kmap (fun _ (k : Core) => { Core.reset with available := k.available, eccRegs := k.eccRegs }) s.cores
      hg := kmap (fun _ (h : Hogshead) => { Hogshead.reset with ce := h.ce }) s.hg
      lnk := { s.lnk with
        retained := [], outNaks := [], collide := [], beBuf := [], replies := [], flights := [], outQ := [], beWait := []
        awaited := none, routerQ := [], rides := [], units := [], heldIn := [] }
      chn := { s.chn with
        count := 0, running := false, asked := false, synced := false, depth := 15, okFrames := 0, silent := 0, steer := 0
        full := none, holdsSeen := [], readies := [] }
      pwr := { s.pwr with xcal := [], calDue := false, transition := false, untilTk := none }
      hub := { s.hub with ready := false, warming := false } }

/-- EXIT_OFF: dies and hogsheads are powered again, and once the crossings have been calibrated the module is READY (R333). -/
def execExitOff (s : State) : Out :=
  if !s.board.loadOn || s.pwr.st != 4 then .next s else .next s.toActive.endTrial.hogsReady.needCal

/-- PWR_NEXT_HI_WRITE: the declared next submission takes effect with the last low half (R337); one that comes before the event
for which a state was entered ends it (R335). -/
def execPwrNextHiWrite (v : Word) (s : State) : Out :=
  s.mmio (fun s =>
    let at_ : DWord := v ++ s.pwr.nextLo
    let s := { s with pwr := { s.pwr with nextHi := v, nextAt := at_ } }
    if at_ != 0 then s.newEvent at_.toNat else s)

/-! Calibration (R326, R327) -/

/-- CROSSING_CALIBRATION: after a reset and on an exit from Stow or Off the crossings are calibrated, and the module is READY, or
Active again. -/
def execCrossingCalibration (lmin : List Nat) (s : State) : Out :=
  if !s.board.loadOn || s.pwr.st = 4 || s.hub.fatal || !s.pwr.calDue then .next s
  else
    let s := s.calibrate lmin
    if s.hub.fatal then .next s
    else .next { s.toActive with hub := { s.hub with ready := true } }

end Sys2Proof.Machine
end

