-- ==== Sys2Proof/Machine/Registers.lean ====
section
/-!
DEFINITION. Reads with their effects and writes of every register (00 R11 to R14; 02 R43, R46, R69 to R71; 07 R211; 08 R236;
09 R266; 10 R295; 12 R337; 13 R343 to R350, R378 to R380; 14 R403; 15 R417, R424). Offsets of a function's BAR0 are taken as
they are; those of its BAR2 (doorbells) have 0x2000_0000 added and those of PF BAR4 (the debug window) 0x1000_0000 (log 41).
-/

namespace Sys2Proof.Machine

/-! The DET_ block (02 R43, R46, R69, R70) -/

/-- A write of MODE: 0b11 is ignored, and 0b10 once the lock is set. With no run active it takes effect at once. -/
def State.writeMode (s : State) (m : BitVec 2) : State :=
  if m = 3 || (m = 2 && s.det.sealLock) then s
  else if !s.activeRuns.isEmpty then { s with det := { s.det with mode := m, pendMode := m, changePend := true } }
  else
    let done := s.det.active != m
    let s := { s with det := { s.det with mode := m, active := m, pendMode := m, changePend := false } }
    if done then s.softSet 16 else s

/-- A write of SEAL_LOCK, which is RW1: once set, Open that is active or pending gives way to Exact. -/
def State.writeLock (s : State) (b : Bool) : State :=
  if !b || s.det.sealLock then s
  else
    let wasOpen := s.det.active = 2 || (s.det.changePend && s.det.pendMode = 2)
    let s := { s with det := { s.det with sealLock := true } }
    if wasOpen then s.writeMode 0 else s

/-- MODE. DESIGN CHOICE (log 76). -/
def execMode (v : Word) (s : State) : Out := s.mmio (fun s => s.writeMode (BitVec.ofNat 2 (bits v 0 2)))

/-- SEAL_LOCK. -/
def execSealLock (v : Word) (s : State) : Out := s.mmio (fun s => s.writeLock (bitOf v 8))

/-- MODE_CHANGE_APPLY: no run is active, and the pending mode takes effect (R43). -/
def execModeChangeApply (s : State) : Out :=
  if !s.det.changePend || !s.activeRuns.isEmpty then .next s
  else .next ({ s with det := { s.det with active := s.det.pendMode, changePend := false } }.softSet 16)

/-- DET_CNT_CLEAR. -/
def execDetCntClear (v : Word) (s : State) : Out :=
  s.mmio (fun s =>
    if !bitOf v 0 then s
    else
      { s with det := { s.det with
        resend := s.det.resend.clear, refcoll := s.det.refcoll.clear, emerg := s.det.emerg.clear, stp := s.det.stp.clear
        hgretry := s.det.hgretry.clear, conflict := s.det.conflict.clear, hold := s.det.hold.clear
        stallCc := s.det.stallCc.clear } })

/-- A _LO read latches the high half. DEDUCED (log 95). -/
def Counter64.latched (c : Counter64) : Counter64 := { c with latch := some (half c.val true) }

/-- The DET_ counters after a read of the _LO at an offset. -/
def Det.latchAt (d : Det) (off : Nat) : Det :=
  match off with
  | 0x040 => { d with resend := d.resend.latched }
  | 0x048 => { d with refcoll := d.refcoll.latched }
  | 0x050 => { d with emerg := d.emerg.latched }
  | 0x058 => { d with stp := d.stp.latched }
  | 0x060 => { d with hgretry := d.hgretry.latched }
  | 0x068 => { d with conflict := d.conflict.latched }
  | 0x070 => { d with hold := d.hold.latched }
  | 0x078 => { d with stallCc := d.stallCc.latched }
  | _ => d

/-! Effects of reads (00 R11, 02 R69, R70; 10 R295; 12 R337; 14 R403) -/

def Hub.afterRead (h : Hub) (off : Nat) : Hub :=
  match off with
  | 0x028 => { h with hostepErr := 0 }
  | 0x02C => { h with dmaErr := 0 }
  | 0x030 => { h with malformed := 0 }
  | _ => h

def State.chnAfterRead (s : State) (off : Nat) : State :=
  match off with
  | 0x008 => { s with chn := { s.chn with latch := half s.chn.count true } }
  | 0x018 => { s with chn := { s.chn with slew := 0 } }
  | 0x028 => { s with chn := { s.chn with lateHold := 0 } }
  | 0x02C => { s with chn := { s.chn with noRoute := 0 } }
  | _ => s

/-- PWR_POWER[31:16] is the highest average since the last read. -/
def Pwr.afterRead (p : Pwr) (off : Nat) : Pwr :=
  match off with
  | 0x028 => { p with peak1ms := 0 }
  | 0x034 => { p with beatStall := 0 }
  | 0x038 => { p with stretch := 0 }
  | 0x03C => { p with emerg := 0 }
  | 0x048 => { p with resDoze := 0 }
  | 0x04C => { p with resStow := 0 }
  | _ => p

def Port.afterRead (x : Port) (off : Nat) : Port :=
  match off with
  | 0x0C => { x with fecCw := 0 }
  | 0x10 => { x with fecCorr := 0 }
  | 0x14 => { x with fecSym := 0 }
  | 0x18 => { x with fecUncorr := 0 }
  | 0x1C => { x with crcFail := 0 }
  | 0x20 => { x with nakTx := 0 }
  | 0x24 => { x with nakRx := 0 }
  | 0x28 => { x with resend := 0 }
  | 0x2C => { x with malformed := 0 }
  | 0x34 => { x with downCount := 0 }
  | _ => x

def State.lnkAfterRead (s : State) (off : Nat) : State :=
  if off = 0x010 then { s with lnk := { s.lnk with ringCrc := 0 } }
  else if 0x100 ≤ off && off < 0x900 then s.modPort ((off - 0x100) / 0x40) (fun x => x.afterRead ((off - 0x100) % 0x40))
  else s

def Ing.afterRead (g : Ing) (off : Nat) : Ing :=
  match off with
  | 0x01C => { g with anchorAddr := g.anchorAddr + 4 }
  | 0x078 => { g with rewrites := 0 }
  | 0x07C => { g with verifyFail := 0 }
  | _ => g

def Evc.afterRead (e : Evc) (off : Nat) : Evc :=
  match off with
  | 0x004 => { e with spurious := 0 }
  | 0x00C => { e with msgCount := 0 }
  | _ => e

def EccRegs.afterRead (g : EccRegs) (off : Nat) : EccRegs :=
  match off with
  | 0x18 => { g with ceSpad := 0 }
  | 0x1C => { g with ceStrat := 0 }
  | 0x20 => { g with ceCode := 0 }
  | 0x24 => { g with due := 0 }
  | _ => g

def State.coreAfterRead (s : State) (off : Nat) : State :=
  if off = 0x008 then s.modHog 0 (fun h => { h with ce := 0 })
  else if off = 0x00C then (if s.hgPresent 1 then s.modHog 1 (fun h => { h with ce := 0 }) else s)
  else if off = 0x010 then { s with hgRegs := { s.hgRegs with due := 0 } }
  else if 0x1000 ≤ off && off < 0x25000 && s.hasCore ((off - 0x1000) / 0x100) then
    s.modCore ((off - 0x1000) / 0x100) (fun k => { k with eccRegs := k.eccRegs.afterRead ((off - 0x1000) % 0x100) })
  else s

def Ctx.afterRead (x : Ctx) (off : Nat) : Ctx :=
  match off with
  | 0x070 => { x with dbErr := 0 }
  | 0x074 => { x with eqLost := 0 }
  | 0x078 => { x with dqLost := 0 }
  | 0x07C => { x with malformed := 0 }
  | _ => x

/-- What a read of PF BAR0 changes. -/
def State.barAfterRead (s : State) (off : Nat) : State :=
  if off % 4 != 0 then s
  else if off < 0x1000 then { s with hub := s.hub.afterRead off }
  else if off = 0x102C then { s with det := { s.det with certAddr := s.det.certAddr + 4 } }
  else if off < 0x2000 then { s with det := s.det.latchAt (off - 0x1000) }
  else if off < 0x3000 then s.chnAfterRead (off - 0x2000)
  else if off < 0x4000 then { s with pwr := s.pwr.afterRead (off - 0x3000) }
  else if off = 0x4018 then { s with syn := { s.syn with race := 0 } }
  else if off < 0x5000 then s
  else if off < 0x6000 then s.lnkAfterRead (off - 0x5000)
  else if off < 0x8000 then { s with ing := s.ing.afterRead (off - 0x6000) }
  else if 0x10000 ≤ off && off < 0x12000 then { s with evc := s.evc.afterRead (off - 0x10000) }
  else if 0x40000 ≤ off && off < 0x65000 then s.coreAfterRead (off - 0x40000)
  else if 0x400000 ≤ off && off < 0x601000 then s.modCtx ((off - 0x400000) / 0x1000) (fun x => x.afterRead (off % 0x1000))
  else s

/-- DET_CERT_DATA: four bytes of the certificate, and the address advances; in Off it reads 0 (12 R333). -/
def execDetCertData (s : State) : Out :=
  if s.board.loadOn && s.pwr.st = 4 then .next { s with busOut := some 0 }
  else s.mmio (fun s =>
    { s with busOut := some (s.detRead 0x02C), det := { s.det with certAddr := s.det.certAddr + 4 } })

/-- COUNTER_LO_READ: a _LO of the DET_ block, or CHN_COUNT_LO at 0x2008 of PF BAR0; in Off it reads 0 (12 R333). -/
def execCounterLoRead (off : Nat) (s : State) : Out :=
  if !(off = 0x2008 || (0x1040 ≤ off && off < 0x1080 && off % 8 = 0)) then .fault .noSuchUnit
  else if !s.board.loadOn then .next s
  else if s.pwr.st = 4 then .next { s with busOut := some 0 }
  else if off = 0x2008 then .next { s.chnAfterRead 0x008 with busOut := some (s.chnRead 0x008) }
  else .next { s with busOut := some (s.detRead (off - 0x1000)), det := s.det.latchAt (off - 0x1000) }

/-! The debug window (15 R417) -/

/-- Four bytes of a memory of the selected core. -/
def word4 (bs : List Byte) (off : Nat) : Word := BitVec.ofNat 32 (leAt bs off 4)

/-- A word of PF BAR4: control registers of an owned core, and the whole of one of context 0. -/
def State.debugRead (s : State) (off : Nat) : Word :=
  let c := s.hub.dbgSel.toNat
  if off % 4 != 0 then 0
  else if off = 0 then word c
  else if !s.hasCore c then 0
  else
    let k := s.coreNow c
    match k.owner with
    | none => 0
    | some f =>
      if 0x100000 ≤ off && off < 0x100034 then (s.setCore c k).ctlRead c ((off - 0x100000) / 4)
      else if f != 0 then 0
      else if 0x110000 ≤ off && off < 0x110080 then k.s (BitVec.ofNat 5 ((off - 0x110000) / 4))
      else if 0x110080 ≤ off && off < 0x112080 then
        word4 (bytesOf (k.v (BitVec.ofNat 5 ((off - 0x110080) / 256))) 256) ((off - 0x110080) % 256)
      else if 0x200000 ≤ off && off < 0x206000 then
        word4 (bytesOf (k.desc (BitVec.ofNat 8 ((off - 0x200000) / 96))) 96) ((off - 0x200000) % 96)
      else if 0x400000 ≤ off && off < 0x420000 then word4 (memReads k.imem (off - 0x400000) 4) 0
      else if 0x5F0000 ≤ off && off < 0x5F2000 then word4 (startBytes k.starts) (off - 0x5F0000)
      else if 0x600000 ≤ off && off < 0x608000 then word4 (memReads k.dmem (off - 0x600000) 4) 0
      else if 0x800000 ≤ off && off < 0x8C0000 then
        word4 (memReads k.spad (off - 0x800000) 4) 0
      else 0

/-! RC_READ -/

/-- Registers that answer in Off: HUB_STATUS, HUB_BOOT, HUB_RESET, PWR_STATE, PWR_CTRL (12 R333). -/
def offRegs : List Nat := [0x014, 0x108, 0x100, 0x3008, 0x300C]

/-- The word that function f reads at an offset. -/
def State.readWord (s : State) (f off : Nat) : Word :=
  if off ≥ 0x30000000 then s.configRead f (off - 0x30000000)
  else if off ≥ 0x20000000 then 0
  else if f != 0 then (if s.pwr.st = 4 then 0 else s.vfRead f off)
  else if off ≥ 0x10000000 then (if s.pwr.st = 4 then 0 else s.debugRead (off - 0x10000000))
  else if s.pwr.st = 4 && !offRegs.contains off then 0
  else s.barRead off

/-- What that read changes. -/
def State.afterRead (s : State) (f off : Nat) : State :=
  if s.pwr.st = 4 || off ≥ 0x10000000 then s
  else if f = 0 then s.barAfterRead off
  else if off < 0x1000 && off % 4 = 0 then s.modCtx f (fun x => x.afterRead off)
  else s

/-- RC_READ: a register read by function f, with its effect: an RC field clears, a _LO latches its _HI, data ports advance. -/
def execRcRead (f : Nat) (off : Nat) (s : State) : Out :=
  if f > 512 then .fault .noSuchUnit
  else if !s.board.loadOn || !s.ctxEnabled f then .next s
  else .next { s.afterRead f off with busOut := some (s.readWord f off) }

/-! Writes by block -/

/-- The state that a command leaves, or the state before it. -/
def nextOr (s : State) (o : Out) : State :=
  match o with
  | .next t => t
  | _ => s

/-- HUB_FW_CTRL. Its STAGE begins a staging, which the command STAGE ends with the image that the device has read. -/
def State.writeFwCtrl (s : State) (v : Word) : Out :=
  let s := if bitOf v 0 then s.beginStage else s
  let s := if bitOf v 1 then nextOr s (execActivate s) else s
  let s := if bitOf v 2 then nextOr s (execRaiseFloor s) else s
  .next (if bitOf v 3 then nextOr s (execFwCancel s) else s)

/-- Whether the firmware staging registers act: also in recovery (15 R409). -/
def State.stagingActs (s : State) : Bool := s.board.loadOn && s.pwr.st != 4

/-- The HUB_ block. DEDUCED (log 98): a stage length above 16 MiB is not taken. -/
def State.writeHub (s : State) (off : Nat) (v : Word) : Out :=
  let h := s.hub
  match off with
  | 0x010 =>
    s.mmio (fun s =>
      let m : BitVec 7 := BitVec.ofNat 7 (bits v 0 7)
      { s with hub := { s.hub with splitMode := m, splitAct := if s.activeRuns.isEmpty then m else s.hub.splitAct } })
  | 0x018 => execHubDumpBaseWrite false v s
  | 0x01C => execHubDumpBaseWrite true v s
  | 0x020 => s.mmio (fun s => { s with hub := { s.hub with dumpLen := v &&& 0xFFFFF000 } })
  | 0x100 => if bitOf v 0 then execHubResetCold s else if bitOf v 1 then execHubResetWarm s else .next s
  | 0x104 => execHubCoreReset v s
  | 0x10C => s.writeFwCtrl v
  | 0x110 =>
    .next (if s.stagingActs then { s with hub := { h with stageAddr := putBits h.stageAddr 0 32 (v.toNat / 4096 * 4096) } } else s)
  | 0x114 => .next (if s.stagingActs then { s with hub := { h with stageAddr := putBits h.stageAddr 32 32 v.toNat } } else s)
  | 0x118 => .next (if s.stagingActs && decide (v.toNat ≤ 16777216) then { s with hub := { h with stageLen := v } } else s)
  | 0x128 => execHubRepairReq v s
  | 0x13C => s.mmio (fun s => { s with hub := { s.hub with dbgSel := BitVec.ofNat 10 (bits v 0 10) } })
  | _ => .next s

def State.writeDet (s : State) (off : Nat) (v : Word) : Out :=
  match off with
  | 0x000 => s.mmio (fun s => (s.writeLock (bitOf v 8)).writeMode (BitVec.ofNat 2 (bits v 0 2)))
  | 0x008 => s.mmio (fun s => { s with det := { s.det with coreDetail := bitOf v 0 } })
  | 0x028 => s.mmio (fun s => { s with det := { s.det with certAddr := v &&& 0xFFFFFFFC } })
  | 0x080 => execDetCntClear v s
  | _ => .next s

/-- Clear the VALID bit of a log. -/
def dropValid (log v : Word) : Word := if bitOf v 0 then log &&& 0xFFFFFFFE else log

def State.writeChn (s : State) (off : Nat) (v : Word) : Out :=
  s.mmio (fun s =>
    match off with
    | 0x01C => if bits v 0 16 < 256 then s else { s with chn := { s.chn with margin := BitVec.ofNat 16 (bits v 0 16) } }
    | 0x024 => { s with chn := { s.chn with event := s.chn.event &&& ~~~(BitVec.ofNat 6 (bits v 0 6)) } }
    | 0x030 => { s with chn := { s.chn with routeSel := BitVec.ofNat 10 (bits v 0 10) } }
    | 0x038 => { s with chn := { s.chn with pathLog := dropValid s.chn.pathLog v } }
    | _ => s)

/-- PWR_STEP.MAX: a lowered bound waits for a moment with no run active (12 R319). -/
def State.writeMax (s : State) (m : BitVec 2) : State :=
  let s := s.settleBounds
  if decide (s.pwr.max.toNat ≤ m.toNat) || s.activeRuns.isEmpty then
    { s with pwr := { s.pwr with max := m, maxPend := none } }
  else { s with pwr := { s.pwr with maxPend := some m } }

/-- PWR_THERM: each field keeps its value where what is written breaks its limit. -/
def State.writeTherm (s : State) (v : Word) : State :=
  let p := s.pwr
  let em := if bits v 8 8 ≤ 105 then BitVec.ofNat 8 (bits v 8 8) else p.thEmerg
  let st := if bits v 0 8 ≤ em.toNat then BitVec.ofNat 8 (bits v 0 8) else p.thStep
  let du := if 16 ≤ bits v 16 16 && bits v 16 16 ≤ 4096 then BitVec.ofNat 16 (bits v 16 16) else p.sealDuty
  { s with pwr := { p with thStep := st, thEmerg := em, sealDuty := du } }

/-- PWR_CTRL, which also acts in Off. -/
def State.writePwrCtrl (s : State) (v : Word) : Out :=
  let s := if s.board.loadOn && s.hub.bootStage != 6 then
      { s with pwr := { s.pwr with autoHold := bitOf v 0, autoDoze := bitOf v 1, autoStow := bitOf v 2 } }
    else s
  let s := nextOr s (execHostTarget v s)
  let s := if bitOf v 30 then nextOr s (execExitOff s) else s
  if bitOf v 31 then execEnterOff s else .next s

def State.writePwr (s : State) (off : Nat) (v : Word) : Out :=
  match off with
  | 0x004 => s.mmio (fun s => s.writeMax (BitVec.ofNat 2 (bits v 4 2)))
  | 0x00C => s.writePwrCtrl v
  | 0x010 => s.mmio (fun s => { s with pwr := { s.pwr with horizon := BitVec.ofNat 24 (bits v 0 24) } })
  | 0x014 => s.mmio (fun s => { s with pwr := { s.pwr with nextLo := v } })
  | 0x018 => execPwrNextHiWrite v s
  | 0x020 => s.mmio (fun s => s.writeTherm v)
  | 0x030 => s.mmio (fun s => { s with pwr := { s.pwr with event := s.pwr.event &&& ~~~(BitVec.ofNat 8 (bits v 0 8)) } })
  | 0x040 => s.mmio (fun s => { s with pwr := { s.pwr with xcalSel := v &&& 0x33F } })
  | _ => .next s

def State.writeSyn (s : State) (off : Nat) (v : Word) : Out :=
  let low := bits v 0 16
  match off with
  | 0x104 => execEnable v s
  | 0x108 =>
    s.mmio (fun s =>
      if low = 0 then s else s.setBridge s.syn.brgSel.toNat { s.bridge s.syn.brgSel.toNat with timeout := low })
  | _ =>
    s.mmio (fun s =>
      let y := s.syn
      match off with
      | 0x00C => if low = 0 then s else { s with syn := { y with dlTimeout := BitVec.ofNat 16 low } }
      | 0x010 => { s with syn := { y with dlLog := dropValid y.dlLog v } }
      | 0x01C => { s with syn := { y with ovrLog := dropValid y.ovrLog v } }
      | 0x040 => { s with syn := { y with fsel := BitVec.ofNat 13 (bits v 0 13) } }
      | 0x0A0 => { s with syn := { y with bsel := BitVec.ofNat 9 (bits v 0 9) } }
      | 0x100 => { s with syn := { y with brgSel := BitVec.ofNat 6 (bits v 0 6) } }
      | 0x120 => { s with syn := { y with mapSel := v &&& 0x1FFF03FF } }
      | _ => s)

def State.writeLnk (s : State) (off : Nat) (v : Word) : Out :=
  if off = 0x00C then s.mmio (fun s => { s with lnk := { s.lnk with portEvt := s.lnk.portEvt &&& ~~~v } })
  else if off = 0x018 then execLnkCoreLoop v s
  else if 0x100 ≤ off && off < 0x900 then
    let p := (off - 0x100) / 0x40
    let r := (off - 0x100) % 0x40
    s.mmio (fun s =>
      if r = 0x00 then s.writeLnkCtrl p v
      else if r = 0x30 then s.modPort p (fun x => { x with malLog := dropValid x.malLog v })
      else s)
  else .next s

def State.writeIng (s : State) (off : Nat) (v : Word) : Out :=
  match off with
  | 0x008 => s.mmio (fun s => { s with ing := { s.ing with event := s.ing.event &&& ~~~(BitVec.ofNat 8 (bits v 0 8)) } })
  | 0x010 => s.mmio (fun s => { s with ing := { s.ing with anchorSel := BitVec.ofNat 4 (bits v 0 4) } })
  | 0x018 => s.mmio (fun s => { s with ing := { s.ing with anchorAddr := BitVec.ofNat 7 (bits v 2 5 * 4) } })
  | 0x01C => execIngAnchorData (some v) s
  | 0x020 =>
    let s := if bitOf v 0 then nextOr s (execProgram s) else s
    if bitOf v 1 then execRevoke s else .next s
  | 0x044 => s.mmio (fun s => { s with ing := { s.ing with revAddr := BitVec.ofNat 6 (bits v 2 4 * 4) } })
  | 0x048 => execIngRevokeData v s
  | 0x04C => if bitOf v 0 then execRevokeAdd s else .next s
  | 0x060 => s.mmio (fun s => { s with ing := { s.ing with copySel := BitVec.ofNat 6 (bits v 0 6) } })
  | _ => .next s

/-- A write of a moderation register; DESIGN CHOICE (log 42): a COUNT of 0, which is no count, is ignored. -/
def Moder.write (m : Moder) (v : Word) : Moder := if bits v 0 8 = 0 then m else { m with reg := v &&& 0x01FFFFFF }

def State.writeEvc (s : State) (off : Nat) (v : Word) : Out :=
  if off % 4 != 0 then .next s
  else if off = 0x008 then execEvcHack v s
  else if 0x040 ≤ off && off < 0x050 then
    s.mmio (fun s => s.setModer (.mp ((off - 0x040) / 4)) ((s.mpMod ((off - 0x040) / 4)).write v))
  else if 0x200 ≤ off && off < 0x280 then execEvcSwset ((off - 0x200) / 4) v s
  else if 0x400 ≤ off && off < 0x500 then
    s.mmio (fun s => s.setModer (.pf ((off - 0x400) / 4)) ((s.hMod ((off - 0x400) / 4)).write v))
  else if 0x1000 ≤ off && off < 0x1FFC then execEvcTgt ((off - 0x1000) / 4) v s
  else .next s

def State.writeCore (s : State) (off : Nat) (v : Word) : Out :=
  if off = 0x014 then s.mmio (fun s => { s with hgRegs := { s.hgRegs with log := dropValid s.hgRegs.log v } })
  else if 0x1000 ≤ off && off < 0x25000 && s.hasCore ((off - 0x1000) / 0x100) && s.regsAct then
    let c := (off - 0x1000) / 0x100
    let r := (off - 0x1000) % 0x100
    if r = 0x28 then
      .next (s.modCore c (fun k => { k with eccRegs := { k.eccRegs with log := dropValid k.eccRegs.log v } }))
    else if r = 0x30 then execStart c v s
    else .next s
  else .next s

/-- A base or size register of a ring; they take effect only while RINGS_EN is 0 (13 R347, R379). -/
def Ring.write (r : Ring) (i : Nat) (v : Word) : Ring :=
  match i with
  | 0 => { r with base := r.base / 2 ^ 32 * 2 ^ 32 + v.toNat / 4096 * 4096 }
  | 4 => { r with base := v.toNat * 2 ^ 32 + r.base % 2 ^ 32 }
  | 8 => if 4 ≤ bits v 0 5 && bits v 0 5 ≤ 16 then { r with k := bits v 0 5 } else r
  | _ => r

/-- A write of a context's own window. -/
def State.writeCtx (s : State) (f off : Nat) (v : Word) : Out :=
  if !s.reachable f || off % 4 != 0 then .next s
  else if off = 0x008 then
    .next ((s.modCtx f (fun x => { x with cqIe := bitOf v 1, eqIe := bitOf v 2, dqIe := bitOf v 3 })).writeRingsEn f (bitOf v 0))
  else if off = 0x080 then .next (s.setModer (.vf f) ((s.ctx f).moder.write v))
  else if off = 0x084 then execCtxIrqAck f v s
  else if off = 0x088 then execCtxIrqTest f v s
  else if 0x010 ≤ off && off < 0x050 && !(s.ctx f).ringsEn then
    let i := off % 16
    .next (s.modCtx f (fun x =>
      match (off - 0x010) / 16 with
      | 0 => { x with sq := x.sq.write i v }
      | 1 => { x with cq := x.cq.write i v }
      | 2 => { x with eq := x.eq.write i v }
      | _ => { x with dq := x.dq.write i v }))
  else .next s

/-- The messages of a function that nothing holds back any more are sent (13 R374). -/
def State.releaseMsix (s : State) (f : Nat) : State :=
  (s.evc.msixPend.filter (fun p => p.1 == f && !s.msixHeld p)).foldl (fun s p =>
    { s with evc := { s.evc with msixPend := s.evc.msixPend.filter (fun q => q != p) } }.sendMsix p) s

/-- A write of word i of a function's MSI-X table; a vector that is unmasked sends the message that it kept (13 R343). -/
def State.writeMsix (s : State) (f i : Nat) (v : Word) : State :=
  { s with evc := { s.evc with msix := kset s.evc.msix (256 * f + i) v } }.releaseMsix f

/-- A write of a function's configuration space: the MSI-X enable and function mask; AER status bits clear on a write of ones
(R341, R374). PRESUMED (log 102). -/
def State.writeConfig (s : State) (f off : Nat) (v : Word) : State :=
  match off with
  | 0x0B0 => { s with evc := { s.evc with msixCtl := kset s.evc.msixCtl f (v &&& 0xC0000000) } }.releaseMsix f
  | 0x104 => if f = 0 && v != 0 then { s with hub := { s.hub with aerUncorr := false } } else s
  | 0x110 => if f = 0 && v != 0 then { s with hub := { s.hub with aerCorr := false } } else s
  | _ => s

/-- A write of PF BAR0 by context 0. -/
def State.writeBar (s : State) (off : Nat) (v : Word) : Out :=
  if off % 4 != 0 then .next s
  else if off < 0x1000 then s.writeHub off v
  else if off < 0x2000 then s.writeDet (off - 0x1000) v
  else if off < 0x3000 then s.writeChn (off - 0x2000) v
  else if off < 0x4000 then s.writePwr (off - 0x3000) v
  else if off < 0x5000 then s.writeSyn (off - 0x4000) v
  else if off < 0x6000 then s.writeLnk (off - 0x5000) v
  else if off < 0x8000 then s.writeIng (off - 0x6000) v
  else if 0x10000 ≤ off && off < 0x12000 then s.writeEvc (off - 0x10000) v
  else if 0x40000 ≤ off && off < 0x65000 then s.writeCore (off - 0x40000) v
  else if 0x400000 ≤ off && off < 0x401000 then s.writeCtx 0 (off - 0x400000) v
  else if 0x800000 ≤ off && off < 0x800400 then s.mmio (fun s => s.writeMsix 0 ((off - 0x800000) / 4) v)
  else .next s

/-- A write of a doorbell page; an offset without a doorbell is counted and reported (13 R349, R350). -/
def State.writeDoorbell (s : State) (f off : Nat) (v : Word) : Out :=
  match off with
  | 0x000 => execSqTail f v s
  | 0x004 => execCqHead f v s
  | 0x008 => execEqHead f v s
  | 0x00C => execDqHead f v s
  | _ => s.doorbell f off v (fun _ => false) id id

/-- REGISTER_WRITE: function f writes a word. Fields take it as their access codes say, and fields with an effect of their own
have it. A VF reaches only its own window, its MSI-X table and its doorbells; context 0's writes to another window are
ignored (R345). DESIGN CHOICE (log 152): from 0x20000000 on lies the doorbell page, from 0x21000000 on the same page as written
with another size than 4 bytes, which is counted and reported (R350), and from 0x30000000 on configuration space. -/
def execRegisterWrite (f : Nat) (off : Nat) (v : Word) (s : State) : Out :=
  if f > 512 then .fault .noSuchUnit
  else if !s.board.loadOn || !s.ctxEnabled f then .next s
  else if off ≥ 0x30000000 then .next (s.writeConfig f (off - 0x30000000) v)
  else if off ≥ 0x21000000 then s.doorbell f (off - 0x21000000) v (fun _ => false) id id
  else if off ≥ 0x20000000 then s.writeDoorbell f (off - 0x20000000) v
  else if f = 0 then
    if off = 0x10000000 then s.writeHub 0x13C v
    else if off ≥ 0x10000000 then .next s
    else s.writeBar off v
  else if off < 0x1000 then s.writeCtx f off v
  else if 0x8000 ≤ off && off < 0x8010 && off % 4 = 0 then s.mmio (fun s => s.writeMsix f ((off - 0x8000) / 4) v)
  else .next s

end Sys2Proof.Machine
end

