-- ==== Sys2Proof/Machine/Tick.lean ====
section
/-!
DEFINITION. The chain tick and what time does at it (10 R275 to R278; 02 R53; 07 R200; 09 R250, R251, R257, R259, R260; 12
R323, R329, R337), and VF Enable (13 R342).
-/

namespace Sys2Proof.Machine

/-! Control grains (09 R257; 10 R276) -/

/-- ECHO_FRAME and ECHO_AGE of a control grain that starts in root cycle `now`. -/
def Port.echo (x : Port) (now : Nat) : Nat :=
  match x.lastHeard with
  | none => 65536 * 0xFFFF
  | some (k, a) => k.toNat + 65536 * min ((now + 576 * 65536 - a % (576 * 65536)) % (576 * 65536)) 0xFFFF

/-- The time-transfer field. -/
def State.timeField (s : State) (x : Port) (now : Nat) : Nat :=
  x.echo now + 2 ^ 32 * s.chn.depth.toNat + 2 ^ 36 * b2n s.chn.synced

/-- The control grain of port p in a frame; five NAK entries at most go with it. -/
def State.controlGrain (s : State) (p frame half : Nat) : Grain :=
  let x := s.port p
  let naks := x.naks.take 5
  let w0 := frame % 65536 + 65536 * half + 2 ^ 17 * b2n x.retrain + 2 ^ 18 * b2n (x.loopSel == 5) + 2 ^ 19 * b2n (s.farAck p)
  let w1 := s.moduleId + 2 ^ 10 * s.chn.straps.sysId.toNat + 2 ^ 14 * p
  let bs := leBytes 4 w0 ++ leBytes 4 w1 ++ slice (naks.flatMap (fun w => leBytes 8 w.toNat)) 0 40 ++
    leBytes 8 (min x.beOwed 255 + 256 * min x.mgOwed 255) ++ leBytes 8 (s.timeField x (576 * frame)) ++ leBytes 4 0
  BitVec.ofNat 576 (leNat (bs ++ bytesOf (crc32c bs) 4))

/-- What a control grain takes with it leaves the port. -/
def Port.controlled (x : Port) : Port :=
  { x with
    naks := x.naks.drop 5, nakTx := satAdd x.nakTx (min x.naks.length 5), beOwed := x.beOwed - min x.beOwed 255
    mgOwed := x.mgOwed - min x.mgOwed 255 }

/-- Send it, after the retry slot before it if no re-sent grain has taken that. A port that asks its partner to retrain begins
training itself once it has asked (09 R256 to R258). -/
def State.sendControl (s : State) (frame half p : Nat) : State :=
  let s := s.fillSlot p (if half = 0 then 49 else 24)
  let x := s.port p
  if !x.sendsFrames then s
  else
    let s := (s.setPort p x.controlled).emit p (25 * half) (s.controlGrain p frame half)
    if x.retrain then s.beginTraining p else s

/-! Link slots (09 R249, R252, R256) -/

/-- The grain that an unreserved slot takes: a hold first, then management, then best-effort, these two with a credit
(09 R240, R252). -/
def Port.pick (x : Port) : Option Grain :=
  let first := fun (c : Nat) => x.outQ.find? (fun g => Grain.cls g == c)
  (first 2).orElse (fun _ =>
    (if x.mgCredit > 0 then first 3 else none).orElse (fun _ => if x.beCredit > 0 then first 1 else none))

/-- An unreserved slot k of a port. -/
def State.freeSlot (s : State) (p k : Nat) : State :=
  let x := s.port p
  match x.pick with
  | none => s
  | some g =>
    (s.setPort p { x with
      outQ := x.outQ.erase g
      mgCredit := x.mgCredit - b2n (Grain.cls g == 3)
      beCredit := x.beCredit - b2n (Grain.cls g == 1) }).emit p k g

/-- A slot k that run r's tables reserve at a port for a stream takes the stream's next grain that has passed the router. A stream that
begins on this module sends a null grain in a slot for which there is none, and its grains are numbered and kept as they leave
(09 R260; 11 R312). A slot of a port that is down is numbered as any other, and what it should have sent is lost (10 R293). -/
def State.ownSlot (s : State) (r : Nat) (x : Run) (t : SlotRec) (p k : Nat) : State :=
  let begins := !(s.slotsOf x).any (fun y => y.kind == 4 && y.inward && y.carries t.dmod t.dcore t.stream)
  let up := (s.port p).active || (s.port p).looped 2
  let keep := fun (s : State) (g : Grain) =>
    let s := if up then s.emit p k g else s
    if begins then s.retain r p g else s
  match s.lnk.outQ.find? (fun o => o.run == r && decide (o.t ≤ (if o.fwd then s.chn.count else s.nowOf x)) &&
      t.carries o.dmod o.dcor o.strm) with
  | some o => keep { s with lnk := { s.lnk with outQ := s.lnk.outQ.erase o } } o.g
  | none => if begins then keep s (nullGrain t.dmod t.dcore t.stream) else s

/-- Link slot k of a frame at port p: control and retry slots apart, it is reserved for a scheduled grain or free; a slot that nothing
takes carries an idle grain (09 R241). -/
def State.linkSlot (s : State) (frame k p : Nat) : State :=
  if k % 25 = 0 || k % 25 = 24 then s
  else
    let own := if k % 25 = 1 then none else s.activeRuns.findSome? (fun e => (s.outSlot e.2 p frame k).map (fun t => (e.1, e.2, t)))
    let s :=
      match own with
      | some q => s.ownSlot q.1 q.2.1 q.2.2 p k
      | none => if (s.port p).active || (s.port p).looped 2 then s.freeSlot p k else s
    s.fillSlot p k

/-- A grain for this module whose slot comes at a port that is not active: until a detour is in force it is consumed as a null
grain (10 R293), and without one it is missing. -/
def State.lostSlot (s : State) (frame k p : Nat) : State :=
  if (s.port p).active then s
  else
    s.activeRuns.foldl (fun s e =>
      match s.inSlot e.2 p frame k, s.slotNo e.2 frame k with
      | some t, some n =>
        if t.dmod != s.moduleId then s
        else
          let q := s.linkIndex e.2 t n
          let d := s.linkLanding e.2 t n
          if e.2.detourPending then s.flyStream e.1 t.dcore (nullGrain t.dmod t.dcore t.stream) (fun _ => d) d q 0
          else { s with lnk := { s.lnk with outNaks := s.lnk.outNaks ++
            [{ run := e.1, dcore := t.dcore, strm := t.stream, src := 0x3FF, seq := 0, tries := 0, q := q, t := d }] } }
      | _, _ => s) s

/-- The link slots of a tick, at each port in turn: grains of one slot time are ordered by lower port (09 R260). -/
def State.linkTick (s : State) : State :=
  let f := s.chn.count / 24
  (slotsOfTick (s.chn.count % 24)).foldl (fun s k =>
    (List.range 32).foldl (fun s p => (s.linkSlot f k p).lostSlot f k p) s) s

/-- A CHAIN_FULL grain to a partner that reports DEPTH 15, from a module that has a count (R278): it names this frame. -/
def State.sendFull (s : State) (frame p : Nat) : State :=
  let x := s.port p
  if !x.active || x.depth != 15 || s.chn.depth == 15 then s
  else
    s.queueOut p (mkGrain (partnerOf (s.moduleId / 16) (s.moduleId % 16) p).1 0x3FD 0 3 false false
      (s.mgmtPayload 1 0 (leBytes 8 (24 * frame) ++ leBytes 2 frame)))

/-- The start of a frame: a frame without a parent's grain is counted, and control grains leave. -/
def State.frameStart (s : State) : State :=
  let f := s.chn.count / 24
  let s := { s with chn := { s.chn with silent := s.chn.silent + 1 } }
  let s := (List.range 32).foldl (fun s p => s.sendControl f 0 p) s
  if f % 64 = 0 then (List.range 32).foldl (fun s p => s.sendFull f p) s else s

/-- Control grains leave at ticks 0 and 12 of a frame (09 R256). -/
def State.frameTick (s : State) : State :=
  if s.chn.count % 24 = 0 then s.frameStart
  else if s.chn.count % 24 = 12 then
    (List.range 32).foldl (fun (s : State) p => s.sendControl (s.chn.count / 24) 1 p) s
  else s

/-! The tick -/

/-- Steering: one step of the correction. The tick that begins lasts 24 root cycles, or one less or more (R275, R277). -/
def State.steerTick (s : State) : State :=
  let len := if s.chn.steer = 0 then 24 else if s.chn.steer > 0 then 23 else 25
  let s :=
    if s.chn.steer = 0 then s
    else
      { s with chn := { s.chn with
        steer := if s.chn.steer > 0 then s.chn.steer - 1 else s.chn.steer + 1, slew := satAdd s.chn.slew 1 } }
  { s with pwr := { s.pwr with
    beatRoot := if s.pwr.extend then s.pwr.beatRoot + len else len
    stretches := if s.pwr.extend then s.pwr.stretches else []
    extend := false } }

/-- The core cycles of a tick pass, those that a boundary in it has not taken already (10 R275, R285). -/
def State.passTick (s : State) : State :=
  let t := max s.clk (s.tickAt + ccPerTick s.pwr.cur)
  { s.cycles (t - s.clk) with tickAt := t }

/-- Grains kept for re-send age, and those kept for 512 tk are dropped (09 R260). -/
def State.ageRetained (s : State) : State :=
  { s with lnk := { s.lnk with
    retained := (s.lnk.retained.map (fun e => { e with age := e.age + 1 })).filter (fun e => decide (e.age ≤ 512)) } }

/-- The board's readings, and the ticks for which the input has stayed in range (16 R429). -/
def Board.reads (b : Board) (t : Telemetry) : Board :=
  { b with tele := t, vinTk := if 48 ≤ t.vin && t.vin ≤ 60 then b.vinTk + 1 else 0 }

/-- The readings of this beat, and for how many beats the conditions of R329 have lasted; a tick that extends a beat begins none (R324).
HG1 of grade B is fused off and reads 0 (00 R3). A step condition clears once it no longer holds
(R338); SEAL_DUTY stalls end once all regions are at most TH_STEP − 3 °C. DEDUCED (log 91). -/
def State.readSensors (s : State) (t : Telemetry) : State :=
  let th := s.pwr.thStep.toNat
  let t := { t with hg1 := if s.hgPresent 1 then t.hg1 else 0 }
  let one := b2n (!s.pwr.extend)
  { s with
    board := s.board.reads t
    pwr := { s.pwr with
      tele := t, peak1ms := max s.pwr.peak1ms t.power1ms
      dutyLeft := s.pwr.dutyLeft - one
      hotBeats := if th ≤ t.hottest then s.pwr.hotBeats + one else 0
      overBeats := if 800 < t.power then s.pwr.overBeats + one else 0
      emergIn := s.pwr.emergIn.filter (fun c =>
        match c with
        | .therm => decide (s.pwr.thEmerg.toNat ≤ maxRegion t)
        | .power => decide (800 < t.power)
        | .neighbour => decide (60 < t.nbrDev) || decide (25 < t.nbrTemp))
      coolAt := if maxRegion t + 10 ≤ th && t.power ≤ 720 then some (s.pwr.coolAt.getD s.clk) else none
      duty := s.pwr.duty && !decide (maxRegion t + 3 ≤ th)
      stepCond := s.pwr.stepCond.filter (fun c =>
        match c with
        | .thermStep => decide (th ≤ t.hottest)
        | .powerAvg => decide (800 < t.power10ms)) } }

/-- Time in Doze and in Stow, in ms of 200,000 ticks. -/
def Pwr.residence (p : Pwr) : Pwr :=
  if p.st = 2 then
    (if p.dozeTk + 1 = 200000 then { p with dozeTk := 0, resDoze := satAdd p.resDoze 1 } else { p with dozeTk := p.dozeTk + 1 })
  else if p.st = 3 then
    (if p.stowTk + 1 = 200000 then { p with stowTk := 0, resStow := satAdd p.resStow 1 } else { p with stowTk := p.stowTk + 1 })
  else p

/-- Dies that no run holds refresh as the temperature asks (07 R200). -/
def State.freeRates (s : State) : State :=
  [0, 1].foldl (fun s d =>
    if s.hgPresent d && (s.hog d).holder.isNone then s.modHog d (fun h => { h with rate := BitVec.ofNat 2 (s.hgRate d) })
    else s) s

/-- What a tick brings to a module whose boot is not in progress. The cycles of the tick before pass; a beat begins, and frames start
every 24 ticks. -/
def State.tick (s : State) (t : Telemetry) : State :=
  let s := { s.endDump with stalls := if s.activeRuns.isEmpty then [] else s.stalls }
  let s := (s.passTick.readSensors t).steerTick.ageRetained.freeRates
  let s := s.activeRuns.foldl (fun s e => s.watchDead e.1 e.2) s.nullTick.ringTick.reportPast
  let s := { s with pwr := s.pwr.residence }
  let s := { s with chn := { s.chn with count := (s.chn.count + 1) % 2 ^ 64 } }
  s.frameTick.linkTick

/-- CHAIN_TICK. The count advances by one; a beat begins. A cold start goes on by its own times (15 R410), and the chain counts from
its end. In Off and without load there is no tick, and only the board's readings move. DESIGN CHOICE (log 59). -/
def execChainTick (t : Telemetry) (s : State) : Out :=
  if !s.board.loadOn || s.pwr.st = 4 then .next { s with board := s.board.reads t }
  else
    match s.hub.boot with
    | some bf => .next ((s.readSensors t).bootStep bf)
    | none => .next (s.tick t)

/-! Functions (13 R342) -/

/-- VF_ENABLE: VFs 1 to NumVFs are enabled, or none. PRESUMED (log 44): a function that is removed is reset, as SR-IOV has it.
In recovery the endpoint has the physical function only (15 R409). -/
def execVfEnable (en : Bool) (num : Nat) (s : State) : Out :=
  if num > 512 then .fault .noSuchUnit
  else if !s.board.loadOn || s.hub.bootStage = 6 then .next s
  else
    let n := if en then num else 0
    let gone := s.liveCtxs.filter (fun f => decide (n < f) && (s.ctx f).enabled)
    let s := gone.foldl (fun s f => (s.resetContext f).resetMsix f) s
    let s := (List.range 513).foldl (fun s f =>
      if f = 0 || (s.ctx f).enabled == decide (f ≤ n) then s
      else s.modCtx f (fun x => { x with enabled := decide (f ≤ n) })) s
    .next { s with hub := { s.hub with vfs := n } }

end Sys2Proof.Machine
end

