-- ==== Sys2Proof/Machine/Dispatch.lean ====
section
/-!
DEFINITION. One arm per command: each arm calls that command's meaning.
-/

namespace Sys2Proof.Machine

/-- The effect of a command on everything but the queue. -/
def exec (i : Instr) (s : State) : Host.Outcome State Fault Refusal :=
  match i with
  | .emptyEll c idle => Sys2Proof.Machine.execEmptyEll c idle s
  | .add c e rd ra rb => Sys2Proof.Machine.execAdd c e rd ra rb s
  | .sub c e rd ra rb => Sys2Proof.Machine.execSub c e rd ra rb s
  | .and c e rd ra rb => Sys2Proof.Machine.execAnd c e rd ra rb s
  | .or c e rd ra rb => Sys2Proof.Machine.execOr c e rd ra rb s
  | .xor c e rd ra rb => Sys2Proof.Machine.execXor c e rd ra rb s
  | .shl c e rd ra rb => Sys2Proof.Machine.execShl c e rd ra rb s
  | .shr c e rd ra rb => Sys2Proof.Machine.execShr c e rd ra rb s
  | .sra c e rd ra rb => Sys2Proof.Machine.execSra c e rd ra rb s
  | .slt c e rd ra rb => Sys2Proof.Machine.execSlt c e rd ra rb s
  | .sltu c e rd ra rb => Sys2Proof.Machine.execSltu c e rd ra rb s
  | .mul c e rd ra rb => Sys2Proof.Machine.execMul c e rd ra rb s
  | .mulh c e rd ra rb => Sys2Proof.Machine.execMulh c e rd ra rb s
  | .mulhu c e rd ra rb => Sys2Proof.Machine.execMulhu c e rd ra rb s
  | .min c e rd ra rb => Sys2Proof.Machine.execMin c e rd ra rb s
  | .max c e rd ra rb => Sys2Proof.Machine.execMax c e rd ra rb s
  | .addi c e rd ra imm => Sys2Proof.Machine.execAddi c e rd ra imm s
  | .andi c e rd ra imm => Sys2Proof.Machine.execAndi c e rd ra imm s
  | .ori c e rd ra imm => Sys2Proof.Machine.execOri c e rd ra imm s
  | .xori c e rd ra imm => Sys2Proof.Machine.execXori c e rd ra imm s
  | .shli c e rd ra imm => Sys2Proof.Machine.execShli c e rd ra imm s
  | .shri c e rd ra imm => Sys2Proof.Machine.execShri c e rd ra imm s
  | .srai c e rd ra imm => Sys2Proof.Machine.execSrai c e rd ra imm s
  | .lui c e rd imm => Sys2Proof.Machine.execLui c e rd imm s
  | .lw c e rd ra imm => Sys2Proof.Machine.execLw c e rd ra imm s
  | .lbu c e rd ra imm => Sys2Proof.Machine.execLbu c e rd ra imm s
  | .sw c e rd ra imm => Sys2Proof.Machine.execSw c e rd ra imm s
  | .sb c e rd ra imm => Sys2Proof.Machine.execSb c e rd ra imm s
  | .beq c e ra rb off => Sys2Proof.Machine.execBeq c e ra rb off s
  | .bne c e ra rb off => Sys2Proof.Machine.execBne c e ra rb off s
  | .blt c e ra rb off => Sys2Proof.Machine.execBlt c e ra rb off s
  | .bge c e ra rb off => Sys2Proof.Machine.execBge c e ra rb off s
  | .bltu c e ra rb off => Sys2Proof.Machine.execBltu c e ra rb off s
  | .bgeu c e ra rb off => Sys2Proof.Machine.execBgeu c e ra rb off s
  | .jal c e rd off => Sys2Proof.Machine.execJal c e rd off s
  | .jalr c e rd ra imm => Sys2Proof.Machine.execJalr c e rd ra imm s
  | .loop c e lv ra imm => Sys2Proof.Machine.execLoop c e lv ra imm s
  | .lidx c e rd imm => Sys2Proof.Machine.execLidx c e rd imm s
  | .crr c e rd imm => Sys2Proof.Machine.execCrr c e rd imm s
  | .crw c e ra imm => Sys2Proof.Machine.execCrw c e ra imm s
  | .crs c e ra imm => Sys2Proof.Machine.execCrs c e ra imm s
  | .crc c e ra imm => Sys2Proof.Machine.execCrc c e ra imm s
  | .tpw c e rd ra rb => Sys2Proof.Machine.execTpw c e rd ra rb s
  | .trap c e imm => Sys2Proof.Machine.execTrap c e imm s
  | .eret c e => Sys2Proof.Machine.execEret c e s
  | .halt c e => Sys2Proof.Machine.execHalt c e s
  | .tile c e tp sh th oh nreg start final outv => Sys2Proof.Machine.execTile c e tp sh th oh nreg start final outv s
  | .sload c e tp sh maskreg csm1 => Sys2Proof.Machine.execSload c e tp sh maskreg csm1 s
  | .swap c e => Sys2Proof.Machine.execSwap c e s
  | .mstream c e tp th oh nbm1 csm1 start final outv => Sys2Proof.Machine.execMstream c e tp th oh nbm1 csm1 start final outv s
  | .tileStart c => Sys2Proof.Machine.execTileStart c s
  | .backgroundLoadStart c => Sys2Proof.Machine.execBackgroundLoadStart c s
  | .swapEffect c => Sys2Proof.Machine.execSwapEffect c s
  | .mstreamStart c => Sys2Proof.Machine.execMstreamStart c s
  | .resultColumn c => Sys2Proof.Machine.execResultColumn c s
  | .ldv c e h vd rs imm => Sys2Proof.Machine.execLdv c e h vd rs imm s
  | .lds c e h dst => Sys2Proof.Machine.execLds c e h dst s
  | .ldb c e h rs imm bank => Sys2Proof.Machine.execLdb c e h rs imm bank s
  | .dwr c e h rs widx => Sys2Proof.Machine.execDwr c e h rs widx s
  | .dadd c e h rs => Sys2Proof.Machine.execDadd c e h rs s
  | .stv c e h va rs imm => Sys2Proof.Machine.execStv c e h va rs imm s
  | .sts c e h dst => Sys2Proof.Machine.execSts c e h dst s
  | .stb c e h rs imm bank => Sys2Proof.Machine.execStb c e h rs imm bank s
  | .engineOpStart c store reply bad => Sys2Proof.Machine.execEngineOpStart c store reply bad s
  | .vadd c e f vd va vb => Sys2Proof.Machine.execVadd c e f vd va vb s
  | .vsub c e f vd va vb => Sys2Proof.Machine.execVsub c e f vd va vb s
  | .vmul c e f vd va vb => Sys2Proof.Machine.execVmul c e f vd va vb s
  | .vfma c e f vd va vb vc => Sys2Proof.Machine.execVfma c e f vd va vb vc s
  | .vdiv c e f vd va vb => Sys2Proof.Machine.execVdiv c e f vd va vb s
  | .vmin c e f vd va vb => Sys2Proof.Machine.execVmin c e f vd va vb s
  | .vmax c e f vd va vb => Sys2Proof.Machine.execVmax c e f vd va vb s
  | .vcmp c e f vd va vb cond => Sys2Proof.Machine.execVcmp c e f vd va vb cond s
  | .vsel c e f vd va vb vc => Sys2Proof.Machine.execVsel c e f vd va vb vc s
  | .vand c e vd va vb => Sys2Proof.Machine.execVand c e vd va vb s
  | .vor c e vd va vb => Sys2Proof.Machine.execVor c e vd va vb s
  | .vxor c e vd va vb => Sys2Proof.Machine.execVxor c e vd va vb s
  | .vmov c e vd va => Sys2Proof.Machine.execVmov c e vd va s
  | .vsplat c e vd rs => Sys2Proof.Machine.execVsplat c e vd rs s
  | .viota c e vd rs => Sys2Proof.Machine.execViota c e vd rs s
  | .viadd c e vd va vb => Sys2Proof.Machine.execViadd c e vd va vb s
  | .vrecip c e f vd va => Sys2Proof.Machine.execVrecip c e f vd va s
  | .vsqrt c e f vd va => Sys2Proof.Machine.execVsqrt c e f vd va s
  | .vrsqrt c e f vd va => Sys2Proof.Machine.execVrsqrt c e f vd va s
  | .vexp2 c e f vd va => Sys2Proof.Machine.execVexp2 c e f vd va s
  | .vlog2 c e f vd va => Sys2Proof.Machine.execVlog2 c e f vd va s
  | .vtanh c e f vd va => Sys2Proof.Machine.execVtanh c e f vd va s
  | .vsigm c e f vd va => Sys2Proof.Machine.execVsigm c e f vd va s
  | .verf c e f vd va => Sys2Proof.Machine.execVerf c e f vd va s
  | .vsinp c e f vd va => Sys2Proof.Machine.execVsinp c e f vd va s
  | .vcosp c e f vd va => Sys2Proof.Machine.execVcosp c e f vd va s
  | .vphase c e vd va sp sj => Sys2Proof.Machine.execVphase c e vd va sp sj s
  | .vrot c e f vd va vb vc => Sys2Proof.Machine.execVrot c e f vd va vb vc s
  | .vcvt c e vd va other sat part dir => Sys2Proof.Machine.execVcvt c e vd va other sat part dir s
  | .vmxq c e f vd va part => Sys2Proof.Machine.execVmxq c e f vd va part s
  | .vpack c e vd va vb => Sys2Proof.Machine.execVpack c e vd va vb s
  | .vunpk c e vd va half => Sys2Proof.Machine.execVunpk c e vd va half s
  | .vrmax c e f vd va => Sys2Proof.Machine.execVrmax c e f vd va s
  | .vrmin c e f vd va => Sys2Proof.Machine.execVrmin c e f vd va s
  | .vramax c e f vd va => Sys2Proof.Machine.execVramax c e f vd va s
  | .vaclr c e bank wbase => Sys2Proof.Machine.execVaclr c e bank wbase s
  | .vacc c e f va bank => Sys2Proof.Machine.execVacc c e f va bank s
  | .vrsum c e f va bank lane => Sys2Proof.Machine.execVrsum c e f va bank lane s
  | .vacsum c e bank => Sys2Proof.Machine.execVacsum c e bank s
  | .vacsumBankWrite c bank => Sys2Proof.Machine.execVacsumBankWrite c bank s
  | .vacvt c e f vd bank sat clr part => Sys2Proof.Machine.execVacvt c e f vd bank sat clr part s
  | .vrq c e vd => Sys2Proof.Machine.execVrq c e vd s
  | .fset c e vid => Sys2Proof.Machine.execFset c e vid s
  | .fclr c e vid => Sys2Proof.Machine.execFclr c e vid s
  | .fwait c e vid val autoclr => Sys2Proof.Machine.execFwait c e vid val autoclr s
  | .fwaitWake c => Sys2Proof.Machine.execFwaitWake c s
  | .barr c e vid nowait => Sys2Proof.Machine.execBarr c e vid nowait s
  | .digest c e => Sys2Proof.Machine.execDigest c e s
  | .fence c e mask => Sys2Proof.Machine.execFence c e mask s
  | .fenceRelease c => Sys2Proof.Machine.execFenceRelease c s
  | .event c e code => Sys2Proof.Machine.execEvent c e code s
  | .ftest c e vid rd => Sys2Proof.Machine.execFtest c e vid rd s
  | .flagViewUpdate flag c => Sys2Proof.Machine.execFlagViewUpdate flag c s
  | .barrierArrival bar => Sys2Proof.Machine.execBarrierArrival bar s
  | .barrierRelease bar => Sys2Proof.Machine.execBarrierRelease bar s
  | .digestHandover c => Sys2Proof.Machine.execDigestHandover c s
  | .layerDigestPost run ref => Sys2Proof.Machine.execLayerDigestPost run ref s
  | .deadlock run => Sys2Proof.Machine.execDeadlock run s
  | .objectBreak run => Sys2Proof.Machine.execObjectBreak run s
  | .trapEntry c => Sys2Proof.Machine.execTrapEntry c s
  | .hogsheadReissue c die chan off ok => Sys2Proof.Machine.execHogsheadReissue c die chan off ok s
  | .hogsheadRefresh die chan due => Sys2Proof.Machine.execHogsheadRefresh die chan due s
  | .stratumPatrol c rows => Sys2Proof.Machine.execStratumPatrol c rows s
  | .hogsheadPatrol die line => Sys2Proof.Machine.execHogsheadPatrol die line s
  | .coreScrub c => Sys2Proof.Machine.execCoreScrub c s
  | .scrubComplete c => Sys2Proof.Machine.execScrubComplete c s
  | .regionScrub die off len => Sys2Proof.Machine.execRegionScrub die off len s
  | .regionScrubComplete die off => Sys2Proof.Machine.execRegionScrubComplete die off s
  | .start c v => Sys2Proof.Machine.execStart c v s
  | .creditReturn c pool => Sys2Proof.Machine.execCreditReturn c pool s
  | .grainLanding c stream how => Sys2Proof.Machine.execGrainLanding c stream how s
  | .syncGrainLanding run how => Sys2Proof.Machine.execSyncGrainLanding run how s
  | .grainCollision run stop g1 g2 => Sys2Proof.Machine.execGrainCollision run stop g1 g2 s
  | .bestEffortInject stop increasing => Sys2Proof.Machine.execBestEffortInject stop increasing s
  | .grainForward g => Sys2Proof.Machine.execGrainForward g s
  | .fetch run => Sys2Proof.Machine.execFetch run s
  | .key run => Sys2Proof.Machine.execKey run s
  | .put run => Sys2Proof.Machine.execPut run s
  | .hubReply run core stream => Sys2Proof.Machine.execHubReply run core stream s
  | .codewordReceive port symbols => Sys2Proof.Machine.execCodewordReceive port symbols s
  | .controlGrain port arrival => Sys2Proof.Machine.execControlGrain port arrival s
  | .synced => Sys2Proof.Machine.execSynced s
  | .syncLost why => Sys2Proof.Machine.execSyncLost why s
  | .portGrainReceive port => Sys2Proof.Machine.execPortGrainReceive port s
  | .nakReceive port nak => Sys2Proof.Machine.execNakReceive port nak s
  | .resend port => Sys2Proof.Machine.execResend port s
  | .portTraining port partner system partnerPort eq0 eq1 micros => Sys2Proof.Machine.execPortTraining port partner system partnerPort eq0 eq1 micros s
  | .linkDown port why => Sys2Proof.Machine.execLinkDown port why s
  | .chainFull p => Sys2Proof.Machine.execChainFull p s
  | .ready p => Sys2Proof.Machine.execReady p s
  | .launch p => Sys2Proof.Machine.execLaunch p s
  | .abort p => Sys2Proof.Machine.execAbort p s
  | .pathLost p => Sys2Proof.Machine.execPathLost p s
  | .step p => Sys2Proof.Machine.execStep p s
  | .breakObjects p => Sys2Proof.Machine.execBreakObjects p s
  | .masterListenTimeout => Sys2Proof.Machine.execMasterListenTimeout s
  | .coordinationTimeout run => Sys2Proof.Machine.execCoordinationTimeout run s
  | .runLaunch run => Sys2Proof.Machine.execRunLaunch run s
  | .furlongBoundary run => Sys2Proof.Machine.execFurlongBoundary run s
  | .holdOriginate run => Sys2Proof.Machine.execHoldOriginate run s
  | .hold port p => Sys2Proof.Machine.execHold port p s
  | .periodStretch region => Sys2Proof.Machine.execPeriodStretch region s
  | .beatStall => Sys2Proof.Machine.execBeatStall s
  | .thermalStepRequest why => Sys2Proof.Machine.execThermalStepRequest why s
  | .stepUpRequest => Sys2Proof.Machine.execStepUpRequest s
  | .emergencyStall why => Sys2Proof.Machine.execEmergencyStall why s
  | .emergencyStallEnd why => Sys2Proof.Machine.execEmergencyStallEnd why s
  | .thermalTrip => Sys2Proof.Machine.execThermalTrip s
  | .powerStateEntry => Sys2Proof.Machine.execPowerStateEntry s
  | .powerStateExit => Sys2Proof.Machine.execPowerStateExit s
  | .hostTarget v => Sys2Proof.Machine.execHostTarget v s
  | .enterOff => Sys2Proof.Machine.execEnterOff s
  | .exitOff => Sys2Proof.Machine.execExitOff s
  | .pwrNextHiWrite v => Sys2Proof.Machine.execPwrNextHiWrite v s
  | .crossingCalibration lmin => Sys2Proof.Machine.execCrossingCalibration lmin s
  | .mode v => Sys2Proof.Machine.execMode v s
  | .sealLock v => Sys2Proof.Machine.execSealLock v s
  | .modeChangeApply => Sys2Proof.Machine.execModeChangeApply s
  | .detCntClear v => Sys2Proof.Machine.execDetCntClear v s
  | .detCertData => Sys2Proof.Machine.execDetCertData s
  | .counterLoRead off => Sys2Proof.Machine.execCounterLoRead off s
  | .rcRead f off => Sys2Proof.Machine.execRcRead f off s
  | .registerWrite f off v => Sys2Proof.Machine.execRegisterWrite f off v s
  | .enable v => Sys2Proof.Machine.execEnable v s
  | .bridgeTimeout run => Sys2Proof.Machine.execBridgeTimeout run s
  | .portEnable port v => Sys2Proof.Machine.execPortEnable port v s
  | .retrain port => Sys2Proof.Machine.execRetrain port s
  | .loopback port v => Sys2Proof.Machine.execLoopback port v s
  | .maint port v => Sys2Proof.Machine.execMaint port v s
  | .lnkCoreLoop v => Sys2Proof.Machine.execLnkCoreLoop v s
  | .sqTail f v => Sys2Proof.Machine.execSqTail f v s
  | .cqHead f v => Sys2Proof.Machine.execCqHead f v s
  | .eqHead f v => Sys2Proof.Machine.execEqHead f v s
  | .dqHead f v => Sys2Proof.Machine.execDqHead f v s
  | .ringsEn f v => Sys2Proof.Machine.execRingsEn f v s
  | .ctxIrqAck f v => Sys2Proof.Machine.execCtxIrqAck f v s
  | .ctxIrqTest f v => Sys2Proof.Machine.execCtxIrqTest f v s
  | .evcHack v => Sys2Proof.Machine.execEvcHack v s
  | .evcSwset w v => Sys2Proof.Machine.execEvcSwset w v s
  | .evcTgt src v => Sys2Proof.Machine.execEvcTgt src v s
  | .sourcePending src => Sys2Proof.Machine.execSourcePending src s
  | .withdrawn src => Sys2Proof.Machine.execWithdrawn src s
  | .delivery t => Sys2Proof.Machine.execDelivery t s
  | .entrySequence mp => Sys2Proof.Machine.execEntrySequence mp s
  | .exitSequence mp => Sys2Proof.Machine.execExitSequence mp s
  | .nop f e => Sys2Proof.Machine.execNop f e s
  | .tunLoad f e img => Sys2Proof.Machine.execTunLoad f e img s
  | .tunUnload f e => Sys2Proof.Machine.execTunUnload f e s
  | .run f e => Sys2Proof.Machine.execRun f e s
  | .request f e => Sys2Proof.Machine.execRequest f e s
  | .cancel f e => Sys2Proof.Machine.execCancel f e s
  | .stoneLoad f e stone => Sys2Proof.Machine.execStoneLoad f e stone s
  | .stoneUnmap f e => Sys2Proof.Machine.execStoneUnmap f e s
  | .grant f e => Sys2Proof.Machine.execGrant f e s
  | .revokeGrant f e => Sys2Proof.Machine.execRevokeGrant f e s
  | .ctxKill f e => Sys2Proof.Machine.execCtxKill f e s
  | .preempt f e => Sys2Proof.Machine.execPreempt f e s
  | .resume f e image => Sys2Proof.Machine.execResume f e image s
  | .pmOptin f e pubkey => Sys2Proof.Machine.execPmOptin f e pubkey s
  | .debugConsent f e => Sys2Proof.Machine.execDebugConsent f e s
  | .release f e => Sys2Proof.Machine.execRelease f e s
  | .runAdmission run => Sys2Proof.Machine.execRunAdmission run s
  | .runComplete run => Sys2Proof.Machine.execRunComplete run s
  | .requestEligible run reqId input => Sys2Proof.Machine.execRequestEligible run reqId input s
  | .stoneResident copy => Sys2Proof.Machine.execStoneResident copy s
  | .stratumRewrite copy chunks hogshead unit addr => Sys2Proof.Machine.execStratumRewrite copy chunks hogshead unit addr s
  | .program => Sys2Proof.Machine.execProgram s
  | .revoke => Sys2Proof.Machine.execRevoke s
  | .ingAnchorData write => Sys2Proof.Machine.execIngAnchorData write s
  | .ingRevokeData v => Sys2Proof.Machine.execIngRevokeData v s
  | .revokeAdd => Sys2Proof.Machine.execRevokeAdd s
  | .dutySplitApply => Sys2Proof.Machine.execDutySplitApply s
  | .hubDumpBaseWrite hi v => Sys2Proof.Machine.execHubDumpBaseWrite hi v s
  | .hubResetCold => Sys2Proof.Machine.execHubResetCold s
  | .hubResetWarm => Sys2Proof.Machine.execHubResetWarm s
  | .hubCoreReset v => Sys2Proof.Machine.execHubCoreReset v s
  | .stage img => Sys2Proof.Machine.execStage img s
  | .activate => Sys2Proof.Machine.execActivate s
  | .raiseFloor => Sys2Proof.Machine.execRaiseFloor s
  | .fwCancel => Sys2Proof.Machine.execFwCancel s
  | .firmwareActivation => Sys2Proof.Machine.execFirmwareActivation s
  | .trialTimeout => Sys2Proof.Machine.execTrialTimeout s
  | .hubRepairReq v => Sys2Proof.Machine.execHubRepairReq v s
  | .repairApply => Sys2Proof.Machine.execRepairApply s
  | .coldReset st bf => Sys2Proof.Machine.execColdReset st bf s
  | .warmReset => Sys2Proof.Machine.execWarmReset s
  | .pfFunctionLevelReset => Sys2Proof.Machine.execPfFunctionLevelReset s
  | .contextReset f => Sys2Proof.Machine.execContextReset f s
  | .fatalError cause => Sys2Proof.Machine.execFatalError cause s
  | .mpWatchdog => Sys2Proof.Machine.execMpWatchdog s
  | .pllUnlock => Sys2Proof.Machine.execPllUnlock s
  | .railFault => Sys2Proof.Machine.execRailFault s
  | .inputExcursion => Sys2Proof.Machine.execInputExcursion s
  | .inputSupply => Sys2Proof.Machine.execInputSupply s
  | .loadLoss => Sys2Proof.Machine.execLoadLoss s
  | .malformedTlp correctable => Sys2Proof.Machine.execMalformedTlp correctable s
  | .capability => Sys2Proof.Machine.execCapability s
  | .statusWord => Sys2Proof.Machine.execStatusWord s
  | .statusInput clear => Sys2Proof.Machine.execStatusInput clear s
  | .statusTemperature clear => Sys2Proof.Machine.execStatusTemperature clear s
  | .statusCml clear => Sys2Proof.Machine.execStatusCml clear s
  | .readVin => Sys2Proof.Machine.execReadVin s
  | .readIin => Sys2Proof.Machine.execReadIin s
  | .readPin => Sys2Proof.Machine.execReadPin s
  | .readTemperature1 => Sys2Proof.Machine.execReadTemperature1 s
  | .readTemperature2 => Sys2Proof.Machine.execReadTemperature2 s
  | .readTemperature3 => Sys2Proof.Machine.execReadTemperature3 s
  | .mfrStepCap write => Sys2Proof.Machine.execMfrStepCap write s
  | .mfrState => Sys2Proof.Machine.execMfrState s
  | .unsupportedCommand code badPec => Sys2Proof.Machine.execUnsupportedCommand code badPec s
  | .bypass tdi => Sys2Proof.Machine.execBypass tdi s
  | .idcode => Sys2Proof.Machine.execIdcode s
  | .samplePreload pins => Sys2Proof.Machine.execSamplePreload pins s
  | .extest pins => Sys2Proof.Machine.execExtest pins s
  | .chainTick t => Sys2Proof.Machine.execChainTick t s
  | .vfEnable en num => Sys2Proof.Machine.execVfEnable en num s
  | .trialOk => Sys2Proof.Machine.execTrialOk s

end Sys2Proof.Machine
end

