-- ==== Sys2Proof/Safety.lean ====
section
/-!
DEFINITION. What counts as a safe state, and the terms in which statements speak of an ell: every memory of the module is in
canonical form; a core is ready to issue an ell; the core as the ell sees it and as it leaves it.
-/

namespace Sys2Proof.Machine

/-- Every memory of a core is in canonical form. -/
def Core.memOk (k : Core) : Bool := k.imem.wf && k.dmem.wf && k.spad.wf && k.strat.wf

/-- Every memory that a saved run keeps is in canonical form. -/
def Run.memOk (x : Run) : Bool :=
  match x.preempt with
  | some p => p.cores.all (fun q => q.2.memOk)
  | none => true

/-- Every memory of the module is in canonical form. -/
def State.memOk (s : State) : Bool :=
  s.cores.all (fun p => p.2.memOk) && s.ellSaved.all (fun p => p.2.memOk) && s.hg.all (fun p => p.2.mem.wf) &&
    s.runs.all (fun p => p.2.memOk) && s.hostMem.wf && Mem.wf s.ing.stageKey && Mem.wf s.ing.revStage

/-- Core `c` is ready for an ell whose first slot has `par` parcels: the core is present, no ell of it is open, and nothing
keeps the ell from issuing (05 R134, R143, R145, R160). -/
def State.ready (s : State) (c par : Nat) (full : Core → Bool) : Prop :=
  s.hasCore c = true ∧ (s.core c).ell = none ∧ s.openBlock c par full = none ∧ kfind s.ellSaved c = none

/-- The core as an ell that issues now sees it: the writes due are visible (05 R135). -/
def State.seen (s : State) (c : Nat) : Core := { (s.core c).retire (s.core c).scyc with waitQ := false }

/-- A core whose ell of `n` parcels has issued and no branch was taken: the words that its fetch corrected and the loops that end
here are counted, the next ell issues after POST further cycles (05 R138, R147; 07 R185). -/
def Core.fallThrough (k : Core) (n post : Nat) : Core :=
  let k := k.noteFetch n
  let p := if k.inHandler then (k.loops, k.pc + n) else loopsAtEnd k.loops k.pc (k.pc + n) 4
  { k with loops := p.1, pc := p.2, scyc := k.scyc + 1 + post, ell := none }

/-- The same where the ell has taken a branch to `t`: the target issues 3 cycles later, and the loops whose bodies do not
hold it are left (05 R148, R155). -/
def Core.branched (k : Core) (n t post : Nat) : Core :=
  let k := k.noteFetch n
  { k with
    loops := if k.inHandler then k.loops else loopsAfterBranch k.loops t 4 0
    pc := t
    scyc := max (k.scyc + 3) (k.scyc + 1 + post)
    ell := none }

end Sys2Proof.Machine
end

