-- ==== Sys2Proof/Certificates/Slice0/Obligations.lean ====
section
/-!
DEFINITION. The statements for the provers. The tables of Sys2Proof.Claims restate, command by command, what the rules of
spec/ give; the statements tie them to `exec` and `step`.
-/

namespace Sys2Proof.Claims

open Sys2Proof.Machine

/-- The scalar operations that write a register: core, end of the ell, register, latency and result (05 R144, R155); none for
an encoding that R144 reserves. -/
def scalarResult : Instr → Option (Nat × EllEnd × BitVec 5 × Nat × (Core → Word))
  | .add c e rd ra rb => some (c, e, rd, 1, fun k => k.s ra + k.s rb)
  | .sub c e rd ra rb => some (c, e, rd, 1, fun k => k.s ra - k.s rb)
  | .and c e rd ra rb => some (c, e, rd, 1, fun k => k.s ra &&& k.s rb)
  | .or c e rd ra rb => some (c, e, rd, 1, fun k => k.s ra ||| k.s rb)
  | .xor c e rd ra rb => some (c, e, rd, 1, fun k => k.s ra ^^^ k.s rb)
  | .shl c e rd ra rb => some (c, e, rd, 1, fun k => k.s ra <<< ((k.s rb).toNat % 32))
  | .shr c e rd ra rb => some (c, e, rd, 1, fun k => k.s ra >>> ((k.s rb).toNat % 32))
  | .sra c e rd ra rb => some (c, e, rd, 1, fun k => (k.s ra).sshiftRight ((k.s rb).toNat % 32))
  | .slt c e rd ra rb => some (c, e, rd, 1, fun k => if (k.s ra).toInt < (k.s rb).toInt then 1 else 0)
  | .sltu c e rd ra rb => some (c, e, rd, 1, fun k => if (k.s ra).toNat < (k.s rb).toNat then 1 else 0)
  | .mul c e rd ra rb => some (c, e, rd, 3, fun k => ((k.s ra).setWidth 64 * (k.s rb).setWidth 64).setWidth 32)
  | .mulh c e rd ra rb =>
    some (c, e, rd, 3, fun k => ((k.s ra).signExtend 64 * (k.s rb).signExtend 64).extractLsb' 32 32)
  | .mulhu c e rd ra rb => some (c, e, rd, 3, fun k => ((k.s ra).setWidth 64 * (k.s rb).setWidth 64).extractLsb' 32 32)
  | .min c e rd ra rb => some (c, e, rd, 1, fun k => if (k.s ra).toInt ≤ (k.s rb).toInt then k.s ra else k.s rb)
  | .max c e rd ra rb => some (c, e, rd, 1, fun k => if (k.s ra).toInt ≤ (k.s rb).toInt then k.s rb else k.s ra)
  | .addi c e rd ra imm => some (c, e, rd, 1, fun k => k.s ra + imm.signExtend 32)
  | .andi c e rd ra imm => some (c, e, rd, 1, fun k => k.s ra &&& imm.setWidth 32)
  | .ori c e rd ra imm => some (c, e, rd, 1, fun k => k.s ra ||| imm.setWidth 32)
  | .xori c e rd ra imm => some (c, e, rd, 1, fun k => k.s ra ^^^ imm.setWidth 32)
  | .shli c e rd ra imm => if imm.toNat < 32 then some (c, e, rd, 1, fun k => k.s ra <<< imm.toNat) else none
  | .shri c e rd ra imm => if imm.toNat < 32 then some (c, e, rd, 1, fun k => k.s ra >>> imm.toNat) else none
  | .srai c e rd ra imm => if imm.toNat < 32 then some (c, e, rd, 1, fun k => (k.s ra).sshiftRight imm.toNat) else none
  | .lui c e rd imm => some (c, e, rd, 1, fun _ => imm ++ (0 : BitVec 16))
  | .lidx c e rd imm =>
    if imm.toNat < 4 then
      some (c, e, rd, 1, fun k =>
        let v := k.loops.getD imm.toNat LoopLevel.idle
        if v.active then BitVec.ofNat 32 v.index else 0)
    else none
  | _ => none

end Sys2Proof.Claims

open Sys2Proof Sys2Proof.Machine Sys2Proof.Claims in
/-- A step runs the command at the front of the queue. For every command and state, the step of the state whose queue
begins with the command is exec of the command on that state with the rest of the queue; with an empty queue the
step leaves the state as it is, which is the model's choice (log 10). -/
def Obligations.StepRunsFrontCommand : Prop :=
  (∀ (i : Instr) (rest : List Instr) (s : State),
    step { s with pending := i :: rest } = exec i { s with pending := rest }) ∧
  (∀ s : State, s.pending = [] → step s = .next s)

open Sys2Proof Sys2Proof.Machine Sys2Proof.Claims in
/-- Scalar operations write one register after their latency, and nothing else. ADD to MAX, ADDI to SRAI, LUI and LIDX,
alone in an ell of a core that is ready to issue, answer a next state: the result of R144, from the registers as the
ell sees them, is scheduled for rd at issue plus the latency of R155; the core goes on after the ell, and everything
else of the state is as before. -/
def Obligations.ScalarResults : Prop :=
  ∀ (s : State) (i : Instr) (c : Nat) (p : BitVec 4) (rd : BitVec 5) (lat : Nat) (v : Core → Word),
    scalarResult i = some (c, .last p, rd, lat, v) → s.ready c 2 noQueue →
      exec i s = .next (s.setCore c
        (((s.seen c).later lat false (.sreg rd (v (s.seen c)))).fallThrough 3 p.toNat))

open Sys2Proof Sys2Proof.Machine Sys2Proof.Claims in
/-- A scheduled register write is seen from its cycle on, and of two that become visible in one cycle the later-issued
one is kept. A result with latency l, scheduled in cycle i on a core with no other write on its way, is read by an
ell that issues in cycle i + l or later; an ell that issues earlier reads the previous value; no other scalar
register changes; s0 reads 0 whatever is written. Of two writes of scalar register r that become visible in the same
cycle the one issued later stands, and of two issued in one cycle that of the load or sync slot, in whichever order
they were scheduled. -/
def Obligations.WritesSeenAfterLatency : Prop :=
  (∀ (k : Core) (lat cyc : Nat) (late : Bool) (r q : BitVec 5) (v : Word), k.pendW = [] →
    ((k.later lat late (.sreg r v)).retire cyc).s q =
      (if q = 0 then 0 else if q = r ∧ k.scyc + lat ≤ cyc then v else k.s q)) ∧
  (∀ (k : Core) (cyc ia ib : Nat) (la lb : Bool) (r : BitVec 5) (va vb : Word), r ≠ 0 →
    (ia < ib ∨ (ia = ib ∧ la = false ∧ lb = true)) →
      let a : PendWrite := { cyc := cyc, issued := ia, late := la, tgt := .sreg r va }
      let b : PendWrite := { cyc := cyc, issued := ib, late := lb, tgt := .sreg r vb }
      (({ k with pendW := pendInsert a (pendInsert b []) } : Core).retire cyc).s r = vb ∧
      (({ k with pendW := pendInsert b (pendInsert a []) } : Core).retire cyc).s r = vb)

open Sys2Proof Sys2Proof.Machine Sys2Proof.Claims in
/-- s0 reads as 0, and writes to it are ignored. Register s0 of every core reads 0, and a write to it leaves the core as
it is. -/
def Obligations.S0ReadsZero : Prop :=
  ∀ (k : Core) (v : Word), k.s 0 = 0 ∧ k.apply (.sreg 0 v) = k

namespace Sys2Proof.Claims

open Sys2Proof.Machine

/-- The slot commands: core, slot number in the order of R139, end of the ell. -/
def slotOf : Instr → Option (Nat × Nat × EllEnd)
  | .add c e _ _ _ => some (c, 0, e)
  | .sub c e _ _ _ => some (c, 0, e)
  | .and c e _ _ _ => some (c, 0, e)
  | .or c e _ _ _ => some (c, 0, e)
  | .xor c e _ _ _ => some (c, 0, e)
  | .shl c e _ _ _ => some (c, 0, e)
  | .shr c e _ _ _ => some (c, 0, e)
  | .sra c e _ _ _ => some (c, 0, e)
  | .slt c e _ _ _ => some (c, 0, e)
  | .sltu c e _ _ _ => some (c, 0, e)
  | .mul c e _ _ _ => some (c, 0, e)
  | .mulh c e _ _ _ => some (c, 0, e)
  | .mulhu c e _ _ _ => some (c, 0, e)
  | .min c e _ _ _ => some (c, 0, e)
  | .max c e _ _ _ => some (c, 0, e)
  | .addi c e _ _ _ => some (c, 0, e)
  | .andi c e _ _ _ => some (c, 0, e)
  | .ori c e _ _ _ => some (c, 0, e)
  | .xori c e _ _ _ => some (c, 0, e)
  | .shli c e _ _ _ => some (c, 0, e)
  | .shri c e _ _ _ => some (c, 0, e)
  | .srai c e _ _ _ => some (c, 0, e)
  | .lui c e _ _ => some (c, 0, e)
  | .lw c e _ _ _ => some (c, 0, e)
  | .lbu c e _ _ _ => some (c, 0, e)
  | .sw c e _ _ _ => some (c, 0, e)
  | .sb c e _ _ _ => some (c, 0, e)
  | .beq c e _ _ _ => some (c, 0, e)
  | .bne c e _ _ _ => some (c, 0, e)
  | .blt c e _ _ _ => some (c, 0, e)
  | .bge c e _ _ _ => some (c, 0, e)
  | .bltu c e _ _ _ => some (c, 0, e)
  | .bgeu c e _ _ _ => some (c, 0, e)
  | .jal c e _ _ => some (c, 0, e)
  | .jalr c e _ _ _ => some (c, 0, e)
  | .loop c e _ _ _ => some (c, 0, e)
  | .lidx c e _ _ => some (c, 0, e)
  | .crr c e _ _ => some (c, 0, e)
  | .crw c e _ _ => some (c, 0, e)
  | .crs c e _ _ => some (c, 0, e)
  | .crc c e _ _ => some (c, 0, e)
  | .tpw c e _ _ _ => some (c, 0, e)
  | .trap c e _ => some (c, 0, e)
  | .eret c e => some (c, 0, e)
  | .halt c e => some (c, 0, e)
  | .vadd c e _ _ _ _ => some (c, 1, e)
  | .vsub c e _ _ _ _ => some (c, 1, e)
  | .vmul c e _ _ _ _ => some (c, 1, e)
  | .vfma c e _ _ _ _ _ => some (c, 1, e)
  | .vdiv c e _ _ _ _ => some (c, 1, e)
  | .vmin c e _ _ _ _ => some (c, 1, e)
  | .vmax c e _ _ _ _ => some (c, 1, e)
  | .vcmp c e _ _ _ _ _ => some (c, 1, e)
  | .vsel c e _ _ _ _ _ => some (c, 1, e)
  | .vand c e _ _ _ => some (c, 1, e)
  | .vor c e _ _ _ => some (c, 1, e)
  | .vxor c e _ _ _ => some (c, 1, e)
  | .vmov c e _ _ => some (c, 1, e)
  | .vsplat c e _ _ => some (c, 1, e)
  | .viota c e _ _ => some (c, 1, e)
  | .viadd c e _ _ _ => some (c, 1, e)
  | .vrecip c e _ _ _ => some (c, 1, e)
  | .vsqrt c e _ _ _ => some (c, 1, e)
  | .vrsqrt c e _ _ _ => some (c, 1, e)
  | .vexp2 c e _ _ _ => some (c, 1, e)
  | .vlog2 c e _ _ _ => some (c, 1, e)
  | .vtanh c e _ _ _ => some (c, 1, e)
  | .vsigm c e _ _ _ => some (c, 1, e)
  | .verf c e _ _ _ => some (c, 1, e)
  | .vsinp c e _ _ _ => some (c, 1, e)
  | .vcosp c e _ _ _ => some (c, 1, e)
  | .vphase c e _ _ _ _ => some (c, 1, e)
  | .vrot c e _ _ _ _ _ => some (c, 1, e)
  | .vcvt c e _ _ _ _ _ _ => some (c, 1, e)
  | .vmxq c e _ _ _ _ => some (c, 1, e)
  | .vpack c e _ _ _ => some (c, 1, e)
  | .vunpk c e _ _ _ => some (c, 1, e)
  | .vrmax c e _ _ _ => some (c, 1, e)
  | .vrmin c e _ _ _ => some (c, 1, e)
  | .vramax c e _ _ _ => some (c, 1, e)
  | .vaclr c e _ _ => some (c, 1, e)
  | .vacc c e _ _ _ => some (c, 1, e)
  | .vrsum c e _ _ _ _ => some (c, 1, e)
  | .vacsum c e _ => some (c, 1, e)
  | .vacvt c e _ _ _ _ _ _ => some (c, 1, e)
  | .vrq c e _ => some (c, 1, e)
  | .tile c e _ _ _ _ _ _ _ _ => some (c, 2, e)
  | .sload c e _ _ _ _ => some (c, 2, e)
  | .swap c e => some (c, 2, e)
  | .mstream c e _ _ _ _ _ _ _ _ => some (c, 2, e)
  | .ldv c e _ _ _ _ => some (c, 3, e)
  | .lds c e _ _ => some (c, 3, e)
  | .ldb c e _ _ _ _ => some (c, 3, e)
  | .dwr c e _ _ _ => some (c, 3, e)
  | .dadd c e _ _ => some (c, 3, e)
  | .stv c e _ _ _ _ => some (c, 4, e)
  | .sts c e _ _ => some (c, 4, e)
  | .stb c e _ _ _ _ => some (c, 4, e)
  | .fset c e _ => some (c, 5, e)
  | .fclr c e _ => some (c, 5, e)
  | .fwait c e _ _ _ => some (c, 5, e)
  | .barr c e _ _ => some (c, 5, e)
  | .digest c e => some (c, 5, e)
  | .fence c e _ => some (c, 5, e)
  | .event c e _ => some (c, 5, e)
  | .ftest c e _ _ => some (c, 5, e)
  | _ => none

end Sys2Proof.Claims

open Sys2Proof Sys2Proof.Machine Sys2Proof.Claims in
/-- Every slot command of a present core answers a next state, unless it breaks the order of slots. A slot command of a
core the module does not have stops with noSuchUnit; one that does not come after the slots already in the core's
open ell in the order of R139 stops with slotOrder; in every other state, whatever holds the core and whatever its
operands, the command answers a next state, and where another slot is to follow the ell stays open. The two stops
are the model's choice (log 77). -/
def Obligations.SlotsComplete : Prop :=
  ∀ (s : State) (i : Instr) (c n : Nat) (e : EllEnd), slotOf i = some (c, n, e) →
    (s.hasCore c = false → exec i s = .fault .noSuchUnit) ∧
    (∀ l, s.hasCore c = true → (s.core c).ell = some l → 2 ^ n ≤ l.slots.toNat → exec i s = .fault .slotOrder) ∧
    (s.hasCore c = true → (∀ l, (s.core c).ell = some l → l.slots.toNat < 2 ^ n) →
      ∃ t, exec i s = .next t ∧ (e = .more → (t.core c).ell.isSome = true))

open Sys2Proof Sys2Proof.Machine Sys2Proof.Claims in
/-- A held core issues nothing. Where the module is stalled, no active run occupies the core, the core has halted or a
FWAIT, BARR or FENCE holds it, a slot command that is alone in its ell leaves the whole state as it was, save that
the core is listed. -/
def Obligations.HeldCoreIssuesNothing : Prop :=
  ∀ (s : State) (i : Instr) (c n : Nat) (p : BitVec 4), slotOf i = some (c, n, .last p) →
    s.hasCore c = true → (s.core c).ell = none → kfind s.ellSaved c = none →
    (s.stalled = true ∨ s.issuing c = false ∨ ((s.core c).asyncQ = [] ∧ (s.core c).hold ≠ .free)) →
      exec i s = .next (s.setCore c (s.core c))

open Sys2Proof Sys2Proof.Machine Sys2Proof.Claims in
/-- An empty ell issues nothing and occupies IDLE + 1 cycles. EMPTY_ELL of a core that is ready moves the core to the
next ell one parcel on and IDLE + 1 cycles later; nothing else changes but what the loops that end there do. -/
def Obligations.EmptyEll : Prop :=
  ∀ (s : State) (c : Nat) (idle : BitVec 10), s.ready c 0 noQueue →
    exec (.emptyEll c idle) s = .next (s.setCore c ((s.seen c).fallThrough 1 idle.toNat))

open Sys2Proof Sys2Proof.Machine Sys2Proof.Claims in
/-- An ell whose load, store or matrix slot finds its queue full does not issue. LDV, LDS and LDB with eight operations
in the load queue, STV, STS and STB with eight in the store queue, and TILE, SLOAD, SWAP and MSTREAM with two in the
command queue do not issue: the core is left to wait for the queue, and nothing else changes. -/
def Obligations.FullQueueHolds : Prop :=
  ∀ (s : State) (i : Instr) (c n : Nat) (p : BitVec 4), slotOf i = some (c, n, .last p) → s.ready c 3 noQueue →
    (∀ h rs w, i ≠ .dwr c (.last p) h rs w) → (∀ h rs, i ≠ .dadd c (.last p) h rs) →
    ((n = 2 ∧ 2 ≤ (s.core c).arr.queue.length) ∨ (n = 3 ∧ 8 ≤ (s.core c).eng.loadQ.length) ∨
      (n = 4 ∧ 8 ≤ (s.core c).eng.storeQ.length)) →
      exec i s = .next (s.setCore c { s.core c with waitQ := true })

namespace Sys2Proof.Claims

open Sys2Proof.Machine

/-- Format fields D and C of R179. -/
def fmtD (f : BitVec 4) : Bool := f.toNat == 0xC || f.toNat == 0xD

/-- Format fields D and U of R179. -/
def fmtU (f : BitVec 4) : Bool := f.toNat == 0xD || f.toNat == 0xF

/-- Width of the elements of a format code (05 R150). -/
def widthOf (code : Nat) : Nat :=
  if code ≤ 2 then 4 else if code ≤ 6 then 6 else if code ≤ 0xB then 8 else if code = 0xC then 16 else 32

/-- Part p of 64 elements of a format code lies within a register (R177). -/
def partFits (code : Nat) (part : BitVec 3) : Bool := decide (64 * widthOf code * (part.toNat + 1) ≤ 2048)

/-- The codes of the formats narrower than binary32 that VCVT and VACVT convert: no MX code, no raw records (R179). -/
def narrowCode (code : Nat) : Bool := [0, 2, 3, 4, 7, 8, 0xB, 0xC].contains code

/-- The MX codes (05 R150). -/
def mxCode (code : Nat) : Bool := [1, 5, 6, 9, 0xA].contains code

/-- The number of the first register of a pair is even. -/
def even (r : BitVec 5) : Bool := r.toNat % 2 == 0

/-- The vector operations whose operand fields R179 reserves for some values: core, end of the ell, and the values that it
allows. -/
def vecAllows : Instr → Option (Nat × EllEnd × Bool)
  | .vadd c e f _ _ _ => some (c, e, fmtD f)
  | .vsub c e f _ _ _ => some (c, e, fmtD f)
  | .vmul c e f _ _ _ => some (c, e, fmtD f)
  | .vfma c e f _ _ _ _ => some (c, e, fmtD f)
  | .vdiv c e f _ _ _ => some (c, e, fmtD f)
  | .vmin c e f _ _ _ => some (c, e, fmtD f)
  | .vmax c e f _ _ _ => some (c, e, fmtD f)
  | .vcmp c e f _ _ _ cond => some (c, e, fmtD f && cond != 7)
  | .vsel c e f _ _ _ _ => some (c, e, fmtD f)
  | .vrecip c e f _ _ => some (c, e, fmtD f)
  | .vsqrt c e f _ _ => some (c, e, fmtD f)
  | .vrsqrt c e f _ _ => some (c, e, fmtD f)
  | .vexp2 c e f _ _ => some (c, e, fmtD f)
  | .vlog2 c e f _ _ => some (c, e, fmtD f)
  | .vtanh c e f _ _ => some (c, e, fmtD f)
  | .vsigm c e f _ _ => some (c, e, fmtD f)
  | .verf c e f _ _ => some (c, e, fmtD f)
  | .vsinp c e f _ va => some (c, e, fmtU f && even va)
  | .vcosp c e f _ va => some (c, e, fmtU f && even va)
  | .vphase c e vd va _ _ => some (c, e, even vd && even va)
  | .vrot c e f vd _ _ vc => some (c, e, fmtU f && even vd && even vc)
  | .vcvt c e _ _ other _ part _ => some (c, e, narrowCode other.toNat && partFits other.toNat part)
  | .vmxq c e f vd _ part => some (c, e, mxCode f.toNat && even vd && partFits f.toNat part)
  | .vrmax c e f _ _ => some (c, e, fmtD f)
  | .vrmin c e f _ _ => some (c, e, fmtD f)
  | .vramax c e f _ _ => some (c, e, fmtD f)
  | .vacc c e f _ _ => some (c, e, fmtD f)
  | .vrsum c e f _ _ _ => some (c, e, fmtD f)
  | .vacvt c e f _ _ _ _ part =>
    some (c, e, (fmtU f && part.toNat == 0) || (!fmtU f && narrowCode f.toNat && partFits f.toNat part))
  | _ => none

/-- The encodings that R144, R146, R152, R172 and R179 reserve: core, slot, end of the ell. -/
def reserved : Instr → Option (Nat × Nat × EllEnd)
  | .shli c e _ _ imm => if 32 ≤ imm.toNat then some (c, 0, e) else none
  | .shri c e _ _ imm => if 32 ≤ imm.toNat then some (c, 0, e) else none
  | .srai c e _ _ imm => if 32 ≤ imm.toNat then some (c, 0, e) else none
  | .lidx c e _ imm => if 4 ≤ imm.toNat then some (c, 0, e) else none
  | .loop c e lv _ _ => if 4 ≤ lv.toNat then some (c, 0, e) else none
  | .crr c e _ imm => if 0x0D ≤ imm.toNat then some (c, 0, e) else none
  | .crw c e _ imm => if 0x0D ≤ imm.toNat then some (c, 0, e) else none
  | .crs c e _ imm => if 0x0D ≤ imm.toNat then some (c, 0, e) else none
  | .crc c e _ imm => if 0x0D ≤ imm.toNat then some (c, 0, e) else none
  | .tpw c e rd _ _ => if 16 ≤ rd.toNat then some (c, 0, e) else none
  | .sload c e _ _ m _ => if m.toNat % 2 = 1 then some (c, 2, e) else none
  | .dwr c e _ _ w => if 24 ≤ w.toNat then some (c, 3, e) else none
  | i =>
    match vecAllows i with
    | some (c, e, allowed) => if allowed then none else some (c, 1, e)
    | none => none

end Sys2Proof.Claims

open Sys2Proof Sys2Proof.Machine Sys2Proof.Claims in
/-- A reserved encoding is ILLEGAL and its ell does not issue. A slot whose encoding R144, R146, R152, R172 or R179
reserves, alone in an ell that is ready, takes the precise cause ILLEGAL of its slot: the trap is taken on the core
as it stood before the ell, the words that its fetch corrected being counted. -/
def Obligations.ReservedEncodingsTrap : Prop :=
  ∀ (s : State) (i : Instr) (c n : Nat) (p : BitVec 4), reserved i = some (c, n, .last p) →
    s.ready c (if n = 0 then 2 else 3) noQueue → (n = 2 → (s.core c).arr.queue.length < 2) →
      exec i s = .next ((s.setCore c ((s.core c).noteFetch (if n = 0 then 3 else 4))).precise c
        { code := 0x01, info := BitVec.ofNat 32 n })

open Sys2Proof Sys2Proof.Machine Sys2Proof.Claims in
/-- Taking a trap saves the cause, the ell and the loop state, and issues the handler 7 cycles later. A precise cause of
a core that runs no handler and whose TRAP_VEC is an ell start, or the lowest asynchronous cause pending in that
cycle: TRAP_CAUSE with ASYNC, TRAP_INFO and TRAP_PC are set, the loop state and the hold are frozen, and the
handler's first ell issues 7 cycles after the cause; nothing else of the core but the register writes then due
changes, and no other part of the state. For BROKEN_OBJECT as the asynchronous cause the hold of a FWAIT or BARR
ends for good and is not frozen; the hold of a FENCE is. -/
def Obligations.TrapEntry : Prop :=
  ∀ (s : State) (c : Nat) (x : Cause) (ys xs : List Cause),
    let k := (s.core c).retire (s.core c).scyc
    let entered := fun (k : Core) (async : Nat) =>
      { k with
        ctl := { k.ctl with
          trapCause := BitVec.ofNat 32 (x.code.toNat + 256 * async), trapInfo := x.info, trapPc := BitVec.ofNat 32 k.pc }
        frozen := some (k.loops, k.hold), hold := .free, waitQ := false, inHandler := true, ell := none,
        pc := k.ctl.trapVec.toNat, scyc := k.scyc + 7 }
    k.ctl.trapVec.toNat < 65536 → k.starts.contains k.ctl.trapVec.toNat = true →
      (k.inHandler = false → s.precise c x = s.setCore c (entered k 0)) ∧
      ((s.core c).asyncQ = ys ++ x :: xs → (∀ y, y ∈ ys → (s.core c).scyc < y.cyc) → x.cyc ≤ (s.core c).scyc →
        (x.code ≠ 0x09 → s.takeAsync c = s.setCore c (entered { k with asyncQ := ys ++ xs } 1)) ∧
        (x.code = 0x09 → s.takeAsync c = s.setCore c
          (entered { k with asyncQ := ys ++ xs, hold := (match k.hold with | .fence m i => .fence m i | _ => .free) } 1)))

open Sys2Proof Sys2Proof.Machine Sys2Proof.Claims in
/-- A fault with no handler to take it halts the core with ABORTED. A precise cause while a handler runs, or with
TRAP_VEC at or beyond the end of instruction memory, halts the core, sets EXITST to ABORTED (BROKEN_OBJECT for that
cause with no handler) and records the cause in the fatal dump record. -/
def Obligations.NoHandlerHalts : Prop :=
  ∀ (s : State) (c : Nat) (x : Cause),
    let k := (s.core c).retire (s.core c).scyc
    (s.core c).asyncQ = [] → ((s.core c).inHandler = true ∨ 65536 ≤ k.ctl.trapVec.toNat) →
      ((s.precise c x).core c).halted = true ∧ ((s.precise c x).core c).ell = none ∧
      ((s.precise c x).core c).fatalRec = some [x.code] ∧
      ((s.precise c x).core c).ctl.exitst =
        (if x.code = 0x09 ∧ (s.core c).inHandler = false then 0x08 else 0x06)

open Sys2Proof Sys2Proof.Machine Sys2Proof.Claims in
/-- TRAP traps after its ell issues, ERET returns to TRAP_PC with the loops and the hold restored. TRAP alone in a ready
ell of a core that runs no handler takes SWTRAP on the core after the ell, in the cycle of the ell, with the imm16
as its detail. ERET alone in a ready ell restores the frozen loop state and hold, leaves the handler and resumes at
TRAP_PC 3 cycles later, or later where POST says so (log 45); the handler of a TRAP does not wait for POST (log
157). -/
def Obligations.TrapAndReturn : Prop :=
  ∀ (s : State) (c : Nat) (p : BitVec 4) (imm : BitVec 16), s.ready c 2 noQueue →
    ((s.core c).inHandler = false →
      exec (.trap c (.last p) imm) s =
        .next ((s.setCore c { (s.seen c).fallThrough 3 p.toNat with scyc := (s.seen c).scyc }).takeTrap c 0x06 false
          (BitVec.ofNat 32 (65536 * imm.toNat)) ((s.seen c).fallThrough 3 p.toNat).pc)) ∧
    (∀ ls h, (s.core c).frozen = some (ls, h) →
      exec (.eret c (.last p)) s =
        .next (s.setCore c { (s.seen c).noteFetch 3 with
          loops := ls, hold := h, frozen := none, inHandler := false, ell := none, pc := (s.seen c).ctl.trapPc.toNat,
          scyc := max ((s.seen c).scyc + 3) ((s.seen c).scyc + 1 + p.toNat) }))

open Sys2Proof Sys2Proof.Machine Sys2Proof.Claims in
/-- HALT stops issue after its ell. HALT alone in a ready ell, with no asynchronous cause pending: the core is halted
after the ell, and where its EXITST, with every write to it that is on its way, is not 0 and another core of its run
still issues, the run is to end at the next furlong boundary with that status or, of several, the one that R162
selects then; nothing else changes. That the writes on their way to EXITST count, and that the status is selected at
the boundary, is the model's reading (logs 103, 105). -/
def Obligations.HaltStopsIssue : Prop :=
  ∀ (s : State) (c : Nat) (p : BitVec 4), s.ready c 2 noQueue → (s.core c).asyncQ = [] →
    let k : Core := { (s.seen c).noteFetch 3 with
      pc := (s.seen c).pc + 3, scyc := (s.seen c).scyc + 1 + p.toNat, ell := none, halted := true }
    let t := s.setCore c k
    exec (.halt c (.last p)) s =
      .next (if k.finalExit ≠ 0 ∧ t.othersIssuing c = true then t.endRunExit c k.finalExit else t)

namespace Sys2Proof.Claims

open Sys2Proof.Machine

/-- Loads and stores of data memory: core, end, rd, ra, offset and width in bytes (05 R144). -/
def dataLoad : Instr → Option (Nat × EllEnd × BitVec 5 × BitVec 5 × BitVec 16 × Nat)
  | .lw c e rd ra imm => some (c, e, rd, ra, imm, 4)
  | .lbu c e rd ra imm => some (c, e, rd, ra, imm, 1)
  | _ => none

def dataStore : Instr → Option (Nat × EllEnd × BitVec 5 × BitVec 5 × BitVec 16 × Nat)
  | .sw c e rd ra imm => some (c, e, rd, ra, imm, 4)
  | .sb c e rd ra imm => some (c, e, rd, ra, imm, 1)
  | _ => none

/-- The data address of R144. -/
def dataAddr (k : Core) (ra : BitVec 5) (imm : BitVec 16) : Nat := (k.s ra + imm.signExtend 32).toNat

end Sys2Proof.Claims

open Sys2Proof Sys2Proof.Machine Sys2Proof.Claims in
/-- LW and LBU read data memory. LW and LBU alone in a ready ell, at an address that lies in data memory and is a
multiple of the width: rd is scheduled with the little-endian bytes at issue + 3, corrected words being counted;
where the range meets an uncorrectable word, rd is scheduled with 0 and UNCORRECTABLE of data memory is raised. -/
def Obligations.DataLoads : Prop :=
  ∀ (s : State) (i : Instr) (c n : Nat) (p : BitVec 4) (rd ra : BitVec 5) (imm : BitVec 16),
    dataLoad i = some (c, .last p, rd, ra, imm, n) → s.ready c 2 noQueue →
    let k := s.seen c
    let a := dataAddr k ra imm
    a + n ≤ 32768 → a % n = 0 →
      (k.dueIn .dmem a n = false →
        exec i s = .next (s.setCore c (((k.noteRead .dmem a n).later 3 false
          (.sreg rd (BitVec.ofNat 32 (leNat ((List.range n).map (fun j => memRead k.dmem (a + j))))))).fallThrough 3
            p.toNat))) ∧
      (k.dueIn .dmem a n = true →
        exec i s = .next ((s.setCore c ((k.later 3 false (.sreg rd 0)).fallThrough 3 p.toNat)).uncorrectable c 0 .dmem a))

open Sys2Proof Sys2Proof.Machine Sys2Proof.Claims in
/-- SW and SB write data memory and nothing else, and an address outside data memory or misaligned is DMEM_RANGE. SW and
SB alone in a ready ell, at an address that lies in data memory and is a multiple of the width: the bytes of rd
stand at the address, least significant first, every other byte of data memory and every other field of the core but
the program counter, the cycle, the loops, the counts of corrected words that the fetch met or that the bytes write
in part, and the marks of corrected words that the bytes meet, is as the ell found it, and so is every other part of
the state. LW, LBU, SW and SB alone in a ready ell whose address is not a multiple of the width or whose bytes reach
past the end of data memory perform no access and take the precise cause DMEM_RANGE with the low 16 bits of the
address as its detail, on the core as it stood. -/
def Obligations.DataStores : Prop :=
  (∀ (s : State) (i : Instr) (c n : Nat) (p : BitVec 4) (rd ra : BitVec 5) (imm : BitVec 16),
    dataStore i = some (c, .last p, rd, ra, imm, n) → s.ready c 2 noQueue → (s.core c).dmem.wf = true →
    let k := s.seen c
    let a := dataAddr k ra imm
    a + n ≤ 32768 → a % n = 0 →
      ∃ m e, exec i s = .next (s.setCore c (({ k.noteMerge .dmem a n with dmem := m, ecc := e } : Core).fallThrough 3 p.toNat)) ∧
        Mem.wf m = true ∧
        (∀ x, memRead m x =
          (if a ≤ x ∧ x < a + n then BitVec.ofNat 8 ((k.s rd).toNat / 256 ^ (x - a)) else memRead k.dmem x)) ∧
        (∀ y, y ∈ e ↔ y ∈ k.ecc ∧ (y.mem ≠ .dmem ∨ y.due = true ∨ a + n ≤ 8 * y.word ∨ 8 * y.word + 8 ≤ a))) ∧
  (∀ (s : State) (i : Instr) (c n : Nat) (p : BitVec 4) (rd ra : BitVec 5) (imm : BitVec 16),
    (dataLoad i = some (c, .last p, rd, ra, imm, n) ∨ dataStore i = some (c, .last p, rd, ra, imm, n)) →
    s.ready c 2 noQueue →
    let a := dataAddr (s.seen c) ra imm
    (32768 < a + n ∨ a % n ≠ 0) →
      exec i s = .next ((s.setCore c ((s.core c).noteFetch 3)).precise c
        { code := 0x03, info := BitVec.ofNat 32 (65536 * (a % 65536)) }))

namespace Sys2Proof.Claims

open Sys2Proof.Machine

/-- Conditional branches: core, end, condition, offset (05 R144). -/
def branch : Instr → Option (Nat × EllEnd × (Core → Prop) × BitVec 16)
  | .beq c e ra rb off => some (c, e, fun k => k.s ra = k.s rb, off)
  | .bne c e ra rb off => some (c, e, fun k => k.s ra ≠ k.s rb, off)
  | .blt c e ra rb off => some (c, e, fun k => (k.s ra).toInt < (k.s rb).toInt, off)
  | .bge c e ra rb off => some (c, e, fun k => (k.s rb).toInt ≤ (k.s ra).toInt, off)
  | .bltu c e ra rb off => some (c, e, fun k => (k.s ra).toNat < (k.s rb).toNat, off)
  | .bgeu c e ra rb off => some (c, e, fun k => (k.s rb).toNat ≤ (k.s ra).toNat, off)
  | _ => none

/-- The parcel address at a signed offset from the ell's header, on 32 bits. -/
def target (k : Core) (off : Int) : Nat := (((k.pc : Int) + off) % 4294967296).toNat

/-- No active loop body ends at the ell that issues. -/
def noBodyEnds (k : Core) : Prop := ∀ l, l < 4 → ¬ ((k.loops.getD l LoopLevel.idle).active = true ∧
  (k.loops.getD l LoopLevel.idle).last = k.pc)

end Sys2Proof.Claims

open Sys2Proof Sys2Proof.Machine Sys2Proof.Claims in
/-- A branch not taken falls through; a branch taken goes to an ell start, or traps. BEQ to BGEU alone in a ready ell:
with the condition false the core falls through and nothing else changes; with it true and the target an ell start
the target issues 3 cycles later, unless an active loop body ends in this ell and no handler runs, which is
LOOP_NEST; a target that is no ell start is BAD_TARGET. The target waits for the end of POST where that is later
(log 45), and a transfer of a handler where a body ends is taken (log 46). -/
def Obligations.Branches : Prop :=
  ∀ (s : State) (i : Instr) (c : Nat) (p : BitVec 4) (cond : Core → Prop) (off : BitVec 16),
    branch i = some (c, .last p, cond, off) → s.ready c 2 noQueue →
    let k := s.seen c
    let t := target k off.toInt
    (¬ cond k → exec i s = .next (s.setCore c (k.fallThrough 3 p.toNat))) ∧
    (cond k → k.starts.contains t = true → (k.inHandler = true ∨ noBodyEnds k) →
      exec i s = .next (s.setCore c (k.branched 3 t p.toNat))) ∧
    (cond k → k.starts.contains t = false →
      exec i s = .next ((s.setCore c ((s.core c).noteFetch 3)).precise c
        { code := 0x02, info := BitVec.ofNat 32 (65536 * (t % 65536)) })) ∧
    (cond k → k.starts.contains t = true → k.inHandler = false → ¬ noBodyEnds k →
      ∃ l, l < 4 ∧ (k.loops.getD l LoopLevel.idle).active = true ∧ (k.loops.getD l LoopLevel.idle).last = k.pc ∧
        exec i s = .next ((s.setCore c ((s.core c).noteFetch 3)).precise c
          { code := 0x04, info := BitVec.ofNat 32 (65536 * l) }))

namespace Sys2Proof.Claims

open Sys2Proof.Machine

/-- Jumps: core, end, link register and target (05 R144). -/
def jumpOf : Instr → Option (Nat × EllEnd × BitVec 5 × (Core → Nat))
  | .jal c e rd off => some (c, e, rd, fun k => target k off.toInt)
  | .jalr c e rd ra imm => some (c, e, rd, fun k => dataAddr k ra imm)
  | _ => none

end Sys2Proof.Claims

open Sys2Proof Sys2Proof.Machine Sys2Proof.Claims in
/-- JAL and JALR link to the next ell and go to their target. JAL and JALR alone in a ready ell, with the target an ell
start and no active loop body ending here (or a handler running): rd is scheduled with the parcel address of the
next ell for the next cycle and the target issues 3 cycles later, or later where POST says so (log 45); a target
that is no ell start is BAD_TARGET, and a jump where an active body ends and no handler runs is LOOP_NEST with the
level; that a handler's jump there is taken is log 46. -/
def Obligations.Jumps : Prop :=
  ∀ (s : State) (i : Instr) (c : Nat) (p : BitVec 4) (rd : BitVec 5) (tgt : Core → Nat),
    jumpOf i = some (c, .last p, rd, tgt) → s.ready c 2 noQueue →
    let k := s.seen c
    (k.starts.contains (tgt k) = true → (k.inHandler = true ∨ noBodyEnds k) →
      exec i s = .next (s.setCore c
        ((k.later 1 false (.sreg rd (BitVec.ofNat 32 (k.pc + 3)))).branched 3 (tgt k) p.toNat))) ∧
    (k.starts.contains (tgt k) = false →
      exec i s = .next ((s.setCore c ((s.core c).noteFetch 3)).precise c
        { code := 0x02, info := BitVec.ofNat 32 (65536 * (tgt k % 65536)) })) ∧
    (k.starts.contains (tgt k) = true → k.inHandler = false → ¬ noBodyEnds k →
      ∃ l, l < 4 ∧ (k.loops.getD l LoopLevel.idle).active = true ∧ (k.loops.getD l LoopLevel.idle).last = k.pc ∧
        exec i s = .next ((s.setCore c ((s.core c).noteFetch 3)).precise c
          { code := 0x04, info := BitVec.ofNat 32 (65536 * l) }))

open Sys2Proof Sys2Proof.Machine Sys2Proof.Claims in
/-- LOOP starts a level, skips a body of count 0, and is refused where it does not nest. LOOP at level l alone in a
ready ell, with level l inactive, every level below it active and its end inside every body around it, the end ell
after the LOOP and no handler running: a count above 0 makes the level active at index 0 from the next ell to the
header + imm16; a count of 0 goes to the ell after the end, as a taken branch does, where the end is an ell start,
and is BAD_TARGET where it is not. Where one of those conditions fails the cause is LOOP_NEST with the level; that
the end lies inside the bodies around it and after the LOOP, and that no handler runs, is the model's reading (log
12); so are the wait for POST after a count of 0 (log 45) and the BAD_TARGET of an end that is no ell start (log
162). -/
def Obligations.Loops : Prop :=
  ∀ (s : State) (c : Nat) (p : BitVec 4) (lv ra : BitVec 5) (imm : BitVec 16), s.ready c 2 noQueue → lv.toNat < 4 →
    let k := s.seen c
    let l := lv.toNat
    let last := k.pc + imm.toNat
    let q := k.fallThrough 3 p.toNat
    let fits := k.inHandler = false ∧ (k.loops.getD l LoopLevel.idle).active = false ∧ imm ≠ 0 ∧
      ∀ x, x ∈ k.loops.take l → x.active = true ∧ last ≤ x.last
    (fits → k.loops.length = 4 →
        (k.s ra ≠ 0 →
          exec (.loop c (.last p) lv ra imm) s = .next (s.setCore c { q with
            loops := q.loops.set l
              { active := true, index := 0, count := (k.s ra).toNat, first := k.pc + 3, last := last } })) ∧
        (k.s ra = 0 → k.starts.contains last = true →
          exec (.loop c (.last p) lv ra imm) s =
            .next (s.setCore c (k.branched 3 ((k.starts.find? (fun x => decide (last < x))).getD k.segLen) p.toNat))) ∧
        (k.s ra = 0 → k.starts.contains last = false →
          exec (.loop c (.last p) lv ra imm) s = .next ((s.setCore c ((s.core c).noteFetch 3)).precise c
            { code := 0x02, info := BitVec.ofNat 32 (65536 * (last % 65536)) }))) ∧
    (¬ fits →
      exec (.loop c (.last p) lv ra imm) s = .next ((s.setCore c ((s.core c).noteFetch 3)).precise c
        { code := 0x04, info := BitVec.ofNat 32 (65536 * l) }))

open Sys2Proof Sys2Proof.Machine Sys2Proof.Claims in
/-- At the end ell of the innermost body the next iteration begins, and after the last the level is left. A core that
falls through an ell at which exactly the body of active level l ends: with iterations left the index of the level
rises by one and the first ell of the body is next; after the last iteration the level is inactive and the ell after
it is next; the other levels are unchanged, and the words that the fetch corrected are counted. Where the bodies of
several levels end at one ell, they are tested innermost first: the levels whose last iteration this was become
inactive up to the innermost with iterations left, whose index rises and whose first ell is next; with none left all
of them are inactive and the ell after is next. -/
def Obligations.LoopEnds : Prop :=
  (∀ (k : Core) (l n post : Nat) (x : LoopLevel), k.inHandler = false → k.loops.length = 4 → k.loops[l]? = some x →
    x.active = true → x.last = k.pc →
    (∀ j y, k.loops[j]? = some y → j ≠ l → ¬ (y.active = true ∧ y.last = k.pc)) →
      k.fallThrough n post =
        (let k := k.noteFetch n
        if x.index + 1 < x.count then
          { k with loops := k.loops.set l { x with index := x.index + 1 }, pc := x.first, scyc := k.scyc + 1 + post, ell := none }
        else
          { k with loops := k.loops.set l { x with active := false }, pc := k.pc + n, scyc := k.scyc + 1 + post, ell := none })) ∧
  (∀ (k : Core) (n post : Nat), k.inHandler = false → k.loops.length = 4 →
    let ends := fun (y : LoopLevel) => y.active = true ∧ y.last = k.pc
    let goesOn := fun (y : LoopLevel) => ends y ∧ y.index + 1 < y.count
    let q := k.noteFetch n
    (∀ l x, k.loops[l]? = some x → goesOn x → (∀ (j : Nat) (y : LoopLevel), l < j → k.loops[j]? = some y → ¬ goesOn y) →
      k.fallThrough n post = { q with
        loops := k.loops.mapIdx (fun j y =>
          if j = l then { y with index := y.index + 1 }
          else if l < j ∧ y.active = true ∧ y.last = k.pc then { y with active := false } else y)
        pc := x.first
        scyc := k.scyc + 1 + post
        ell := none }) ∧
    ((∀ y, y ∈ k.loops → ¬ goesOn y) →
      k.fallThrough n post = { q with
        loops := k.loops.map (fun y => if y.active = true ∧ y.last = k.pc then { y with active := false } else y)
        pc := k.pc + n
        scyc := k.scyc + 1 + post
        ell := none }))

open Sys2Proof Sys2Proof.Machine Sys2Proof.Claims in
/-- CRR samples a control register, CRW, CRS and CRC schedule their write, TPW an entry. CRR, CRW, CRS and CRC of a
listed control register and TPW of entries 0 to 15, alone in a ready ell: the value sampled, or the write, is
scheduled for issue + 2; reading SCYC_LO also latches SCYC_HI; nothing else changes. CRR reads NSTAT, TRAP_CAUSE,
TRAP_INFO, the cycle count, the core and module numbers and the active flags of the loops as they are, and the read-
write registers as written. A write of an RO register changes nothing; CRC of NSTAT clears the bits that ra marks
and CRS has no effect on it; a write of TRAP_VEC, TRAP_PC and the scratch registers stores the value; EXITST holds
bits 7 to 0; CRS and CRC set and clear bits of a read-write register. -/
def Obligations.ControlRegisters : Prop :=
  (∀ (s : State) (c : Nat) (p : BitVec 4) (rd ra rb : BitVec 5) (imm : BitVec 16), s.ready c 2 noQueue →
    let k := s.seen c
    let v : Word :=
      match imm.toNat with
      | 0x00 => k.ctl.nstat.setWidth 32
      | 0x01 => k.ctl.exitst.setWidth 32
      | 0x02 => k.ctl.trapVec
      | 0x03 => k.ctl.trapPc
      | 0x04 => k.ctl.trapCause
      | 0x05 => k.ctl.trapInfo
      | 0x06 => k.ctl.scr0
      | 0x07 => k.ctl.scr1
      | 0x08 => BitVec.ofNat 32 k.scyc
      | 0x09 => k.ctl.scycHi
      | 0x0A => BitVec.ofNat 32 c
      | 0x0B => BitVec.ofNat 32 s.moduleId
      | _ => BitVec.ofNat 32 (loopst k.loops)
    (imm.toNat ≤ 0x0C →
      exec (.crr c (.last p) rd imm) s = .next (s.setCore c
        ({ k.later 2 false (.sreg rd v) with
          ctl := if imm = 0x08 then { k.ctl with scycHi := BitVec.ofNat 32 (k.scyc / 2 ^ 32) } else k.ctl }.fallThrough 3
            p.toNat)) ∧
      exec (.crw c (.last p) ra imm) s =
        .next (s.setCore c ((k.later 2 false (.ctlWrite imm.toNat (k.s ra))).fallThrough 3 p.toNat)) ∧
      exec (.crs c (.last p) ra imm) s =
        .next (s.setCore c ((k.later 2 false (.ctlSet imm.toNat (k.s ra))).fallThrough 3 p.toNat)) ∧
      exec (.crc c (.last p) ra imm) s =
        .next (s.setCore c ((k.later 2 false (.ctlClear imm.toNat (k.s ra))).fallThrough 3 p.toNat))) ∧
    (rd.toNat < 16 →
      exec (.tpw c (.last p) rd ra rb) s = .next (s.setCore c
        ((k.later 2 false (.tpar rd.toNat (BitVec.ofNat 64 ((k.s rb).toNat * 2 ^ 32 + (k.s ra).toNat)))).fallThrough 3
          p.toNat)))) ∧
  (∀ (g : CtlRegs) (v : Word),
    (∀ n, 0x04 ≤ n → n ≠ 0x06 → n ≠ 0x07 → g.write n v = g ∧ g.setBits n v = g ∧ g.clearBits n v = g) ∧
    g.clearBits 0x00 v = { g with nstat := g.nstat &&& ~~~(v.setWidth 3) } ∧ g.setBits 0x00 v = g ∧
    (g.write 0x01 v).exitst = v.setWidth 8 ∧ (g.setBits 0x01 v).exitst = g.exitst ||| v.setWidth 8 ∧
    g.write 0x02 v = { g with trapVec := v } ∧ g.write 0x03 v = { g with trapPc := v } ∧
    g.write 0x06 v = { g with scr0 := v } ∧ g.write 0x07 v = { g with scr1 := v } ∧
    g.setBits 0x06 v = { g with scr0 := g.scr0 ||| v } ∧ g.clearBits 0x07 v = { g with scr1 := g.scr1 &&& ~~~v })

open Sys2Proof Sys2Proof.Machine Sys2Proof.Claims in
/-- The window value and the flags of a bushel depend on the multiset of its contributions alone. Two bushels that
receive the same contributions at one WBASE in any two orders are equal, so their window values and flags are; and
contributions taken in two groups, the groups' exact sums then joined, give the bushel that takes them all. -/
def Obligations.BushelOrderFree : Prop :=
  ∀ (wbase : Int) (xs ys : List Val),
    (xs.Perm ys →
      xs.foldl (fun b v => b.contribute wbase v) Bushel.zero = ys.foldl (fun b v => b.contribute wbase v) Bushel.zero) ∧
    (xs.foldl (fun b v => b.contribute wbase v) Bushel.zero).join (ys.foldl (fun b v => b.contribute wbase v) Bushel.zero) =
      (xs ++ ys).foldl (fun b v => b.contribute wbase v) Bushel.zero

namespace Sys2Proof.Claims

open Sys2Proof.Machine

/-- Vector operations that write every element of one register: core, end, register, latency, element width, and the value
of element j, reduced to that width (05 R155; 06 R177, R179; 03 R95 to R98, R106); none for a reserved encoding. -/
def vectorEls : Instr → Option (Nat × EllEnd × BitVec 5 × Nat × Nat × (Core → Nat → Nat))
  | .vadd c e f vd va vb => (fmtDC f).map (fun m =>
      (c, e, vd, 4, m.width, fun k j => elAdd m (VReg.el (k.v va) m.width j) (VReg.el (k.v vb) m.width j)))
  | .vsub c e f vd va vb => (fmtDC f).map (fun m =>
      (c, e, vd, 4, m.width, fun k j => elSub m (VReg.el (k.v va) m.width j) (VReg.el (k.v vb) m.width j)))
  | .vmul c e f vd va vb => (fmtDC f).map (fun m =>
      (c, e, vd, 4, m.width, fun k j => elMul m (VReg.el (k.v va) m.width j) (VReg.el (k.v vb) m.width j)))
  | .vfma c e f vd va vb vc => (fmtDC f).map (fun m =>
      (c, e, vd, 5, m.width, fun k j =>
        elFma m (VReg.el (k.v va) m.width j) (VReg.el (k.v vb) m.width j) (VReg.el (k.v vc) m.width j)))
  | .vdiv c e f vd va vb => (fmtDC f).map (fun m =>
      (c, e, vd, if m = .f32 then 28 else 20, m.width, fun k j =>
        elDiv m (VReg.el (k.v va) m.width j) (VReg.el (k.v vb) m.width j)))
  | .vmin c e f vd va vb => (fmtDC f).map (fun m =>
      (c, e, vd, 4, m.width, fun k j => elMin m (VReg.el (k.v va) m.width j) (VReg.el (k.v vb) m.width j)))
  | .vmax c e f vd va vb => (fmtDC f).map (fun m =>
      (c, e, vd, 4, m.width, fun k j => elMax m (VReg.el (k.v va) m.width j) (VReg.el (k.v vb) m.width j)))
  | .vcmp c e f vd va vb cond => if cond = 7 then none else (fmtDC f).map (fun m =>
      (c, e, vd, 4, m.width, fun k j =>
        if elCmp m cond.toNat (VReg.el (k.v va) m.width j) (VReg.el (k.v vb) m.width j) then 2 ^ m.width - 1 else 0))
  | .vsel c e f vd va vb vc => (fmtDC f).map (fun m =>
      (c, e, vd, 4, m.width, fun k j =>
        if VReg.el (k.v vc) m.width j = 0 then VReg.el (k.v vb) m.width j else VReg.el (k.v va) m.width j))
  | .vand c e vd va vb => some (c, e, vd, 4, 32, fun k j => VReg.el (k.v va) 32 j &&& VReg.el (k.v vb) 32 j)
  | .vor c e vd va vb => some (c, e, vd, 4, 32, fun k j => VReg.el (k.v va) 32 j ||| VReg.el (k.v vb) 32 j)
  | .vxor c e vd va vb => some (c, e, vd, 4, 32, fun k j => VReg.el (k.v va) 32 j ^^^ VReg.el (k.v vb) 32 j)
  | .vmov c e vd va => some (c, e, vd, 4, 32, fun k j => VReg.el (k.v va) 32 j)
  | .vsplat c e vd rs => some (c, e, vd, 4, 32, fun k _ => (k.s rs).toNat)
  | .viota c e vd rs => some (c, e, vd, 4, 32, fun k j => j + (k.s rs).toNat)
  | .viadd c e vd va vb => some (c, e, vd, 4, 32, fun k j => VReg.el (k.v va) 32 j + VReg.el (k.v vb) 32 j)
  | .vrecip c e f vd va => (fmtDC f).map (fun m => (c, e, vd, 14, m.width, fun k j => elRecip m (VReg.el (k.v va) m.width j)))
  | .vsqrt c e f vd va => (fmtDC f).map (fun m => (c, e, vd, 14, m.width, fun k j => elSqrt m (VReg.el (k.v va) m.width j)))
  | .vrsqrt c e f vd va => (fmtDC f).map (fun m => (c, e, vd, 14, m.width, fun k j => elRsqrt m (VReg.el (k.v va) m.width j)))
  | .vexp2 c e f vd va => (fmtDC f).map (fun m => (c, e, vd, 12, m.width, fun k j => elExp2 m (VReg.el (k.v va) m.width j)))
  | .vlog2 c e f vd va => (fmtDC f).map (fun m => (c, e, vd, 12, m.width, fun k j => elLog2 m (VReg.el (k.v va) m.width j)))
  | .vtanh c e f vd va => (fmtDC f).map (fun m => (c, e, vd, 16, m.width, fun k j => elTanh m (VReg.el (k.v va) m.width j)))
  | .vsigm c e f vd va => (fmtDC f).map (fun m => (c, e, vd, 16, m.width, fun k j => elSigm m (VReg.el (k.v va) m.width j)))
  | .verf c e f vd va => (fmtDC f).map (fun m => (c, e, vd, 16, m.width, fun k j => elErf m (VReg.el (k.v va) m.width j)))
  | .vsinp c e f vd va => if va.toNat % 2 = 1 then none else (fmtDU f).map (fun m =>
      (c, e, vd, 16, 32, fun k j => elSinp m (VReg.el (k.v va) 32 j + 2 ^ 32 * VReg.el (k.v (va + 1)) 32 j)))
  | .vcosp c e f vd va => if va.toNat % 2 = 1 then none else (fmtDU f).map (fun m =>
      (c, e, vd, 16, 32, fun k j => elCosp m (VReg.el (k.v va) 32 j + 2 ^ 32 * VReg.el (k.v (va + 1)) 32 j)))
  | .vcvt c e vd va other _ part true =>
    if partOk ((narrow other.toNat).getD .bf16).width part.toNat then (narrow other.toNat).map (fun m =>
      (c, e, vd, 3, 32, fun k j => roundVal .f32 false (decodeEl m (VReg.el (k.v va) m.width (64 * part.toNat + j)))))
    else none
  | .vpack c e vd va vb => some (c, e, vd, 4, 16, fun k j =>
      if j < 64 then VReg.el (k.v va) 32 j else VReg.el (k.v vb) 32 (j - 64))
  | .vunpk c e vd va half => some (c, e, vd, 4, 32, fun k j => VReg.el (k.v va) 16 (64 * b2n half + j))
  | .vrmax c e f vd va => (fmtDC f).map (fun m => (c, e, vd, 6, m.width, fun k _ =>
      (VReg.els (k.v va) m.width).foldl (elMax m) (elMax m (VReg.el (k.v va) m.width 0) (VReg.el (k.v va) m.width 0))))
  | .vrmin c e f vd va => (fmtDC f).map (fun m => (c, e, vd, 6, m.width, fun k _ =>
      (VReg.els (k.v va) m.width).foldl (elMin m) (elMin m (VReg.el (k.v va) m.width 0) (VReg.el (k.v va) m.width 0))))
  | .vramax c e f vd va => (fmtDC f).map (fun m => (c, e, vd, 6, 32, fun k _ =>
      argTop m (VReg.els (k.v va) m.width) 0 0 (VReg.el (k.v va) m.width 0)))
  | _ => none

end Sys2Proof.Claims

open Sys2Proof Sys2Proof.Machine Sys2Proof.Claims in
/-- Vector operations write every element of one register after their latency, and nothing else. VADD to VIADD, VRECIP
to VCOSP, VCVT to binary32, VPACK, VUNPK, VRMAX, VRMIN and VRAMAX, alone in an ell of a core that is ready: a
register whose elements are those of R179, from the registers as the ell sees them, is scheduled for vd at issue
plus the latency of R155; the core goes on after the ell and nothing else changes. VSEL takes an element of vc as
bits, so that a negative zero is not zero (log 18). -/
def Obligations.VectorResults : Prop :=
  ∀ (s : State) (i : Instr) (c : Nat) (p : BitVec 4) (vd : BitVec 5) (lat w : Nat) (g : Core → Nat → Nat),
    vectorEls i = some (c, .last p, vd, lat, w, g) → s.ready c 3 noQueue →
      ∃ v : VReg, (∀ j, j < 2048 / w → VReg.el v w j = g (s.seen c) j % 2 ^ w) ∧
        exec i s = .next (s.setCore c
          ((((s.seen c).later lat false (.vreg vd vAll v)).vBusy lat).fallThrough 4 p.toNat))

open Sys2Proof Sys2Proof.Machine Sys2Proof.Claims in
/-- VPHASE, VROT, VCVT to a narrow format and VMXQ write a pair of registers or a part of one. Alone in a ready ell:
VPHASE writes the 64-bit phases (p + j times the step) times the frequency words to the pair, low halves first; VROT
the rotated pairs; VCVT the 64 rounded lanes to its part and no other bit; VMXQ the elements of two blocks to its
part and their two scale bytes to the next register. Nothing else changes. -/
def Obligations.VectorParts : Prop :=
  ∀ (s : State) (c : Nat) (p : BitVec 4) (f : BitVec 4) (vd va vb vc sp sj : BitVec 5) (other : BitVec 4) (sat : Bool)
    (part : BitVec 3), s.ready c 3 noQueue →
    let k := s.seen c
    let pair := fun (r : BitVec 5) (j : Nat) => VReg.el (k.v r) 32 j + 2 ^ 32 * VReg.el (k.v (r + 1)) 32 j
    (vd.toNat % 2 = 0 → va.toNat % 2 = 0 →
      ∃ lo hi : VReg,
        (∀ j, j < 64 → VReg.el lo 32 j + 2 ^ 32 * VReg.el hi 32 j =
          ((k.s sp).toNat + j * (k.s sj).toNat) % 2 ^ 22 * pair va j % 2 ^ 64) ∧
        exec (.vphase c (.last p) vd va sp sj) s = .next (s.setCore c ((((k.later 4 false (.vreg vd vAll lo)).later 4 false
          (.vreg (vd + 1) vAll hi)).vBusy 4).fallThrough 4 p.toNat))) ∧
    (∀ m, fmtDU f = some m → vd.toNat % 2 = 0 → vc.toNat % 2 = 0 →
      ∃ x y : VReg,
        (∀ j, j < 64 →
          let r := rotate m (VReg.el (k.v va) 32 j % 2 ^ m.width) (VReg.el (k.v vb) 32 j % 2 ^ m.width) (pair vc j)
          VReg.el x 32 j = r.1 % 2 ^ 32 ∧ VReg.el y 32 j = r.2 % 2 ^ 32) ∧
        exec (.vrot c (.last p) f vd va vb vc) s = .next (s.setCore c ((((k.later 18 false (.vreg vd vAll x)).later 18 false
          (.vreg (vd + 1) vAll y)).vBusy 18).fallThrough 4 p.toNat))) ∧
    (∀ m, narrow other.toNat = some m → 64 * m.width * (part.toNat + 1) ≤ 2048 →
      ∃ mask v : VReg,
        (∀ i, i < 2048 → mask.getLsbD i = decide (64 * m.width * part.toNat ≤ i ∧ i < 64 * m.width * (part.toNat + 1))) ∧
        (∀ j, j < 64 → VReg.el v m.width (64 * part.toNat + j) =
          roundVal m sat (decodeEl .f32 (VReg.el (k.v va) 32 j)) % 2 ^ m.width) ∧
        exec (.vcvt c (.last p) vd va other sat part false) s = .next (s.setCore c
          (((k.later 3 false (.vreg vd mask v)).vBusy 3).fallThrough 4 p.toNat))) ∧
    (∀ m, isMx f.toNat = true → fmtOf f.toNat = some m → vd.toNat % 2 = 0 → 64 * m.width * (part.toNat + 1) ≤ 2048 →
      let xs := (List.range 64).map (fun j => decodeEl .f32 (VReg.el (k.v va) 32 j))
      let a := mxQuantise m (xs.take 32)
      let b := mxQuantise m (xs.drop 32)
      ∃ m1 v1 m2 v2 : VReg,
        (∀ i, i < 2048 → m1.getLsbD i = decide (64 * m.width * part.toNat ≤ i ∧ i < 64 * m.width * (part.toNat + 1))) ∧
        (∀ j, j < 64 → VReg.el v1 m.width (64 * part.toNat + j) = (a.2 ++ b.2).getD j 0 % 2 ^ m.width) ∧
        (∀ i, i < 2048 → m2.getLsbD i = decide (16 * part.toNat ≤ i ∧ i < 16 * (part.toNat + 1))) ∧
        bits v2 (16 * part.toNat) 16 = (a.1 + 256 * b.1) % 2 ^ 16 ∧
        exec (.vmxq c (.last p) f vd va part) s = .next (s.setCore c ((((k.later 6 false (.vreg vd m1 v1)).later 6 false
          (.vreg (vd + 1) m2 v2)).vBusy 6).fallThrough 4 p.toNat)))

open Sys2Proof Sys2Proof.Machine Sys2Proof.Claims in
/-- Vector accumulation banks: clears, contributions, samples and the result queue. Alone in a ready ell: VACLR puts a
clear with its WBASE on the bank in the issue cycle; VACC contributes element i to lane i mod 64, and VRSUM every
element to one lane, in cycle i + 9; VACSUM samples the lanes and puts the write of their sum in cycle i + 9; VRQ
takes the oldest column of the result queue at i + 4, or zeros with a schedule-violation event where the queue is
empty. A sample that meets effects on a bank with no record posts an event for each. Nothing else changes. A VACSUM
whose bank is still to take a grain that has not landed does not issue, and the module is held for that grain. -/
def Obligations.BankOperations : Prop :=
  ∀ (s : State) (c : Nat) (p : BitVec 4) (f : BitVec 4) (va vd : BitVec 5) (bank : BitVec 2) (lane : BitVec 6)
    (wbase : BitVec 10), s.ready c 3 noQueue →
    let k := s.seen c
    let b := bank.toNat
    exec (.vaclr c (.last p) bank wbase) s =
      .next (s.setCore c (((k.bankAt b k.scyc (.clear wbase.toInt)).vBusy 1).fallThrough 4 p.toNat)) ∧
    (∀ m, fmtDC f = some m →
      exec (.vacc c (.last p) f va bank) s = .next (s.setCore c
        (((k.bankAt b (k.scyc + 9) (.add ((List.range (2048 / m.width)).map (fun i =>
          (i % 64, valContrib (decodeEl m (VReg.el (k.v va) m.width i))))))).vBusy 9).fallThrough 4 p.toNat)) ∧
      exec (.vrsum c (.last p) f va bank lane) s = .next (s.setCore c
        (((k.bankAt b (k.scyc + 9) (.add ((List.range (2048 / m.width)).map (fun i =>
          (lane.toNat, valContrib (decodeEl m (VReg.el (k.v va) m.width i))))))).vBusy 9).fallThrough 4 p.toNat))) ∧
    (let q := k.bankGo k.scyc k.bankQ
     let z := q.1.bankRead b
     (s.lateBank c k.scyc b = none →
      exec (.vacsum c (.last p) bank) s = .next ((s.setCore c
        (((z.bankAt b (k.scyc + 9) (.vacsumWrite (laneSum (z.bankLanes b)))).vBusy 9).fallThrough 4 p.toNat)).violations c
          q.2)) ∧
     (∀ g, s.lateBank c k.scyc b = some g →
      exec (.vacsum c (.last p) bank) s = .next ((s.setCore c (s.core c)).await c g))) ∧
    (k.arr.resultQ = [] →
      exec (.vrq c (.last p) vd) s = .next ((s.setCore c
        (((k.later 4 false (.vreg vd vAll 0)).vBusy 4).fallThrough 4 p.toNat)).violation c)) ∧
    (∀ x xs, k.arr.resultQ = x :: xs →
      exec (.vrq c (.last p) vd) s = .next (s.setCore c
        ((({ k with arr := { k.arr with resultQ := xs } }.later 4 false (.vreg vd vAll x)).vBusy 4).fallThrough 4
          p.toNat)))

open Sys2Proof Sys2Proof.Machine Sys2Proof.Claims in
/-- VACVT converts the lanes of a bank, and its flags reach NSTAT. VACVT alone in a ready ell, to binary32 or BF16
lanes, or to a part in a narrow format: the lanes of the bank as a sample in the issue cycle finds them are
converted with one rounding at the bank's WBASE and scheduled for i + 5, the OR of their flags is set in NSTAT in
that cycle, and with CLR the bank is cleared after the samples of its cycle. VACSUM_BANK_WRITE makes the effects on
the banks up to the oldest outstanding VACSUM write, or nothing where none is outstanding. A VACVT whose bank is
still to take a grain that has not landed does not issue, and the module is held for that grain. -/
def Obligations.BankConversion : Prop :=
  ∀ (s : State) (c : Nat) (p : BitVec 4) (f : BitVec 4) (vd : BitVec 5) (bank : BitVec 2) (sat clr : Bool) (part : BitVec 3),
    (s.ready c 3 noQueue →
      let k := s.seen c
      let b := bank.toNat
      let q := k.bankGo k.scyc k.bankQ
      let z := q.1.bankRead b
      let done := fun (y : Core) =>
        let y := y.nstatAt (k.scyc + 5) (flagsOr (z.bankLanes b))
        Host.Outcome.next ((s.setCore c
          (((if clr then y.bankAt b k.scyc .clearKeep else y).vBusy 5).fallThrough 4 p.toNat)).violations c q.2)
      let conv := fun (m : Fmt) (j : Nat) => ((z.bankLanes b).getD j Bushel.zero).convert ((z.bank b).wbase.getD 0) m sat
      (∀ g, s.lateBank c k.scyc b = some g → ((fmtDU f).isSome = true ∧ part = 0 ∨
          fmtDU f = none ∧ ∃ m, narrow f.toNat = some m ∧ 64 * m.width * (part.toNat + 1) ≤ 2048) →
        exec (.vacvt c (.last p) f vd bank sat clr part) s = .next ((s.setCore c (s.core c)).await c g)) ∧
      (∀ m, s.lateBank c k.scyc b = none → fmtDU f = some m → part = 0 →
        ∃ v : VReg, (∀ j, j < 64 → VReg.el v 32 j = conv m j % 2 ^ 32) ∧
          exec (.vacvt c (.last p) f vd bank sat clr part) s = done (z.later 5 false (.vreg vd vAll v))) ∧
      (∀ m, s.lateBank c k.scyc b = none → fmtDU f = none → narrow f.toNat = some m → 64 * m.width * (part.toNat + 1) ≤ 2048 →
        ∃ mask v : VReg,
          (∀ i, i < 2048 → mask.getLsbD i = decide (64 * m.width * part.toNat ≤ i ∧ i < 64 * m.width * (part.toNat + 1))) ∧
          (∀ j, j < 64 → VReg.el v m.width (64 * part.toNat + j) = conv m j % 2 ^ m.width) ∧
          exec (.vacvt c (.last p) f vd bank sat clr part) s = done (z.later 5 false (.vreg vd mask v)))) ∧
    (s.hasCore c = true → (s.core c).ell = none →
      exec (.vacsumBankWrite c bank) s = .next
        (match (s.core c).bankQ.find? (fun x => x.bank == bank.toNat && x.act.cls == 1) with
         | none => s
         | some x => (s.setCore c ((s.core c).bankGo x.cyc (s.core c).bankQ).1).violations c
             ((s.core c).bankGo x.cyc (s.core c).bankQ).2))

namespace Sys2Proof.Claims

open Sys2Proof.Machine

/-- The operations that enter an engine's queue: core, end, whether it is the store engine's, and the operation with the
copies it takes at issue (06 R168, R172, R173). -/
def engineIssue : Instr → Option (Nat × EllEnd × Bool × (Core → EngOp))
  | .ldv c e h vd rs imm => some (c, e, false, fun k =>
      { kind := .ldv, issued := k.scyc, src := k.operand h, dst := k.operand h,
        row := (imm.toNat + (k.s rs).toNat) % 2 ^ 32, reg := vd, bank := 0, data := k.v vd, epoch := k.dig.issued })
  | .lds c e h dst => some (c, e, false, fun k =>
      { kind := .lds, issued := k.scyc, src := k.operand h, dst := k.operand dst, row := 0, reg := 0, bank := 0,
        data := k.v 0, epoch := k.dig.issued })
  | .ldb c e h rs imm bank => some (c, e, false, fun k =>
      { kind := .ldb, issued := k.scyc, src := k.operand h, dst := k.operand h,
        row := (imm.toNat + (k.s rs).toNat) % 2 ^ 32, reg := 0, bank := bank.toNat, data := k.v 0, epoch := k.dig.issued })
  | .stv c e h va rs imm => some (c, e, true, fun k =>
      { kind := .stv, issued := k.scyc, src := k.operand h, dst := k.operand h,
        row := (imm.toNat + (k.s rs).toNat) % 2 ^ 32, reg := va, bank := 0, data := k.v va, epoch := k.dig.issued })
  | .sts c e h dst => some (c, e, true, fun k =>
      { kind := .sts, issued := k.scyc, src := k.operand h, dst := k.operand dst, row := 0, reg := 0, bank := 0,
        data := k.v 0, epoch := k.dig.issued })
  | .stb c e h rs imm bank => some (c, e, true, fun k =>
      { kind := .stb, issued := k.scyc, src := k.operand h, dst := k.operand h,
        row := (imm.toNat + (k.s rs).toNat) % 2 ^ 32, reg := 0, bank := bank.toNat, data := k.v 0, epoch := k.dig.issued })
  | _ => none

end Sys2Proof.Claims

open Sys2Proof Sys2Proof.Machine Sys2Proof.Claims in
/-- A load or store operation enters its engine's queue with the copies it takes at issue. LDV, LDS, LDB, STV, STS and
STB alone in an ell of a core that is ready and whose queue has room: the operation joins the end of its queue with
the descriptors, the row, the source register, the loop indices and the digest epoch as the ell sees them; the core
goes on after the ell and nothing else changes. -/
def Obligations.EngineIssue : Prop :=
  ∀ (s : State) (i : Instr) (c : Nat) (p : BitVec 4) (store : Bool) (f : Core → EngOp),
    engineIssue i = some (c, .last p, store, f) →
    s.ready c 3 (if store then storeFull else loadFull) →
      let k := s.seen c
      exec i s = .next (s.setCore c (({ k with eng :=
        (if store then { k.eng with storeQ := k.eng.storeQ ++ [f k] }
         else { k.eng with loadQ := k.eng.loadQ ++ [f k] }) } : Core).fallThrough 4 p.toNat))

open Sys2Proof Sys2Proof.Machine Sys2Proof.Claims in
/-- DWR and DADD change one word of a descriptor for the next cycle. DWR of words 0 to 23 and DADD, alone in a ready
ell: the word (of CTRL only its RW fields), or BASE plus the register modulo 2^32, is scheduled for issue + 1;
nothing else changes. -/
def Obligations.DescriptorWrites : Prop :=
  ∀ (s : State) (c : Nat) (p : BitVec 4) (h : BitVec 8) (rs w : BitVec 5), s.ready c 3 noQueue →
    let k := s.seen c
    (w.toNat < 24 →
      exec (.dwr c (.last p) h rs w) s = .next (s.setCore c
        ((k.later 1 false (.descWord h w.toNat (if w = 0 then k.s rs &&& 0x3F7 else k.s rs))).fallThrough 4 p.toNat))) ∧
    exec (.dadd c (.last p) h rs) s = .next (s.setCore c
      ((k.later 1 false (.descWord h 2 (BitVec.ofNat 32 (bits (k.desc h) 64 32 + (k.s rs).toNat)))).fallThrough 4 p.toNat))

open Sys2Proof Sys2Proof.Machine Sys2Proof.Claims in
/-- The head of an engine's queue starts, or faults without an access. ENGINE_OP_START of a core with an active run, on
a module that is not stalled: with the queue empty nothing happens; an operation that fails its checks leaves the
queue, occupies the engine and raises DESC_BOUNDS or NO_CREDIT with its slot and handle; one that needs no credit,
or whose pool holds one, and that reads no row and samples no bank for which a scheduled grain is still to land,
leaves the queue, occupies the engine from the later of its issue, the end of the previous occupancy and the cycle
of its credit, takes the credit and has its effect; one that waits for such a grain stays, and the module waits for
the grain; without a credit it waits. -/
def Obligations.EngineStart : Prop :=
  ∀ (s : State) (c : Nat) (store : Bool) (reply : List Byte) (bad : List Nat), s.hasCore c = true →
    (s.core c).ell = none → s.stalled = false → s.running c = true →
    let k := s.core c
    let q := if store then k.eng.storeQ else k.eng.loadQ
    let go := exec (.engineOpStart c store reply bad) s
    (q = [] → go = .next s) ∧
    (∀ o rest, q = o :: rest →
      let t := max o.issued (if store then k.eng.storeFree else k.eng.loadFree)
      (∀ x, s.engFault c o = some x → ∃ u : State, go = .next (u.raiseAsyncAt c x.1
          (BitVec.ofNat 32 ((if store then 4 else 3) + 256 * x.2.toNat)) t) ∧
        (if store then (u.core c).eng.storeQ else (u.core c).eng.loadQ) = rest ∧
        (if store then (u.core c).eng.storeFree else (u.core c).eng.loadFree) = t + o.occ ∧
        (u.core c).spadQ = k.spadQ ∧ (∀ d, d ≠ c → u.core d = s.core d)) ∧
      (s.engFault c o = none → o.writes.bind (fun x => Desc.pool x.d) = none → s.opLate c o t = none →
        go = .next ((s.modCore c (fun k => k.tidy.popOp store t o.occ)).engRun c o t (reply, bad))) ∧
      (∀ g, s.engFault c o = none → o.writes.bind (fun x => Desc.pool x.d) = none → s.opLate c o t = some g →
        go = .next (s.await g.1 g.2)) ∧
      (∀ p, s.engFault c o = none → o.writes.bind (fun x => Desc.pool x.d) = some p → k.credits p = 0 → go = .next s) ∧
      (∀ p, s.engFault c o = none → o.writes.bind (fun x => Desc.pool x.d) = some p → k.credits p ≠ 0 →
        s.opLate c o (max t (k.creditAt p)) = none →
        go = .next ((s.modCore c (fun k => (k.tidy.popOp store (max t (k.creditAt p)) o.occ).takeCredit p)).engRun c o
            (max t (k.creditAt p)) (reply, bad))) ∧
      (∀ p g, s.engFault c o = none → o.writes.bind (fun x => Desc.pool x.d) = some p → k.credits p ≠ 0 →
        s.opLate c o (max t (k.creditAt p)) = some g → go = .next (s.await g.1 g.2)) ∧
      (s.lnk.flights = [] → s.lnk.collide = [] → s.lnk.outNaks = [] → ∀ t, s.opLate c o t = none))

open Sys2Proof Sys2Proof.Machine Sys2Proof.Claims in
/-- An STV to the local scratchpad writes its row four cycles after it starts. The store at the head of the queue of a
running core, through a descriptor of the local scratchpad that passes its checks, with a row of at most 64 bytes:
the bytes of the source register as read at issue are written at the address of the row in the cycle of the start +
4, the operation leaves the queue, and no other core changes. -/
def Obligations.StoreLandsInScratchpad : Prop :=
  ∀ (s : State) (c : Nat) (o : EngOp) (rest : List EngOp), s.hasCore c = true → (s.core c).ell = none →
    s.stalled = false → s.running c = true → (s.core c).eng.storeQ = o :: rest → o.kind = .stv →
    s.engFault c o = none → Desc.space o.src.d = 0 → 0 < Desc.rb o.src.d → Desc.rb o.src.d ≤ 64 →
      let t := max o.issued (s.core c).eng.storeFree
      ∃ u : State, exec (.engineOpStart c true [] []) s = .next u ∧
        (∃ w, w ∈ (u.core c).spadQ ∧ w.cyc = t + 4 ∧ w.addr = o.src.addr o.row 0 ∧ w.bad = [] ∧
          w.bytes.length = Desc.rb o.src.d ∧
          (∀ j, j < Desc.rb o.src.d → w.bytes.getD j 0 = BitVec.ofNat 8 (bits o.data (8 * j) 8))) ∧
        (u.core c).eng.storeQ = rest ∧ (u.core c).eng.storeFree = t + o.occ ∧ (∀ d, d ≠ c → u.core d = s.core d)

namespace Sys2Proof.Claims

open Sys2Proof.Machine

/-- The matrix operations that enter the command queue: core, end, tile-parameter entry, whether columns go to the result
queue, the chunk count that the lanes bound, and the operation with its copies (05 R149, R151 to R153; 06 R168). -/
def matrixIssue : Instr → Option (Nat × EllEnd × Option (BitVec 4 × Bool × Nat) × (Core → MatOp))
  | .tile c e tp sh th oh n start final outv => some (c, e, some (tp, outv, 0), fun k =>
      { kind := .tile, issued := k.scyc, behind := !k.arr.queue.isEmpty, tp := k.tparam tp.toNat, n := (k.s n).toNat, cs := 0,
        mask := 0, start := start, final := final, outv := outv, sd := k.operand sh, td := k.operand th, od := k.operand oh,
        epoch := k.dig.issued })
  | .sload c e tp sh m cs => if m.toNat % 2 = 1 then none else some (c, e, some (tp, false, cs.toNat + 1), fun k =>
      { kind := .sload, issued := k.scyc, behind := !k.arr.queue.isEmpty, tp := k.tparam tp.toNat, n := 0, cs := cs.toNat + 1,
        mask := BitVec.ofNat 64 ((k.s m).toNat + 2 ^ 32 * (k.s (m + 1)).toNat), start := false, final := false, outv := true,
        sd := k.operand sh, td := k.operand sh, od := k.operand sh, epoch := k.dig.issued })
  | .swap c e => some (c, e, none, fun k =>
      { kind := .swap, issued := k.scyc, behind := !k.arr.queue.isEmpty, tp := k.tparam 0, n := 0, cs := 0, mask := 0,
        start := false, final := false, outv := true, sd := k.operand 0, td := k.operand 0, od := k.operand 0,
        epoch := k.dig.issued })
  | .mstream c e tp th oh nb cs start final outv => some (c, e, some (tp, outv, cs.toNat + 1), fun k =>
      { kind := .mstream, issued := k.scyc, behind := !k.arr.queue.isEmpty, tp := k.tparam tp.toNat, n := nb.toNat + 1,
        cs := cs.toNat + 1, mask := 0, start := start, final := final, outv := outv, sd := k.operand th, td := k.operand th,
        od := k.operand oh, epoch := k.dig.issued })
  | _ => none

/-- Whether a tile-parameter entry serves an operation: it is valid, raw records do not go to the result queue, and the chunk
count is within its lanes (05 R151, R152). -/
def entryServes (k : Core) (x : BitVec 4 × Bool × Nat) : Prop :=
  ∃ p, tileOf (k.tparam x.1.toNat) = some p ∧ ¬ (x.2.1 = true ∧ p.of = 0xE) ∧ x.2.2 ≤ p.lanes

end Sys2Proof.Claims

open Sys2Proof Sys2Proof.Machine Sys2Proof.Claims in
/-- A matrix operation enters the command queue with its copies, or is TP_INVALID. TILE, SLOAD, SWAP and MSTREAM alone
in an ell of a core that is ready and whose command queue has room: where the entry named serves the operation, it
joins the end of the queue with the entry, N, the mask, the descriptors and the loop indices as the ell sees them,
but a TILE with N = 0 does nothing; where it does not, the ell does not issue and TP_INVALID is taken with the entry
as its detail. -/
def Obligations.MatrixIssue : Prop :=
  ∀ (s : State) (i : Instr) (c : Nat) (p : BitVec 4) (x : Option (BitVec 4 × Bool × Nat)) (f : Core → MatOp),
    matrixIssue i = some (c, .last p, x, f) → s.ready c 3 matFull →
      let k := s.seen c
      ((∀ y, x = some y → entryServes k y) →
        exec i s = .next (s.setCore c ((if (f k).kind = .tile ∧ (f k).n = 0 then k
          else { k with arr := { k.arr with queue := k.arr.queue ++ [f k] } }).fallThrough 4 p.toNat))) ∧
      (∀ y, x = some y → ¬ entryServes k y →
        exec i s = .next ((s.setCore c ((s.core c).noteFetch 4)).precise c
          { code := 0x05, info := BitVec.ofNat 32 (2 + 65536 * y.1.toNat) }))

open Sys2Proof Sys2Proof.Machine Sys2Proof.Claims in
/-- A tile that leaves the command queue begins its load and fixes its cycles. TILE_START, BACKGROUND_LOAD_START and
MSTREAM_START of a core with an active run on a module that is not stalled, with an operation of the kind at the
head of the queue, no fault in its operands and, for a tile or MSTREAM, the accumulator entries it names as it needs
them: the operation leaves the queue and becomes a job of the array whose first load, or first sub-vector, comes in
the cycle that R129, R130 or R153 gives; the pointer and every other core are as before. That a tile's first load
also waits for the injections of an SLOAD ahead of it is the model's choice (log 115). -/
def Obligations.TileStarts : Prop :=
  ∀ (s : State) (c : Nat) (o : MatOp) (rest : List MatOp) (p : TileP), s.hasCore c = true → (s.core c).ell = none →
    s.stalled = false → s.running c = true → (s.core c).arr.queue = o :: rest → tileOf o.tp = some p →
    let k := s.core c
    let t0 := max o.issued (max k.arr.nextLoad k.arr.injFree)
    let e1 := max (o.issued + 1) (k.arr.lastEntry + 1)
    let tl := max (o.issued + 1) k.arr.injFree
    let started := fun (i : Instr) (phase load w : Nat) => ∃ u : State, exec i s = .next u ∧ (u.core c).arr.queue = rest ∧
      (u.core c).arr.jobs = k.arr.jobs ++
        [{ op := o, mark := false, set := 0, phase := phase, grp := 0, load := load, w := w }] ∧
      (u.core c).arr.ptr = k.arr.ptr ∧ (u.core c).vregs = k.vregs ∧ (u.core c).sregs = k.sregs ∧
      (∀ d, d ≠ c → u.core d = s.core d) ∧ u.hostMem = s.hostMem
    (o.kind = .tile → k.accWrong o p = false → o.badHandle p (s.reach c) = none →
      started (.tileStart c) 0 t0 (max (t0 + 66) k.arr.lastEntry)) ∧
    (o.kind = .mstream → k.accWrong o p = false → o.badHandle p (s.reach c) = none →
      started (.mstreamStart c) 2 e1 (e1 - 1)) ∧
    (o.kind = .sload → o.statFails p (s.reach c) = false → started (.backgroundLoadStart c) 0 tl tl)

open Sys2Proof Sys2Proof.Machine Sys2Proof.Claims in
/-- A SWAP that takes effect inverts the stationary pointer. SWAP_EFFECT of a core with an active run on a module that
is not stalled, with a SWAP at the head of the queue and no work of the array in progress, at the cycle of its
issue, or where something was ahead of it at the later of that and the cycle after the last sub-vector ahead: the
SWAP leaves the queue, the pointer is inverted, and every accumulator, both stationary copies and every other core
are as before. Where the last background load began less than 66 cycles before, the module stalls at that schedule
cycle for the cycles that are missing, which are counted, less those for which it stalls there already, and a
schedule-violation event is posted; otherwise nothing else changes. -/
def Obligations.SwapInvertsPointer : Prop :=
  ∀ (s : State) (c : Nat) (o : MatOp) (rest : List MatOp), s.hasCore c = true → (s.core c).ell = none →
    s.stalled = false → s.running c = true → (s.core c).arr.queue = o :: rest → o.kind = .swap →
    (s.core c).arr.jobs = [] →
      let k := s.core c
      let w := if o.behind then max o.issued k.arr.aheadEnd else o.issued
      let missing := match k.arr.loadStart with
        | some l => l + 66 - w
        | none => 0
      let counted := match k.run.bind s.run? with
        | some x => (s.stallsAt (x.position w)).1
        | none => 0
      ∃ u : State, exec (.swapEffect c) s = .next u ∧ (u.core c).arr.queue = rest ∧ (u.core c).arr.ptr = !k.arr.ptr ∧
        (u.core c).arr.acc = k.arr.acc ∧ (u.core c).arr.copy0 = k.arr.copy0 ∧ (u.core c).arr.copy1 = k.arr.copy1 ∧
        (∀ d, d ≠ c → u.core d = s.core d) ∧
        (0 < missing →
          u.det.stallCc.val = min (s.det.stallCc.val + (missing - counted)) (2 ^ 64 - 1) ∧ u.ctxs = (s.violation c).ctxs ∧
          u.hostMem = (s.violation c).hostMem) ∧
        (missing = 0 → u.det = s.det ∧ u.runs = s.runs ∧ u.ctxs = s.ctxs ∧ u.hostMem = s.hostMem)

open Sys2Proof Sys2Proof.Machine Sys2Proof.Claims in
/-- A completed column enters the result queue, is discarded, or is written through its handle. RESULT_COLUMN of a core
with an active run on a module that is not stalled, with no job of the array in progress: the oldest column leaves;
one for the result queue joins it, or is discarded with a schedule-violation event where four columns wait; one for
memory is written at once where its handle needs no credit; its flags are to be set in NSTAT in its cycle, but not
those of raw records. With no column nothing happens. -/
def Obligations.ResultColumns : Prop :=
  ∀ (s : State) (c : Nat), s.hasCore c = true → (s.core c).ell = none → s.stalled = false → s.running c = true →
    (s.core c).arr.jobs = [] →
    let k := s.core c
    (k.arr.columns = [] → exec (.resultColumn c) s = .next s) ∧
    (∀ x xs, k.arr.columns = x :: xs → x.wait = false →
      let flags := if x.fmt = 0xE then 0 else flagsOr (x.vals.filterMap id)
      let done := s.setCore c (({ k with arr := { k.arr with columns := xs } } : Core).nstatAt x.avail flags)
      (x.outv = true → k.arr.resultQ.length < 4 →
        exec (.resultColumn c) s = .next (done.setCore c
          { done.core c with arr := { (done.core c).arr with resultQ := k.arr.resultQ ++ [x.vreg] } })) ∧
      (x.outv = true → 4 ≤ k.arr.resultQ.length → exec (.resultColumn c) s = .next (done.violation c)) ∧
      (x.outv = false → s.writeRefused c x.od.d = false → Desc.pool x.od.d = none →
        exec (.resultColumn c) s = .next (done.writeColumn c x)))

open Sys2Proof Sys2Proof.Machine Sys2Proof.Claims in
/-- FSET and FCLR change a local flag, and each core sees it at its distance. FSET or FCLR of a local flag of the core's
run, alone in a ready ell issued in cycle i, the flag not broken, with no other operation in cycle i + 1 and no
change on its way: the store holds the new value from cycle i + 1, the view of each core of the run from i + 2 plus
its distance, and the old value before; the core goes on after the ell; every other flag and core is as before. A
race of an earlier cycle that is still to be reported is reported then, since no break can discard it any more (log
66). -/
def Obligations.FlagSignals : Prop :=
  ∀ (s : State) (c r p : Nat) (post : BitVec 4) (vid : BitVec 16) (x : Run) (e : DWord) (f : Flag) (val : Bool),
    s.ready c 2 noQueue → s.runOf c = some (r, x) → s.flagEnt x vid = some e → flagKind e = 0 →
    s.physFlag r vid = some p → kfind s.syn.flags p = some f → s.nameBroken c false vid = false → f.run = r → f.upd = [] →
    let i := (s.core c).scyc
    f.cyc ≠ some (i + 1) →
      ∃ (u : State) (g : Flag), exec (if val then .fset c (.last post) vid else .fclr c (.last post) vid) s = .next u ∧
        kfind u.syn.flags p = some g ∧ g.value = val ∧ g.cyc = some (i + 1) ∧ g.last = some (s.moduleId, c) ∧
        (∀ b t, b ∈ s.coresOf r →
          g.viewAt b t = (if i + 2 + s.hopH c b ≤ t then val else kget false f.view b)) ∧
        (∀ q, q ≠ p → kfind u.syn.flags q = kfind s.syn.flags q) ∧
        u.core c = ((s.seen c).syncDoneAt (i + 2)).fallThrough 3 post.toNat ∧
        (∀ d, d ≠ c → u.core d = s.core d) ∧ u.runs = s.runs ∧
        (f.owed = false → u.ctxs = s.ctxs ∧ u.hostMem = s.hostMem) ∧
        (f.owed = true → u.ctxs = (s.flagRace f).ctxs ∧ u.hostMem = (s.flagRace f).hostMem)

open Sys2Proof Sys2Proof.Machine Sys2Proof.Claims in
/-- FWAIT holds the next ell until the view equals VAL, FTEST samples the view. FWAIT and FTEST of an allocated flag
that is not broken, alone in a ready ell issued in cycle i: FWAIT leaves a hold that is satisfied in cycle i where
the core's view equals VAL; FTEST schedules 1 or 0 for rd at i + 2. A core held on a wait that is satisfied in cycle
u issues its next ell no earlier than u + 3, and one whose wait is not satisfied stays held; nothing else changes
where AUTOCLR is 0. -/
def Obligations.FlagReads : Prop :=
  ∀ (s : State) (c r p : Nat) (post : BitVec 4) (vid : BitVec 16) (rd : BitVec 5) (f : Flag) (val auto : Bool),
    (s.ready c 2 noQueue → (s.core c).run = some r → s.physFlag r vid = some p → kfind s.syn.flags p = some f →
      s.nameBroken c false vid = false →
      let k := s.seen c
      exec (.fwait c (.last post) vid val auto) s = .next (s.setCore c
        (({ k with hold := .fwait vid val auto k.scyc (if f.viewAt c k.scyc = val then some k.scyc else none) } :
          Core).fallThrough 3 post.toNat)) ∧
      exec (.ftest c (.last post) vid rd) s = .next (s.setCore c
        (((k.later 2 true (.sreg rd (if f.viewAt c k.scyc = true then 1 else 0))).syncDoneAt k.scyc).fallThrough 3
          post.toNat))) ∧
    (∀ i u, s.hasCore c = true → (s.core c).ell = none → (s.core c).hold = .fwait vid val false i (some u) →
      exec (.fwaitWake c) s = .next (s.setCore c { s.core c with hold := .free, scyc := max (s.core c).scyc (u + 3) })) ∧
    (∀ i, s.hasCore c = true → (s.core c).ell = none → (s.core c).hold = .fwait vid val auto i none →
      s.fwaitMet c (.fwait vid val auto i none) = none → exec (.fwaitWake c) s = .next s)

open Sys2Proof Sys2Proof.Machine Sys2Proof.Claims in
/-- The next change on its way reaches a core's view and satisfies the wait that it meets. FLAG_VIEW_UPDATE of an
allocated flag with a change on its way to a core: the core's view takes the value, the change is no longer on its
way, and an FWAIT of the core for that value of the flag, issued before the change, is satisfied in the cycle of the
change; with no change on its way nothing happens. -/
def Obligations.FlagViewUpdates : Prop :=
  ∀ (s : State) (p c : Nat) (f : Flag), kfind s.syn.flags p = some f →
    ((∀ u, u ∈ f.upd → u.core ≠ c) → exec (.flagViewUpdate p c) s = .next s) ∧
    (∀ v rest, f.upd = v :: rest → v.core = c →
      ∃ (u : State) (g : Flag), exec (.flagViewUpdate p c) s = .next u ∧ kfind u.syn.flags p = some g ∧ g.upd = rest ∧
        kget false g.view c = v.val ∧ g.value = f.value ∧
        (∀ q, q ≠ p → kfind u.syn.flags q = kfind s.syn.flags q) ∧
        (∀ i auto, (s.core c).run = some f.run → (s.core c).hold = .fwait f.vid v.val auto i none → i < v.cyc →
          (u.core c).hold = .fwait f.vid v.val auto i (some v.cyc)) ∧
        (∀ d, d ≠ c → u.core d = s.core d) ∧ (u.core c).sregs = (s.core c).sregs)

open Sys2Proof Sys2Proof.Machine Sys2Proof.Claims in
/-- BARR sends an arrival of the core's next generation; a second arrival of a child before its release is OVERRUN. BARR
of an allocated barrier that is not broken, alone in a ready ell issued in cycle i: an arrival of the parity of the
core's generation is on its way to its cluster for cycle i + 2, the generation advances, and unless NOWAIT the core
holds. BARRIER_ARRIVAL with no release on its way and the oldest arrival not yet counted sets its bit in the node;
one whose bit is set already, as are those of the other arrivals of its cycle, ends the run with OVERRUN and changes
no bit; what it holds stays held. -/
def Obligations.BarrierArrivals : Prop :=
  ∀ (s : State) (c r p : Nat) (post : BitVec 4) (vid : BitVec 16) (b : Barrier) (nowait : Bool),
    kfind s.syn.barriers p = some b →
    (s.ready c 2 noQueue → (s.core c).run = some r → s.physBarr r vid = some p → s.nameBroken c true vid = false →
      b.arrivals = [] →
      let k := s.seen c
      let par := decide (kget 0 b.coreGen c % 2 = 1)
      ∃ u : State, exec (.barr c (.last post) vid nowait) s = .next u ∧
        kfind u.syn.barriers p = some { b with
          coreGen := kset b.coreGen c (kget 0 b.coreGen c + 1)
          arrivals := [{ node := .cluster (c / 4), parity := par, child := c, core := c, cyc := k.scyc + 2 }] } ∧
        u.core c = ({ k with
          outArr := k.outArr ++ [{ vid := vid, parity := par, nowait := nowait }]
          hold := if nowait then k.hold else .barr vid par k.scyc } : Core).fallThrough 3 post.toNat ∧
        (∀ d, d ≠ c → u.core d = s.core d)) ∧
    (∀ a rest, b.arrivals = a :: rest → b.releases = [] → b.broken = false →
      ∃ (u : State) (g : Barrier), exec (.barrierArrival p) s = .next u ∧ kfind u.syn.barriers p = some g ∧
        (({ node := a.node, parity := a.parity, child := a.child } : NodeBit) ∈ b.bits →
          (∀ x, x ∈ rest → x.cyc = a.cyc → ({ node := x.node, parity := x.parity, child := x.child } : NodeBit) ∈ b.bits) →
          g = { b with arrivals := rest, overran := true } ∧
          (∀ x, s.run? b.run = some x → x.endStatus = none → ∃ y, u.run? b.run = some y ∧ y.endStatus = some 0x0A)) ∧
        (({ node := a.node, parity := a.parity, child := a.child } : NodeBit) ∉ b.bits → a.node ≠ .root →
          ({ node := a.node, parity := a.parity, child := a.child } : NodeBit) ∈ g.bits))

open Sys2Proof Sys2Proof.Machine Sys2Proof.Claims in
/-- A release that reaches a core completes its oldest arrival and wakes it in the next cycle. BARRIER_RELEASE of a
barrier that is not broken, with a release to core c at the front: the core's oldest outstanding arrival of the
barrier and parity is completed, and a core held on a BARR of that barrier and parity without NOWAIT issues its next
ell no earlier than the cycle after; with none on its way nothing happens. After an OVERRUN of the barrier the core
stays held until its run ends. -/
def Obligations.BarrierReleases : Prop :=
  ∀ (s : State) (p : Nat) (b : Barrier), kfind s.syn.barriers p = some b →
    (b.releases = [] → exec (.barrierRelease p) s = .next s) ∧
    (∀ a rest c x xs i, b.releases = a :: rest → a.core = some c → b.broken = false →
      (s.core c).outArr = x :: xs → x.vid = b.vid → x.parity = a.parity → x.nowait = false →
      (s.core c).hold = .barr b.vid a.parity i →
        (b.overran = true → ∃ u : State, exec (.barrierRelease p) s = .next u ∧
          kfind u.syn.barriers p = some { b with releases := rest } ∧ (u.core c).hold = (s.core c).hold ∧
          (u.core c).scyc = (s.core c).scyc) ∧
        (b.overran = false → ∃ u : State, exec (.barrierRelease p) s = .next u ∧
          kfind u.syn.barriers p = some { b with releases := rest } ∧
          (u.core c).outArr = xs ∧ (u.core c).hold = .free ∧
          (u.core c).scyc = max (s.core c).scyc (a.cyc + 1) ∧ (∀ d, d ≠ c → u.core d = s.core d) ∧ u.runs = s.runs))

open Sys2Proof Sys2Proof.Machine Sys2Proof.Claims in
/-- DIGEST, FENCE and EVENT, and the events that follow them. Alone in a ready ell: DIGEST opens the next digest epoch
and keeps the cycle of the point; FENCE holds the next ell for the named units; EVENT posts a program event of the
run with the code. FENCE_RELEASE with the named units done lets the next ell issue in the later of the cycle after
the FENCE and the cycle after the last completion, and with a unit not done changes nothing. DIGEST_HANDOVER, once
nothing before the point is pending, hands the core's digest, its count and the cycle of the point to the run and
resets them. TRAP_ENTRY of a core with no matrix operation in progress and no handler takes its lowest pending cause
with the next ell, or, where the core is held or waits for a queue, in the first cycle in which one is pending; with
none pending nothing happens. -/
def Obligations.SyncSlotOthers : Prop :=
  ∀ (s : State) (c r : Nat) (post : BitVec 4) (mask : BitVec 5) (code : BitVec 16) (x : Run),
    (s.ready c 2 noQueue →
      let k := s.seen c
      exec (.digest c (.last post)) s = .next (s.setCore c
        (({ k with dig := { k.dig with
          issued := k.dig.issued + 1, reached := kset k.dig.reached k.dig.issued k.scyc } }.syncDoneAt k.scyc).fallThrough 3
            post.toNat)) ∧
      exec (.fence c (.last post) mask) s =
        .next (s.setCore c (({ k with hold := .fence mask k.scyc } : Core).fallThrough 3 post.toNat)) ∧
      (s.runOf c = some (r, x) → ∃ u : State, exec (.event c (.last post) code) s = .next u ∧
        u.core c = (k.syncDoneAt k.scyc).fallThrough 3 post.toNat ∧ u.runs = s.runs ∧
        u.ctxs = (s.postEvent x.ctx 0x01 0 c x.job.toNat code.toNat).ctxs ∧
        u.hostMem = (s.postEvent x.ctx 0x01 0 c x.job.toNat code.toNat).hostMem)) ∧
    (s.hasCore c = true → (s.core c).ell = none →
      (∀ i, (s.core c).hold = .fence mask i →
        ((s.core c).fenceDone mask = true →
          exec (.fenceRelease c) s = .next (s.setCore c { s.core c with
            hold := .free, scyc := max (s.core c).scyc (max (i + 1) ((s.core c).fenceAt mask)) })) ∧
        ((s.core c).fenceDone mask = false → exec (.fenceRelease c) s = .next s)) ∧
      ((s.core c).run = some r → s.run? r = some x → (s.core c).dig.handed < (s.core c).dig.issued →
        (s.core c).digestPending (s.core c).dig.handed = false →
        let l := (s.core c).dig.handed
        let d := kget (0, 0) (s.core c).dig.sums l
        exec (.digestHandover c) s = .next ((s.setCore c { s.core c with
          dig := { (s.core c).dig with
            sums := kdel (s.core c).dig.sums l, handed := l + 1, reached := kdel (s.core c).dig.reached l } }).setRun r
            { x with handed := x.handed ++ [(c, l, d.1, d.2, kget 0 (s.core c).dig.reached l)] })) ∧
      ((s.core c).inHandler = false → (s.core c).halted = false → s.running c = true → (s.core c).run = some r →
        (s.core c).arr.jobs = [] →
        let now := if (s.core c).hold ≠ .free ∨ (s.core c).waitQ = true then max (s.core c).scyc (s.nowRun r)
          else (s.core c).scyc
        ((s.core c).asyncQ = [] → exec (.trapEntry c) s = .next s) ∧
        (∀ y, y ∈ (s.core c).asyncQ → (∀ z, z ∈ (s.core c).asyncQ → y.cyc ≤ z.cyc) → y.cyc ≤ now →
          exec (.trapEntry c) s =
            .next ((s.setCore c { s.core c with scyc := max (s.core c).scyc y.cyc }).takeAsync c))))

open Sys2Proof Sys2Proof.Machine Sys2Proof.Claims in
/-- A deadlock is logged, reported and ends its run with TIMEOUT; a broken run's objects are broken. DEADLOCK of an
active run whose cores have all been held on FWAIT or BARR, or halted, with nothing in progress and one of them
held, since a schedule cycle SYN_DL_TIMEOUT times 1,024 or more schedule cycles back: the first such core and the
identifier it waits on go into SYN_DL_LOG and SYN_DL_INFO where these hold no deadlock yet, a TIMEOUT event with
both is posted to the run's context, the run is to end with TIMEOUT, and no core changes; for any other run nothing
changes. The cycle from which the condition holds is found at a tick (log 133). OBJECT_BREAK of a run, one of whose
objects is not broken, marks each of its flags and barriers broken and discards what is on its way to them, with
what reaches a store in the cycle of the break; a value that was in its store before stays; each core held on one of
them outside a handler has BROKEN_OBJECT pending with the identifier from the cycle of the break; every other flag
and barrier and every core that the run does not occupy is as before, save that races of earlier cycles are
reported. -/
def Obligations.DeadlockAndBreak : Prop :=
  ∀ (s : State) (r : Nat) (x : Run), s.run? r = some x →
    ((x.phase ≠ .active ∨ (s.coresOf r).all (fun c => (s.core c).deadlocked) = false ∨ x.dlSince = none ∨
        (∀ c, c ∈ s.coresOf r → (s.core c).waitsOn = none)) → exec (.deadlock r) s = .next s) ∧
    (∀ c cs u, (s.coresOf r).filter (fun c => (s.core c).waitsOn.isSome) = c :: cs → x.phase = .active →
      (s.coresOf r).all (fun c => (s.core c).deadlocked) = true → x.dlSince = some u →
      (s.nowOf x < u + s.syn.dlTimeout.toNat * 1024 → exec (.deadlock r) s = .next s) ∧
      ((∀ d, d ∈ s.coresOf r → (s.core d).heldSince u = true) → u + s.syn.dlTimeout.toNat * 1024 ≤ s.nowOf x →
        x.endStatus = none →
        let w := (s.core c).waitsOn.getD (0, false)
        let ev := s.postEvent x.ctx 0x07 0 c x.job.toNat (c % 1024 + 1024 * w.1.toNat)
        ∃ (t : State), exec (.deadlock r) s = .next t ∧ t.run? r = some { x with endStatus := some 0x07 } ∧
          (bitOf s.syn.dlLog 0 = false →
            t.syn.dlLog = BitVec.ofNat 32 (1 + 2 * (x.ctx % 1024)) ∧
            t.syn.dlInfo = BitVec.ofNat 32 (c % 1024 + 2 ^ 10 * w.1.toNat + (if w.2 = true then 2 ^ 26 else 0))) ∧
          (bitOf s.syn.dlLog 0 = true → t.syn.dlLog = s.syn.dlLog ∧ t.syn.dlInfo = s.syn.dlInfo) ∧
          t.ctxs = ev.ctxs ∧ t.hostMem = ev.hostMem ∧ t.cores = s.cores)) ∧
    (∃ u : State, exec (.objectBreak r) s = .next u ∧
      (∀ p f, kfind s.syn.flags p = some f →
        ∃ g, kfind u.syn.flags p = some g ∧ (f.run ≠ r → g = f ∨ g = { f with owed := false }) ∧
          (f.run = r → g.broken = true ∧ (f.hist = [] → g.value = f.value) ∧
            (f.broken = false → g = { f with
              broken := true
              upd := []
              hist := []
              value := (f.before (s.nowRun r)).1
              last := (f.before (s.nowRun r)).2.1
              race := (f.before (s.nowRun r)).2.2
              owed := false }))) ∧
      (∀ p b, kfind s.syn.barriers p = some b →
        ∃ g, kfind u.syn.barriers p = some g ∧ (b.run ≠ r → g = b) ∧
          (b.run = r → g = { b with broken := true, arrivals := [], releases := [] })) ∧
      (∀ c, c ∉ s.coresOf r → u.core c = s.core c) ∧
      (∀ c v, c ∈ s.coresOf r → (s.core c).hold.object = some v → (s.core c).inHandler = false →
        (s.core c).halted = false →
        ((∃ p f, kfind s.syn.flags p = some f ∧ f.run = r ∧ f.broken = false) ∨
          (∃ p b, kfind s.syn.barriers p = some b ∧ b.run = r ∧ b.broken = false)) →
        ({ code := 0x09, info := BitVec.ofNat 32 (5 + 65536 * v.toNat), cyc := s.nowRun r } : Cause) ∈ (u.core c).asyncQ))

open Sys2Proof Sys2Proof.Machine Sys2Proof.Claims in
/-- Reissues, refreshes and patrols of hogshead dies and strata are counted, and stall as they cost. HOGSHEAD_REISSUE of
a word of a present die is counted and stalls the module 32 cycles, of which those are counted for which it does not
stall already; attempts are counted by die, the model's choice (log 156); after a failed third attempt, the second
reissue, the run of the core is to end with ABORTED, and otherwise no run gets another end. HOGSHEAD_REFRESH of a
channel that falls due one interval of the rate after its last: on a die that no run holds nothing happens; of a
Sealed holder, or with one of the 64 hub cycles from then in which the run does not use the channel, the refresh
takes place and costs nothing; else it is forced in the 64th, is counted and stalls the module in that core cycle
for one, which is counted unless it stalls there already. One that is not due does nothing. STRATUM_PATROL of a core
with a mapped stone and no run counts the corrected words of the rows that it reads, leaves none of them marked,
keeps every other mark and every byte, and stands at the next row; of a core that a run occupies it waits; how many
rows a command reads is its operand (log 26), as is the hub cycle in which a channel's first refresh falls due (log
124). HOGSHEAD_PATROL in a phase that no run holds counts the corrected words of the line, leaves none of them
marked, keeps every other mark, and changes no byte; without such a phase it waits. -/
def Obligations.HogsheadReads : Prop :=
  ∀ (s : State) (c die off chan line due rows : Nat) (ok : Bool),
    (s.hgPresent die = true → chan = hgChannel off → off < hgSize → s.hasCore c = true → (s.core c).ell = none →
      ∃ u : State, exec (.hogsheadReissue c die chan off ok) s = .next u ∧
        u.det.hgretry.val = min (s.det.hgretry.val + 1) (2 ^ 64 - 1) ∧ u.cores = s.cores ∧
        u.det.stallCc.val = min (s.det.stallCc.val + (32 - (s.stallsAt s.pos).2)) (2 ^ 64 - 1) ∧
        (u.hog die).retries = (if ok = true ∨ 1 ≤ (s.hog die).retries then 0 else (s.hog die).retries + 1) ∧
        (∀ r x, s.run? r = some x → x.endStatus = none → ∃ y, u.run? r = some y ∧
          y.endStatus = (if ok = false ∧ 1 ≤ (s.hog die).retries ∧ (s.core c).run = some r then some 0x06 else none))) ∧
    (s.hgPresent die = true → chan < 13 →
      let h := s.hog die
      let go := exec (.hogsheadRefresh die chan due) s
      (s.hgMode die = none → go = .next s) ∧
      (∀ d, kfind h.due chan = some d → d + refreshEvery h.rate ≠ due → go = .next s) ∧
      (∀ m, s.hgMode die = some m → (∀ d, kfind h.due chan = some d → d + refreshEvery h.rate = due) →
        ((m = 1 ∨ ∃ d, d < 64 ∧ (due + d, chan) ∉ h.uses) →
          go = .next (s.modHog die (fun h => { h with due := kset h.due chan due }))) ∧
        (m ≠ 1 → (∀ d, d < 64 → (due + d, chan) ∈ h.uses) → ∃ u : State, go = .next u ∧
          u.det.refcoll.val = min (s.det.refcoll.val + 1) (2 ^ 64 - 1) ∧
          (∀ x, h.holder.bind s.run? = some x →
            let at_ := s.posAt (x.coreCycle (ccPerTick s.pwr.cur) (due + 63))
            u.det.stallCc.val = min (s.det.stallCc.val + (1 - (s.stallsAt at_).1)) (2 ^ 64 - 1)) ∧ u.cores = s.cores ∧
          u.hog die = { h with due := kset h.due chan due, uses := (due + 64, chan) :: h.uses }))) ∧
    (s.hasCore c = true → (s.core c).ell = none →
      let k := s.core c
      let here := fun (x : EccMark) => x.mem == .strat && !x.due && decide (8 * k.patrol.getD 0 ≤ x.word) &&
        decide (x.word < 8 * (k.patrol.getD 0 + rows))
      (k.run.isSome = true → exec (.stratumPatrol c rows) s = .next s) ∧
      (k.run = none → s.mappedStratum c = true → ∃ u : State, exec (.stratumPatrol c rows) s = .next u ∧
        (u.core c).ecc = k.ecc.filter (fun x => !here x) ∧ (u.core c).strat = k.strat ∧
        (u.core c).eccRegs.ceStrat = satAdd k.eccRegs.ceStrat (k.ecc.filter here).length ∧
        (u.core c).patrol = (if 36864 ≤ k.patrol.getD 0 + rows then none else some (k.patrol.getD 0 + rows)) ∧
        (∀ d, d ≠ c → u.core d = s.core d))) ∧
    (s.hgPresent die = true → 64 * line < hgSize →
      (s.freePhases die = [] → exec (.hogsheadPatrol die line) s = .next s) ∧
      (s.freePhases die ≠ [] → ∃ u : State, exec (.hogsheadPatrol die line) s = .next u ∧
        (u.hog die).mem = (s.hog die).mem ∧ (u.hog die).wq = (s.hog die).wq ∧
        (u.hog die).ce = satAdd (s.hog die).ce ((s.hog die).bad.filter (fun x =>
          !x.2 && decide (x.1 < 64 * line + 64) && decide (64 * line < x.1 + 32))).length ∧
        (∀ o b, (o, b) ∈ (s.hog die).bad → (b = true ∨ 64 * line + 64 ≤ o ∨ o + 32 ≤ 64 * line) →
          (o, b) ∈ (u.hog die).bad) ∧
        (∀ o, o < 64 * line + 64 → 64 * line < o + 32 → (o, false) ∉ (u.hog die).bad) ∧ u.cores = s.cores))

open Sys2Proof Sys2Proof.Machine Sys2Proof.Claims in
/-- A scrub zeroes every store of a core but its stratum; a region scrub zeroes the region; a credit returns. CORE_SCRUB
of a core that no run occupies takes it from its context, sets SCRUB_BUSY and puts every field of the core to its
reset value, its memories zero, but for the stratum, the marks of the stratum, the error counters and log, its
availability and the place of its patrol; of a core that a run occupies nothing happens. SCRUB_COMPLETE of a core
that is being scrubbed clears SCRUB_BUSY and leaves it so, and a CTX_KILL that waited for the scrub goes on. That
every field of the core goes to reset is the model's reading (log 73). START of bit 0 on an unowned core begins a
scrub, and otherwise nothing happens. REGION_SCRUB of a region that no grant and no stone holds notes the region,
and in a phase that no run holds leaves each of its bytes 0 and every other byte of the die as it was, without one
every byte; REGION_SCRUB_COMPLETE, in such a phase, leaves each byte of the regions noted there 0 and every other
byte as it was and frees them, and without one it waits. CREDIT_RETURN adds one credit to a pool below its limit;
one to a full pool, or to none, is discarded with a schedule-violation event. -/
def Obligations.ScrubsAndCredits : Prop :=
  ∀ (s : State) (c die off n : Nat) (v : Word) (pool : BitVec 8),
    (s.hasCore c = true → (s.core c).ell = none →
      let k := s.core c
      let zero := fun (busy : Bool) (owner : Option Nat) => { Core.reset with
        strat := k.strat, ecc := k.ecc.filter (fun x => x.mem == .strat), eccRegs := k.eccRegs, available := k.available
        scrubBusy := busy, owner := owner, patrol := k.patrol }
      (k.run = none → exec (.coreScrub c) s = .next (s.setCore c (zero true none))) ∧
      (k.run.isSome = true → exec (.coreScrub c) s = .next s) ∧
      (k.scrubBusy = true → exec (.scrubComplete c) s = .next (s.setCore c (zero false k.owner)).settleKills) ∧
      ((∀ f, (s.ctx f).kill = none) → (s.setCore c (zero false k.owner)).settleKills = s.setCore c (zero false k.owner)) ∧
      (k.scrubBusy = false → exec (.scrubComplete c) s = .next s) ∧
      (exec (.start c v) s =
        .next (if v.getLsbD 0 = true ∧ k.owner = none then s.setCore c { k with owner := none, scrubBusy := true } else s)) ∧
      (∀ r p, k.run = some r → kfind k.pools pool.toNat = some p → p.count < p.limit →
        exec (.creditReturn c pool) s = .next (s.setCore c { k with
          pools := kset k.pools pool.toNat
            { p with count := p.count + 1, since := if p.count = 0 then s.nowRun r else p.since } })) ∧
      (∀ r p, k.run = some r → kfind k.pools pool.toNat = some p → p.limit ≤ p.count →
        exec (.creditReturn c pool) s = .next (s.violation c)) ∧
      (∀ r, k.run = some r → kfind k.pools pool.toNat = none → exec (.creditReturn c pool) s = .next (s.violation c))) ∧
    (s.hgPresent die = true → off + n ≤ hgSize → s.regionHeld die off n = false →
      ∃ u : State, exec (.regionScrub die off n) s = .next u ∧ (off, n) ∈ (u.hog die).scrub ∧
        (∀ a, memRead (u.hog die).flush.mem a =
          (if s.freePhases die ≠ [] ∧ off ≤ a ∧ a < off + n then 0 else memRead (s.hog die).flush.mem a)) ∧
        (∀ d, d ≠ die → u.hog d = s.hog d) ∧ u.cores = s.cores) ∧
    (s.hgPresent die = true →
      (s.freePhases die = [] → exec (.regionScrubComplete die off) s = .next s) ∧
      (s.freePhases die ≠ [] → ∃ u : State, exec (.regionScrubComplete die off) s = .next u ∧
        (∀ m, (off, m) ∉ (u.hog die).scrub) ∧
        (∀ o m, o ≠ off → (o, m) ∈ (s.hog die).scrub → (o, m) ∈ (u.hog die).scrub) ∧
        (∀ a, (∃ m, (off, m) ∈ (s.hog die).scrub ∧ off ≤ a ∧ a < off + m) → memRead (u.hog die).flush.mem a = 0) ∧
        (∀ a, (∀ m, (off, m) ∈ (s.hog die).scrub → a < off ∨ off + m ≤ a) →
          memRead (u.hog die).flush.mem a = memRead (s.hog die).flush.mem a) ∧
        (∀ d, d ≠ die → u.hog d = s.hog d) ∧ u.cores = s.cores))

namespace Sys2Proof.Claims

open Sys2Proof.Machine

/-- The state without a grain on its way of run x. -/
def arrived (s : State) (f : Flight) (x : Run) : State :=
  { s with lnk := { s.lnk with flights := s.lnk.flights.erase f }, runs := kset s.runs f.run { x with dlSince := none } }

end Sys2Proof.Claims

open Sys2Proof Sys2Proof.Machine Sys2Proof.Claims in
/-- A grain that lands at a core is written, added to a bank, or reported. GRAIN_LANDING of the next grain on its way to
a present core on a stream in use: the grain is no longer on its way, the next index is expected, no other core and
no byte of the scratchpad changes yet, nor, unless the core has halted, a register. A sound grain of a data stream,
whose row lies in the scratchpad: its 64 payload bytes are to be written to the row of its index in the cycle of the
landing, poisoned in the code words that its source marked, and every write that was on its way stays so. One of a
partial-sum stream: contributions are to reach the bank 9 cycles later, and no write to the scratchpad is on its way
for it. A sound grain of a stream that the core does not have changes no core and posts a schedule-violation event.
A grain with a failed CRC, which is counted, or with an uncorrectable word raises UNCORRECTABLE of the scratchpad at
the core with source 6 and its stream in that cycle. With no grain on its way nothing happens. -/
def Obligations.GrainsLand : Prop :=
  ∀ (s : State) (c : Nat) (st : BitVec 8) (f : Flight) (x : Run), s.hasCore c = true → (s.core c).ell = none →
    (s.lnk.flights.find? (fun f => f.core == c && Grain.stream f.g == st.toNat) = none →
      ∀ how, exec (.grainLanding c st how) s = .next s) ∧
    (s.lnk.flights.find? (fun f => f.core == c && Grain.stream f.g == st.toNat) = some f → s.run? f.run = some x →
      (∀ (e : StreamEntry) (how : Landing), kfind (s.core c).streams st.toNat = some e →
        let q := f.q.getD e.landed
        let a := e.base + 64 * (q % max 1 e.rows)
        ∃ u : State, exec (.grainLanding c st how) s = .next u ∧ u.lnk.flights = s.lnk.flights.erase f ∧
          u.lnk.ports = s.lnk.ports ∧
          (∀ d, d ≠ c → u.core d = s.core d) ∧ (u.core c).spad = (s.core c).spad ∧
          ((s.core c).halted = false → (u.core c).sregs = (s.core c).sregs ∧ (u.core c).vregs = (s.core c).vregs) ∧
          kfind (u.core c).streams st.toNat = some { e with landed := e.landed + 1 } ∧
          (∀ w, w ∈ (s.core c).spadQ → w ∈ (u.core c).spadQ) ∧
          (how = .sound → Grain.crcOk f.g = true →
            u.lnk.ringCrc = s.lnk.ringCrc ∧
            (e.kind = .data → a + 64 ≤ 786432 →
              { cyc := f.t, addr := a, bytes := bytesOf (Grain.payload f.g) 64
                bad := ((List.range 8).filter (fun i => f.bad.getLsbD i)).map (fun i => 8 * i)
                rank := (e.srcMod * 1024 + e.srcCor) * 4 + 2 } ∈ (u.core c).spadQ) ∧
            (e.kind ≠ .data → (u.core c).spadQ = (s.core c).spadQ) ∧
            (e.kind = .partialSum → ∃ y, y ∈ (u.core c).bankQ ∧ y.bank = e.bank ∧ y.cyc = f.t + 9)) ∧
          ((how ≠ .sound ∨ Grain.crcOk f.g = false) → (s.core c).halted = false →
            ({ code := 0x0A, info := BitVec.ofNat 32 (6 + 256 * st.toNat + 65536 * 2), cyc := f.t } : Cause) ∈
              (u.core c).asyncQ ∧
            u.lnk.ringCrc = (if how = .badCrc ∨ Grain.crcOk f.g = false then satAdd s.lnk.ringCrc 1 else s.lnk.ringCrc))) ∧
      (kfind (s.core c).streams st.toNat = none → Grain.crcOk f.g = true →
        ∃ u : State, exec (.grainLanding c st .sound) s = .next u ∧ u.lnk.flights = s.lnk.flights.erase f ∧
          u.cores = s.cores ∧ u.ctxs = (s.violation c).ctxs ∧ u.hostMem = (s.violation c).hostMem))

open Sys2Proof Sys2Proof.Machine Sys2Proof.Claims in
/-- The host endpoint answers FETCH and KEY, collects PUT, and sync grains, collisions and forwarded grains act at the
hub. For an active run: FETCH and KEY, the next such grain on its way to the host endpoint, of a row below ROWS,
queue one reply for their core and stream: for FETCH the 64 input bytes at the offset of the request that holds the
row, for KEY its sampling key, GREEDY, OCCUPIED and the digest point of its assignment, zeros for an empty row; PUT
of at most 56 bytes to a row that a request holds appends what the output limit leaves room for, sets TRUNCATED
where it does not fit and FINISHED with FINAL, and after a FINAL PUT nothing more; a row at or above ROWS is counted
in HUB_HOSTEP_ERR and ignored. HUB_REPLY sends the oldest reply for a core and stream in the first slot of the
stream, 64 cycles or more after the request landed, that no earlier reply has taken; it lands 40 cycles later. A
sync grain that sets one LOCAL flag of the run sets it in the cycle of its landing; one with a failed CRC, which is
counted, or an uncorrectable word is discarded and the run is to end with ABORTED. GRAIN_COLLISION of two grains of
the run on their way, at a stop whose collision buffer is empty, stalls one cycle, counted unless one is still to
pass there, lets the grain of the lower rank go on, holds the other in the buffer, and is counted and reported; how
a stop is numbered, and the detail of the event, are the model's choice (log 75). BEST_EFFORT_INJECT: the first
grain that waits for the stop and direction enters the buffer, in its place by arrival and source core, if the
buffer holds at most two grains. GRAIN_FORWARD of a grain that is not scheduled hands one for a hub endpoint of this
module to the management processors, puts one for a core at the router's output to its die and one for another
module at that to the port of its route, where it waits for a slot, and discards and counts one without a route; a
re-sent copy for another module waits for a retry slot of that port. That a discarded sync grain ends its run is the
model's reading (log 71). -/
def Obligations.HubGrains : Prop :=
  ∀ (s : State) (r : Nat) (x : Run), s.run? r = some x → x.phase = .active →
    (∀ (f : Flight),
      let p := Grain.payload f.g
      let next := fun (op : Nat) =>
        s.lnk.flights.find? (fun f => f.core == 0x3FE && f.run == r && bits (Grain.payload f.g) 0 8 == op) = some f
      let reply := fun (bs : List Byte) =>
        let t := arrived s f x
        Host.Outcome.next { t with lnk := { t.lnk with
          replies := t.lnk.replies ++ [(r, bits p 64 16, bits p 8 8, f.t, payloadOf bs)] } }
      let ignored :=
        let t := arrived s f x
        Host.Outcome.next { t with hub := { t.hub with hostepErr := satAdd t.hub.hostepErr 1 } }
      (next 1 → bits p 16 16 < x.tun.rows →
        exec (.fetch r) s = reply (match x.rowReq (bits p 16 16) f.t with
          | some q => slice q.input (bits p 32 32) 64
          | none => [])) ∧
      (next 2 → bits p 16 16 < x.tun.rows →
        exec (.key r) s = reply (match x.rowReq (bits p 16 16) f.t with
          | some q => bytesOf q.samplKey 16 ++ leBytes 1 (if q.greedy = true then 1 else 0) ++ [1, 0, 0] ++
              leBytes 4 ((q.assigned.getD 0xFFFFFFFF).toNat)
          | none => [])) ∧
      (∀ q, next 3 → bits p 16 16 < x.tun.rows → bits p 8 6 ≤ 56 → x.rowReq (bits p 16 16) f.t = some q →
        let room := q.outLimit - q.outBytes.length
        (q.finished = true → exec (.put r) s = .next (arrived s f x)) ∧
        (q.finished = false → exec (.put r) s = .next ((arrived s f x).setRun r { x with dlSince := none, reqs := x.reqs.map (fun y =>
          if y.reqId = q.reqId then { y with
            outBytes := y.outBytes ++ (((bytesOf p 64).drop 8).take (bits p 8 6)).take room
            trunc := y.trunc || decide (room < bits p 8 6)
            finished := y.finished || p.getLsbD 14 }
          else y) }))) ∧
      (x.tun.rows ≤ bits p 16 16 →
        (next 1 → exec (.fetch r) s = ignored) ∧ (next 2 → exec (.key r) s = ignored) ∧
        (next 3 → exec (.put r) s = ignored)) ∧
      (s.lnk.flights.find? (fun f => decide (0x3F0 ≤ f.core) && f.run == r) = some f →
        (∀ how, (how ≠ .sound ∨ Grain.crcOk f.g = false) → x.endStatus = none →
          ∃ (u : State) (y : Run), exec (.syncGrainLanding r how) s = .next u ∧ u.run? r = some y ∧
            y.endStatus = some 0x06 ∧ u.syn = s.syn ∧ u.cores = s.cores ∧
            ((how = .badCrc ∨ Grain.crcOk f.g = false) → u.lnk.ringCrc = satAdd s.lnk.ringCrc 1)) ∧
        (∀ e b, Grain.crcOk f.g = true → f.core = 0x3FC → Grain.cls f.g = 0 → Grain.null f.g = false →
          Grain.payload f.g = BitVec.ofNat 512 e → e < 2 ^ 64 → e % 16 = 1 →
          s.physFlag r (BitVec.ofNat 16 (e / 2 ^ 4)) = some b →
            exec (.syncGrainLanding r .sound) s =
              .next ((arrived s f x).flagOp b none (e / 2 ^ 30 % 1024, e / 2 ^ 20 % 1024) f.t true)))) ∧
    (∀ core (stream : BitVec 8) e,
      s.lnk.replies.find? (fun e => e.1 == r && e.2.1 == core && e.2.2.1 == stream.toNat) = some e →
      s.hubTimes x core stream.toNat ≠ [] →
      let ts := s.hubTimes x core stream.toNat
      let taken := match kfind (s.core core).streams stream.toNat with
        | some y => y.sent
        | none => 0
      let q := max taken (slotsBefore ts x.periodCc (e.2.2.2.1 + 64))
      ∃ u : State, exec (.hubReply r core stream) s = .next u ∧ u.lnk.replies = s.lnk.replies.erase e ∧
        { run := r, core := core, g := mkGrain s.moduleId core stream.toNat 0 false false e.2.2.2.2
          t := slotAt ts x.periodCc q + 40, q := some q, bad := 0 } ∈ u.lnk.flights ∧
        (∀ y, kfind (s.core core).streams stream.toNat = some y →
          kfind (u.core core).streams stream.toNat = some { y with sent := q + 1 }) ∧
        (∀ d, d ≠ core → u.core d = s.core d)) ∧
    (∀ stop g h a b, a.core < 1024 → b.core < 1024 → kget [] s.lnk.collide stop = [] →
      s.lnk.flights.find? (fun f => f.run == r && f.g == g) = some a →
      (s.lnk.flights.erase a).find? (fun f => f.run == r && f.g == h) = some b →
      let low := decide (s.flightRank a ≤ s.flightRank b)
      ∃ u : State, exec (.grainCollision r stop g h) s = .next u ∧
        (if low then a else b) ∈ u.lnk.flights ∧ kget [] u.lnk.collide stop = [if low then b else a] ∧
        u.det.conflict.val = min (s.det.conflict.val + 1) (2 ^ 64 - 1) ∧
        u.det.stallCc.val = min (s.det.stallCc.val + (1 - (s.stallsAt s.pos).2)) (2 ^ 64 - 1) ∧ u.cores = s.cores ∧
        u.ctxs = (s.postEvent x.ctx 0x04 0 0xFFFF x.job.toNat (stop % 8)).ctxs) ∧
    (∀ stop inc b, s.lnk.beWait.find? (fun b => b.legs.head?.any (fun l => l.1 == stop && l.2.1 == inc)) = some b →
      let key := 2 * stop + (if inc = true then 1 else 0)
      let q := kget [] s.lnk.beBuf key
      exec (.bestEffortInject stop inc) s = .next (if q.length ≤ 2
        then { s with lnk := { s.lnk with beWait := s.lnk.beWait.erase b, beBuf := kset s.lnk.beBuf key (beInsert b q) } }
        else s)) ∧
    (∀ g, Grain.cls g ≠ 0 →
      (Grain.dmod g = s.moduleId → 0x3F0 ≤ Grain.dcore g → exec (.grainForward g) s = .next { s with tx := (32, g) :: s.tx }) ∧
      (Grain.dmod g = s.moduleId → Grain.dcore g < 0x3F0 →
        exec (.grainForward g) s = .next { s with lnk := { s.lnk with
          routerQ := s.lnk.routerQ ++ [(32 + s.coreDie (Grain.dcore g), s.chn.count, g)] } }) ∧
      (∀ p, Grain.dmod g ≠ s.moduleId → Grain.resent g = false → s.route (Grain.dmod g) = some p →
        exec (.grainForward g) s =
          .next { s with lnk := { s.lnk with routerQ := s.lnk.routerQ ++ [(p, s.chn.count, g)] } })) ∧
    (∀ g, Grain.dmod g ≠ s.moduleId →
      (∀ p, Grain.resent g = true → s.route (Grain.dmod g) = some p →
        exec (.grainForward g) s =
          .next (s.setPort p { s.port p with resendQ := (s.port p).resendQ ++ [(none, g)] })) ∧
      ((Grain.resent g = true ∨ Grain.cls g ≠ 0) → s.route (Grain.dmod g) = none →
        exec (.grainForward g) s = .next { s with chn := { s.chn with noRoute := satAdd s.chn.noRoute 1 } }))

open Sys2Proof Sys2Proof.Machine Sys2Proof.Claims in
/-- A port counts what it receives, trains to its wired partner, and goes down. CODEWORD_RECEIVE of 256 symbols at a
port with codeword lock counts one codeword, and its corrected symbols, or one that it cannot correct; the
descrambler goes on; without lock nothing changes. PORT_TRAINING of an enabled port that is neither active nor in
loop-back, of no slot table, with the straps valid, the boot done, no fatal error that stops the ports, link
training in hardware mode and the port not to be left alone: in phases 0 to 4 the port enters the next phase, in the
third it has codeword lock then, in the fourth frame lock; the exchange of phase 5 records the partner that it sees
and makes the port active exactly where module, system and port are those the wiring expects. LINK_DOWN of a port
that no run uses puts it down, discards what waits there and counts it; of one that the only run uses, in a mode
other than Open, it also ends that run with PATH_LOST and sets CHN_EVENT. The control grain of a control slot at a
port in frame lock: one with a failed CRC counts as a slot missed; a valid one in sequence, with no NAK and no
RETRAIN, is taken as its fields say, and one of slot 0 is then used for time transfer; one that asks for a far-end
loop takes the port down, which goes on decoding; one that asks to retrain takes the port down. NAK_RECEIVE of a
VALID entry for a retained grain of this module that has been re-sent less than twice queues the copy at the grain's
first port and is counted; an entry that is not VALID does nothing. RESEND at an active port in a free retry slot
sends the next copy and counts it where the grain is this module's; otherwise it waits. That the first codeword
after frame lock begins a frame (log 132) and that of several retained grains with a number the newest is meant (log
17) are the model's readings. -/
def Obligations.Ports : Prop :=
  ∀ (s : State) (p a : Nat) (xs : List (BitVec 10)) (pm : BitVec 10) (sy : BitVec 4) (pp : BitVec 5)
    (e0 e1 : Byte) (us : Nat) (why : DownCause) (nak : DWord), p < 32 →
    let x := s.port p
    let others := fun (u : State) => (∀ q, q ≠ p → u.port q = s.port q) ∧ u.cores = s.cores
    let ok := (partnerOf (s.moduleId / 16) (s.moduleId % 16) p).1 = pm.toNat ∧
      (partnerOf (s.moduleId / 16) (s.moduleId % 16) p).2 = pp.toNat ∧ sy = s.chn.straps.sysId
    (x.cwLock = false → exec (.codewordReceive p xs) s = .next s) ∧
    (x.cwLock = true → xs.length = 256 → ∃ u : State, exec (.codewordReceive p xs) s = .next u ∧
      let d := descramble (xs.map (fun v => v.toNat)) x.scramble
      (u.port p).fecCw = satAdd x.fecCw 1 ∧ (u.port p).scramble = d.2 ∧
      (rsDecode d.1 = none →
        (u.port p).fecUncorr = satAdd x.fecUncorr 1 ∧ (u.port p).fecCorr = x.fecCorr ∧ (u.port p).fecSym = x.fecSym) ∧
      (∀ w n, rsDecode d.1 = some (w, n) → (u.port p).fecUncorr = x.fecUncorr ∧
        (u.port p).fecCorr = (if n = 0 then x.fecCorr else satAdd x.fecCorr 1) ∧
        (u.port p).fecSym = (if n = 0 then x.fecSym else satAdd x.fecSym n)) ∧ others u ∧ u.chn = s.chn) ∧
    (x.st ≠ 7 → x.st ≠ 6 → x.enable = true → s.chn.strapsOk = true → s.portUsed p = false → s.hub.splitAct.getLsbD 3 = false →
      s.hub.bootStage = 5 → (s.hub.fatal = true → portsStop s.hub.cause = false) → s.restsDown x = false →
      (x.st ≠ 5 → ∃ u : State, exec (.portTraining p pm sy pp e0 e1 us) s = .next u ∧ (u.port p).st = x.st + 1 ∧
        (u.port p).cwLock = (x.cwLock || x.st == 3) ∧ (u.port p).frameLock = (x.frameLock || x.st == 4) ∧
        u.lnk.portEvt.getLsbD p = true ∧ others u) ∧
      (x.st = 5 → ∃ u : State, exec (.portTraining p pm sy pp e0 e1 us) s = .next u ∧
        (ok → (u.port p).st = 7 ∧ u.lnk.portEvt.getLsbD p = true) ∧ (¬ ok → (u.port p).st = 5 ∧ u.lnk.portEvt = s.lnk.portEvt) ∧
        (u.port p).partner = pm ∧ (u.port p).partnerSys = sy ∧ (u.port p).trainTime = BitVec.ofNat 32 us ∧ others u)) ∧
    (x.st ≠ 0 → s.portUsed p = false → ∃ u : State, exec (.linkDown p why) s = .next u ∧
      (u.port p).st = 0 ∧ (u.port p).cwLock = false ∧ (u.port p).frameLock = false ∧ (u.port p).naks = [] ∧
      (u.port p).resendQ = [] ∧ (u.port p).outQ = [] ∧ (u.port p).rxQ = [] ∧ (u.port p).downCount = satAdd x.downCount 1 ∧
      u.lnk.portEvt.getLsbD p = true ∧ others u ∧ u.runs = s.runs ∧ u.chn = s.chn) ∧
    (∀ r y, x.st ≠ 0 → s.runs = [(r, y)] → s.usesPort y p = true → y.mode ≠ 2 → y.endStatus = none →
      ∃ (u : State) (z : Run), exec (.linkDown p why) s = .next u ∧ (u.port p).st = 0 ∧ u.run? r = some z ∧
        z.endStatus = some 0x05 ∧ u.chn.event.getLsbD 2 = true) ∧
    (x.st = 0 → exec (.linkDown p why) s = .next s) ∧
    (∀ k g rest, x.rxQ = (k, g) :: rest → k % 25 = 0 → x.frameLock = true →
      let y := { x with rxQ := rest }
      let idx := 2 * bits g 0 16 + bits g 16 1
      (ctlCrcOk g = false → x.missed + 1 < 32 → exec (.controlGrain p a) s = .next (s.setPort p { y with
        missed := x.missed + 1, expSlot := x.expSlot.map (fun e => (e + 1) % 131072) })) ∧
      (ctlCrcOk g = true → (x.expSlot = none ∨ x.expSlot = some idx) → g.getLsbD 17 = false →
        (∀ j, j < 5 → g.getLsbD (64 + 64 * j + 12) = false) →
        let t := s.setPort p { y with
          missed := 0, outOfSeq := 0, expSlot := some ((idx + 1) % 131072), farReq := g.getLsbD 18
          partnerFar := g.getLsbD 19 && x.loopSel == 5, partner := BitVec.ofNat 10 (bits g 32 10)
          partnerSys := BitVec.ofNat 4 (bits g 42 4), beCredit := x.beCredit + bits g 384 8
          mgCredit := x.mgCredit + bits g 392 8, depth := BitVec.ofNat 4 (bits g 480 4), farSynced := g.getLsbD 484
          lastHeard := if bits g 16 1 = 0 then some (BitVec.ofNat 16 (bits g 0 16), a) else x.lastHeard }
        let t := if g.getLsbD 18 = true then t.farLoop p else t
        exec (.controlGrain p a) s = .next (if bits g 16 1 = 0
          then t.timeIn p (bits g 0 16) a x.lastHeard (BitVec.ofNat 64 (bits g 448 64)) else t) ∧
        (g.getLsbD 18 = true → x.st ≠ 6 → (t.port p).st = 0 ∧ (t.port p).frameLock = true)) ∧
      (ctlCrcOk g = true → (x.expSlot = none ∨ x.expSlot = some idx) → g.getLsbD 17 = true →
        exec (.controlGrain p a) s = .next ((s.setPort p y).portDown p false))) ∧
    (nak.getLsbD 12 = false → exec (.nakReceive p nak) s = .next s) ∧
    (∀ e, nak.getLsbD 12 = true → bits nak 0 10 = s.moduleId → s.moduleId ≠ 0x3FF →
      s.lnk.retained.find? (fun e => e.seq == bits nak 16 32) = some e → e.sent < 2 →
      ∃ u : State, exec (.nakReceive p nak) s = .next u ∧ (u.port p).nakRx = satAdd x.nakRx 1 ∧
        (u.port e.port).resendQ = (s.port e.port).resendQ ++ [(some e.run, Grain.asResent e.g)] ∧
        { e with sent := e.sent + 1 } ∈ u.lnk.retained ∧ u.cores = s.cores ∧ u.runs = s.runs) ∧
    (∀ own g rest, x.resendQ = (own, g) :: rest →
      (x.st = 7 → s.retryFree x = true → ∃ u : State, exec (.resend p) s = .next u ∧ u.tx = (p, g) :: s.tx ∧
        (u.port p).resendQ = rest ∧ (u.port p).retryAt = some s.chn.count ∧
        (own = none → (u.port p).resend = x.resend ∧ u.det = s.det ∧ u.runs = s.runs) ∧
        (∀ r, own = some r → (u.port p).resend = satAdd x.resend 1 ∧
          u.det.resend.val = min (s.det.resend.val + 1) (2 ^ 64 - 1) ∧
          (∀ y, s.run? r = some y → u.run? r = some { y with counts := { y.counts with resend := y.counts.resend + 1 } })) ∧
        others u) ∧
      ((x.st ≠ 7 ∨ s.retryFree x = false) → exec (.resend p) s = .next s)) ∧
    (x.resendQ = [] → exec (.resend p) s = .next s)

open Sys2Proof Sys2Proof.Machine Sys2Proof.Claims in
/-- A received grain that passes its checks goes to the die side or on; one with a failed CRC is counted.
PORT_GRAIN_RECEIVE at an active port takes the grain of the next slot that is no control slot. In a slot that no
run's tables name: an idle grain does nothing more, but a failed CRC is counted; a grain of this module for a hub
endpoint, not scheduled, with a right CRC, that meets no row of the malformed-grain table and is not a re-sent copy,
is handed to the management processors; one for another module passes the router to the port of its route, or is
discarded and counted without one; one of this module with a failed CRC, not re-sent, is counted, and not handed on;
one that meets a row of the table is counted and answered with a link-local NAK. In a slot that the tables of the
only run name, inbound for a core of this module: a scheduled grain of the slot's stream that passes the checks goes
on to its landing, with the index and the cycle that the tables give; one with a failed CRC is counted and refused
with a NAK to its source, and its place on its stream is kept. A re-sent copy in a retry slot that passes the checks
takes the place of the oldest refused grain of its core and stream. A grain that lands in the stall of a late hold,
in the slot its stream had before, waits in the port for its shifted slot, and is taken with that. With no grain, or
at a port that is not active, nothing else happens. How a grain meets the rows of the table (log 68), and the port
by which a NAK goes on (log 134), are the model's readings. -/
def Obligations.ReceivedGrains : Prop :=
  ∀ (s : State) (p k : Nat) (g : Grain) (rest : List (Nat × Grain)), p < 32 →
    let y := { s.port p with rxQ := rest }
    let go := exec (.portGrainReceive p) s
    ((s.port p).rxQ = [] → go = .next s) ∧
    ((s.port p).rxQ = (k, g) :: rest → k % 25 ≠ 0 → (s.port p).st = 7 →
      let frame := s.rxFrame p k
      let counted := { y with
        beOwed := y.beOwed + (if Grain.cls g = 1 then 1 else 0), mgOwed := y.mgOwed + (if Grain.cls g = 3 then 1 else 0) }
      let held := s.lnk.heldIn.find? (fun h => h.2.1 == p && h.2.2.1 == frame && h.2.2.2.1 == k)
      (∀ h, held = some h → go = .next (({ s.setPort p y with
        lnk := { (s.setPort p y).lnk with heldIn := s.lnk.heldIn.erase h } } : State).grainIn p frame k h.2.2.2.2)) ∧
      (∀ w, held = none → s.landsLate p frame k g = some w → go = .next { s.setPort p y with
        lnk := { (s.setPort p y).lnk with heldIn := s.lnk.heldIn ++ [(w.1, p, w.2, k, g)] } }) ∧
      (s.runs = [] → held = none →
        (Grain.idle g = true → Grain.crcOk g = true → go = .next (s.setPort p y)) ∧
        (Grain.idle g = true → Grain.crcOk g = false →
          go = .next (s.setPort p { y with crcFail := satAdd y.crcFail 1 })) ∧
        (Grain.idle g = false → Grain.crcOk g = true → s.malformedCond g k none = none → Grain.resent g = false →
          Grain.cls g ≠ 0 →
          (Grain.dmod g = s.moduleId → 0x3F0 ≤ Grain.dcore g →
            go = .next { s.setPort p counted with tx := (32, g) :: s.tx }) ∧
          (∀ q, Grain.dmod g ≠ s.moduleId → s.route (Grain.dmod g) = some q →
            go = .next { s.setPort p counted with lnk := { (s.setPort p counted).lnk with
              routerQ := s.lnk.routerQ ++ [(q, s.chn.count, g)] } }) ∧
          (Grain.dmod g ≠ s.moduleId → s.route (Grain.dmod g) = none →
            go = .next { s.setPort p counted with chn := { s.chn with noRoute := satAdd s.chn.noRoute 1 } })) ∧
        (Grain.idle g = false → Grain.crcOk g = false → Grain.dmod g = s.moduleId → Grain.resent g = false →
          go = .next (s.setPort p { y with crcFail := satAdd y.crcFail 1 })) ∧
        (∀ cond, Grain.idle g = false → Grain.crcOk g = true → s.malformedCond g k none = some cond →
          (Grain.dmod g ≠ s.moduleId ∨ Grain.resent g = false) → ∃ u : State, go = .next u ∧
            (u.port p).malformed = satAdd y.malformed 1 ∧ (u.port p).naks = y.naks ++ [nakLocal frame k] ∧ u.tx = s.tx ∧
            u.cores = s.cores)) ∧
      (∀ r x e n, s.runs = [(r, x)] → held = none → s.landsLate p frame k g = none → s.inSlot x p frame k = some e → s.slotNo x frame k = some n → e.dcore < 0x3F0 →
        Grain.idle g = false → Grain.dmod g = s.moduleId → Grain.resent g = false →
        (Grain.crcOk g = true → s.malformedCond g k (some e) = none → Grain.cls g = 0 →
          ∃ u : State, go = .next u ∧
            { run := r, core := e.dcore, g := g, t := s.linkLanding x e n, q := some (s.linkIndex x e n), bad := 0 } ∈
              u.lnk.flights ∧ u.tx = s.tx ∧ u.runs = s.runs ∧
            (∀ c, c ≠ e.dcore → u.core c = s.core c)) ∧
        (∀ src seq, Grain.crcOk g = false → s.expected x p frame k = some (src, seq) →
          ∃ u : State, go = .next u ∧ (u.port p).crcFail = satAdd y.crcFail 1 ∧
            (u.port p).naks = y.naks ++ [nakWord src 0 seq] ∧
            { run := r, dcore := e.dcore, strm := e.stream, src := src, seq := seq, tries := 0, q := s.linkIndex x e n
              t := s.linkLanding x e n } ∈ u.lnk.outNaks ∧ u.lnk.flights = s.lnk.flights ∧ u.cores = s.cores)) ∧
      (∀ n left, held = none → s.runs.findSome? (fun e => s.expected e.2 p frame k) = none → Grain.idle g = false →
        Grain.crcOk g = true → Grain.dmod g = s.moduleId → Grain.resent g = true →
        (∀ ent, s.malformedCond g k ent = none) → takeNak (Grain.dcore g) (Grain.stream g) s.lnk.outNaks = some (n, left) →
        ∃ u : State, go = .next u ∧ u.lnk.outNaks = left ∧
          { run := n.run, core := n.dcore, g := g, t := n.t, q := if n.dcore ≥ 0x3F0 then none else some n.q, bad := 0 } ∈
            u.lnk.flights ∧ u.cores = s.cores)) ∧
    ((s.port p).rxQ = (k, g) :: rest → k % 25 ≠ 0 → (s.port p).st ≠ 7 → (s.port p).st ≠ 6 → go = .next (s.setPort p y))

open Sys2Proof Sys2Proof.Machine Sys2Proof.Claims in
/-- The chain count is loaded, timed and lost as R274 to R280 say; a hold extends its furlong once.
MASTER_LISTEN_TIMEOUT of the system master whose count does not run, after 400,000 ticks: where a partner on an
active port reports SYNCED the master asks for its count, otherwise the count starts at 0 with DEPTH 0 and SYNCED;
earlier, or of any other module, nothing changes. SYNCED needs 1,024 frames and a DEPTH below 15. SYNC_LOST of a
SYNCED module, by an offset above 12 root cycles or by 1,024 silent frames of a module that has parents, clears
SYNCED, sets DEPTH 15 and the event; otherwise nothing changes. CHAIN_FULL of a module with DEPTH below 15 changes
nothing; one with DEPTH 15 that is not the master loads the count where its parent's latest frame is the one named,
one below its parent's DEPTH plus 1, and otherwise keeps the count for that frame; a master that has asked adopts
the count of a SYNCED sender, and one that has not asked does not. A hold seen before has no effect; one not seen
before extends that furlong of the active run of its job to the highest index, is counted, and goes on by the router
to every active port but that by which it came; where its furlong is still open no stall is counted, and where it
has passed it is late, with the event, and the module stalls at once for the whole extension, of which the cycles
are counted for which it does not stall already. How the master asks (log 33), when it counts as SYNCED, and what a
count that comes before its frame does (logs 67, 96) are the model's readings. -/
def Obligations.ChainAndHolds : Prop :=
  ∀ (s : State) (p : Nat) (pl : Payload),
    ((s.master = false ∨ s.chn.running = true ∨ s.chn.count < 400000) → exec .masterListenTimeout s = .next s) ∧
    (s.master = true → s.chn.running = false → 400000 ≤ s.chn.count →
      ((∃ q, q < 32 ∧ (s.port q).st = 7 ∧ (s.port q).farSynced = true) →
        exec .masterListenTimeout s = .next { s with chn := { s.chn with asked := true } }) ∧
      ((∀ q, q < 32 → (s.port q).st = 7 → (s.port q).farSynced = false) →
        exec .masterListenTimeout s = .next { s with chn := { s.chn with
          count := 0, running := true, asked := false, full := none, depth := 0, synced := true } })) ∧
    exec .synced s = .next (if 1024 ≤ s.chn.okFrames ∧ s.chn.depth ≠ 15
      then { s with chn := { s.chn with synced := true } } else s) ∧
    (let lost : State := { s with chn := { s.chn with
       synced := false, okFrames := 0, depth := 15, event := s.chn.event ||| 1 } }
     exec (.syncLost .offset) s = .next (if 24 < s.chn.theta.natAbs ∧ s.chn.synced = true then lost else s) ∧
      exec (.syncLost .silence) s =
        .next (if s.parentPorts ≠ [] ∧ 1024 ≤ s.chn.silent ∧ s.chn.synced = true then lost else s)) ∧
    ((bits pl 0 8 ≠ 1 ∨ s.chn.depth ≠ 15) → exec (.chainFull pl) s = .next s) ∧
    (bits pl 0 8 = 1 → s.chn.depth = 15 →
      let f := bits pl 192 16
      let n := bits pl 128 64
      let wait : State := { s with chn := { s.chn with full := some (f, n) } }
      (s.master = false →
        (∀ q h, s.parentPort = some q → (s.port q).lastHeard = some h → h.1.toNat = f →
          exec (.chainFull pl) s = .next { s with chn := { s.chn with
            count := n, running := true, full := none, okFrames := 0
            depth := BitVec.ofNat 4 (min 14 ((s.port q).depth.toNat + 1)) } }) ∧
        ((∀ q h, s.parentPort = some q → (s.port q).lastHeard = some h → h.1.toNat ≠ f) →
          exec (.chainFull pl) s = .next wait)) ∧
      (s.master = true → s.chn.asked = false → exec (.chainFull pl) s = .next s) ∧
      (∀ q, s.master = true → s.chn.asked = true → s.portTo (bits pl 16 16) = some q →
        (∀ h, (s.port q).lastHeard = some h → h.1.toNat = f → (s.port q).farSynced = true →
          exec (.chainFull pl) s = .next { s with chn := { s.chn with
            count := n, running := true, asked := false, full := none, depth := 0, synced := true } }) ∧
        ((∀ h, (s.port q).lastHeard = some h → h.1.toNat ≠ f) → exec (.chainFull pl) s = .next wait))) ∧
    (p < 32 →
      let job := BitVec.ofNat 64 (bits pl 0 64)
      let f := bits pl 64 32
      let index := bits pl 96 8
      (s.chn.holdsSeen.contains (job, f, index) = true → exec (.hold p pl) s = .next s) ∧
      (s.chn.holdsSeen.contains (job, f, index) = false →
        (∃ u : State, exec (.hold p pl) s = .next u ∧ u.chn.holdsSeen.contains (job, f, index) = true ∧ u.cores = s.cores ∧
          u.lnk = { s.lnk with routerQ := s.lnk.routerQ ++
            ((List.range 32).filter (fun q => q != p && (s.port q).st == 7)).map (fun q => (q, s.chn.count,
              mkGrain (partnerOf (s.moduleId / 16) (s.moduleId % 16) q).1 0x3FC 0 2 false false pl)) }) ∧
        (∀ r x, s.runs = [(r, x)] → x.job = job → x.phase = .active →
          let n := (index - kget 0 x.exts f) * s.extCc x
          ∃ (u : State) (y : Run), exec (.hold p pl) s = .next u ∧ u.run? r = some y ∧
            kget 0 y.exts f = max index (kget 0 x.exts f) ∧ y.counts.hold = x.counts.hold + 1 ∧
            u.det.hold.val = min (s.det.hold.val + 1) (2 ^ 64 - 1) ∧ y.furlong = x.furlong ∧
            (x.furlong ≤ f → u.det.stallCc = s.det.stallCc ∧ y.counts.stallCc = x.counts.stallCc ∧
              ((x.furlong < f ∨ s.clk < x.openAt + x.furlongCc) → u.chn.lateHold = s.chn.lateHold ∧ u.chn.event = s.chn.event)) ∧
            (f < x.furlong → u.chn.lateHold = satAdd s.chn.lateHold 1 ∧ u.chn.event = s.chn.event ||| 16 ∧
              y.openAt = x.openAt + n ∧ y.exempt = x.exempt + n ∧
              u.det.stallCc.val = min (s.det.stallCc.val + (n - (s.stallsAt s.pos).2)) (2 ^ 64 - 1) ∧
              y.counts.stallCc = x.counts.stallCc + (n - (s.stallsAt s.pos).2)))))

namespace Sys2Proof.Claims

open Sys2Proof.Machine

/-- Whether two READY records agree on what R283 compares. -/
def readyAgree (a b : ReadyRec) : Bool := a.ph == b.ph && a.mode == b.mode && a.fstep == b.fstep && a.fn == b.fn

/-- The READY record that a grain carries (10 R281). -/
def readyOf (pl : Payload) : ReadyRec :=
  { job := BitVec.ofNat 64 (bits pl 64 64), sender := bits pl 16 16, ph := BitVec.ofNat 128 (beNat ((bytesOf pl 32).drop 16))
    mode := BitVec.ofNat 8 (bits pl 256 8), fstep := BitVec.ofNat 8 (bits pl 264 8), fn := BitVec.ofNat 8 (bits pl 272 8) }

end Sys2Proof.Claims

open Sys2Proof Sys2Proof.Machine Sys2Proof.Claims in
/-- A boundary opens the next furlong, or ends or saves the run; a furlong over its slack originates a hold.
FURLONG_BOUNDARY of an active run, its cores between ells, does nothing before the tick that holds the cycle of the
boundary. Then, with no end status and no pre-emption due, the next furlong opens: no stall and no hold is counted
in it yet, a core that has not executed its furlong yet stands at the schedule position of the boundary, the core
cycles up to it have passed, and a step change that is due, by one step to at most the launch step, on a module with
this Exact or Open run alone, takes effect unless an emergency stands; Hold ends. A core cycle is a stall cycle
where one is still to pass at the module's position, or, counted, where a stall stands, such as the hold of a
furlong that has been executed; else the position moves on. A run with an end status is over, with it unless EXITST
selects it; a run that is pre-empted at this boundary is saved, its cores marked, owned as before and not its own.
HOLD_ORIGINATE does nothing while the stall cycles of the furlong are within the slack and the holds sent, sends
nothing for a hold that has come, and otherwise extends the furlong, counts one hold and sends it from every active
port. A management grain of another TYPE than the command's does nothing (log 142), and the runs a grain names are
those of its job in which its sender takes part (log 86). READY is recorded, and launches the run at C_L or aborts
it as the records agree; LAUNCH with time enough gives an admitted run its C_L, and a late one ends it with the
event; ABORT ends an active run at the next boundary, one that has not launched at once, and one that still waits
for admission without a manifest (logs 27, 85); PATH_LOST ends a run or, of an Open run with a detour, announces the
switch two furlongs on; a STEP for a later furlong is kept, one that is late, or comes to a module with another
active run, ends the run, and it leaves a Sealed run as it is; BREAK breaks the run's objects. One that names no run
on this module leaves every run as it was. -/
def Obligations.Furlongs : Prop :=
  (∀ s : State,
    s.cycle.clk = s.clk + 1 ∧ s.cycle.cores = s.cores ∧
    (0 < (s.stallsAt s.pos).2 → s.cycle.pos = s.pos ∧ s.cycle.det = s.det ∧
      (s.cycle.stallsAt s.pos).2 + 1 = (s.stallsAt s.pos).2) ∧
    ((s.stallsAt s.pos).2 = 0 → s.stallStands = true → s.cycle.pos = s.pos ∧
      s.cycle.det.stallCc.val = min (s.det.stallCc.val + 1) (2 ^ 64 - 1)) ∧
    ((s.stallsAt s.pos).2 = 0 → s.stallStands = false → s.stallTot ≤ s.clk → s.cycle.pos = s.pos + 1 ∧
      s.cycle.det = s.det ∧ s.cycle.runs = s.runs)) ∧
  ∀ (s : State) (r : Nat) (x : Run) (pl : Payload), s.run? r = some x →
    (x.phase ≠ .active → exec (.furlongBoundary r) s = .next s ∧ exec (.holdOriginate r) s = .next s) ∧
    (x.phase = .active → (∀ c, c ∈ s.coresOf r → (s.core c).ell = none) →
      (s.clk + ccPerTick s.pwr.cur ≤ s.boundaryAt x → exec (.furlongBoundary r) s = .next s) ∧
      (s.boundaryAt x < s.clk + ccPerTick s.pwr.cur →
        (x.endStatus = none → (∀ p, x.preempt = some p → p.furlong ≠ x.furlong + 1) →
          ∃ (u : State) (y : Run), exec (.furlongBoundary r) s = .next u ∧ u.run? r = some y ∧ y.phase = .active ∧
            y.furlong = x.furlong + 1 ∧ y.holdsSent = 0 ∧ y.stallK = 0 ∧ y.openAt = s.boundaryAt x ∧
            u.pwr.st = (if s.pwr.st = 1 then 0 else s.pwr.st) ∧
            (∀ c, u.core c = (if (s.core c).run = some r
              then { s.core c with scyc := max (s.core c).scyc ((x.furlong + 1) * 2 ^ x.tun.furlongN) } else s.core c)) ∧
            u.clk = max s.clk (s.boundaryAt x) ∧
            u.det.stallCc = (s.cycles (s.boundaryAt x - s.clk)).det.stallCc ∧
            kget 0 y.opens (x.furlong + 1) =
              (s.cycles (s.boundaryAt x - s.clk)).pos - (max s.clk (s.boundaryAt x) - s.boundaryAt x) ∧
            ((x.stepAt = none ∨ (∃ g stp, x.stepAt = some (g, stp) ∧ x.furlong + 1 < g) ∨ s.pwr.standing ≠ []) →
              u.pwr.cur = s.pwr.cur ∧ y.stepAt = x.stepAt) ∧
            (∀ g stp, s.runs = [(r, x)] → x.stepAt = some (g, stp) → g ≤ x.furlong + 1 → s.pwr.standing = [] →
              (stp.toNat + 1 = s.pwr.cur.toNat ∨ s.pwr.cur.toNat + 1 = stp.toNat) → x.mode ≠ 1 →
              stp.toNat ≤ x.lnchStep.toNat →
              u.pwr.cur = stp ∧ y.stepAt = none ∧ y.counts.stp = x.counts.stp + 1 ∧
                u.det.stp.val = min (s.det.stp.val + 1) (2 ^ 64 - 1))) ∧
        (∀ st, x.endStatus = some st → ∃ (u : State) (y : Run), exec (.furlongBoundary r) s = .next u ∧
          u.run? r = some y ∧ y.phase = .ended ∧ (x.endExit = false → y.endStatus = some st) ∧ u.cores = s.cores) ∧
        (∀ p, x.endStatus = none → x.preempt = some p → p.furlong = x.furlong + 1 →
          ∃ (u : State) (y : Run), exec (.furlongBoundary r) s = .next u ∧ u.run? r = some y ∧ y.phase = .preempted ∧
            y.furlong = x.furlong + 1 ∧
            (∀ c, (s.core c).run = some r →
              (u.core c).run = none ∧ (u.core c).preempted = true ∧ (u.core c).owner = (s.core c).owner)))) ∧
    (x.phase = .active →
      (x.stallK < x.tun.slack + x.holdsSent * s.extCc x + 1 → exec (.holdOriginate r) s = .next s) ∧
      (x.tun.slack + x.holdsSent * s.extCc x + 1 ≤ x.stallK →
        (s.chn.holdsSeen.contains (x.job, x.furlong, x.holdsSent + 1) = true →
          exec (.holdOriginate r) s = .next (s.setRun r { x with holdsSent := x.holdsSent + 1 })) ∧
        (s.chn.holdsSeen.contains (x.job, x.furlong, x.holdsSent + 1) = false →
          ∃ (u : State) (y : Run), exec (.holdOriginate r) s = .next u ∧ u.run? r = some y ∧ y.holdsSent = x.holdsSent + 1 ∧
            kget 0 y.exts x.furlong = max (x.holdsSent + 1) (kget 0 x.exts x.furlong) ∧
            y.counts.hold = x.counts.hold + 1 ∧ u.det.hold.val = min (s.det.hold.val + 1) (2 ^ 64 - 1) ∧ u.cores = s.cores ∧
            u.chn.holdsSeen.contains (x.job, x.furlong, x.holdsSent + 1) = true ∧
            u.lnk = { s.lnk with routerQ := s.lnk.routerQ ++
              ((List.range 32).filter (fun q => q != 32 && (s.port q).st == 7)).map (fun q => (q, s.chn.count,
                mkGrain (partnerOf (s.moduleId / 16) (s.moduleId % 16) q).1 0x3FC 0 2 false false
                  (payloadOf (leBytes 8 x.job.toNat ++ leBytes 4 x.furlong ++ leBytes 1 (x.holdsSent + 1) ++
                    leBytes 1 x.tun.holdFrames ++ leBytes 2 s.moduleId ++ leBytes 8 s.chn.count)))) }))) ∧
    ((bits pl 0 8 ≠ 2 → exec (.ready pl) s = .next s) ∧ (bits pl 0 8 ≠ 3 → exec (.launch pl) s = .next s) ∧
      (bits pl 0 8 ≠ 4 → exec (.abort pl) s = .next s) ∧ (bits pl 0 8 ≠ 5 → exec (.pathLost pl) s = .next s) ∧
      (bits pl 0 8 ≠ 6 → exec (.step pl) s = .next s) ∧ (bits pl 0 8 ≠ 7 → exec (.breakObjects pl) s = .next s)) ∧
    (let rs := s.chn.readies.filter (fun z => z.job != (readyOf pl).job || z.sender != (readyOf pl).sender) ++ [readyOf pl]
      let kept : State := { s with chn := { s.chn with readies := rs } }
      let c := (s.chn.count + s.chn.margin.toNat + 23) / 24 * 24
      (s.namedRuns pl = [] →
        (bits pl 0 8 = 2 → exec (.ready pl) s = .next kept) ∧
        (bits pl 0 8 = 3 → exec (.launch pl) s = .next s) ∧ (bits pl 0 8 = 4 → exec (.abort pl) s = .next s) ∧
        (bits pl 0 8 = 5 → exec (.pathLost pl) s = .next s) ∧ (bits pl 0 8 = 6 → exec (.step pl) s = .next s.wake) ∧
        (bits pl 0 8 = 7 → exec (.breakObjects pl) s = .next s)) ∧
      (s.namedRuns pl = [r] →
        (bits pl 0 8 = 2 → x.phase = .admitted → x.cl = none → s.isEntry x = true →
          ((∃ m, m ∈ x.tun.participants ∧ ∀ z, z ∈ rs → z.job = x.job → z.sender ≠ m) → exec (.ready pl) s = .next kept) ∧
          ((∀ m, m ∈ x.tun.participants → ∃ z, z ∈ rs ∧ z.job = x.job ∧ z.sender = m) →
            ((∀ z, z ∈ rs → z.job = x.job → z.sender ∈ x.tun.participants → readyAgree z (s.readyRec x) = true) →
              s.chn.count + 24 ≤ c → ∃ (u : State) (y : Run), exec (.ready pl) s = .next u ∧ u.run? r = some y ∧
                y = { x with cl := some c }) ∧
            ((∃ z, z ∈ rs ∧ z.job = x.job ∧ z.sender ∈ x.tun.participants ∧ readyAgree z (s.readyRec x) = false) →
              ∃ (u : State) (y : Run), exec (.ready pl) s = .next u ∧ u.run? r = some y ∧ y.phase = .ended ∧
                (x.endStatus = none → x.endExit = false → y.endStatus = some 3)))) ∧
        (bits pl 0 8 = 3 →
          ((x.phase ≠ .admitted ∨ x.cl ≠ none) → exec (.launch pl) s = .next s) ∧
          (x.phase = .admitted → x.cl = none → s.chn.count + 24 ≤ bits pl 128 64 →
            exec (.launch pl) s = .next ((s.setRun r { x with cl := some (bits pl 128 64) }).newEvent (bits pl 128 64))) ∧
          (x.phase = .admitted → x.cl = none → bits pl 128 64 < s.chn.count + 24 →
            ∃ (u : State) (y : Run), exec (.launch pl) s = .next u ∧ u.run? r = some y ∧ y.phase = .ended ∧
              u.chn.event.getLsbD 3 = true ∧ (x.endStatus = none → x.endExit = false → y.endStatus = some 7))) ∧
        (bits pl 0 8 = 4 →
          (x.phase = .active → x.endStatus = none → exec (.abort pl) s =
            .next (s.setRun r { x with endStatus := some (BitVec.ofNat 8 (bits pl 128 8)) })) ∧
          (x.phase = .waiting → x.launched = none → ∃ u : State, exec (.abort pl) s = .next u ∧
            (s.runs = [(r, x)] → u.runs = [])) ∧
          ((x.phase = .waiting ∧ x.launched ≠ none ∨ x.phase = .admitted) → x.endStatus = none → x.endExit = false →
            ∃ (u : State) (y : Run), exec (.abort pl) s = .next u ∧ u.run? r = some y ∧ y.phase = .ended ∧
              y.endStatus = some (BitVec.ofNat 8 (bits pl 128 8)))) ∧
        (bits pl 0 8 = 5 →
          let d := bits pl 128 32
          let way := x.tun.detour s.moduleId (bits pl 160 16) (bits pl 176 8)
          ((x.mode ≠ 2 ∨ d + 2 ≤ x.furlong ∨ way = none) → x.endStatus = none →
            exec (.pathLost pl) s = .next (s.setRun r { x with endStatus := some 0x05 })) ∧
          (x.mode = 2 → x.furlong < d + 2 → way ≠ none → exec (.pathLost pl) s = .next (s.setRun r { x with
            openFeat := x.openFeat ||| 4, detourAt := some (bits pl 160 16 * 32 + bits pl 176 8, d + 2) }))) ∧
        (bits pl 0 8 = 6 →
          let f := bits pl 128 32
          let w := s.wake
          ((x.mode = 1 ∨ (x.phase ≠ .admitted ∧ x.phase ≠ .active)) → exec (.step pl) s = .next w) ∧
          (x.mode ≠ 1 → (∀ e, e ∈ s.activeRuns → e.1 = r) →
            ((x.phase = .admitted ∨ (x.phase = .active ∧ x.furlong < f)) → exec (.step pl) s =
              .next { w.setRun r { x with stepAt := some (f, BitVec.ofNat 2 (bits pl 160 8)) } with
                pwr := { w.pwr with changing := true } }) ∧
            (x.phase = .active → f ≤ x.furlong → x.endStatus = none → exec (.step pl) s =
              .next { w.setRun r { x with endStatus := some 6 } with
                chn := { s.chn with event := s.chn.event ||| 32 } })) ∧
          (x.mode ≠ 1 → x.phase = .active → x.endStatus = none → (∃ e, e ∈ s.activeRuns ∧ e.1 ≠ r) →
            ∃ (u : State) (y : Run), exec (.step pl) s = .next u ∧ u.run? r = some y ∧ y.endStatus = some 6)) ∧
        (bits pl 0 8 = 7 → exec (.breakObjects pl) s = .next (s.breakRun r))))

open Sys2Proof Sys2Proof.Machine Sys2Proof.Claims in
/-- Beats stretch and stall, limits hold the module, and power states are entered and left. PERIOD_STRETCH of a clocked
region that has an edge of its beat left is counted; with none left, or unclocked, nothing happens (log 143: in Doze
and Stow the compute regions are not clocked, in Hold none is; log 137: the regions by number). BEAT_STALL, where
some clocked region has not completed its beat at the sample, is counted with its event, as an emergency of the runs
but not in PWR_EMERG, and stalls the module until the tick that is extended; where all have, nothing happens.
THERMAL_STEP_REQUEST of a condition that has lasted sets its event once; a module with a single Exact or Open run
asks for the next lower step at the furlong after next, and any other with active runs stalls at its boundaries.
STEP_UP_REQUEST asks for the next higher step after a whole cool furlong below the launch step, and otherwise does
nothing. EMERGENCY_STALL of a condition that holds (log 39) sets its event bit once until it clears, and where it
does not stand yet makes it stand, stalls the module and counts once; EMERGENCY_STALL_END ends it at the lower
limit. A region at 115 °C is fatal. POWER_STATE_EXIT ends Hold and Doze at the planned time or once an event has
begun the exit, and in Stow begins the calibration. Off is entered only with no run active and no port in use, and
keeps nothing of cores and copies; it is left, and the module READY, only after the crossings have been calibrated.
CROSSING_CALIBRATION within every share records L and pad of each directed crossing at each step and makes the
module READY in Active; beyond one it is fatal. Logs 40, 91 and 140 say how the states, the duty stalls and the
steps are timed. -/
def Obligations.PowerAndThermal : Prop :=
  ∀ (s : State) (n : Nat) (r : Nat) (x : Run) (lmin : List Nat),
    let up := s.board.loadOn = true ∧ s.pwr.st = 0 ∧ s.hub.fatal = false
    let on := fun (m : Nat) => s.board.loadOn = true ∧ s.hub.fatal = false ∧
      (s.pwr.st = 0 ∨ ((s.pwr.st = 2 ∨ s.pwr.st = 3) ∧ 18 ≤ m))
    let edges := if n < 18 then ccPerTick s.pwr.cur else if n = 19 then 4 else 6
    let slow := fun (m : Nat) => 5000 * s.pwr.beatRoot < (4200 + 200 * m + 100) * 24
    (n < 22 → on n → kget 0 s.pwr.stretches n < edges →
      exec (.periodStretch n) s = .next { s with pwr := { s.pwr with
        stretch := satAdd s.pwr.stretch 1, stretches := kset s.pwr.stretches n (kget 0 s.pwr.stretches n + 1) } }) ∧
    (n < 22 → (¬ on n ∨ edges ≤ kget 0 s.pwr.stretches n) → exec (.periodStretch n) s = .next s) ∧
    (∀ k m, on k → s.pwr.extend = false → (k, m) ∈ s.pwr.stretches → slow m →
      ∃ u : State, exec .beatStall s = .next u ∧
        u.pwr = { s.pwr with beatStall := satAdd s.pwr.beatStall 1, event := s.pwr.event ||| 0x20, extend := true } ∧
        u.det.emerg.val = min (s.det.emerg.val + 1) (2 ^ 64 - 1) ∧ u.stalled = true ∧ u.cores = s.cores ∧
        (∀ q y, s.run? q = some y → y.phase = .active → ∃ z, u.run? q = some z ∧ z.counts.emerg = y.counts.emerg + 1)) ∧
    ((s.pwr.extend = true ∨ ∀ k m, (k, m) ∈ s.pwr.stretches → ¬ on k ∨ ¬ slow m) → exec .beatStall s = .next s) ∧
    (∀ why : StepCond,
      let now := match why with | .thermStep => 64 ≤ s.pwr.hotBeats | .powerAvg => 800 < s.pwr.tele.power10ms
      ((¬ up ∨ ¬ now) → exec (.thermalStepRequest why) s = .next s) ∧
      (up → now →
        (∃ u : State, exec (.thermalStepRequest why) s = .next u ∧ why ∈ u.pwr.stepCond ∧ u.cores = s.cores ∧
          u.pwr.event = (if why ∈ s.pwr.stepCond then s.pwr.event
            else s.pwr.event ||| (match why with | .thermStep => 0x01 | .powerAvg => 0x08)) ∧
          (s.activeRuns = [] → u.runs = s.runs ∧ u.pwr.duty = s.pwr.duty)) ∧
        (s.runs = [(r, x)] → x.phase = .active → x.mode ≠ 1 → x.stepAt = none → s.pwr.cur ≠ 0 →
          ∃ u : State, exec (.thermalStepRequest why) s = .next u ∧
            u.run? r = some { x with stepAt := some (x.furlong + 2, s.pwr.cur - 1) } ∧ u.pwr.changing = true) ∧
        (s.activeRuns ≠ [] → s.singleRun = false →
          ∃ u : State, exec (.thermalStepRequest why) s = .next u ∧ u.pwr.duty = true ∧ u.runs = s.runs))) ∧
    ((¬ up ∨ s.activeRuns = [] ∨ s.pwr.coolAt = none) → exec .stepUpRequest s = .next s) ∧
    (s.runs = [(r, x)] → (x.lnchStep.toNat ≤ s.pwr.cur.toNat ∨ x.mode = 1) → exec .stepUpRequest s = .next s) ∧
    (∀ c, up → s.runs = [(r, x)] → x.phase = .active → x.mode ≠ 1 → x.stepAt = none → s.pwr.cur.toNat < x.lnchStep.toNat →
      x.startF < x.furlong → s.pwr.coolAt = some c →
      c ≤ x.openAt - x.furlongCc - kget 0 x.exts (x.furlong - 1) * s.extCc x →
      ∃ u : State, exec .stepUpRequest s = .next u ∧
        u.run? r = some { x with stepAt := some (x.furlong + 2, s.pwr.cur + 1) } ∧ u.pwr.changing = true ∧ u.cores = s.cores) ∧
    (∀ why : EmergCond,
      let now := match why with
        | .therm => s.pwr.thEmerg.toNat ≤ maxRegion s.pwr.tele
        | .power => 850 < s.pwr.tele.power ∨ 200000 < s.pwr.overBeats
        | .neighbour => 60 < s.pwr.tele.nbrDev ∨ 25 < s.pwr.tele.nbrTemp
      let ended := match why with
        | .therm => maxRegion s.pwr.tele < 100
        | .power => s.pwr.tele.power < 800
        | .neighbour => s.pwr.tele.nbrDev ≤ 50 ∧ s.pwr.tele.nbrTemp ≤ 20
      let powered := s.board.loadOn = true ∧ s.pwr.st ≠ 4 ∧ s.hub.fatal = false
      ((¬ powered ∨ ¬ now ∨ why ∈ s.pwr.emergIn) → exec (.emergencyStall why) s = .next s) ∧
      (powered → now → why ∉ s.pwr.emergIn → why ∈ s.pwr.standing →
        ∃ u : State, exec (.emergencyStall why) s = .next u ∧ u.pwr.standing = s.pwr.standing ∧ u.pwr.emergIn = s.pwr.emergIn ++ [why] ∧
          u.pwr.event = s.pwr.event ||| (match why with | .therm => 0x02 | .power => 0x10 | .neighbour => 0x04) ∧
          u.pwr.emerg = s.pwr.emerg ∧ u.det = s.det ∧ u.cores = s.cores ∧ u.runs = s.runs) ∧
      (powered → now → why ∉ s.pwr.emergIn → why ∉ s.pwr.standing →
        ∃ u : State, exec (.emergencyStall why) s = .next u ∧ u.pwr.standing = s.pwr.standing ++ [why] ∧
          u.stalled = true ∧ u.pwr.emerg = satAdd s.pwr.emerg 1 ∧
          u.pwr.event = s.pwr.event ||| (match why with | .therm => 0x02 | .power => 0x10 | .neighbour => 0x04) ∧
          u.det.emerg.val = min (s.det.emerg.val + 1) (2 ^ 64 - 1) ∧ u.cores = s.cores) ∧
      (ended → exec (.emergencyStallEnd why) s = .next { s with pwr := { s.pwr with
        standing := s.pwr.standing.filter (fun c => c != why) } }) ∧
      (¬ ended → exec (.emergencyStallEnd why) s = .next s)) ∧
    (s.board.loadOn = true → 115 ≤ maxRegion s.pwr.tele → ∃ u : State, exec .thermalTrip s = .next u ∧ u.hub.fatal = true) ∧
    ((s.board.loadOn = false ∨ maxRegion s.pwr.tele < 115) → exec .thermalTrip s = .next s) ∧
    (let soon := s.pwr.transition = true ∨ ∃ t, s.pwr.untilTk = some t ∧
        t ≤ s.chn.count + (if s.pwr.st = 1 then 10 else if s.pwr.st = 2 then 4000 else 400000)
     (s.board.loadOn = true → (s.pwr.st = 1 ∨ s.pwr.st = 2) → soon → ∃ u : State, exec .powerStateExit s = .next u ∧
        u.pwr.st = 0 ∧ u.pwr.transition = false ∧ u.pwr.untilTk = none ∧ u.pwr.event = s.pwr.event ||| 0x80 ∧
        u.cores = s.cores ∧ u.runs = s.runs) ∧
     (s.board.loadOn = true → s.pwr.st = 3 → soon → exec .powerStateExit s =
        .next { s with pwr := { s.pwr with transition := true, calDue := true, xcal := [] } }) ∧
     ((s.pwr.st = 0 ∨ s.pwr.st = 4 ∨ s.board.loadOn = false ∨ ¬ soon) → exec .powerStateExit s = .next s)) ∧
    ((s.activeRuns ≠ [] ∨ (∃ p, p < 32 ∧ s.portUsed p = true)) → exec .enterOff s = .next s) ∧
    (s.regsAct = true → s.hub.fatal = false → s.activeRuns = [] → (∀ p, p < 32 → s.portUsed p = false) →
      ∃ u : State, exec .enterOff s = .next u ∧ u.pwr.st = 4 ∧ u.hub.ready = false ∧ u.chn.running = false ∧
        u.ing.copies = [] ∧ (∀ c, (u.core c).strat = [] ∧ (u.core c).spad = [])) ∧
    (s.board.loadOn = true → s.pwr.st = 4 → ∃ u : State, exec .exitOff s = .next u ∧ u.pwr.st = 0 ∧ u.hub.ready = false ∧
      u.pwr.calDue = true ∧ u.pwr.xcal = []) ∧
    ((s.board.loadOn = false ∨ s.pwr.st ≠ 4) → exec .exitOff s = .next s) ∧
    ((s.board.loadOn = false ∨ s.pwr.st = 4 ∨ s.hub.fatal = true ∨ s.pwr.calDue = false) →
      exec (.crossingCalibration lmin) s = .next s) ∧
    (s.board.loadOn = true → s.pwr.st ≠ 4 → s.hub.fatal = false → s.pwr.calDue = true →
      ((∀ i, i < 192 → lmin.getD i 0 ≤ Config.xcalShare (i / 4) (i % 4)) →
        ∃ u : State, exec (.crossingCalibration lmin) s = .next u ∧ u.hub.ready = true ∧ u.pwr.st = 0 ∧ u.pwr.calDue = false ∧
          ∀ crossing stp, crossing < 48 → stp < 4 → ∃ e : BitVec 9,
            kfind u.pwr.xcal (crossing + 64 * stp) = some e ∧ e.getLsbD 8 = true ∧
            bits e 0 4 = lmin.getD (4 * crossing + stp) 0 % 16 ∧
            bits e 4 4 = (Config.xcalShare crossing stp - lmin.getD (4 * crossing + stp) 0) % 16) ∧
      ((∃ i, i < 192 ∧ Config.xcalShare (i / 4) (i % 4) < lmin.getD i 0) →
        ∃ u : State, exec (.crossingCalibration lmin) s = .next u ∧ u.hub.fatal = true))

namespace Sys2Proof.Claims

open Sys2Proof.Machine

/-- Whether a write of MODE takes the value m (02 R43). -/
def modeTaken (s : State) (m : Nat) : Prop := m = 0 ∨ m = 1 ∨ (m = 2 ∧ s.det.sealLock = false)

/-- The DET_ counter at offset 0x040 + 8 i (02 R69). -/
def detCounter (d : Det) (i : Nat) : Counter64 :=
  match i with
  | 0 => d.resend
  | 1 => d.refcoll
  | 2 => d.emerg
  | 3 => d.stp
  | 4 => d.hgretry
  | 5 => d.conflict
  | 6 => d.hold
  | _ => d.stallCc

end Sys2Proof.Claims

open Sys2Proof Sys2Proof.Machine Sys2Proof.Claims in
/-- Mode, lock and counters of the DET_ block; a register read clears or latches as its access code says; writes reach
what they may. Where register writes act: MODE takes effect at once with no run active, and otherwise waits for
MODE_CHANGE_APPLY; 0b11, and 0b10 after the lock, are ignored; SEAL_LOCK stands once set, and Open that is active or
pending then gives way to Exact; DET_CNT_CLEAR zeroes the eight counters and leaves what their _LO reads have
latched; DET_CERT_DATA answers four bytes of the certificate and advances the address; COUNTER_LO_READ of a _LO
answers the low half and latches the high half, and the _HI then reads what is latched. RC_READ of an RC register
answers its value and clears it, and of HUB_STATUS changes nothing but what has been read. REGISTER_WRITE of
DET_MODE with the lock bit 0 does what MODE does, one of W1C bits clears those written as 1, and one of a read-only
register, by context 0 to another window, or by a VF outside its window, its MSI-X table and its doorbells, changes
nothing. MODE_CHANGE_APPLY does nothing while a run is active or no change is pending. In Off, in recovery and
without power MODE, SEAL_LOCK, DET_CNT_CLEAR and DET_CERT_DATA change no register; in Off a counter and
DET_CERT_DATA read 0. What a _HI reads before any _LO read is log 95, and the fault noSuchUnit log 77, both the
choice of the model. A function above 512, and an offset that is no _LO, stop with noSuchUnit. -/
def Obligations.RegisterCommands : Prop :=
  ∀ (s : State) (v : Word) (f off : Nat),
    let m := bits v 0 2
    let m2 : BitVec 2 := BitVec.ofNat 2 m
    (s.regsAct = false → exec (.mode v) s = .next s ∧ exec (.sealLock v) s = .next s ∧ exec (.detCntClear v) s = .next s ∧
      ((s.board.loadOn = false ∨ s.pwr.st ≠ 4) → exec .detCertData s = .next s)) ∧
    (s.board.loadOn = true → s.pwr.st = 4 → exec .detCertData s = .next { s with busOut := some 0 }) ∧
    (s.regsAct = true →
      (modeTaken s m → s.activeRuns = [] → ∃ u : State, exec (.mode v) s = .next u ∧
        u.det = { s.det with mode := m2, active := m2, pendMode := m2, changePend := false } ∧ u.cores = s.cores ∧
        u.runs = s.runs ∧ (s.det.active ≠ m2 → 16 ∈ u.evc.sw)) ∧
      (modeTaken s m → s.activeRuns ≠ [] → exec (.mode v) s = .next { s with
        det := { s.det with mode := m2, pendMode := m2, changePend := true } }) ∧
      (¬ modeTaken s m → exec (.mode v) s = .next s) ∧
      (v.getLsbD 8 = false → exec (.registerWrite 0 0x1000 v) s = exec (.mode v) s) ∧
      (v.getLsbD 8 = true → ∃ u : State, exec (.sealLock v) s = .next u ∧ u.det.sealLock = true ∧ u.cores = s.cores ∧
        u.runs = s.runs ∧
        (s.det.sealLock = true → u = s) ∧
        (s.det.sealLock = false → s.activeRuns = [] → u.det.active = (if s.det.active = 2 then 0 else s.det.active)) ∧
        (s.det.sealLock = false → s.activeRuns ≠ [] → u.det.active = s.det.active ∧
          ((s.det.active = 2 ∨ (s.det.changePend = true ∧ s.det.pendMode = 2)) →
            u.det.changePend = true ∧ u.det.pendMode = 0))) ∧
      (v.getLsbD 8 = false → exec (.sealLock v) s = .next s) ∧
      (v.getLsbD 0 = true → ∃ u : State, exec (.detCntClear v) s = .next u ∧ u = { s with det := u.det } ∧
        (∀ i, detCounter u.det i = { val := 0, latch := (detCounter s.det i).latch }) ∧
        u.det.mode = s.det.mode ∧ u.det.active = s.det.active ∧ u.det.sealLock = s.det.sealLock) ∧
      (v.getLsbD 0 = false → exec (.detCntClear v) s = .next s) ∧
      exec .detCertData s = .next { s with
        busOut := some (BitVec.ofNat 32 (leAt certificate s.det.certAddr.toNat 4))
        det := { s.det with certAddr := s.det.certAddr + 4 } } ∧
      exec (.registerWrite 0 0x1008 v) s = .next { s with det := { s.det with coreDetail := v.getLsbD 0 } } ∧
      exec (.registerWrite 0 0x3030 v) s = .next { s with pwr := { s.pwr with
        event := s.pwr.event &&& ~~~(BitVec.ofNat 8 (v.toNat % 256)) } }) ∧
    (s.det.changePend = true → s.activeRuns = [] → ∃ u : State, exec .modeChangeApply s = .next u ∧
      u.det = { s.det with active := s.det.pendMode, changePend := false } ∧ 16 ∈ u.evc.sw ∧ u.cores = s.cores ∧
      u.runs = s.runs) ∧
    ((s.activeRuns ≠ [] ∨ s.det.changePend = false) → exec .modeChangeApply s = .next s) ∧
    (s.board.loadOn = true → s.pwr.st = 4 → ∀ i, i < 8 →
      exec (.counterLoRead (0x1040 + 8 * i)) s = .next { s with busOut := some 0 }) ∧
    (s.board.loadOn = true → s.pwr.st ≠ 4 →
      (∀ i, i < 8 →
        let c := detCounter s.det i
        (∃ u : State, exec (.counterLoRead (0x1040 + 8 * i)) s = .next u ∧
          u = { s with busOut := some (BitVec.ofNat 32 c.val), det := u.det } ∧
          detCounter u.det i = { c with latch := some (BitVec.ofNat 32 (c.val / 2 ^ 32)) } ∧
          (∀ j, j < 8 → j ≠ i → detCounter u.det j = detCounter s.det j)) ∧
        exec (.rcRead 0 (0x1044 + 8 * i)) s =
          .next { s with busOut := some (c.latch.getD (BitVec.ofNat 32 (c.val / 2 ^ 32))) }) ∧
      exec (.counterLoRead 0x2008) s = .next { s with
        busOut := some (BitVec.ofNat 32 s.chn.count)
        chn := { s.chn with latch := BitVec.ofNat 32 (s.chn.count / 2 ^ 32) } } ∧
      exec (.rcRead 0 0x200C) s = .next { s with busOut := some s.chn.latch } ∧
      exec (.rcRead 0 0x02C) s = .next { s with hub := { s.hub with dmaErr := 0 }, busOut := some s.hub.dmaErr } ∧
      exec (.rcRead 0 0x2018) s = .next { s with chn := { s.chn with slew := 0 }, busOut := some s.chn.slew } ∧
      exec (.rcRead 0 0x303C) s = .next { s with pwr := { s.pwr with emerg := 0 }, busOut := some s.pwr.emerg } ∧
      (∀ p, p < 32 → exec (.rcRead 0 (0x5100 + 0x40 * p + 0x34)) s = .next { s.setPort p { s.port p with downCount := 0 } with
        busOut := some (s.port p).downCount }) ∧
      (1 ≤ f → f ≤ 512 → (s.ctx f).enabled = true → exec (.rcRead f 0x070) s =
        .next { s.setCtx f { s.ctx f with dbErr := 0 } with busOut := some (s.ctx f).dbErr }) ∧
      (∃ w, exec (.rcRead 0 0x014) s = .next { s with busOut := some w })) ∧
    (512 < f → exec (.rcRead f off) s = .fault .noSuchUnit ∧ exec (.registerWrite f off v) s = .fault .noSuchUnit) ∧
    (off ≠ 0x2008 → (off < 0x1040 ∨ 0x1080 ≤ off ∨ off % 8 ≠ 0) → exec (.counterLoRead off) s = .fault .noSuchUnit) ∧
    (f ≤ 512 → ∃ u : State, exec (.rcRead f off) s = .next u ∧ u.runs = s.runs ∧ u.pending = s.pending) ∧
    (exec (.registerWrite 0 0x000 v) s = .next s) ∧
    (0x401000 ≤ off → off < 0x601000 → exec (.registerWrite 0 off v) s = .next s) ∧
    (1 ≤ f → f ≤ 512 → ((0x1000 ≤ off ∧ off < 0x8000) ∨ (0x8010 ≤ off ∧ off < 0x20000000)) →
      exec (.registerWrite f off v) s = .next s)

open Sys2Proof Sys2Proof.Machine Sys2Proof.Claims in
/-- Bridges, port control, host targets and the declared next submission. Where register writes act: ENABLE of a
disabled bridge with a setter and a waiter that differ among 1 to 512 enables it with value 0, with any other pair
does nothing, and without bit 31 stores the pair; of an enabled one it does nothing with bit 31, and without it
disables the bridge, and a submission gated by it ends. For a port that a slot table uses PORT_ENABLE, MAINT,
LOOPBACK and RETRAIN change nothing. For any other: clearing PORT_ENABLE holds it down; MAINT is stored; LOOPBACK
without MAINT is ignored, with it, on an enabled port and with valid straps, a depth of 2 to 5 puts the port in
loop-back and 0 ends it and starts training; RETRAIN with MAINT makes an active port ask its partner, in host-
assisted link training takes a port that is training to its next phase, and is absorbed by a port that is training,
and starts training in phase 1 on one that is down. LNK_CORE_LOOP stores an unowned core and the enable. HOST_TARGET
outside host-assisted mode is stored, where it is not reserved, and nothing else happens; in host-assisted mode,
without active runs, Hold and Doze, and with no owned core Stow, are entered from a shallower state, Stow with an
owned core becomes Doze, and a shallower target begins the exit. PWR_NEXT_HI_WRITE takes the low half with it, and
ends a power state that was not entered for an earlier event; a state that the host has named has no planned end.
BRIDGE_TIMEOUT ends a gated run that has waited longer than its bridge allows, and no other. A port above 31 and an
unknown run stop with noSuchUnit (log 77), and a disabled bridge loses its waiters by log 132. -/
def Obligations.ControlWrites : Prop :=
  ∀ (s : State) (v : Word) (p r : Nat) (x : Run),
    (s.regsAct = true →
      (let b := s.syn.brgSel.toNat
       let y := kget Bridge.reset s.syn.bridges b
       let st := bits v 0 10
       let wt := bits v 16 10
       let good := 1 ≤ st ∧ st ≤ 512 ∧ 1 ≤ wt ∧ wt ≤ 512 ∧ st ≠ wt
       let put := fun (z : Bridge) => Host.Outcome.next { s with syn := { s.syn with bridges := kset s.syn.bridges b z } }
       (y.enabled = false → v.getLsbD 31 = true → good →
         exec (.enable v) s = put { y with setter := st, waiter := wt, enabled := true, value := false }) ∧
       (y.enabled = false → v.getLsbD 31 = true → ¬ good → exec (.enable v) s = .next s) ∧
       (y.enabled = false → v.getLsbD 31 = false → exec (.enable v) s = put { y with setter := st, waiter := wt }) ∧
       (y.enabled = true → v.getLsbD 31 = true → exec (.enable v) s = .next s) ∧
       (y.enabled = true → v.getLsbD 31 = false → ∃ u : State, exec (.enable v) s = .next u ∧
         (kget Bridge.reset u.syn.bridges b).enabled = false ∧ (kget Bridge.reset u.syn.bridges b).value = false ∧
         (∀ q, q ≠ b → kget Bridge.reset u.syn.bridges q = kget Bridge.reset s.syn.bridges q) ∧
         (s.runs = [(r, x)] → u.run? r = (if x.phase = .waiting ∧ x.gate = some b then none else some x)))) ∧
      (p < 32 → s.portUsed p = true → exec (.portEnable p v) s = .next s ∧ exec (.maint p v) s = .next s ∧
        exec (.loopback p v) s = .next s ∧ exec (.retrain p) s = .next s) ∧
      (p < 32 → s.portUsed p = false →
        let y := s.port p
        let others := fun (u : State) => (∀ q, q ≠ p → u.port q = s.port q) ∧ u.cores = s.cores ∧ u.runs = s.runs
        (s.hub.warming = true → exec (.portEnable p v) s = .next s ∧ exec (.retrain p) s = .next s) ∧
        (s.hub.warming = false →
          (v.getLsbD 0 = true → exec (.portEnable p v) s = .next (s.setPort p { y with enable := true })) ∧
          (v.getLsbD 0 = false → ∃ u : State, exec (.portEnable p v) s = .next u ∧ (u.port p).enable = false ∧
            (u.port p).st = 0 ∧ (u.port p).loopSel = 0 ∧ others u)) ∧
        exec (.maint p v) s = .next (s.setPort p { y with maint := v.getLsbD 6 }) ∧
        ((y.maint = false ∨ y.enable = false ∨ s.chn.strapsOk = false) →
          exec (.loopback p v) s = .next s ∧ exec (.retrain p) s = .next s) ∧
        ((bits v 2 3 = 1 ∨ 6 ≤ bits v 2 3 ∨ bits v 2 3 = y.loopSel.toNat) → exec (.loopback p v) s = .next s) ∧
        (y.maint = true → y.enable = true → s.chn.strapsOk = true →
          (2 ≤ bits v 2 3 → bits v 2 3 ≤ 5 → y.loopSel.toNat ≠ bits v 2 3 →
            ∃ u : State, exec (.loopback p v) s = .next u ∧ (u.port p).st = 6 ∧ (u.port p).loopSel.toNat = bits v 2 3 ∧
              others u) ∧
          (bits v 2 3 = 0 → y.loopSel ≠ 0 → ∃ u : State, exec (.loopback p v) s = .next u ∧ (u.port p).st = 1 ∧
            (u.port p).loopSel = 0 ∧ others u) ∧
          (y.st ≠ 6 → s.hub.warming = false →
            (y.st = 7 → exec (.retrain p) s = .next (s.setPort p { y with retrain := true })) ∧
            (s.hub.splitAct.getLsbD 3 = true → 1 ≤ y.st.toNat → y.st.toNat ≤ 4 →
              ∃ u : State, exec (.retrain p) s = .next u ∧ (u.port p).st = y.st + 1 ∧ others u) ∧
            (s.hub.splitAct.getLsbD 3 = false → 1 ≤ y.st.toNat → y.st.toNat ≤ 5 → exec (.retrain p) s = .next s) ∧
            (y.st = 0 → ∃ u : State, exec (.retrain p) s = .next u ∧
              (u.port p).st = 1 ∧ u.lnk.portEvt.getLsbD p = true ∧ others u)))) ∧
      (let t := bits v 4 3
       let kept : State := { s with pwr := { s.pwr with hostTarget := if t ≤ 3 then BitVec.ofNat 3 t else s.pwr.hostTarget } }
       ((s.hub.splitAct.getLsbD 6 = false ∨ 3 < t ∨ s.hub.fatal = true) → exec (.hostTarget v) s = .next kept) ∧
       (s.hub.splitAct.getLsbD 6 = true → s.hub.fatal = false →
         (t < s.pwr.st.toNat → s.pwr.st.toNat ≤ 3 → exec (.hostTarget v) s =
           .next { kept with pwr := { kept.pwr with transition := true, untilTk := none } }) ∧
         (t ≤ 3 → s.pwr.st.toNat < t → s.activeRuns = [] → (t = 3 → ∀ e, e ∈ s.cores → e.2.owner = none) →
           ∃ u : State, exec (.hostTarget v) s = .next u ∧ u.pwr.st.toNat = t ∧ u.pwr.hostTarget.toNat = t ∧ u.pwr.untilTk = none) ∧
         (t = 3 → s.pwr.st.toNat < 2 → s.activeRuns = [] → (∃ e, e ∈ s.cores ∧ e.2.owner ≠ none) →
           ∃ u : State, exec (.hostTarget v) s = .next u ∧ u.pwr.st = 2 ∧ u.pwr.hostTarget = 3 ∧ u.cores = s.cores))) ∧
      (let n : DWord := BitVec.ofNat 64 (v.toNat * 2 ^ 32 + s.pwr.nextLo.toNat)
       let kept : State := { s with pwr := { s.pwr with nextHi := v, nextAt := n } }
       let early := n ≠ 0 ∧ ∀ d, s.pwr.untilTk = some d → n.toNat < d
       (¬ early → exec (.pwrNextHiWrite v) s = .next kept) ∧
       (early → exec (.pwrNextHiWrite v) s = .next kept.wake)) ∧
      ((s.core (bits v 0 10)).owner = none → exec (.lnkCoreLoop v) s = .next { s with lnk := { s.lnk with
        loopCore := BitVec.ofNat 10 (bits v 0 10), loopEn := v.getLsbD 15 } }) ∧
      ((s.core (bits v 0 10)).owner ≠ none → exec (.lnkCoreLoop v) s = .next s)) ∧
    (32 ≤ p → exec (.portEnable p v) s = .fault .noSuchUnit ∧ exec (.retrain p) s = .fault .noSuchUnit ∧
      exec (.loopback p v) s = .fault .noSuchUnit ∧ exec (.maint p v) s = .fault .noSuchUnit) ∧
    (s.run? r = none → exec (.bridgeTimeout r) s = .fault .noSuchUnit) ∧
    (s.run? r = some x →
      let out := x.phase = .waiting ∧ ∃ b, x.gate = some b ∧
        x.posted + 200 * (kget Bridge.reset s.syn.bridges b).timeout < s.chn.count
      (¬ out → exec (.bridgeTimeout r) s = .next s) ∧
      (out → s.runs = [(r, x)] → ∃ u : State, exec (.bridgeTimeout r) s = .next u ∧ u.runs = [] ∧ u.hub = s.hub))

namespace Sys2Proof.Claims

open Sys2Proof.Machine

/-- Distance from a to b around a ring of n entries (13 R350). -/
def ringDist (n a b : Nat) : Nat := (b + n - a % n) % n

/-- What a doorbell that is not accepted leaves (13 R350). -/
def bellRefused (s : State) (f : Nat) (o : Out) : Prop :=
  ∃ u : State, o = .next u ∧ (u.ctx f).dbErr = satAdd (s.ctx f).dbErr 1 ∧ (u.ctx f).sq = (s.ctx f).sq ∧
    (u.ctx f).cq = (s.ctx f).cq ∧ (u.ctx f).eq.cons = (s.ctx f).eq.cons ∧ (u.ctx f).dq = (s.ctx f).dq ∧ u.cores = s.cores ∧
    (∀ g, g ≠ f → u.ctx g = s.ctx g)

end Sys2Proof.Claims

open Sys2Proof Sys2Proof.Machine Sys2Proof.Claims in
/-- Doorbells move the indices they may move; sources become pending, are delivered, entered and left. A doorbell of an
enabled function with its rings enabled takes an index that its ring allows: SQ_TAIL with the time of what it posts;
CQ_HEAD lets a held completion follow; the others change nothing else, and each ends a power state. One that is not
allowed, comes with the rings disabled, or is a write of another size (log 152), is counted in CTX_DB_ERR and moves
nothing; a function that is not reachable, and a warm reset, change nothing. A write of the MSI-X control stores
enable and function mask (log 102). RINGS_EN restarts the four rings and ends RING_ERR; a clear waits for the
context to be idle. CTX_IRQ_TEST and EVC_SWSET set software bits; CTX_IRQ_ACK and EVC_HACK take a host source out of
service; EVC_TGT is stored while the source is not enabled, a change of its target while it is enabled is ignored,
and clearing ENABLE withdraws it. SOURCE_PENDING counts a pending source once towards its target; WITHDRAWN uncounts
one that is no longer pending. DELIVERY that is due sends one message of a host vector that is not masked, in a
function with MSI-X enabled and not masked, keeps that of another, takes the pending sources of the target into
service and resets the count; at a management processor it starts an entry for a source that outranks what runs.
ENTRY_SEQUENCE writes a return record, selects the frame of its level and claims the best source, or the spurious
number where none is pending, for an entry that has started, and goes to its handler; EXIT_SEQUENCE takes the
handled source out of service and goes on at the resume address of its record in the frame of what ran before, or
chains to a source that outranks it, which the next one claims with the same record. What a record and a vector
table hold is the firmware's (log 153), and so is the priority of the spurious number (log 34). -/
def Obligations.DoorbellsAndEvents : Prop :=
  ∀ (s : State) (f : Nat) (v : Word) (w src n : Nat),
    (f ≤ 512 → s.reachable f = false → exec (.sqTail f v) s = .next s ∧ exec (.cqHead f v) s = .next s ∧
      exec (.eqHead f v) s = .next s ∧ exec (.dqHead f v) s = .next s ∧ exec (.ringsEn f v) s = .next s ∧
      exec (.ctxIrqAck f v) s = .next s ∧ exec (.ctxIrqTest f v) s = .next s) ∧
    (f ≤ 512 → s.reachable f = true →
      let x := s.ctx f
      let tailOk := x.ringsEn = true ∧ v.toNat < 2 ^ x.sq.k ∧
        ringDist (2 ^ x.sq.k) x.sq.cons x.sq.prod ≤ ringDist (2 ^ x.sq.k) x.sq.cons v.toNat
      let headOk := fun (q : Ring) => x.ringsEn = true ∧ v.toNat < 2 ^ q.k ∧
        ringDist (2 ^ q.k) q.cons v.toNat ≤ ringDist (2 ^ q.k) q.cons q.prod
      (s.hub.warming = true → exec (.sqTail f v) s = .next s ∧ exec (.cqHead f v) s = .next s ∧ exec (.eqHead f v) s = .next s ∧
        exec (.dqHead f v) s = .next s) ∧
      (s.hub.warming = false →
      (∀ o, o < 0xF000000 → bellRefused s f (exec (.registerWrite f (0x21000000 + o) v) s)) ∧
      (tailOk → exec (.sqTail f v) s = .next (s.setCtx f { x with
        sq := { x.sq with prod := v.toNat }
        bells := if x.sq.prod = v.toNat then x.bells else x.bells ++ [(v.toNat, s.chn.count)] }).wake) ∧
      (¬ tailOk → bellRefused s f (exec (.sqTail f v) s)) ∧
      (headOk x.cq → x.held = [] →
        exec (.cqHead f v) s = .next (s.setCtx f { x with cq := { x.cq with cons := v.toNat } }).wake) ∧
      (∀ e, headOk x.cq → x.held = [e] → (x.cq.prod + 1) % 2 ^ x.cq.k ≠ v.toNat →
        ∃ u : State, exec (.cqHead f v) s = .next u ∧ (u.ctx f).held = [] ∧ (u.ctx f).cq.cons = v.toNat ∧
          (u.ctx f).cq.prod = (x.cq.prod + 1) % 2 ^ x.cq.k ∧ u.cores = s.cores) ∧
      (¬ headOk x.cq → bellRefused s f (exec (.cqHead f v) s)) ∧
      (headOk x.eq → exec (.eqHead f v) s = .next (s.setCtx f { x with eq := { x.eq with cons := v.toNat } }).wake) ∧
      (¬ headOk x.eq → bellRefused s f (exec (.eqHead f v) s)) ∧
      (headOk x.dq → exec (.dqHead f v) s = .next (s.setCtx f { x with dq := { x.dq with cons := v.toNat } }).wake) ∧
      (¬ headOk x.dq → bellRefused s f (exec (.dqHead f v) s))) ∧
      (s.evc.msixPend = [] → exec (.registerWrite f 0x300000B0 v) s = .next { s with evc := { s.evc with
        msixCtl := kset s.evc.msixCtl f (v &&& 0xC0000000) } }) ∧
      (v.getLsbD 0 = false → x.ringsEn = true → s.busyCtx f = false →
        exec (.ringsEn f v) s = .next (s.setCtx f { x with ringsEn := false })) ∧
      ((v.getLsbD 0 = x.ringsEn ∨ (v.getLsbD 0 = false ∧ s.busyCtx f = true)) → exec (.ringsEn f v) s = .next s) ∧
      (v.getLsbD 0 = true → x.ringsEn = false → x.held = [] →
        ∃ u : State, exec (.ringsEn f v) s = .next u ∧ (u.ctx f).ringsEn = true ∧ (u.ctx f).ringErr = false ∧
          (u.ctx f).sq.prod = 0 ∧ (u.ctx f).sq.cons = 0 ∧ (u.ctx f).cq.prod = 0 ∧ (u.ctx f).cq.phase = true ∧
          (u.ctx f).eq.prod = 0 ∧ (u.ctx f).dq.prod = 0 ∧ (∀ g, g ≠ f → u.ctx g = s.ctx g)) ∧
      (v.getLsbD 0 = true → ∃ u : State, exec (.ctxIrqTest f v) s = .next u ∧ 256 + f ∈ u.evc.sw ∧
        (∀ q, q ≠ 256 + f → (q ∈ u.evc.sw ↔ q ∈ s.evc.sw)) ∧ u.ctxs = s.ctxs ∧ u.evc.insvc = s.evc.insvc) ∧
      (v.getLsbD 0 = true → (s.tgt (256 + f)).getLsbD 1 = true → ∃ u : State, exec (.ctxIrqAck f v) s = .next u ∧
        256 + f ∉ u.evc.insvc ∧ (∀ q, q ≠ 256 + f → (q ∈ u.evc.insvc ↔ q ∈ s.evc.insvc)) ∧ u.evc.sw = s.evc.sw) ∧
      ((v.getLsbD 0 = false ∨ (s.tgt (256 + f)).getLsbD 1 = false) → exec (.ctxIrqAck f v) s = .next s) ∧
      (v.getLsbD 0 = false → exec (.ctxIrqTest f v) s = .next s)) ∧
    (s.regsAct = true →
      (let q := bits v 0 10
       ((q ≤ 256 ∨ 768 < q) → (s.tgt q).getLsbD 1 = true → ∃ u : State, exec (.evcHack v) s = .next u ∧
         q ∉ u.evc.insvc ∧ (∀ z, z ≠ q → (z ∈ u.evc.insvc ↔ z ∈ s.evc.insvc)) ∧ u.evc.sw = s.evc.sw) ∧
       (((257 ≤ q ∧ q ≤ 768) ∨ (s.tgt q).getLsbD 1 = false) → exec (.evcHack v) s = .next s)) ∧
      (w < 32 → ∃ u : State, exec (.evcSwset w v) s = .next u ∧ u.evc.insvc = s.evc.insvc ∧
        ∀ q, q ∈ u.evc.sw ↔ (q ∈ s.evc.sw ∨ ∃ k, k < 32 ∧ v.getLsbD k = true ∧ isSource q = true ∧ q = 32 * w + k)) ∧
      (src < 1023 →
        let ok := 257 ≤ src → src ≤ 768 → bits v 8 6 = 0
        (ok → (s.tgt src).getLsbD 0 = false →
          ∃ u : State, exec (.evcTgt src v) s = .next u ∧ u.tgt src = v &&& 0x3FFF ∧ ∀ q, q ≠ src → u.tgt q = s.tgt q) ∧
        (ok → (s.tgt src).getLsbD 0 = true → bits v 1 13 = bits (s.tgt src) 1 13 → v.getLsbD 0 = false →
          ∃ u : State, exec (.evcTgt src v) s = .next u ∧ (u.tgt src).getLsbD 0 = false ∧ src ∉ u.evc.insvc ∧
            src ∉ u.evc.counted ∧ ∀ q, q ≠ src → u.tgt q = s.tgt q) ∧
        ((¬ ok ∨ ((s.tgt src).getLsbD 0 = true ∧ bits v 1 13 ≠ bits (s.tgt src) 1 13)) →
          exec (.evcTgt src v) s = .next s))) ∧
    (s.evPending src = true → src ∉ s.evc.counted → ∃ u : State, exec (.sourcePending src) s = .next u ∧
      (u.moder (s.target src)).count = (s.moder (s.target src)).count + 1 ∧ u.evc.counted = s.evc.counted ++ [src] ∧
      ((∃ k, s.target src = .mp k) → 1 ≤ s.pwr.st.toNat → s.pwr.st.toNat ≤ 3 → u.pwr.transition = true) ∧ u.cores = s.cores) ∧
    ((s.evPending src = false ∨ src ∈ s.evc.counted) → exec (.sourcePending src) s = .next s) ∧
    (s.evPending src = false → ∃ u : State, exec (.withdrawn src) s = .next u ∧ src ∉ u.evc.counted ∧
      (∀ q, q ≠ src → (q ∈ u.evc.counted ↔ q ∈ s.evc.counted)) ∧ u.ctxs = s.ctxs) ∧
    (s.evPending src = true → exec (.withdrawn src) s = .next s) ∧
    (∀ t, (s.board.loadOn = false ∨ s.due t = false) → exec (.delivery t) s = .next s) ∧
    (∀ t fn vec, ((t = .pf n ∧ fn = 0 ∧ vec = n) ∨ (t = .vf n ∧ fn = n ∧ vec = 0)) → s.board.loadOn = true → s.due t = true →
      s.pendingOf t ≠ [] → ∃ u : State, exec (.delivery t) s = .next u ∧ (u.moder t).count = 0 ∧
        (∀ q, q ∈ s.pendingOf t → q ∈ u.evc.insvc ∧ q ∉ u.evc.sw ∧ q ∉ u.evc.counted) ∧
        ((s.msixWord fn (4 * vec + 3)).getLsbD 0 = false ∧ bits (s.msixControl fn) 30 2 = 2 →
          u.msi = (fn, vec) :: s.msi ∧ u.evc.msgCount = satAdd s.evc.msgCount 1) ∧
        (((s.msixWord fn (4 * vec + 3)).getLsbD 0 = true ∨ bits (s.msixControl fn) 30 2 ≠ 2) → u.msi = s.msi ∧ (fn, vec) ∈ u.evc.msixPend)) ∧
    (n < 4 →
      let m := s.mp n
      (s.board.loadOn = true → s.due (.mp n) = true → m.chaining = false → m.stack.length < 16 → s.best n = some src →
        s.prio src < runningPrio m.stack → ∃ u : State, exec (.delivery (.mp n)) s = .next u ∧
          u.mp n = { m with entering := true } ∧ (u.moder (.mp n)).count = 0 ∧ u.evc.insvc = s.evc.insvc) ∧
      (m.entering = false → exec (.entrySequence n) s = .next s) ∧
      (m.entering = true → s.best n = some src → ∃ u : State, exec (.entrySequence n) s = .next u ∧
        u.mp n = { stack := (src, s.prio src) :: m.stack, entering := false, chaining := false, records := s.returnRecord n :: m.records, frame := m.stack.length + 1, fetch := s.vector n src } ∧
        src ∈ u.evc.insvc ∧ src ∉ u.evc.sw ∧ src ∉ u.evc.counted) ∧
      (m.entering = true → s.best n = none → ∃ (u : State) (p : Nat), exec (.entrySequence n) s = .next u ∧
        u.mp n = { stack := (0x3FF, p) :: m.stack, entering := false, chaining := false, records := s.returnRecord n :: m.records, frame := m.stack.length + 1, fetch := s.vector n 0x3FF } ∧
        u.evc.spurious = satAdd s.evc.spurious 1 ∧ u.evc.insvc = s.evc.insvc) ∧
      (m.stack = [] → exec (.exitSequence n) s = .next s) ∧
      (∀ h p below, m.stack = (h, p) :: below →
        let left : State := { s with evc := { s.evc with insvc := s.evc.insvc.filter (fun z => z != h) } }
        let higher := ∃ q, left.best n = some q ∧ left.prio q < runningPrio below
        (m.chaining = false → m.entering = true → exec (.exitSequence n) s = .next s) ∧
        (m.chaining = false → m.entering = false →
          (¬ higher → ∃ u : State, exec (.exitSequence n) s = .next u ∧ h ∉ u.evc.insvc ∧
            u.mp n = { stack := below, entering := false, chaining := false, records := m.records.drop 1, frame := below.length, fetch := ((m.records.map (fun z => z.resume)).headD 0) }) ∧
          (higher → ∃ u : State, exec (.exitSequence n) s = .next u ∧ h ∉ u.evc.insvc ∧ u.mp n = { m with chaining := true })) ∧
        (m.chaining = true → s.best n = some src → ∃ u : State, exec (.exitSequence n) s = .next u ∧ src ∈ u.evc.insvc ∧
          u.mp n = { stack := (src, s.prio src) :: below, entering := false, chaining := false, records := m.records, frame := below.length + 1, fetch := s.vector n src })))

namespace Sys2Proof.Claims

open Sys2Proof.Machine

/-- The function, opcode and entry of a submission command (13 R354). -/
def submissionOf : Instr → Option (Nat × Nat × Entry)
  | .nop f (some e) => some (f, 0x00, e)
  | .tunLoad f e _ => some (f, 0x01, e)
  | .tunUnload f e => some (f, 0x02, e)
  | .run f e => some (f, 0x03, e)
  | .request f e => some (f, 0x04, e)
  | .cancel f e => some (f, 0x05, e)
  | .stoneLoad f e _ => some (f, 0x10, e)
  | .stoneUnmap f e => some (f, 0x11, e)
  | .grant f e => some (f, 0x12, e)
  | .revokeGrant f e => some (f, 0x13, e)
  | .ctxKill f e => some (f, 0x14, e)
  | .preempt f e => some (f, 0x15, e)
  | .resume f e _ => some (f, 0x16, e)
  | .pmOptin f e _ => some (f, 0x17, e)
  | .debugConsent f e => some (f, 0x18, e)
  | .release f e => some (f, 0x19, e)
  | _ => none

/-- The completion of an entry with a status has been written at the producer index of the context's CQ, and both rings
have moved on by one (13 R348, R351, R363). -/
def answered (s u : State) (f : Nat) (e : Entry) (st : Nat) : Prop :=
  let x := s.ctx f
  let a := x.cq.base + 32 * x.cq.prod
  (u.ctx f).sq.cons = (x.sq.cons + 1) % 2 ^ x.sq.k ∧ (u.ctx f).cq.prod = (x.cq.prod + 1) % 2 ^ x.cq.k ∧
  memRead u.hostMem a = BitVec.ofNat 8 st ∧ memRead u.hostMem (a + 1) = BitVec.ofNat 8 (bits e 0 8) ∧
  memRead u.hostMem (a + 2) = BitVec.ofNat 8 (bits e 16 8) ∧ memRead u.hostMem (a + 3) = BitVec.ofNat 8 (bits e 24 8) ∧
  memRead u.hostMem (a + 7) = (if x.cq.phase then 1 else 0)

/-- Whether a completion of the context can be written at once (13 R353). -/
def room (s : State) (f : Nat) : Prop := (s.ctx f).cq.full = false ∧ (s.ctx f).held = []

/-- The bytes that the layout of an opcode uses, from byte `lo` on (13 R354; 14 R386). -/
def layoutBytes (op : Nat) : List (Nat × Nat) :=
  [(0, 1), (2, 2)] ++
  match op with
  | 0x01 => [(8, 16)]
  | 0x02 | 0x11 | 0x14 => [(4, 2)]
  | 0x03 => [(4, 3), (8, 30), (40, 8)]
  | 0x04 => [(4, 2), (8, 56)]
  | 0x05 => [(8, 8)]
  | 0x10 => [(4, 2), (8, 16)]
  | 0x12 => [(4, 3), (8, 8)]
  | 0x13 => [(4, 4)]
  | 0x15 => [(4, 2), (8, 12), (24, 16)]
  | 0x16 => [(4, 2), (8, 16), (24, 16)]
  | 0x17 => [(8, 12), (24, 8)]
  | _ => []

/-- The single bit that a layout uses beside its bytes: a flag of byte 1, and ALLOW of DEBUG_CONSENT. -/
def layoutBit (op : Nat) : Option Nat :=
  if op = 3 ∨ op = 4 ∨ op = 0x10 then some 8 else if op = 0x18 then some 32 else none

/-- Whether every bit of an entry that is 1 belongs to the layout of its opcode. -/
def wellLaid (op : Nat) (e : Entry) : Bool :=
  (List.range 512).all (fun i => !e.getLsbD i || layoutBit op == some i ||
    (layoutBytes op).any (fun p => decide (8 * p.1 ≤ i) && decide (i < 8 * (p.1 + p.2))))

/-- Whether a submission reaches its own effect (13 R354, R368; 14 R386; 15 R410, R414), with room for its completion. -/
def accepts (s : State) (f op : Nat) (e : Entry) : Prop :=
  f ≤ 512 ∧ s.reads f = true ∧ s.hub.fatal = false ∧ s.hub.bootStage ≠ 6 ∧ bits e 0 8 = op ∧ wellLaid op e = true ∧
  (0x12 ≤ op → op ≤ 0x16 → f = 0) ∧ room s f ∧ s.memOk = true

end Sys2Proof.Claims

open Sys2Proof Sys2Proof.Machine Sys2Proof.Claims in
/-- What every submission goes through before its own effect. A submission of a function above 512 stops with
noSuchUnit, and one whose entry has the opcode of another command of the table is left for that command (log 142);
one whose ring the device does not read now changes nothing. One that is read answers a next state, and completes
with ABORTED after a fatal error, with DENIED in recovery, with DENIED where only context 0 may issue it, and with
MALFORMED, counted for the context and the module, where its opcode is reserved or a byte that its layout does not
use is not zero; none of these touches a run or a core. The bytes of a completion are read in host memory, which is
in canonical form. -/
def Obligations.Submissions : Prop :=
  ∀ (s : State) (i : Instr) (f op : Nat) (e : Entry), submissionOf i = some (f, op, e) →
    let code := bits e 0 8
    let known := code ≤ 5 ∨ (0x10 ≤ code ∧ code ≤ 0x19)
    (512 < f → exec i s = .fault .noSuchUnit) ∧
    (f ≤ 512 → code ≠ op → known → exec i s = .next s) ∧
    (f ≤ 512 → (code = op ∨ ¬ known) →
      (s.reads f = false → exec i s = .next s) ∧
      (s.reads f = true → (∃ u, exec i s = .next u) ∧
        (room s f → s.memOk = true →
          (s.hub.fatal = true → ∃ u : State, exec i s = .next u ∧ answered s u f e 6 ∧ u.runs = s.runs ∧ u.cores = s.cores) ∧
          (s.hub.fatal = false → s.hub.bootStage = 6 → ∃ u : State, exec i s = .next u ∧ answered s u f e 3 ∧
            u.runs = s.runs ∧ u.cores = s.cores) ∧
          (s.hub.fatal = false → s.hub.bootStage ≠ 6 → 0x12 ≤ code → code ≤ 0x16 → f ≠ 0 →
            ∃ u : State, exec i s = .next u ∧ answered s u f e 3 ∧ u.runs = s.runs ∧ u.cores = s.cores) ∧
          (s.hub.fatal = false → s.hub.bootStage ≠ 6 → (0x12 ≤ code → code ≤ 0x16 → f = 0) → (¬ known ∨ wellLaid code e = false) → ∃ u : State, exec i s = .next u ∧ answered s u f e 2 ∧
            (u.ctx f).malformed = satAdd (s.ctx f).malformed 1 ∧ u.hub.malformed = satAdd s.hub.malformed 1 ∧
            u.runs = s.runs ∧ u.cores = s.cores))))

open Sys2Proof Sys2Proof.Machine Sys2Proof.Claims in
/-- What each submission does once it is accepted. An accepted submission in the state that its clause names: NOP
completes OK, and a failed read of its entry sets RING_ERR and leaves the head; TUN_LOAD completes with the status
of the first check that fails and otherwise with OK and a handle that then holds the tun; TUN_UNLOAD removes an
unused tun; RUN adds a waiting run and does not complete; REQUEST joins its run; CANCEL of an active run ends it
with ABORTED at its next boundary; GRANT and REVOKE_GRANT change the grants of the context that the entry names, and
a revoked region is noted for its scrub and, in a phase that no run holds, reads 0; PM_OPTIN and DEBUG_CONSENT are
recorded; RELEASE and CTX_KILL leave the context no core; CTX_KILL of a context that has neither cores nor grants
has ended at once and completes OK, and of one that has cores it waits for their scrubs; PREEMPT is kept by the run
of the entry for its furlong, or ends it where that furlong has opened; RESUME makes a saved run wait again, with no
gate; STONE_LOAD for an unknown handle is DENIED, for a stone that verifies and has a resident copy maps that copy
and completes OK, and for one without a copy begins to place it, completing later; STONE_UNMAP unmaps a copy that no
run of the context uses. -/
def Obligations.SubmissionEffects : Prop :=
  ∀ (s : State) (f : Nat) (e : Entry),
    let at_ (lo n : Nat) : Nat := bits e (8 * lo) (8 * n)
    (accepts s f 0 e → ∃ u : State, exec (.nop f (some e)) s = .next u ∧ answered s u f e 0 ∧
      u.cores = s.cores ∧ u.runs = s.runs) ∧
    (f ≤ 512 → s.reads f = true → ∃ u : State, exec (.nop f none) s = .next u ∧ (u.ctx f).ringErr = true ∧
      (u.ctx f).sq = (s.ctx f).sq ∧ u.hub.dmaErr = satAdd s.hub.dmaErr 1) ∧
    (∀ h, accepts s f 1 e → (s.ctx f).freeHandle = some h →
      (∃ u : State, exec (.tunLoad f e none) s = .next u ∧ answered s u f e 6 ∧ u.hub.dmaErr = satAdd s.hub.dmaErr 1) ∧
      (∀ bs, s.loadStatus f bs (at_ 16 8) ≠ 0 → ∃ u : State, exec (.tunLoad f e (some bs)) s = .next u ∧
        answered s u f e (s.loadStatus f bs (at_ 16 8)) ∧ (u.ctx f).tuns = (s.ctx f).tuns) ∧
      (∀ bs, s.loadStatus f bs (at_ 16 8) = 0 → ∃ (u : State) (t : Tun), exec (.tunLoad f e (some bs)) s = .next u ∧
        answered s u f e 0 ∧ kfind (u.ctx f).tuns h = some t ∧ t.sections = (parseTun bs).sections)) ∧
    (accepts s f 2 e → s.ctxRuns f = [] → ∀ t, kfind (s.ctx f).tuns (at_ 4 2) = some t →
      ∃ u : State, exec (.tunUnload f e) s = .next u ∧ answered s u f e 0 ∧ (u.ctx f).tuns = kdel (s.ctx f).tuns (at_ 4 2)) ∧
    (accepts s f 3 e →
      (at_ 8 8 = 0 → ∃ u : State, exec (.run f e) s = .next u ∧ answered s u f e 2 ∧ u.runs = s.runs) ∧
      (at_ 8 8 ≠ 0 → at_ 24 8 % 64 = 0 → at_ 16 8 % 24 = 0 → (kfind (s.ctx f).tuns (at_ 4 2)).isSome = true →
        s.liveRun f (at_ 8 8) = none → s.gateDenied f e = false →
        ∃ (u : State) (x : Run), exec (.run f e) s = .next u ∧ u.runs = kset s.runs s.nextRun x ∧ u.nextRun = s.nextRun + 1 ∧
          x.phase = .waiting ∧ x.ctx = f ∧ x.job.toNat = at_ 8 8 ∧ x.cmd.id.toNat = at_ 2 2 ∧
          (u.ctx f).cq = (s.ctx f).cq ∧ u.cores = s.cores)) ∧
    (∀ r x, accepts s f 4 e → s.runs = [(r, x)] →
      x.ctx = f → x.phase ≠ .preempted → x.job.toNat = at_ 8 8 → at_ 8 8 ≠ 0 → at_ 16 8 ≠ 0 → at_ 32 4 ≠ 0 →
      at_ 32 4 ≤ 16777216 → s.rowsByHost = false →
      (s.requestDenied x e = true → ∃ u : State, exec (.request f e) s = .next u ∧ answered s u f e 3 ∧ u.runs = s.runs) ∧
      (s.requestDenied x e = false → ∃ (u : State) (q : Req), exec (.request f e) s = .next u ∧
        u.run? r = some { x with reqs := x.reqs ++ [q] } ∧ q.reqId.toNat = at_ 16 8 ∧ q.inLen = at_ 32 4 ∧
        q.eligible = false ∧ q.row = none ∧ (u.ctx f).cq = (s.ctx f).cq)) ∧
    (accepts s f 5 e → at_ 8 8 ≠ 0 →
      (s.liveRun f (at_ 8 8) = none → ∃ u : State, exec (.cancel f e) s = .next u ∧ answered s u f e 3 ∧ u.runs = s.runs) ∧
      (∀ r x, s.runs = [(r, x)] → x.ctx = f → x.phase = .active → x.job.toNat = at_ 8 8 → x.endStatus = none →
        ∃ u : State, exec (.cancel f e) s = .next u ∧ answered s u f e 0 ∧
          u.run? r = some { x with endStatus := some 6 } ∧ u.cores = s.cores)) ∧
    (let c := at_ 4 2
     let die := at_ 6 1
     let off := at_ 8 4 * 1048576
     let n := at_ 12 4 * 1048576
     ∀ i, accepts s f 0x12 e → c ≤ 512 → die ≤ 1 → n ≠ 0 →
      s.hgPresent die = true → off + n ≤ hgSize → s.grantBlocked die off n = false → (s.ctx c).freeGrant die = some i →
      ∃ u : State, exec (.grant f e) s = .next u ∧ answered s u f e 0 ∧
        (u.ctx c).grants die = kset ((s.ctx c).grants die) i { die := die, off := off, len := n } ∧
        (∀ q, q ≠ c → (u.ctx q).grants die = (s.ctx q).grants die) ∧ u.hg = s.hg) ∧
    (let c := at_ 4 2
     let die := at_ 6 1
     ∀ g, accepts s f 0x13 e → c ≤ 512 → die ≤ 1 → s.hgPresent die = true →
      kfind ((s.ctx c).grants die) (at_ 7 1) = some g → s.regionUsed c die g.off g.len = false →
      ∃ u : State, exec (.revokeGrant f e) s = .next u ∧ answered s u f e 0 ∧
        (u.ctx c).grants die = kdel ((s.ctx c).grants die) (at_ 7 1) ∧
        (g.off, g.len) ∈ (u.hog die).scrub ∧
        (s.freePhases die ≠ [] → ∀ a, g.off ≤ a → a < g.off + g.len → memRead (u.hog die).flush.mem a = 0)) ∧
    (accepts s f 0x17 e →
      (at_ 16 4 = 0 → ∃ u : State, exec (.pmOptin f e none) s = .next u ∧ answered s u f e 0 ∧ (u.ctx f).pmOpt = none) ∧
      (∀ bs, at_ 16 4 ≠ 0 → keyPoint bs = none → ∃ u : State, exec (.pmOptin f e (some bs)) s = .next u ∧
        answered s u f e 2 ∧ (u.ctx f).pmOpt = (s.ctx f).pmOpt) ∧
      (∀ bs, at_ 16 4 ≠ 0 → keyPoint bs ≠ none → ∃ u : State, exec (.pmOptin f e (some bs)) s = .next u ∧
        answered s u f e 0 ∧ (u.ctx f).pmOpt = some (at_ 8 8, at_ 16 4, bs))) ∧
    (accepts s f 0x18 e → ∃ u : State, exec (.debugConsent f e) s = .next u ∧
      answered s u f e 0 ∧ (u.ctx f).consent = e.getLsbD 32) ∧
    (accepts s f 0x19 e → s.ctxRuns f = [] → ∃ u : State, exec (.release f e) s = .next u ∧ answered s u f e 0 ∧
      ∀ c, (u.core c).owner ≠ some f ∧ ((s.core c).owner = some f → (u.core c).scrubBusy = true)) ∧
    (let c := at_ 4 2
     accepts s f 0x14 e → 1 ≤ c → c ≤ 512 → s.ctxRuns c = [] → (s.ctx c).pmOpt = none →
      s.ing.copies = [] → (s.ctx c).kill = none →
      (s.ownedCores c = [] → (s.ctx c).grants0 = [] → (s.ctx c).grants1 = [] → ∃ u : State,
        exec (.ctxKill f e) s = .next u ∧ answered s u f e 0 ∧ (u.ctx c).kill = none ∧
        (u.ctx c).grants0 = [] ∧ (u.ctx c).grants1 = [] ∧ (u.ctx c).tuns = [] ∧ (u.ctx c).stones = [] ∧
        (u.ctx c).consent = false ∧ u.cores = s.cores) ∧
      (s.ownedCores c ≠ [] → ∃ (u : State) (k : Kill), exec (.ctxKill f e) s = .next u ∧ (u.ctx c).kill = some k ∧
        k.cmds.map (fun y => y.id.toNat) = [at_ 2 2] ∧ k.cores = s.ownedCores c ∧
        (u.ctx f).sq.cons = ((s.ctx f).sq.cons + 1) % 2 ^ (s.ctx f).sq.k ∧ (u.ctx f).cq = (s.ctx f).cq ∧
        (∀ q, (u.core q).owner ≠ some c) ∧ (∀ q, q ∈ s.ownedCores c → (u.core q).scrubBusy = true))) ∧
    (∀ r x, accepts s f 0x15 e → at_ 8 8 ≠ 0 →
      at_ 4 2 ≤ 512 → s.runs = [(r, x)] → x.ctx = at_ 4 2 → (x.phase = .admitted ∨ x.phase = .active) →
      x.job.toNat = at_ 8 8 → x.preempt = none → saveLen (s.coresOf r).length ≤ at_ 32 8 →
      (x.furlong < at_ 16 4 ∨ x.launched = none) →
      ∃ (u : State) (p : Preempt), exec (.preempt f e) s = .next u ∧ u.run? r = some { x with preempt := some p } ∧
        p.furlong = at_ 16 4 ∧ p.addr = at_ 24 8 ∧ p.saved = 0 ∧ u.cores = s.cores) ∧
    (∀ r x, accepts s f 0x15 e → at_ 8 8 ≠ 0 → at_ 4 2 ≤ 512 → s.runs = [(r, x)] → x.ctx = at_ 4 2 → x.phase = .active →
      x.job.toNat = at_ 8 8 → x.preempt = none → saveLen (s.coresOf r).length ≤ at_ 32 8 → at_ 16 4 ≤ x.furlong →
      x.launched ≠ none → x.endStatus = none → ∃ u : State, exec (.preempt f e) s = .next u ∧ answered s u f e 6 ∧
        u.run? r = some { x with endStatus := some 6 }) ∧
    (accepts s f 0x16 e → at_ 8 8 ≠ 0 → at_ 4 2 ≤ 512 →
      at_ 16 8 % 24 = 0 →
      (s.runs = [] → ∃ u : State, exec (.resume f e none) s = .next u ∧ answered s u f e 3 ∧ u.runs = []) ∧
      (∀ r x p bs, s.runs = [(r, x)] → x.ctx = at_ 4 2 → x.phase = .preempted → x.job.toNat = at_ 8 8 →
        x.preempt = some p → saveLen p.cores.length ≤ at_ 32 8 → p.imageOk bs = true →
        ∃ u : State, exec (.resume f e (some bs)) s = .next u ∧ answered s u f e 0 ∧
          u.run? r = some { x with phase := .waiting, launchFld := BitVec.ofNat 64 (at_ 16 8), cl := none, gate := none })) ∧
    (∀ d, accepts s f 0x10 e →
      kfind (s.ctx f).tuns (at_ 4 2) = none → ∃ u : State, exec (.stoneLoad f e d) s = .next u ∧ answered s u f e 3 ∧
        u.ing.copies = s.ing.copies ∧ u.ing.event.getLsbD 0 = true) ∧
    (∀ t bs, accepts s f 0x10 e → kfind (s.ctx f).tuns (at_ 4 2) = some t → (s.mappings f < 8 ∨ s.mapsStone f t = true) →
      s.hub.splitAct.getLsbD 1 = false →
      let only := e.getLsbD 8
      let hash := sha384 (bs.take (sigOff bs))
      (∃ u : State, exec (.stoneLoad f e none) s = .next u ∧ answered s u f e 6 ∧ u.ing.copies = s.ing.copies ∧
        u.hub.dmaErr = satAdd s.hub.dmaErr 1) ∧
      (stoneOk bs (at_ 16 8) only = true → hash = t.stoneId →
        s.ing.revokes hash (BitVec.ofNat 128 (beNat (slice bs 0x20 16))) (BitVec.ofNat 64 (leAt bs 0x30 8)) = false →
        ∀ key, s.ing.anchorFor (beNat (slice bs 0x20 16)) = some key →
          (ecdsaVerify key hash (slice bs (sigOff bs) 96) = false → ∃ u : State, exec (.stoneLoad f e (some bs)) s = .next u ∧
            answered s u f e 4 ∧ u.ing.copies = s.ing.copies ∧ u.ing.verifyFail = satAdd s.ing.verifyFail 1) ∧
          (ecdsaVerify key hash (slice bs (sigOff bs) 96) = true →
            (∀ i k, s.ing.copies.find? (fun p => p.2.stoneHash == hash && p.2.placeHash == t.placeHash) = some (i, k) →
              k.valid = true → ∃ u : State, exec (.stoneLoad f e (some bs)) s = .next u ∧ answered s u f e 0 ∧
                i ∈ (u.ctx f).stones) ∧
            (s.ing.copies = [] → only = false →
              let ts := stoneTensors bs
              let n := (stoneChunks bs).length
              let ps := t.places s.moduleId
              chunkStatus bs (stoneChunks bs) (neededChunks ts n ps) = 0 → (∀ p, p ∈ ps → s.placeOk ts p = true) →
              placesDisjoint ps = true → s.hub.splitAct.getLsbD 2 = false →
              (∀ p, p ∈ ps → p.kind ≠ 0 ∨ s.hasCore p.core = true) →
              (∀ p row, p ∈ ps → row ∈ p.rows ts n (payloadBytes bs (stoneChunks bs) (neededChunks ts n ps)) →
                s.rowGranted row = false) →
              ∃ (u : State) (k : Copy), exec (.stoneLoad f e (some bs)) s = .next u ∧ u.ing.copies = [(0, k)] ∧
                k.loading = true ∧ k.valid = false ∧ k.refcount = 0 ∧ k.stoneHash = hash ∧
                (∃ c, k.waiters = [(f, c)] ∧ c.id.toNat = at_ 2 2) ∧ (u.ctx f).cq = (s.ctx f).cq ∧ u.cores = s.cores ∧ u.hg = s.hg)))) ∧
    (∀ k, accepts s f 0x11 e → kfind s.ing.copies (at_ 4 2) = some k → s.ctxRuns f = [] →
      (s.ctx f).stones.contains (at_ 4 2) = true → ∃ u : State, exec (.stoneUnmap f e) s = .next u ∧ answered s u f e 0 ∧
        kfind u.ing.copies (at_ 4 2) = some { k with refcount := k.refcount - 1 } ∧ at_ 4 2 ∉ (u.ctx f).stones)

open Sys2Proof Sys2Proof.Machine Sys2Proof.Claims in
/-- A run is admitted with the mode in force, launched at C_L, fed, compared at its digest points and completed.
RUN_ADMISSION of the only run, which waits, on a module that admits: it ends where a check fails, waits where a
resource is not free, and is admitted with the active mode where every check passes and every resource is free; its
cores are then its own and owned by its context, and a run of one module launches at the least multiple of 24 not
below the count plus 24. RUN_LAUNCH makes it active once the count reaches C_L and not before, and ends it with
TIMEOUT where the module was not Active 24 ticks before that. REQUEST_ELIGIBLE stages the input of a request.
LAYER_DIGEST_POST of a point that every core has reached, and not before, adds the module's digest, compares it with
the reference entry where the run compares, gives a free row to an eligible request for grains that land 64 cycles
or more after the point, and completes a request that FINAL ended. COORDINATION_TIMEOUT ends the run of a
coordinator that has been ready for 100 ms with TIMEOUT. RUN_COMPLETE of a run that is over, or whose cores are all
complete with no digest point owed, leaves no run, no object and no core of it, and of an active run whose cores go
on changes nothing. LAUNCH, ABORT, STEP, PATH_LOST and BREAK act on the run that they name. A run that the module
does not have stops these events with noSuchUnit (log 77). Which run a grain names, and what an ABORT does before
the launch, are logs 86 and 85. -/
def Obligations.RunLifetime : Prop :=
  ∀ (s : State) (r : Nat) (x : Run) (p : Payload) (id : DWord),
    (s.run? r = none → exec (.runAdmission r) s = .fault .noSuchUnit ∧ exec (.runLaunch r) s = .fault .noSuchUnit ∧
      exec (.runComplete r) s = .fault .noSuchUnit ∧ exec (.layerDigestPost r none) s = .fault .noSuchUnit ∧
      exec (.coordinationTimeout r) s = .fault .noSuchUnit ∧ exec (.requestEligible r id none) s = .fault .noSuchUnit) ∧
    (s.runs = [(r, x)] →
      (x.phase = .waiting → s.admitting false = true → x.gate = none → x.preempt = none →
        (s.admitStatus x ≠ 0 → ∃ u : State, exec (.runAdmission r) s = .next u ∧ u.runs = []) ∧
        (s.admitStatus x = 0 → (s.resourcesFree x = false ∨ s.rewriteOwed x = true) → exec (.runAdmission r) s = .next s) ∧
        (s.admitStatus x = 0 → s.resourcesFree x = true → s.rewriteOwed x = false →
          (∀ e, e ∈ x.tun.coreMap s.moduleId → s.coreReady x e.core = true) → x.tun.participants.length ≤ 1 →
          x.launchFld = 0 → x.cl = none →
          ∃ (u : State) (y : Run) (n : Nat), exec (.runAdmission r) s = .next u ∧ u.run? r = some y ∧ y.phase = .admitted ∧
            y.mode = s.det.active ∧ u.pwr.cur = x.tun.freqStep ∧ y.cl = some n ∧ n % 24 = 0 ∧ s.chn.count + 24 ≤ n ∧ n < s.chn.count + 48 ∧
            (∀ e, e ∈ x.tun.coreMap s.moduleId → (u.core e.core).run = some r ∧ (u.core e.core).owner = some x.ctx ∧
              (u.core e.core).scyc = 0))) ∧
      ((x.phase ≠ .waiting ∨ s.admitting x.preempt.isSome = false) → exec (.runAdmission r) s = .next s) ∧
      (∀ n, x.phase = .admitted → x.cl = some n → s.pwr.st ≠ 0 → s.chn.count + 24 ≤ n → exec (.runLaunch r) s = .next s) ∧
      (∀ n, x.phase = .admitted → x.cl = some n → x.endStatus = none → x.endExit = false →
        (s.pwr.st ≠ 0 ∧ n < s.chn.count + 24 ∨ s.pwr.st = 0 ∧ n ≤ s.chn.count ∧ s.pwr.lastOut.1 + 24 ≤ n ∧ n < s.pwr.lastOut.2 + 24) →
        ∃ (u : State) (y : Run), exec (.runLaunch r) s = .next u ∧ u.run? r = some y ∧ y.phase = .ended ∧ y.endStatus = some 7 ∧
          u.chn.event.getLsbD 3 = true) ∧
      (∀ n, x.phase = .admitted → x.cl = some n → s.pwr.st = 0 → x.endStatus = none → x.preempt = none →
        (s.chn.count < n → exec (.runLaunch r) s = .next s) ∧
        (n ≤ s.chn.count → (n < s.pwr.lastOut.1 + 24 ∨ s.pwr.lastOut.2 + 24 ≤ n) → ∃ (u : State) (y : Run), exec (.runLaunch r) s = .next u ∧ u.run? r = some y ∧
          y.phase = .active ∧ y.launched = some (x.launched.getD n) ∧ u.cores = s.cores)) ∧
      (x.phase = .ended → ∃ u : State, exec (.runComplete r) s = .next u ∧ u.runs = [] ∧
        (∀ q, q ∈ u.syn.flags → q.2.run ≠ r) ∧ (∀ q, q ∈ u.syn.barriers → q.2.run ≠ r) ∧
        (∀ c, (u.core c).run ≠ some r)) ∧
      (x.phase = .active → x.endStatus = none → (∀ c, c ∈ s.coresOf r → (s.core c).complete = true) →
        s.pointReached r x x.digests.length = false → ∃ u : State, exec (.runComplete r) s = .next u ∧ u.runs = [] ∧
          (∀ c, (u.core c).run ≠ some r)) ∧
      (∀ c, x.phase = .active → c ∈ s.coresOf r → (s.core c).halted = false → exec (.runComplete r) s = .next s) ∧
      (∀ q, x.reqs = [q] → q.reqId = id → q.eligible = false → q.done = false →
        (∀ bs, s.stageUsed + (q.inLen + 65535) / 65536 ≤ 1024 →
          exec (.requestEligible r id (some bs)) s = .next (s.setRun r { x with
            reqs := [{ q with eligible := true, input := slice bs 0 q.inLen }] })) ∧
        (∃ (u : State), exec (.requestEligible r id none) s = .next u ∧
          u.run? r = some { x with reqs := [{ q with done := true }] } ∧ u.hub.dmaErr = satAdd s.hub.dmaErr 1)) ∧
      ((x.phase ≠ .active ∨ s.pointReached r x x.digests.length = false) → ∀ ref, exec (.layerDigestPost r ref) s = .next s) ∧
      (∀ c d n t ref, x.phase = .active → s.coresOf r = [c] → x.handed = [(c, x.digests.length, d, n, t)] →
        ∃ (u : State) (y : Run), exec (.layerDigestPost r ref) s = .next u ∧ u.run? r = some y ∧
          y.digests = x.digests ++ [(min n (2 ^ 32 - 1), d)] ∧ y.handed = [] ∧ u.cores = s.cores ∧
          (∀ q, x.reqs = [q] → q.eligible = true → q.assigned = none → q.done = false → q.finished = false → q.row = none →
            s.rowsByHost = false → 0 < x.tun.rows → x.tun.digestPoints ≠ 0 →
            y.reqs = [{ q with row := some 0, assigned := some (BitVec.ofNat 32 x.digests.length), effect := t + 64 }]) ∧
          (∀ q, x.reqs = [q] → q.finished = true → q.done = false → y.reqs = [{ q with done := true, row := none }]) ∧
          (ref = none → x.compare = true → x.digests.length < x.tun.digestPoints → y.compare = false ∧
            u.hub.dmaErr = satAdd s.hub.dmaErr 1) ∧
          (∀ ent, ref = some ent → x.compare = true → x.digests.length < x.tun.digestPoints →
            (y.mismatch = true ↔ x.mismatch = true ∨ leAt ent 4 4 ≠ min n (2 ^ 32 - 1) ∨
              leAt ent 8 8 ≠ d.toNat))) ∧
      (let late := x.phase = .admitted ∧ x.cl = none ∧ s.isEntry x = true ∧
         ∃ a, x.readyAt = some a ∧ a + 20000000 ≤ s.chn.count
       (¬ late → exec (.coordinationTimeout r) s = .next s) ∧
       (late → x.endExit = false → ∃ (u : State) (y : Run), exec (.coordinationTimeout r) s = .next u ∧ u.run? r = some y ∧
         y.phase = .ended ∧ y.endStatus = some (x.endStatus.getD 7))) ∧
      (x.job.toNat = bits p 64 64 → x.tun.participants.contains (bits p 16 16) = true →
        (bits p 0 8 = 3 → x.phase = .admitted → x.cl = none → s.chn.count + 24 ≤ bits p 128 64 →
          exec (.launch p) s = .next ((s.setRun r { x with cl := some (bits p 128 64) }).newEvent (bits p 128 64))) ∧
        (bits p 0 8 = 4 → x.phase = .active → x.endStatus = none →
          exec (.abort p) s = .next (s.setRun r { x with endStatus := some (BitVec.ofNat 8 (bits p 128 8)) })) ∧
        (bits p 0 8 = 5 → x.mode ≠ 2 → x.endStatus = none →
          exec (.pathLost p) s = .next (s.setRun r { x with endStatus := some 5 })) ∧
        (bits p 0 8 = 6 → (x.phase = .admitted ∨ x.phase = .active) → x.mode ≠ 1 → x.furlong < bits p 128 32 →
          ∃ u : State, exec (.step p) s = .next u ∧
            u.run? r = some { x with stepAt := some (bits p 128 32, BitVec.ofNat 2 (bits p 160 8)) } ∧
            u.pwr.changing = true ∧ u.pwr.cur = s.pwr.cur) ∧
        (bits p 0 8 = 7 → ∃ u : State, exec (.breakObjects p) s = .next u ∧
          (∀ q, q ∈ u.syn.flags → q.2.run = r → q.2.broken = true) ∧
          (∀ q, q ∈ u.syn.barriers → q.2.run = r → q.2.broken = true))))

open Sys2Proof Sys2Proof.Machine Sys2Proof.Claims in
/-- Stones become resident, are rewritten or damaged; anchors and revocations are programmed for good. STONE_RESIDENT of
a loading copy with one row, of a core that no run occupies or of a die that no run holds, leaves the row's bytes in
the stratum or the die and the copy valid with no load waiting, mapped by the context that waited where it has not
been revoked; for a core that a run occupies it waits. STRATUM_REWRITE of a marked row of a resident copy, in a
stratum or on a die, puts its bytes back and counts the rewrite where the chunks read again match, and marks the
copy DAMAGED where they do not; an unmarked row stays. PROGRAM writes a valid staging key once, REVOKE is final, and
each access of the data ports advances its address by 4. REVOKE_ADD appends the staging entry while fewer than 1,024
stand and revokes the resident copies that it names. A copy that was revoked while it loaded is mapped by none. A
copy that the module does not have stops the events with noSuchUnit (log 77). The memories are in canonical form. -/
def Obligations.StonesAndAnchors : Prop :=
  ∀ (s : State) (c n addr : Nat) (k : Copy) (row : PlacedRow) (ds : List Dma) (v : Word), s.memOk = true →
    (kfind s.ing.copies n = none → exec (.stoneResident n) s = .fault .noSuchUnit ∧
      exec (.stratumRewrite n ds false c addr) s = .fault .noSuchUnit) ∧
    (kfind s.ing.copies n = some k → k.loading = false → exec (.stoneResident n) s = .next s) ∧
    (kfind s.ing.copies n = some k → k.loading = true → k.rows = [row] → row.hog = false → (s.core row.unit).run = none →
      ∃ (u : State) (y : Copy), exec (.stoneResident n) s = .next u ∧ kfind u.ing.copies n = some y ∧ y.valid = true ∧
        y.loading = false ∧ y.waiters = [] ∧
        (∀ i, i < row.bytes.length → memRead (u.core row.unit).strat (row.addr + i) = row.bytes.getD i 0) ∧
        (∀ d, d ≠ row.unit → u.core d = s.core d) ∧
        (∀ f cmd, k.waiters = [(f, cmd)] → (k.revoked = false → n ∈ (u.ctx f).stones) ∧
          (k.revoked = true → (u.ctx f).stones = (s.ctx f).stones))) ∧
    (kfind s.ing.copies n = some k → k.loading = true → k.rows = [row] → row.hog = false → (s.core row.unit).run ≠ none →
      exec (.stoneResident n) s = .next s) ∧
    (kfind s.ing.copies n = some k → k.loading = true → k.rows = [row] → row.hog = true → (s.hog row.unit).holder = none →
      (s.hog row.unit).scrub = [] →
      ∃ (u : State) (y : Copy), exec (.stoneResident n) s = .next u ∧ kfind u.ing.copies n = some y ∧ y.valid = true ∧
        y.loading = false ∧ y.waiters = [] ∧ u.cores = s.cores ∧
        (∀ i, i < row.bytes.length → memRead (u.hog row.unit).mem (row.addr + i) = row.bytes.getD i 0)) ∧
    (kfind s.ing.copies n = some k → (k.valid = false ∨ (s.core c).dueIn .strat (addr / 64 * 64) 64 = false) →
      exec (.stratumRewrite n ds false c addr) s = .next s) ∧
    (let lo := addr / 64 * 64
     let need := (List.range 65536).filter (fun j => row.chunks.contains j)
     kfind s.ing.copies n = some k → k.valid = true → k.rows = [row] → row.hog = false → row.unit = c →
      overlaps row.addr row.bytes.length lo 64 = true → (s.core c).dueIn .strat lo 64 = true → (s.core c).run = none →
      (rereadOk k.hashes need ds = false → ∃ u : State, exec (.stratumRewrite n ds false c addr) s = .next u ∧
        kfind u.ing.copies n = some { k with damaged := true } ∧ u.ing.event.getLsbD 5 = true ∧ u.cores = s.cores) ∧
      (rereadOk k.hashes need ds = true → ∃ u : State, exec (.stratumRewrite n ds false c addr) s = .next u ∧
        u.ing.rewrites = satAdd s.ing.rewrites 1 ∧
        (∀ i, i < row.bytes.length → lo ≤ row.addr + i → row.addr + i < lo + 64 →
          memRead (u.core c).strat (row.addr + i) = row.bytes.getD i 0) ∧
        (∀ a, (a < lo ∨ lo + 64 ≤ a) → memRead (u.core c).strat a = memRead (s.core c).strat a))) ∧
    (let lo := addr / 64 * 64
     let need := (List.range 65536).filter (fun j => row.chunks.contains j)
     kfind s.ing.copies n = some k → k.valid = true → k.rows = [row] → row.hog = true → row.unit = c →
      overlaps row.addr row.bytes.length lo 64 = true → (s.hog c).badIn true lo 64 ≠ [] → (s.hog c).holder = none →
      (s.hog c).scrub = [] → rereadOk k.hashes need ds = true →
      ∃ u : State, exec (.stratumRewrite n ds true c addr) s = .next u ∧ u.ing.rewrites = satAdd s.ing.rewrites 1 ∧
        u.cores = s.cores ∧ (∀ i, i < row.bytes.length → lo ≤ row.addr + i → row.addr + i < lo + 64 →
          memRead (u.hog c).mem (row.addr + i) = row.bytes.getD i 0)) ∧
    (s.regsAct = true →
      (let i := s.ing.anchorSel.toNat
       let key := memReads s.ing.stageKey 0 97
       ((s.ing.anchor i).prov = false → keyPoint key ≠ none → ∃ u : State, exec .program s = .next u ∧
         u.ing.anchor i = { s.ing.anchor i with pubkey := key, prov := true } ∧
         (∀ j, j ≠ i → u.ing.anchor j = s.ing.anchor j)) ∧
       (((s.ing.anchor i).prov = true ∨ keyPoint key = none) → ∃ u : State, exec .program s = .next u ∧
         u.ing.anchors = s.ing.anchors ∧ u.ing.event.getLsbD 6 = true) ∧
       (∃ u : State, exec .revoke s = .next u ∧ u.ing.anchor i = { s.ing.anchor i with revoked := true } ∧
         (∀ j, j ≠ i → u.ing.anchor j = s.ing.anchor j)) ∧
       (∃ u : State, exec (.ingAnchorData (some v)) s = .next u ∧ u.ing.anchorAddr = s.ing.anchorAddr + 4 ∧
         (∀ j, j < 4 → memRead u.ing.stageKey (s.ing.anchorAddr.toNat + j) = BitVec.ofNat 8 (v.toNat / 256 ^ j))) ∧
       exec (.ingAnchorData none) s = .next { s with
         busOut := some (BitVec.ofNat 32 (leAt (s.ing.anchor i).pubkey s.ing.anchorAddr.toNat 4))
         ing := { s.ing with anchorAddr := s.ing.anchorAddr + 4 } } ∧
       (∃ u : State, exec (.ingRevokeData v) s = .next u ∧ u.ing.revAddr = s.ing.revAddr + 4 ∧
         (∀ j, j < 4 → memRead u.ing.revStage (s.ing.revAddr.toNat + j) = BitVec.ofNat 8 (v.toNat / 256 ^ j))) ∧
       ((1024 ≤ s.ing.revList.length ∨ (leAt (memReads s.ing.revStage 0 64) 0 1 ≠ 1 ∧
         leAt (memReads s.ing.revStage 0 64) 0 1 ≠ 2)) → exec .revokeAdd s = .next s) ∧
       (let e := memReads s.ing.revStage 0 64
        s.ing.revList.length < 1024 → (leAt e 0 1 = 1 ∨ leAt e 0 1 = 2) → ∃ u : State, exec .revokeAdd s = .next u ∧
          u.ing.revList = s.ing.revList ++ [e] ∧
          (kfind s.ing.copies n = some k → leAt e 0 1 = 1 → slice e 16 48 = hashBytes k.stoneHash →
            ∃ y, kfind u.ing.copies n = some y ∧ y.revoked = true))))

open Sys2Proof Sys2Proof.Machine Sys2Proof.Claims in
/-- Resets, firmware, repair, the duty split and fatal errors. Each clause names a state of the command and what it
leaves: HUB_RESET_COLD and COLD_RESET clear all but OTP and non-volatile records, and COLD_RESET begins the boot;
with the load off it needs ENABLE mated and an input that has stayed in range for 10 ms, and else does nothing. The
ticks of a boot (log 38) read the slots, verify them, which ends in recovery where none is accepted, calibrate,
test, and end READY; a crossing beyond its share and a failed hub end it in a fatal error, and every boot that comes
so far has run the self-test. A warm reset after stage 5 leaves every core unowned with its scratchpad zero and its
stratum kept, and the calibration to come before READY; before stage 5, during another, and after a fatal error that
stops the ports it is absorbed. The reset of a context leaves it no core and its window at reset, that of the
physical function no tenant function and no bridge; during a warm reset both are absorbed. A core reset scrubs a
free core and halts an occupied one with ABORTED. STAGE, also as a register bit, ACTIVATE, FW_CANCEL,
FIRMWARE_ACTIVATION, TRIAL_OK, TRIAL_TIMEOUT after one second, MP_WATCHDOG and RAISE_FLOOR move the firmware as R418
says. A repair is refused, or waits for the runs there are, those that a pre-emption has saved among them, and is
applied, through the spare of its row or as an unavailable cluster; what an earlier repair still rewrites goes on.
DUTY_SPLIT_APPLY waits for no run to be active. HUB_DUMP_BASE takes a page address. A cause of a fatal error puts
the module in its fatal state, sets its CAUSE_MASK bit and ends every run. The logs 36, 37, 77, 92, 93, 97 and 140
name what of this the spec leaves open. -/
def Obligations.BringUpAndService : Prop :=
  ∀ (s : State) (v : Word) (f c : Nat) (cause : Byte) (st : Straps) (bf : BootFindings),
    (s.board.loadOn = true → ∃ u : State, exec .hubResetCold s = .next u ∧ u.runs = [] ∧ u.ctxs = [] ∧ u.cores = [] ∧
      u.hub.ready = false ∧ u.hub.repairMap = s.hub.repairMap ∧ u.hub.rowMap = s.hub.rowMap ∧
      u.hub.floorSvn = s.hub.floorSvn ∧ u.ing.anchors = s.ing.anchors ∧ u.ing.revList = s.ing.revList ∧
      u.chn.straps = s.chn.straps ∧ u.hostMem = s.hostMem) ∧
    (s.board.loadOn = false → exec .hubResetCold s = .next s) ∧
    (s.board.loadOn = false → (bf.enable = false ∨ s.board.vinTk < 2000000) → exec (.coldReset st bf) s = .next s) ∧
    ((s.board.loadOn = true ∨ (bf.enable = true ∧ 2000000 ≤ s.board.vinTk)) → ∃ u : State, exec (.coldReset st bf) s = .next u ∧
      u.hub.boot = some bf ∧ u.hub.bootTk = 0 ∧ u.hub.bootStage = 0 ∧ u.hub.ready = false ∧ u.hub.fatal = false ∧
      u.chn.straps = st ∧ u.cores = [] ∧ u.runs = [] ∧ u.board.loadOn = true ∧ u.ing.anchors = s.ing.anchors ∧
      u.hub.repairMap = s.hub.repairMap) ∧
    (∀ tele, s.board.loadOn = true → s.pwr.st ≠ 4 → s.hub.boot = some bf →
      let at_ := s.hub.bootTk + 1
      let slotA := bf.slotAOk = true ∧ s.hub.fwA.accepted s.hub.floorSvn.toNat = true
      let fits := ∀ i, i < 192 → bf.cal.getD i 0 ≤ Config.xcalShare (i / 4) (i % 4)
      (at_ = 200000 → ∃ u : State, exec (.chainTick tele) s = .next u ∧ u.hub.bootStage = 1 ∧ u.hub.ready = s.hub.ready) ∧
      (at_ = 6000000 → slotA → s.hub.activeRec = false → ∃ u : State, exec (.chainTick tele) s = .next u ∧
        u.hub.bootStage = 2 ∧ u.hub.slotB = false ∧ u.hub.fallback = false) ∧
      (at_ = 6000000 → ¬ slotA → bf.slotBOk = false → ∃ u : State, exec (.chainTick tele) s = .next u ∧
        u.hub.bootStage = 6 ∧ u.hub.boot = none ∧ u.hub.bist.getLsbD 0 = true) ∧
      (at_ = 6080000 → fits → ∃ u : State, exec (.chainTick tele) s = .next u ∧ u.hub.bootStage = 3 ∧ u.pwr.calDue = false) ∧
      (at_ = 6080000 → ¬ fits → ∃ u : State, exec (.chainTick tele) s = .next u ∧ u.hub.bootStage = 7 ∧ u.hub.ready = false ∧
        u.hub.fatal = true ∧ u.hub.boot = none ∧ u.hub.bist.getLsbD 0 = true) ∧
      (at_ = 15600000 → bf.hubPass = true → ∃ u : State, exec (.chainTick tele) s = .next u ∧ u.hub.bootStage = 4 ∧
        u.hub.bist.getLsbD 0 = true) ∧
      (at_ = 15600000 → bf.hubPass = false → ∃ u : State, exec (.chainTick tele) s = .next u ∧ u.hub.bootStage = 7 ∧
        u.hub.ready = false ∧ u.hub.fatal = true) ∧
      (at_ = 20000000 → ∃ u : State, exec (.chainTick tele) s = .next u ∧ u.hub.bootStage = 5 ∧ u.hub.ready = true ∧
        u.hub.boot = none) ∧
      (at_ ∉ [200000, 6000000, 6080000, 15600000, 20000000] → ∃ u : State, exec (.chainTick tele) s = .next u ∧
        u.hub = { s.hub with bootTk := at_ } ∧ u.chn = s.chn)) ∧
    (s.board.loadOn = true → s.hub.bootStage = 5 → s.hub.fatal = false → s.hub.warming = false →
      ∃ u : State, exec .warmReset s = .next u ∧ exec .hubResetWarm s = .next u ∧ u.hub.ready = false ∧ u.pwr.calDue = true ∧
        u.hub.bootStage = 5 ∧ u.hub.warming = true ∧ u.hub.dumpLeft = none ∧ u.pwr.st = 0 ∧ u.evc.insvc = [] ∧
        ∀ d, (u.core d).owner = none ∧ (u.core d).spad = [] ∧ (u.core d).strat = (s.core d).strat) ∧
    ((s.hub.bootStage.toNat < 5 ∨ s.hub.warming = true ∨ (s.hub.fatal = true ∧ portsStop s.hub.cause = true)) →
      exec .warmReset s = .next s ∧ exec .hubResetWarm s = .next s) ∧
    (1 ≤ f → f ≤ 512 → s.hub.warming = false → ∃ u : State, exec (.contextReset f) s = .next u ∧
      u.ctx f = { Ctx.reset with enabled := (s.ctx f).enabled, kill := (s.ctx f).kill } ∧ ∀ d, (u.core d).owner ≠ some f) ∧
    ((f = 0 ∨ 512 < f) → exec (.contextReset f) s = .fault .noSuchUnit) ∧
    (s.hub.warming = false → ∃ u : State, exec .pfFunctionLevelReset s = .next u ∧ u.hub.vfs = 0 ∧
      (∀ g, 1 ≤ g → u.ctxEnabled g = false) ∧ (∀ b, (kget Bridge.reset u.syn.bridges b).enabled = false)) ∧
    (s.hub.warming = true → exec .pfFunctionLevelReset s = .next s ∧
      (1 ≤ f → f ≤ 512 → exec (.contextReset f) s = .next s)) ∧
    (bits v 0 10 = c → v.getLsbD 31 = true → s.regsAct = true → s.hub.fatal = false → s.hub.warming = false →
      s.hasCore c = true → (s.core c).resetDue = false →
      (s.runOf c = none → (s.core c).scrubBusy = false → ∃ u : State, exec (.hubCoreReset v) s = .next u ∧
        (u.core c).owner = none ∧ (u.core c).scrubBusy = true ∧ ∀ d, d ≠ c → u.core d = s.core d) ∧
      (∀ r x, s.runOf c = some (r, x) → ∃ (u : State) (y : Run), exec (.hubCoreReset v) s = .next u ∧
        (u.core c).halted = true ∧ (u.core c).ctl.exitst = 6 ∧ u.run? r = some y ∧ y.endStatus.isSome = true)) ∧
    ((v.getLsbD 31 = false ∨ s.regsAct = false ∨ s.hub.warming = true) → exec (.hubCoreReset v) s = .next s) ∧
    (s.board.loadOn = true → s.pwr.st ≠ 4 → s.hub.fatal = false → s.hub.fwState ≠ 3 → s.hub.fwState ≠ 4 →
      let prev := if s.hub.fwState = 1 then s.hub.fwPrev else s.hub.fwState
      (s.hub.fwState ≠ 1 → exec (.registerWrite 0 0x10C 1) s =
        .next { s with hub := { s.hub with fwState := 1, fwPrev := s.hub.fwState } }) ∧
      (∃ u : State, exec (.stage none) s = .next u ∧ u.hub.fwCode = 6 ∧ u.hub.fwState = prev ∧ u.hub.fwA = s.hub.fwA ∧
        u.hub.fwB = s.hub.fwB ∧ u.hub.dmaErr = satAdd s.hub.dmaErr 1 ∧ u.cores = s.cores) ∧
      (∀ img, let n := stageStatus s.hub.floorSvn.toNat (slice img 0 s.hub.stageLen.toNat)
        (n ≠ 0 → ∃ u : State, exec (.stage (some img)) s = .next u ∧ u.hub.fwCode = BitVec.ofNat 8 n ∧ u.hub.fwState = prev ∧
          u.hub.fwA = s.hub.fwA ∧ u.hub.fwB = s.hub.fwB ∧ u.cores = s.cores) ∧
        (n = 0 → ∃ u : State, exec (.stage (some img)) s = .next u ∧ u.hub.fwState = 2 ∧ u.hub.fwCode = 0 ∧
          u.hub.slotB = s.hub.slotB ∧
          (s.hub.slotB = true → u.hub.fwB = s.hub.fwB ∧ u.hub.fwA.valid = true) ∧
          (s.hub.slotB = false → u.hub.fwA = s.hub.fwA ∧ u.hub.fwB.valid = true)))) ∧
    (s.regsAct = true → s.hub.fatal = false →
      (s.hub.fwState = 2 → exec .activate s = .next { s with hub := { s.hub with fwState := 3 } }) ∧
      (s.hub.fwState ≠ 2 → exec .activate s = .next s) ∧
      (s.hub.fwState = 3 → exec .fwCancel s = .next { s with hub := { s.hub with fwState := 2 } }) ∧
      (s.hub.fwState ≠ 3 → exec .fwCancel s = .next s) ∧
      (s.hub.trialOk = true → 
        let svn := (if s.hub.slotB then s.hub.fwB else s.hub.fwA).svn.toNat
        exec .raiseFloor s = .next { s with hub := { s.hub with
          floorSvn := BitVec.ofNat 16 (max s.hub.floorSvn.toNat svn) } }) ∧
      (s.hub.trialOk = false → exec .raiseFloor s = .next s)) ∧
    (s.hub.fwState = 3 → s.hub.fatal = false → s.activeRuns = [] → s.hub.repairSt.getLsbD 0 = false →
      ∃ u : State, exec .firmwareActivation s = .next u ∧ u.hub.slotB = !s.hub.slotB ∧ u.hub.fwState = 4 ∧
        u.hub.trialOk = false ∧ u.hub.trialAt = s.chn.count ∧ u.evc.mps = []) ∧
    ((s.activeRuns ≠ [] ∨ s.hub.fwState ≠ 3 ∨ s.hub.fatal = true ∨ s.hub.repairSt.getLsbD 0 = true) →
      exec .firmwareActivation s = .next s) ∧
    (s.activeRuns ≠ [] → exec .dutySplitApply s = .next s) ∧
    (s.activeRuns = [] → exec .dutySplitApply s = .next { s with hub := { s.hub with splitAct := s.hub.splitMode } }) ∧
    (s.hub.fwState = 4 →
      exec .trialOk s = .next { s with hub := { s.hub with trialOk := true, fwState := 0, activeRec := s.hub.slotB } } ∧
      (s.hub.trialAt + 200000000 ≤ s.chn.count →
        ∃ u : State, exec .trialTimeout s = .next u ∧ u.hub.slotB = !s.hub.slotB ∧ u.hub.fwState = 5 ∧ u.evc.mps = []) ∧
      (s.chn.count < s.hub.trialAt + 200000000 → exec .trialTimeout s = .next s) ∧
      (s.board.loadOn = true → ∃ u : State, exec .mpWatchdog s = .next u ∧ u.hub.slotB = !s.hub.slotB ∧ u.hub.fwState = 5 ∧
        u.hub.fatal = s.hub.fatal)) ∧
    (s.hub.fwState ≠ 4 → exec .trialOk s = .next s ∧ exec .trialTimeout s = .next s) ∧
    (s.regsAct = true →
      let die := bits v 0 1
      let row := bits v 1 4
      let site := bits v 5 4
      let bad := 9 ≤ row ∨ 9 ≤ site ∨ s.hub.mappedSite die row = some site
      ((s.hub.repairSt.getLsbD 0 = true ∨ v.getLsbD 31 = false) → exec (.hubRepairReq v) s =
        .next { s with hub := { s.hub with repairReq := v &&& 0x1FF } }) ∧
      (s.hub.repairSt.getLsbD 0 = false → v.getLsbD 31 = true →
        (bad → exec (.hubRepairReq v) s = .next { s with hub := { s.hub with repairReq := v &&& 0x1FF, repairSt := (s.hub.repairSt &&& 16) ||| 4 } }) ∧
        (¬ bad → exec (.hubRepairReq v) s = .next { s with hub := { s.hub with
          repairReq := v &&& 0x1FF, repairSt := (s.hub.repairSt &&& 16) ||| 1, repairPend := some (die, row, site) } }))) ∧
    (s.hub.repairPend = none → exec .repairApply s = .next s) ∧
    (((∃ e, e ∈ s.runs ∧ (e.2.phase = .admitted ∨ e.2.phase = .active ∨ e.2.phase = .preempted ∨ e.2.preempt ≠ none)) ∨
      (∃ e, e ∈ s.ing.copies ∧ e.2.loading = true)) → exec .repairApply s = .next s) ∧
    (∀ e, s.hub.repairPend = some e → s.runs = [] → s.ing.copies = [] →
      (s.hub.mappedSite e.1 e.2.1 = none → ∃ u : State, exec .repairApply s = .next u ∧
        u.hub.repairMap = s.hub.repairMap ++ [e] ∧ u.hub.repairPend = none ∧ u.hub.repairSt = 2 ∧
        u.hub.unavail = s.hub.unavail) ∧
      (∀ p col, s.hub.mappedSite e.1 e.2.1 = some p → s.hub.columnAt e.1 e.2.1 e.2.2 = some col → e.2.1 < s.gridRows →
        ∃ u : State, exec .repairApply s = .next u ∧ u.hub.repairMap = s.hub.repairMap ∧ u.hub.repairPend = none ∧
          u.hub.repairSt = 10 ∧ s.clusterOf e.1 e.2.1 col ∈ u.hub.unavail ∧ u.cores = s.cores)) ∧
    (s.regsAct = true → ∃ u : State, exec (.hubDumpBaseWrite false v) s = .next u ∧
      u.hub.dumpBase.toNat = s.hub.dumpBase.toNat / 2 ^ 32 * 2 ^ 32 + v.toNat / 4096 * 4096 ∧ u.cores = s.cores) ∧
    (s.regsAct = true → (s.hub.dumpOwed = false ∨ s.hub.fatal = false) →
      ∃ u : State, exec (.hubDumpBaseWrite true v) s = .next u ∧
        u.hub.dumpBase.toNat = v.toNat * 2 ^ 32 + s.hub.dumpBase.toNat % 2 ^ 32 ∧ u.cores = s.cores) ∧
    (s.board.loadOn = true →
      (1 ≤ cause.toNat → cause.toNat ≤ 8 → ∃ u : State, exec (.fatalError cause) s = .next u ∧ u.hub.fatal = true ∧
        u.hub.causeMask.getLsbD cause.toNat = true ∧ (s.hub.fatal = false → u.hub.cause = cause ∧ u.runs = []) ∧
        (s.hub.fatal = true → u.runs = s.runs ∧ u.hub.cause = s.hub.cause)) ∧
      (∃ u : State, exec .pllUnlock s = .next u ∧ u.hub.fatal = true ∧ u.hub.causeMask.getLsbD 3 = true) ∧
      (∃ u : State, exec .railFault s = .next u ∧ u.hub.fatal = true ∧ u.hub.causeMask.getLsbD 4 = true) ∧
      (s.hub.fwState ≠ 4 → ∃ u : State, exec .mpWatchdog s = .next u ∧ u.hub.fatal = true ∧
        u.hub.causeMask.getLsbD 6 = true)) ∧
    ((cause.toNat = 0 ∨ 8 < cause.toNat) → exec (.fatalError cause) s = .fault .noSuchUnit)

open Sys2Proof Sys2Proof.Machine Sys2Proof.Claims in
/-- The supply, the SMBus target, JTAG, the chain tick, the functions, and the power choices. An input excursion sets
the VIN warning and nothing else; a longer one is fatal and switches the load off; a loss of the load writes
nothing. Every PMBus command of R439 answers as its row says; an unsupported code, and a failed packet error check,
is NAKed and recorded. BYPASS, IDCODE, SAMPLE/PRELOAD and EXTEST load their registers. CHAIN_TICK of a module that
is not booting advances the count by one and the core cycles to the tick's end (log 59), begins a beat that is
extended where a beat stall asked for it, steers by one root cycle, and counts the cycles of an emergency stall that
stands where nothing else counts any, but in Off and without load takes only the readings. VF_ENABLE enables exactly
VFs 1 to NumVFs. THERMAL_STEP_REQUEST of a condition that has lasted 64 beats raises its event once.
POWER_STATE_ENTRY enters, or stays in, the deepest state that is enabled, allowed and worth its cost in the time to
the next known event, the exit begins where that is shallower than the present one, and in host-assisted mode
without active runs it changes nothing; a MFR_STEP_CAP that is written acts when no run is active; the next event is
the earliest of those known, or with none the end of the horizon. The numbers of the JTAG instructions, the states'
entry and the bits of the PMBus status bytes are logs 5, 39, 40, 43 and 77. -/
def Obligations.BoardAndTick : Prop :=
  ∀ (s : State) (t : Telemetry) (code : Byte) (pins : List Bool) (b : Bool) (n : Nat),
    (exec .inputExcursion s = .next { s with board := { s.board with
      stInput := s.board.stInput ||| (if 60 < s.board.tele.vin then 0x40 else 0x20) } }) ∧
    (s.board.loadOn = true → ∃ u : State, exec .inputSupply s = .next u ∧ u.board.loadOn = false ∧ u.hub.fatal = true ∧
      u.runs = [] ∧ u.cores = [] ∧ (s.hub.fatal = false → u.hub.cause = 2)) ∧
    (s.board.loadOn = false → exec .inputSupply s = .next { s with board := { s.board with
      stInput := s.board.stInput ||| (if 60 < s.board.tele.vin then 0xC0 else 0x30) } }) ∧
    (∃ u : State, exec .loadLoss s = .next u ∧ u.board.loadOn = false ∧ u.hostMem = s.hostMem ∧ u.msi = s.msi ∧
      u.runs = [] ∧ u.cores = [] ∧ u.pending = s.pending) ∧
    (s.board.loadOn = true →
      exec (.malformedTlp true) s = .next { s with hub := { s.hub with aerCorr := true } } ∧
      exec (.malformedTlp false) s = .next { s with hub := { s.hub with aerUncorr := true } }) ∧
    (exec .capability s = .next { s with pmbusOut := some 0xB0 } ∧
      exec .readVin s = .next { s with pmbusOut := some (Config.linear11 s.board.tele.vin) } ∧
      exec .readIin s = .next { s with pmbusOut := some (Config.linear11 s.board.tele.iin) } ∧
      exec .readPin s = .next { s with pmbusOut := some (Config.linear11 s.board.tele.power10ms) } ∧
      exec .readTemperature1 s = .next { s with pmbusOut := some (Config.linear11 s.board.tele.hottest) } ∧
      exec .readTemperature2 s = .next { s with pmbusOut := some (Config.linear11 s.board.tele.hubCore) } ∧
      exec .readTemperature3 s = .next { s with pmbusOut := some (Config.linear11 s.board.tele.coolant) } ∧
      (∃ w : BitVec 16, exec .statusWord s = .next { s with pmbusOut := some w } ∧
        (w.getLsbD 1 = true ↔ s.board.stCml ≠ 0) ∧ (w.getLsbD 2 = true ↔ s.board.stTemp ≠ 0) ∧
        (w.getLsbD 13 = true ↔ s.board.stInput ≠ 0)) ∧
      (∃ w : BitVec 16, exec .mfrState s = .next { s with pmbusOut := some w } ∧ bits w 0 3 = s.pwr.st.toNat ∧
        w.getLsbD 3 = s.hub.fatalShown ∧ w.getLsbD 4 = s.board.pwrOk)) ∧
    (exec (.statusInput none) s = .next { s with pmbusOut := some (s.board.stInput.setWidth 16) } ∧
      exec (.statusTemperature none) s = .next { s with pmbusOut := some (s.board.stTemp.setWidth 16) } ∧
      exec (.statusCml none) s = .next { s with pmbusOut := some (s.board.stCml.setWidth 16) } ∧
      exec (.statusInput (some code)) s = .next { s with
        pmbusOut := none, board := { s.board with stInput := s.board.stInput &&& ~~~code } } ∧
      exec (.statusTemperature (some code)) s = .next { s with
        pmbusOut := none, board := { s.board with stTemp := s.board.stTemp &&& ~~~code } } ∧
      exec (.statusCml (some code)) s = .next { s with
        pmbusOut := none, board := { s.board with stCml := s.board.stCml &&& ~~~code } }) ∧
    (exec (.mfrStepCap none) s = .next { s with pmbusOut := some (s.capInForce.setWidth 16) }) ∧
    (s.activeRuns = [] → ∃ u : State, exec (.mfrStepCap (some code)) s = .next u ∧
      u.pwr.mfrCap = code.setWidth 2 ∧ u.pwr.mfrPend = none ∧ u.pwr.cur = s.pwr.cur ∧ u.pmbusOut = none) ∧
    (s.activeRuns ≠ [] → ∃ u : State, exec (.mfrStepCap (some code)) s = .next u ∧
      u.pwr.mfrCap = s.pwr.mfrCap ∧ u.pwr.mfrPend = some (code.setWidth 2)) ∧
    (exec (.unsupportedCommand code true) s = .next { s with
        pmbusOut := none, board := { s.board with stCml := s.board.stCml ||| 0x20 } }) ∧
    (code.toNat ∉ [0x19, 0x79, 0x7C, 0x7D, 0x7E, 0x88, 0x89, 0x97, 0x8D, 0x8E, 0x8F, 0xD0, 0xD1] →
      exec (.unsupportedCommand code false) s = .next { s with
        pmbusOut := none, board := { s.board with stCml := s.board.stCml ||| 0x80 } }) ∧
    (code.toNat ∈ [0x19, 0x79, 0x7C, 0x7D, 0x7E, 0x88, 0x89, 0x97, 0x8D, 0x8E, 0x8F, 0xD0, 0xD1] →
      exec (.unsupportedCommand code false) s = .next s) ∧
    (exec (.bypass b) s = .next { s with board := { s.board with jtagIr := 3, jtagDr := [b] } } ∧
      exec (.samplePreload pins) s = .next { s with board := { s.board with jtagIr := 2, jtagDr := pins } } ∧
      exec (.extest pins) s = .next { s with board := { s.board with jtagIr := 0, jtagDr := pins, pinsOut := pins } } ∧
      ∃ ds : List Bool, exec .idcode s = .next { s with board := { s.board with jtagIr := 1, jtagDr := ds } } ∧
        ds.length = 32 ∧ ds.head? = some true) ∧
    (s.board.loadOn = true → s.pwr.st ≠ 4 → s.hub.boot = none →
      let til := max s.clk (s.tickAt + ccPerTick s.pwr.cur)
      let len := if s.chn.steer = 0 then 24 else if s.chn.steer > 0 then 23 else 25
      ∃ u : State, exec (.chainTick t) s = .next u ∧ u.chn.count = (s.chn.count + 1) % 2 ^ 64 ∧ u.board.tele = t ∧
        u.pwr.tele = { t with hg1 := if s.hgPresent 1 then t.hg1 else 0 } ∧ u.clk = til ∧ u.tickAt = til ∧ u.pwr.cur = s.pwr.cur ∧
        u.pwr.extend = false ∧ u.pwr.stretches = (if s.pwr.extend then s.pwr.stretches else []) ∧
        u.pwr.beatRoot = (if s.pwr.extend then s.pwr.beatRoot + len else len) ∧
        u.chn.steer = (if s.chn.steer = 0 then 0 else if s.chn.steer > 0 then s.chn.steer - 1 else s.chn.steer + 1) ∧
        (s.pwr.standing ≠ [] → s.clk < til → s.runs = [] → s.lnk.beWait = [] → s.lnk.beBuf = [] → s.lnk.collide = [] →
          s.lnk.routerQ = [] → u.det.stallCc.val = min (s.det.stallCc.val + (til - s.clk)) (2 ^ 64 - 1))) ∧
    ((s.board.loadOn = false ∨ s.pwr.st = 4) →
      exec (.chainTick t) s = .next { s with board := { s.board with
        tele := t, vinTk := if 48 ≤ t.vin ∧ t.vin ≤ 60 then s.board.vinTk + 1 else 0 } }) ∧
    (512 < n → exec (.vfEnable b n) s = .fault .noSuchUnit) ∧
    (n ≤ 512 → s.board.loadOn = true → s.hub.bootStage ≠ 6 → ∃ u : State, exec (.vfEnable b n) s = .next u ∧
      u.hub.vfs = (if b then n else 0) ∧ ∀ g, 1 ≤ g → g ≤ 512 → u.ctxEnabled g = decide (g ≤ if b then n else 0)) ∧
    (n ≤ 512 → (s.board.loadOn = false ∨ s.hub.bootStage = 6) → exec (.vfEnable b n) s = .next s) ∧
    (s.pwr.hotBeats < 64 → exec (.thermalStepRequest .thermStep) s = .next s) ∧
    (s.board.loadOn = true → s.pwr.st = 0 → s.hub.fatal = false → 64 ≤ s.pwr.hotBeats →
      s.activeRuns = [] → .thermStep ∉ s.pwr.stepCond → ∃ u : State, exec (.thermalStepRequest .thermStep) s = .next u ∧
        u.pwr.stepCond = s.pwr.stepCond ++ [.thermStep] ∧ u.pwr.event = s.pwr.event ||| 1 ∧
        u.board.stTemp = s.board.stTemp ||| 0x40 ∧ u.cores = s.cores) ∧
    ((s.knownEvents = [] → s.nextEvent = s.chn.count + 200 * s.pwr.horizon.toNat) ∧
      (s.knownEvents ≠ [] → s.nextEvent ∈ s.knownEvents ∧ ∀ e, e ∈ s.knownEvents → s.nextEvent ≤ e)) ∧
    ((s.board.loadOn = false ∨ s.pwr.st = 4 ∨ s.hub.fatal = true ∨ s.hub.ready = false ∨ s.pwr.transition = true) →
      exec .powerStateEntry s = .next s) ∧
    (s.board.loadOn = true → s.pwr.st ≠ 4 → s.hub.fatal = false → s.hub.ready = true → s.pwr.transition = false →
      let d := 5 * (s.nextEvent - s.chn.count)
      (s.hub.splitAct.getLsbD 6 = true → s.activeRuns = [] → exec .powerStateEntry s = .next s) ∧
      (s.hub.splitAct.getLsbD 6 = false →
        (d < 150 → 1 ≤ s.pwr.st.toNat → s.pwr.st.toNat ≤ 3 →
          exec .powerStateEntry s = .next { s with pwr := { s.pwr with transition := true } }) ∧
        (d < 150 → s.pwr.st = 0 → ∃ u : State, exec .powerStateEntry s = .next u ∧ u.pwr.st = 0 ∧ u.cores = s.cores) ∧
        (150 ≤ d → d < 80000 → s.pwr.autoHold = true → s.pwr.st = 0 →
          (∀ e, e ∈ s.activeRuns → (e.2.furlong + 1) * e.2.furlongCc ≤ s.nowOf e.2) →
          ∃ u : State, exec .powerStateEntry s = .next u ∧ u.pwr.st = 1 ∧ u.pwr.last = 1 ∧
            u.pwr.untilTk = some s.nextEvent ∧ u.cores = s.cores) ∧
        (80000 ≤ d → d < 10000000 → s.pwr.autoDoze = true → s.pwr.st.toNat < 2 → s.activeRuns = [] →
          ∃ u : State, exec .powerStateEntry s = .next u ∧ u.pwr.st = 2 ∧ u.pwr.last = 2 ∧
            u.pwr.untilTk = some s.nextEvent ∧ u.cores = s.cores) ∧
        (10000000 ≤ d → s.pwr.autoStow = true → s.pwr.st.toNat < 3 → s.activeRuns = [] →
          (∀ e, e ∈ s.cores → e.2.owner = none) →
          ∃ u : State, exec .powerStateEntry s = .next u ∧ u.pwr.st = 3 ∧ u.pwr.last = 3 ∧
            u.pwr.untilTk = some s.nextEvent ∧ ∀ c, (u.core c).spad = [] ∧ (u.core c).strat = (s.core c).strat)))

open Sys2Proof Sys2Proof.Machine Sys2Proof.Claims in
/-- What reset leaves. After reset no command waits and nothing runs: no run, no context state, no resident stone, no
interrupt sent; the mode is Exact and unlocked with every counter 0; the limits, timeouts and margins of the PWR_,
SYN_ and CHN_ blocks have the values of their register maps; every core is unowned with zero registers, undefined
descriptors, no trap handler and zero memories, and every port enabled and down. The registers of these blocks read
so. The clock step in force after reset and the presence of the straps of module 0 are the model's choice and are
not stated. -/
def Obligations.ResetState : Prop :=
  State.reset.pending = [] ∧ State.reset.runs = [] ∧ State.reset.ctxs = [] ∧ State.reset.ing.copies = [] ∧
  State.reset.msi = [] ∧ State.reset.tx = [] ∧
  State.reset.barRead 0x1000 = 0 ∧ State.reset.barRead 0x1004 = 0 ∧ State.reset.barRead 0x1078 = 0 ∧
  State.reset.barRead 0x201C = 0x1000 ∧ State.reset.barRead 0x300C = 7 ∧ State.reset.barRead 0x3010 = 0x64 ∧
  State.reset.barRead 0x301C = 0xFFFFFFFF ∧ State.reset.barRead 0x3020 = 0x0100695F ∧ State.reset.barRead 0x400C = 0x1000 ∧
  State.reset.barRead 0x4008 = 0x02002000 ∧ State.reset.barRead 0x10040 = 0x01000001 ∧
  (∀ c r, (State.reset.core c).s r = 0 ∧ (State.reset.core c).v r = 0 ∧ (State.reset.core c).owner = none ∧
    (State.reset.core c).ctl.trapVec = 0xFFFFFFFF ∧ (State.reset.core c).ctl.exitst = 0) ∧
  (∀ c h, bits ((State.reset.core c).desc h) 0 3 = 7) ∧
  (∀ c a, memRead (State.reset.core c).spad a = 0 ∧ memRead (State.reset.core c).strat a = 0 ∧
    memRead (State.reset.core c).dmem a = 0 ∧ memRead (State.reset.core c).imem a = 0) ∧
  (∀ p, (State.reset.port p).enable = true ∧ (State.reset.port p).st = 0) ∧ State.reset.memOk = true

open Sys2Proof Sys2Proof.Machine Sys2Proof.Claims in
/-- Every step keeps every memory in its canonical form. For every state in which each core's instruction memory, data
memory, scratchpad and stratum, those of the ells in progress and of the saved runs, each hogshead die, the host
memory and the staging stores list their bytes at strictly rising addresses with no zero byte listed, every state
that a step answers is such a state, whatever the command at the front of the queue. -/
def Obligations.StepKeepsMemories : Prop :=
  ∀ s t : State, s.memOk = true → step s = .next t → t.memOk = true
end

