-- ==== Sys2Proof/Laws/Cycles.lean ====
section
/-!
SUPPORT. Laws of the core cycles that pass: the one inversion lemma of `State.cycle` and `State.cycles`, which every statement
about time cites.
-/

namespace Sys2Proof.Machine

/-- A core cycle moves the clock, and touches only the stalls, their counts and the runs. -/
theorem State.cycle_eq (s : State) :
    s.cycle = { s with
      clk := s.clk + 1, stallTot := s.cycle.stallTot, stalls := s.cycle.stalls, det := s.cycle.det, runs := s.cycle.runs } := by
  unfold State.cycle
  dsimp only
  split
  · rfl
  · split <;> rfl

/-- So do several. -/
theorem State.cycles_eq (s : State) (n : Nat) :
    s.cycles n = { s with
      clk := s.clk + n, stallTot := (s.cycles n).stallTot, stalls := (s.cycles n).stalls, det := (s.cycles n).det
      runs := (s.cycles n).runs } := by
  induction n generalizing s with
  | zero => rfl
  | succ n ih =>
    show s.cycle.cycles n = _
    rw [ih s.cycle, State.cycle_eq s]
    simp [Nat.add_assoc, Nat.add_comm 1 n]
    rw [show ({ s with
      clk := s.clk + 1, stallTot := s.cycle.stallTot, stalls := s.cycle.stalls, det := s.cycle.det
      runs := s.cycle.runs } : State) = s.cycle from (State.cycle_eq s).symm]
    exact ⟨rfl, rfl, rfl, rfl⟩

@[simp] theorem State.cycles_clk (s : State) (n : Nat) : (s.cycles n).clk = s.clk + n := by rw [State.cycles_eq]

@[simp] theorem State.cycles_cores (s : State) (n : Nat) : (s.cycles n).cores = s.cores := by rw [State.cycles_eq]

@[simp] theorem State.cycles_pwr (s : State) (n : Nat) : (s.cycles n).pwr = s.pwr := by rw [State.cycles_eq]

@[simp] theorem State.cycles_lnk (s : State) (n : Nat) : (s.cycles n).lnk = s.lnk := by rw [State.cycles_eq]

@[simp] theorem State.cycles_chn (s : State) (n : Nat) : (s.cycles n).chn = s.chn := by rw [State.cycles_eq]

@[simp] theorem State.cycles_ctxs (s : State) (n : Nat) : (s.cycles n).ctxs = s.ctxs := by rw [State.cycles_eq]

@[simp] theorem State.cycles_core (s : State) (n c : Nat) : (s.cycles n).core c = s.core c := by simp [State.core]

end Sys2Proof.Machine
end

