-- ==== Sys2Proof/Laws/Memory.lean ====
section
/-!
SUPPORT. Laws of memory: every operation keeps the canonical form; a read after a write.
-/

namespace Sys2Proof.Machine

theorem Mem.wfFrom_cons {lo j : Nat} {b : Byte} {m : Mem} :
    Mem.wfFrom lo ((j, b) :: m) = true ↔ lo ≤ j ∧ b ≠ 0 ∧ Mem.wfFrom (j + 1) m = true := by
  simp [Mem.wfFrom, and_assoc]

theorem Mem.wfFrom_mono {lo lo' : Nat} {m : Mem} (h : Mem.wfFrom lo m = true) (hl : lo' ≤ lo) :
    Mem.wfFrom lo' m = true := by
  cases m with
  | nil => rfl
  | cons p m =>
    obtain ⟨j, b⟩ := p
    simp only [Mem.wfFrom, Bool.and_eq_true, decide_eq_true_eq] at h ⊢
    exact ⟨⟨by omega, h.1.2⟩, h.2⟩

theorem memWrite_wfFrom (m : Mem) (lo a : Nat) (b : Byte) (h : Mem.wfFrom lo m = true) (ha : lo ≤ a) :
    Mem.wfFrom lo (memWrite m a b) = true := by
  induction m generalizing lo with
  | nil =>
    simp only [memWrite]
    split
    · rfl
    · rename_i hb
      exact Mem.wfFrom_cons.2 ⟨ha, hb, rfl⟩
  | cons p m ih =>
    obtain ⟨j, w⟩ := p
    obtain ⟨h1, h2, h3⟩ := Mem.wfFrom_cons.1 h
    simp only [memWrite]
    split
    · split
      · exact h
      · rename_i hlt hb
        exact Mem.wfFrom_cons.2 ⟨ha, hb, Mem.wfFrom_cons.2 ⟨by omega, h2, h3⟩⟩
    · split
      · rename_i heq
        subst heq
        split
        · exact Mem.wfFrom_mono h3 (by omega)
        · rename_i hb
          exact Mem.wfFrom_cons.2 ⟨ha, hb, h3⟩
      · exact Mem.wfFrom_cons.2 ⟨h1, h2, ih (j + 1) h3 (by omega)⟩

/-- A write of one byte keeps the canonical form. -/
theorem memWrite_wf (m : Mem) (a : Nat) (b : Byte) (h : m.wf = true) : Mem.wf (memWrite m a b) = true :=
  memWrite_wfFrom m 0 a b h (Nat.zero_le _)

/-- A write of bytes keeps the canonical form. -/
theorem memWrites_wf (bs : List Byte) (m : Mem) (a : Nat) (h : m.wf = true) : Mem.wf (memWrites m a bs) = true := by
  induction bs generalizing m a with
  | nil => exact h
  | cons b bs ih => exact ih _ _ (memWrite_wf m a b h)

theorem filter_wfFrom (q : Host.Cell → Bool) (m : Mem) (lo : Nat) (h : Mem.wfFrom lo m = true) :
    Mem.wfFrom lo (m.filter q) = true := by
  induction m generalizing lo with
  | nil => rfl
  | cons p m ih =>
    obtain ⟨j, w⟩ := p
    obtain ⟨h1, h2, h3⟩ := Mem.wfFrom_cons.1 h
    simp only [List.filter_cons]
    split
    · exact Mem.wfFrom_cons.2 ⟨h1, h2, ih _ h3⟩
    · exact Mem.wfFrom_mono (ih _ h3) (by omega)

/-- Clearing a range keeps the canonical form. -/
theorem memClear_wf (m : Mem) (a n : Nat) (h : m.wf = true) : Mem.wf (memClear m a n) = true :=
  filter_wfFrom _ m 0 h

theorem memRead_above (m : Mem) (lo a : Nat) (h : Mem.wfFrom lo m = true) (ha : a < lo) : memRead m a = 0 := by
  induction m generalizing lo with
  | nil => rfl
  | cons p m ih =>
    obtain ⟨j, w⟩ := p
    simp only [Mem.wfFrom, Bool.and_eq_true, decide_eq_true_eq] at h
    have hj : ¬ j = a := by omega
    simp only [memRead, hj, if_false]
    exact ih _ h.2 (by omega)

theorem memRead_write_from (m : Mem) (lo a x : Nat) (b : Byte) (h : Mem.wfFrom lo m = true) :
    memRead (memWrite m a b) x = if x = a then b else memRead m x := by
  induction m generalizing lo with
  | nil =>
    simp only [memWrite]
    split
    · rename_i hb
      by_cases hx : x = a <;> simp [memRead, hb, hx]
    · by_cases hx : x = a
      · simp [memRead, hx]
      · simp [memRead, hx, Ne.symm hx]
  | cons p m ih =>
    obtain ⟨j, w⟩ := p
    simp only [Mem.wfFrom, Bool.and_eq_true, decide_eq_true_eq] at h
    obtain ⟨⟨h1, h2⟩, h3⟩ := h
    simp only [memWrite]
    split
    · rename_i hlt
      split
      · rename_i hb
        by_cases hx : x = a
        · have hj : ¬ j = a := by omega
          simp [memRead, hx, hj, hb, memRead_above m (j + 1) a h3 (by omega)]
        · simp [hx]
      · by_cases hx : x = a
        · simp [memRead, hx]
        · simp [memRead, hx, Ne.symm hx]
    · split
      · rename_i heq
        subst heq
        split
        · rename_i hb
          by_cases hx : x = a
          · simp [hx, hb, memRead_above m (a + 1) a h3 (by omega)]
          · simp [memRead, hx, Ne.symm hx]
        · by_cases hx : x = a
          · simp [memRead, hx]
          · simp [memRead, hx, Ne.symm hx]
      · rename_i hn hne
        by_cases hj : j = x
        · have hx : ¬ x = a := by omega
          simp [memRead, hj, hx]
        · simp [memRead, hj, ih _ h3]

/-- A byte reads as it was written, every other byte as before. -/
theorem memRead_memWrite (m : Mem) (a x : Nat) (b : Byte) (h : m.wf = true) :
    memRead (memWrite m a b) x = if x = a then b else memRead m x :=
  memRead_write_from m 0 a x b h

/-- Bytes outside a written range read as before. -/
theorem memRead_memWrites_out (bs : List Byte) (m : Mem) (a x : Nat) (h : m.wf = true)
    (hx : x < a ∨ a + bs.length ≤ x) : memRead (memWrites m a bs) x = memRead m x := by
  induction bs generalizing m a with
  | nil => rfl
  | cons b bs ih =>
    simp only [List.length_cons] at hx
    simp only [memWrites]
    rw [ih _ _ (memWrite_wf m a b h) (by omega), memRead_memWrite m a x b h, if_neg (by omega)]

/-- Bytes of a written range read as written. -/
theorem memRead_memWrites_in (bs : List Byte) (m : Mem) (a i : Nat) (h : m.wf = true) (hi : i < bs.length) :
    memRead (memWrites m a bs) (a + i) = bs.getD i 0 := by
  induction bs generalizing m a i with
  | nil => simp at hi
  | cons b bs ih =>
    simp only [memWrites]
    cases i with
    | zero =>
      rw [memRead_memWrites_out bs _ _ _ (memWrite_wf m a b h) (by omega), memRead_memWrite m a _ b h]
      simp
    | succ i =>
      have := ih (memWrite m a b) (a + 1) i (memWrite_wf m a b h) (by simpa using hi)
      rw [show a + (i + 1) = a + 1 + i by omega, this]
      simp

end Sys2Proof.Machine
end

