-- ==== Sys2Proof/Laws/State.lean ====
section
/-!
SUPPORT. What each update of a state or a core leaves in each field.
-/

namespace Sys2Proof.Machine

@[simp] theorem State.setCore_pending (s : State) (c : Nat) (k : Core) : (s.setCore c k).pending = s.pending := rfl
@[simp] theorem State.setCore_fresh (s : State) (c : Nat) (k : Core) : (s.setCore c k).fresh = s.fresh := rfl
@[simp] theorem State.setCore_clk (s : State) (c : Nat) (k : Core) : (s.setCore c k).clk = s.clk := rfl
@[simp] theorem State.setCore_stallTot (s : State) (c : Nat) (k : Core) : (s.setCore c k).stallTot = s.stallTot := rfl
@[simp] theorem State.setCore_tickAt (s : State) (c : Nat) (k : Core) : (s.setCore c k).tickAt = s.tickAt := rfl
@[simp] theorem State.setCore_stalls (s : State) (c : Nat) (k : Core) : (s.setCore c k).stalls = s.stalls := rfl
@[simp] theorem State.setCore_cores (s : State) (c : Nat) (k : Core) : (s.setCore c k).cores = kset s.cores c k := rfl
@[simp] theorem State.setCore_ellSaved (s : State) (c : Nat) (k : Core) : (s.setCore c k).ellSaved = s.ellSaved := rfl
@[simp] theorem State.setCore_hg (s : State) (c : Nat) (k : Core) : (s.setCore c k).hg = s.hg := rfl
@[simp] theorem State.setCore_hgRegs (s : State) (c : Nat) (k : Core) : (s.setCore c k).hgRegs = s.hgRegs := rfl
@[simp] theorem State.setCore_syn (s : State) (c : Nat) (k : Core) : (s.setCore c k).syn = s.syn := rfl
@[simp] theorem State.setCore_det (s : State) (c : Nat) (k : Core) : (s.setCore c k).det = s.det := rfl
@[simp] theorem State.setCore_runs (s : State) (c : Nat) (k : Core) : (s.setCore c k).runs = s.runs := rfl
@[simp] theorem State.setCore_nextRun (s : State) (c : Nat) (k : Core) : (s.setCore c k).nextRun = s.nextRun := rfl
@[simp] theorem State.setCore_ctxs (s : State) (c : Nat) (k : Core) : (s.setCore c k).ctxs = s.ctxs := rfl
@[simp] theorem State.setCore_lnk (s : State) (c : Nat) (k : Core) : (s.setCore c k).lnk = s.lnk := rfl
@[simp] theorem State.setCore_chn (s : State) (c : Nat) (k : Core) : (s.setCore c k).chn = s.chn := rfl
@[simp] theorem State.setCore_pwr (s : State) (c : Nat) (k : Core) : (s.setCore c k).pwr = s.pwr := rfl
@[simp] theorem State.setCore_evc (s : State) (c : Nat) (k : Core) : (s.setCore c k).evc = s.evc := rfl
@[simp] theorem State.setCore_ing (s : State) (c : Nat) (k : Core) : (s.setCore c k).ing = s.ing := rfl
@[simp] theorem State.setCore_hub (s : State) (c : Nat) (k : Core) : (s.setCore c k).hub = s.hub := rfl
@[simp] theorem State.setCore_board (s : State) (c : Nat) (k : Core) : (s.setCore c k).board = s.board := rfl
@[simp] theorem State.setCore_hostMem (s : State) (c : Nat) (k : Core) : (s.setCore c k).hostMem = s.hostMem := rfl
@[simp] theorem State.setCore_hostReqs (s : State) (c : Nat) (k : Core) : (s.setCore c k).hostReqs = s.hostReqs := rfl
@[simp] theorem State.setCore_msi (s : State) (c : Nat) (k : Core) : (s.setCore c k).msi = s.msi := rfl
@[simp] theorem State.setCore_tx (s : State) (c : Nat) (k : Core) : (s.setCore c k).tx = s.tx := rfl
@[simp] theorem State.setCore_wire (s : State) (c : Nat) (k : Core) : (s.setCore c k).wire = s.wire := rfl
@[simp] theorem State.setCore_busOut (s : State) (c : Nat) (k : Core) : (s.setCore c k).busOut = s.busOut := rfl
@[simp] theorem State.setCore_pmbusOut (s : State) (c : Nat) (k : Core) : (s.setCore c k).pmbusOut = s.pmbusOut := rfl

@[simp] theorem State.setCtx_pending (s : State) (f : Nat) (x : Ctx) : (s.setCtx f x).pending = s.pending := rfl
@[simp] theorem State.setCtx_fresh (s : State) (f : Nat) (x : Ctx) : (s.setCtx f x).fresh = s.fresh := rfl
@[simp] theorem State.setCtx_clk (s : State) (f : Nat) (x : Ctx) : (s.setCtx f x).clk = s.clk := rfl
@[simp] theorem State.setCtx_stallTot (s : State) (f : Nat) (x : Ctx) : (s.setCtx f x).stallTot = s.stallTot := rfl
@[simp] theorem State.setCtx_tickAt (s : State) (f : Nat) (x : Ctx) : (s.setCtx f x).tickAt = s.tickAt := rfl
@[simp] theorem State.setCtx_stalls (s : State) (f : Nat) (x : Ctx) : (s.setCtx f x).stalls = s.stalls := rfl
@[simp] theorem State.setCtx_cores (s : State) (f : Nat) (x : Ctx) : (s.setCtx f x).cores = s.cores := rfl
@[simp] theorem State.setCtx_ellSaved (s : State) (f : Nat) (x : Ctx) : (s.setCtx f x).ellSaved = s.ellSaved := rfl
@[simp] theorem State.setCtx_hg (s : State) (f : Nat) (x : Ctx) : (s.setCtx f x).hg = s.hg := rfl
@[simp] theorem State.setCtx_hgRegs (s : State) (f : Nat) (x : Ctx) : (s.setCtx f x).hgRegs = s.hgRegs := rfl
@[simp] theorem State.setCtx_syn (s : State) (f : Nat) (x : Ctx) : (s.setCtx f x).syn = s.syn := rfl
@[simp] theorem State.setCtx_det (s : State) (f : Nat) (x : Ctx) : (s.setCtx f x).det = s.det := rfl
@[simp] theorem State.setCtx_runs (s : State) (f : Nat) (x : Ctx) : (s.setCtx f x).runs = s.runs := rfl
@[simp] theorem State.setCtx_nextRun (s : State) (f : Nat) (x : Ctx) : (s.setCtx f x).nextRun = s.nextRun := rfl
@[simp] theorem State.setCtx_ctxs (s : State) (f : Nat) (x : Ctx) : (s.setCtx f x).ctxs = kset s.ctxs f x := rfl
@[simp] theorem State.setCtx_lnk (s : State) (f : Nat) (x : Ctx) : (s.setCtx f x).lnk = s.lnk := rfl
@[simp] theorem State.setCtx_chn (s : State) (f : Nat) (x : Ctx) : (s.setCtx f x).chn = s.chn := rfl
@[simp] theorem State.setCtx_pwr (s : State) (f : Nat) (x : Ctx) : (s.setCtx f x).pwr = s.pwr := rfl
@[simp] theorem State.setCtx_evc (s : State) (f : Nat) (x : Ctx) : (s.setCtx f x).evc = s.evc := rfl
@[simp] theorem State.setCtx_ing (s : State) (f : Nat) (x : Ctx) : (s.setCtx f x).ing = s.ing := rfl
@[simp] theorem State.setCtx_hub (s : State) (f : Nat) (x : Ctx) : (s.setCtx f x).hub = s.hub := rfl
@[simp] theorem State.setCtx_board (s : State) (f : Nat) (x : Ctx) : (s.setCtx f x).board = s.board := rfl
@[simp] theorem State.setCtx_hostMem (s : State) (f : Nat) (x : Ctx) : (s.setCtx f x).hostMem = s.hostMem := rfl
@[simp] theorem State.setCtx_hostReqs (s : State) (f : Nat) (x : Ctx) : (s.setCtx f x).hostReqs = s.hostReqs := rfl
@[simp] theorem State.setCtx_msi (s : State) (f : Nat) (x : Ctx) : (s.setCtx f x).msi = s.msi := rfl
@[simp] theorem State.setCtx_tx (s : State) (f : Nat) (x : Ctx) : (s.setCtx f x).tx = s.tx := rfl
@[simp] theorem State.setCtx_wire (s : State) (f : Nat) (x : Ctx) : (s.setCtx f x).wire = s.wire := rfl
@[simp] theorem State.setCtx_busOut (s : State) (f : Nat) (x : Ctx) : (s.setCtx f x).busOut = s.busOut := rfl
@[simp] theorem State.setCtx_pmbusOut (s : State) (f : Nat) (x : Ctx) : (s.setCtx f x).pmbusOut = s.pmbusOut := rfl

@[simp] theorem State.setRun_pending (s : State) (r : Nat) (x : Run) : (s.setRun r x).pending = s.pending := rfl
@[simp] theorem State.setRun_fresh (s : State) (r : Nat) (x : Run) : (s.setRun r x).fresh = s.fresh := rfl
@[simp] theorem State.setRun_clk (s : State) (r : Nat) (x : Run) : (s.setRun r x).clk = s.clk := rfl
@[simp] theorem State.setRun_stallTot (s : State) (r : Nat) (x : Run) : (s.setRun r x).stallTot = s.stallTot := rfl
@[simp] theorem State.setRun_tickAt (s : State) (r : Nat) (x : Run) : (s.setRun r x).tickAt = s.tickAt := rfl
@[simp] theorem State.setRun_stalls (s : State) (r : Nat) (x : Run) : (s.setRun r x).stalls = s.stalls := rfl
@[simp] theorem State.setRun_cores (s : State) (r : Nat) (x : Run) : (s.setRun r x).cores = s.cores := rfl
@[simp] theorem State.setRun_ellSaved (s : State) (r : Nat) (x : Run) : (s.setRun r x).ellSaved = s.ellSaved := rfl
@[simp] theorem State.setRun_hg (s : State) (r : Nat) (x : Run) : (s.setRun r x).hg = s.hg := rfl
@[simp] theorem State.setRun_hgRegs (s : State) (r : Nat) (x : Run) : (s.setRun r x).hgRegs = s.hgRegs := rfl
@[simp] theorem State.setRun_syn (s : State) (r : Nat) (x : Run) : (s.setRun r x).syn = s.syn := rfl
@[simp] theorem State.setRun_det (s : State) (r : Nat) (x : Run) : (s.setRun r x).det = s.det := rfl
@[simp] theorem State.setRun_runs (s : State) (r : Nat) (x : Run) : (s.setRun r x).runs = kset s.runs r x := rfl
@[simp] theorem State.setRun_nextRun (s : State) (r : Nat) (x : Run) : (s.setRun r x).nextRun = s.nextRun := rfl
@[simp] theorem State.setRun_ctxs (s : State) (r : Nat) (x : Run) : (s.setRun r x).ctxs = s.ctxs := rfl
@[simp] theorem State.setRun_lnk (s : State) (r : Nat) (x : Run) : (s.setRun r x).lnk = s.lnk := rfl
@[simp] theorem State.setRun_chn (s : State) (r : Nat) (x : Run) : (s.setRun r x).chn = s.chn := rfl
@[simp] theorem State.setRun_pwr (s : State) (r : Nat) (x : Run) : (s.setRun r x).pwr = s.pwr := rfl
@[simp] theorem State.setRun_evc (s : State) (r : Nat) (x : Run) : (s.setRun r x).evc = s.evc := rfl
@[simp] theorem State.setRun_ing (s : State) (r : Nat) (x : Run) : (s.setRun r x).ing = s.ing := rfl
@[simp] theorem State.setRun_hub (s : State) (r : Nat) (x : Run) : (s.setRun r x).hub = s.hub := rfl
@[simp] theorem State.setRun_board (s : State) (r : Nat) (x : Run) : (s.setRun r x).board = s.board := rfl
@[simp] theorem State.setRun_hostMem (s : State) (r : Nat) (x : Run) : (s.setRun r x).hostMem = s.hostMem := rfl
@[simp] theorem State.setRun_hostReqs (s : State) (r : Nat) (x : Run) : (s.setRun r x).hostReqs = s.hostReqs := rfl
@[simp] theorem State.setRun_msi (s : State) (r : Nat) (x : Run) : (s.setRun r x).msi = s.msi := rfl
@[simp] theorem State.setRun_tx (s : State) (r : Nat) (x : Run) : (s.setRun r x).tx = s.tx := rfl
@[simp] theorem State.setRun_wire (s : State) (r : Nat) (x : Run) : (s.setRun r x).wire = s.wire := rfl
@[simp] theorem State.setRun_busOut (s : State) (r : Nat) (x : Run) : (s.setRun r x).busOut = s.busOut := rfl
@[simp] theorem State.setRun_pmbusOut (s : State) (r : Nat) (x : Run) : (s.setRun r x).pmbusOut = s.pmbusOut := rfl

@[simp] theorem State.hostWrite_pending (s : State) (f : Nat) (r : Bool) (a : Nat) (bs : List Byte) : (s.hostWrite f r a bs).pending = s.pending := rfl
@[simp] theorem State.hostWrite_fresh (s : State) (f : Nat) (r : Bool) (a : Nat) (bs : List Byte) : (s.hostWrite f r a bs).fresh = s.fresh := rfl
@[simp] theorem State.hostWrite_clk (s : State) (f : Nat) (r : Bool) (a : Nat) (bs : List Byte) : (s.hostWrite f r a bs).clk = s.clk := rfl
@[simp] theorem State.hostWrite_stallTot (s : State) (f : Nat) (r : Bool) (a : Nat) (bs : List Byte) : (s.hostWrite f r a bs).stallTot = s.stallTot := rfl
@[simp] theorem State.hostWrite_tickAt (s : State) (f : Nat) (r : Bool) (a : Nat) (bs : List Byte) : (s.hostWrite f r a bs).tickAt = s.tickAt := rfl
@[simp] theorem State.hostWrite_stalls (s : State) (f : Nat) (r : Bool) (a : Nat) (bs : List Byte) : (s.hostWrite f r a bs).stalls = s.stalls := rfl
@[simp] theorem State.hostWrite_cores (s : State) (f : Nat) (r : Bool) (a : Nat) (bs : List Byte) : (s.hostWrite f r a bs).cores = s.cores := rfl
@[simp] theorem State.hostWrite_ellSaved (s : State) (f : Nat) (r : Bool) (a : Nat) (bs : List Byte) : (s.hostWrite f r a bs).ellSaved = s.ellSaved := rfl
@[simp] theorem State.hostWrite_hg (s : State) (f : Nat) (r : Bool) (a : Nat) (bs : List Byte) : (s.hostWrite f r a bs).hg = s.hg := rfl
@[simp] theorem State.hostWrite_hgRegs (s : State) (f : Nat) (r : Bool) (a : Nat) (bs : List Byte) : (s.hostWrite f r a bs).hgRegs = s.hgRegs := rfl
@[simp] theorem State.hostWrite_syn (s : State) (f : Nat) (r : Bool) (a : Nat) (bs : List Byte) : (s.hostWrite f r a bs).syn = s.syn := rfl
@[simp] theorem State.hostWrite_det (s : State) (f : Nat) (r : Bool) (a : Nat) (bs : List Byte) : (s.hostWrite f r a bs).det = s.det := rfl
@[simp] theorem State.hostWrite_runs (s : State) (f : Nat) (r : Bool) (a : Nat) (bs : List Byte) : (s.hostWrite f r a bs).runs = s.runs := rfl
@[simp] theorem State.hostWrite_nextRun (s : State) (f : Nat) (r : Bool) (a : Nat) (bs : List Byte) : (s.hostWrite f r a bs).nextRun = s.nextRun := rfl
@[simp] theorem State.hostWrite_ctxs (s : State) (f : Nat) (r : Bool) (a : Nat) (bs : List Byte) : (s.hostWrite f r a bs).ctxs = s.ctxs := rfl
@[simp] theorem State.hostWrite_lnk (s : State) (f : Nat) (r : Bool) (a : Nat) (bs : List Byte) : (s.hostWrite f r a bs).lnk = s.lnk := rfl
@[simp] theorem State.hostWrite_chn (s : State) (f : Nat) (r : Bool) (a : Nat) (bs : List Byte) : (s.hostWrite f r a bs).chn = s.chn := rfl
@[simp] theorem State.hostWrite_pwr (s : State) (f : Nat) (r : Bool) (a : Nat) (bs : List Byte) : (s.hostWrite f r a bs).pwr = s.pwr := rfl
@[simp] theorem State.hostWrite_evc (s : State) (f : Nat) (r : Bool) (a : Nat) (bs : List Byte) : (s.hostWrite f r a bs).evc = s.evc := rfl
@[simp] theorem State.hostWrite_ing (s : State) (f : Nat) (r : Bool) (a : Nat) (bs : List Byte) : (s.hostWrite f r a bs).ing = s.ing := rfl
@[simp] theorem State.hostWrite_hub (s : State) (f : Nat) (r : Bool) (a : Nat) (bs : List Byte) : (s.hostWrite f r a bs).hub = s.hub := rfl
@[simp] theorem State.hostWrite_board (s : State) (f : Nat) (r : Bool) (a : Nat) (bs : List Byte) : (s.hostWrite f r a bs).board = s.board := rfl
@[simp] theorem State.hostWrite_hostMem (s : State) (f : Nat) (r : Bool) (a : Nat) (bs : List Byte) : (s.hostWrite f r a bs).hostMem = memWrites s.hostMem a bs := rfl
@[simp] theorem State.hostWrite_hostReqs (s : State) (f : Nat) (r : Bool) (a : Nat) (bs : List Byte) : (s.hostWrite f r a bs).hostReqs = { fn := f, relaxed := r, addr := a, len := bs.length } :: s.hostReqs := rfl
@[simp] theorem State.hostWrite_msi (s : State) (f : Nat) (r : Bool) (a : Nat) (bs : List Byte) : (s.hostWrite f r a bs).msi = s.msi := rfl
@[simp] theorem State.hostWrite_tx (s : State) (f : Nat) (r : Bool) (a : Nat) (bs : List Byte) : (s.hostWrite f r a bs).tx = s.tx := rfl
@[simp] theorem State.hostWrite_wire (s : State) (f : Nat) (r : Bool) (a : Nat) (bs : List Byte) : (s.hostWrite f r a bs).wire = s.wire := rfl
@[simp] theorem State.hostWrite_busOut (s : State) (f : Nat) (r : Bool) (a : Nat) (bs : List Byte) : (s.hostWrite f r a bs).busOut = s.busOut := rfl
@[simp] theorem State.hostWrite_pmbusOut (s : State) (f : Nat) (r : Bool) (a : Nat) (bs : List Byte) : (s.hostWrite f r a bs).pmbusOut = s.pmbusOut := rfl

@[simp] theorem State.setPort_pending (s : State) (p : Nat) (x : Port) : (s.setPort p x).pending = s.pending := rfl
@[simp] theorem State.setPort_fresh (s : State) (p : Nat) (x : Port) : (s.setPort p x).fresh = s.fresh := rfl
@[simp] theorem State.setPort_clk (s : State) (p : Nat) (x : Port) : (s.setPort p x).clk = s.clk := rfl
@[simp] theorem State.setPort_stallTot (s : State) (p : Nat) (x : Port) : (s.setPort p x).stallTot = s.stallTot := rfl
@[simp] theorem State.setPort_tickAt (s : State) (p : Nat) (x : Port) : (s.setPort p x).tickAt = s.tickAt := rfl
@[simp] theorem State.setPort_stalls (s : State) (p : Nat) (x : Port) : (s.setPort p x).stalls = s.stalls := rfl
@[simp] theorem State.setPort_cores (s : State) (p : Nat) (x : Port) : (s.setPort p x).cores = s.cores := rfl
@[simp] theorem State.setPort_ellSaved (s : State) (p : Nat) (x : Port) : (s.setPort p x).ellSaved = s.ellSaved := rfl
@[simp] theorem State.setPort_hg (s : State) (p : Nat) (x : Port) : (s.setPort p x).hg = s.hg := rfl
@[simp] theorem State.setPort_hgRegs (s : State) (p : Nat) (x : Port) : (s.setPort p x).hgRegs = s.hgRegs := rfl
@[simp] theorem State.setPort_syn (s : State) (p : Nat) (x : Port) : (s.setPort p x).syn = s.syn := rfl
@[simp] theorem State.setPort_det (s : State) (p : Nat) (x : Port) : (s.setPort p x).det = s.det := rfl
@[simp] theorem State.setPort_runs (s : State) (p : Nat) (x : Port) : (s.setPort p x).runs = s.runs := rfl
@[simp] theorem State.setPort_nextRun (s : State) (p : Nat) (x : Port) : (s.setPort p x).nextRun = s.nextRun := rfl
@[simp] theorem State.setPort_ctxs (s : State) (p : Nat) (x : Port) : (s.setPort p x).ctxs = s.ctxs := rfl
@[simp] theorem State.setPort_lnk (s : State) (p : Nat) (x : Port) : (s.setPort p x).lnk = { s.lnk with ports := kset s.lnk.ports p x } := rfl
@[simp] theorem State.setPort_chn (s : State) (p : Nat) (x : Port) : (s.setPort p x).chn = s.chn := rfl
@[simp] theorem State.setPort_pwr (s : State) (p : Nat) (x : Port) : (s.setPort p x).pwr = s.pwr := rfl
@[simp] theorem State.setPort_evc (s : State) (p : Nat) (x : Port) : (s.setPort p x).evc = s.evc := rfl
@[simp] theorem State.setPort_ing (s : State) (p : Nat) (x : Port) : (s.setPort p x).ing = s.ing := rfl
@[simp] theorem State.setPort_hub (s : State) (p : Nat) (x : Port) : (s.setPort p x).hub = s.hub := rfl
@[simp] theorem State.setPort_board (s : State) (p : Nat) (x : Port) : (s.setPort p x).board = s.board := rfl
@[simp] theorem State.setPort_hostMem (s : State) (p : Nat) (x : Port) : (s.setPort p x).hostMem = s.hostMem := rfl
@[simp] theorem State.setPort_hostReqs (s : State) (p : Nat) (x : Port) : (s.setPort p x).hostReqs = s.hostReqs := rfl
@[simp] theorem State.setPort_msi (s : State) (p : Nat) (x : Port) : (s.setPort p x).msi = s.msi := rfl
@[simp] theorem State.setPort_tx (s : State) (p : Nat) (x : Port) : (s.setPort p x).tx = s.tx := rfl
@[simp] theorem State.setPort_wire (s : State) (p : Nat) (x : Port) : (s.setPort p x).wire = s.wire := rfl
@[simp] theorem State.setPort_busOut (s : State) (p : Nat) (x : Port) : (s.setPort p x).busOut = s.busOut := rfl
@[simp] theorem State.setPort_pmbusOut (s : State) (p : Nat) (x : Port) : (s.setPort p x).pmbusOut = s.pmbusOut := rfl

@[simp] theorem State.fly_pending (s : State) (f : Flight) : (s.fly f).pending = s.pending := rfl
@[simp] theorem State.fly_fresh (s : State) (f : Flight) : (s.fly f).fresh = s.fresh := rfl
@[simp] theorem State.fly_clk (s : State) (f : Flight) : (s.fly f).clk = s.clk := rfl
@[simp] theorem State.fly_stallTot (s : State) (f : Flight) : (s.fly f).stallTot = s.stallTot := rfl
@[simp] theorem State.fly_tickAt (s : State) (f : Flight) : (s.fly f).tickAt = s.tickAt := rfl
@[simp] theorem State.fly_stalls (s : State) (f : Flight) : (s.fly f).stalls = s.stalls := rfl
@[simp] theorem State.fly_cores (s : State) (f : Flight) : (s.fly f).cores = s.cores := rfl
@[simp] theorem State.fly_ellSaved (s : State) (f : Flight) : (s.fly f).ellSaved = s.ellSaved := rfl
@[simp] theorem State.fly_hg (s : State) (f : Flight) : (s.fly f).hg = s.hg := rfl
@[simp] theorem State.fly_hgRegs (s : State) (f : Flight) : (s.fly f).hgRegs = s.hgRegs := rfl
@[simp] theorem State.fly_syn (s : State) (f : Flight) : (s.fly f).syn = s.syn := rfl
@[simp] theorem State.fly_det (s : State) (f : Flight) : (s.fly f).det = s.det := rfl
@[simp] theorem State.fly_runs (s : State) (f : Flight) : (s.fly f).runs = s.runs := rfl
@[simp] theorem State.fly_nextRun (s : State) (f : Flight) : (s.fly f).nextRun = s.nextRun := rfl
@[simp] theorem State.fly_ctxs (s : State) (f : Flight) : (s.fly f).ctxs = s.ctxs := rfl
@[simp] theorem State.fly_lnk (s : State) (f : Flight) : (s.fly f).lnk = { s.lnk with flights := flightInsert f s.lnk.flights } := rfl
@[simp] theorem State.fly_chn (s : State) (f : Flight) : (s.fly f).chn = s.chn := rfl
@[simp] theorem State.fly_pwr (s : State) (f : Flight) : (s.fly f).pwr = s.pwr := rfl
@[simp] theorem State.fly_evc (s : State) (f : Flight) : (s.fly f).evc = s.evc := rfl
@[simp] theorem State.fly_ing (s : State) (f : Flight) : (s.fly f).ing = s.ing := rfl
@[simp] theorem State.fly_hub (s : State) (f : Flight) : (s.fly f).hub = s.hub := rfl
@[simp] theorem State.fly_board (s : State) (f : Flight) : (s.fly f).board = s.board := rfl
@[simp] theorem State.fly_hostMem (s : State) (f : Flight) : (s.fly f).hostMem = s.hostMem := rfl
@[simp] theorem State.fly_hostReqs (s : State) (f : Flight) : (s.fly f).hostReqs = s.hostReqs := rfl
@[simp] theorem State.fly_msi (s : State) (f : Flight) : (s.fly f).msi = s.msi := rfl
@[simp] theorem State.fly_tx (s : State) (f : Flight) : (s.fly f).tx = s.tx := rfl
@[simp] theorem State.fly_wire (s : State) (f : Flight) : (s.fly f).wire = s.wire := rfl
@[simp] theorem State.fly_busOut (s : State) (f : Flight) : (s.fly f).busOut = s.busOut := rfl
@[simp] theorem State.fly_pmbusOut (s : State) (f : Flight) : (s.fly f).pmbusOut = s.pmbusOut := rfl

@[simp] theorem State.setMp_pending (s : State) (n : Nat) (m : Mp) : (s.setMp n m).pending = s.pending := rfl
@[simp] theorem State.setMp_fresh (s : State) (n : Nat) (m : Mp) : (s.setMp n m).fresh = s.fresh := rfl
@[simp] theorem State.setMp_clk (s : State) (n : Nat) (m : Mp) : (s.setMp n m).clk = s.clk := rfl
@[simp] theorem State.setMp_stallTot (s : State) (n : Nat) (m : Mp) : (s.setMp n m).stallTot = s.stallTot := rfl
@[simp] theorem State.setMp_tickAt (s : State) (n : Nat) (m : Mp) : (s.setMp n m).tickAt = s.tickAt := rfl
@[simp] theorem State.setMp_stalls (s : State) (n : Nat) (m : Mp) : (s.setMp n m).stalls = s.stalls := rfl
@[simp] theorem State.setMp_cores (s : State) (n : Nat) (m : Mp) : (s.setMp n m).cores = s.cores := rfl
@[simp] theorem State.setMp_ellSaved (s : State) (n : Nat) (m : Mp) : (s.setMp n m).ellSaved = s.ellSaved := rfl
@[simp] theorem State.setMp_hg (s : State) (n : Nat) (m : Mp) : (s.setMp n m).hg = s.hg := rfl
@[simp] theorem State.setMp_hgRegs (s : State) (n : Nat) (m : Mp) : (s.setMp n m).hgRegs = s.hgRegs := rfl
@[simp] theorem State.setMp_syn (s : State) (n : Nat) (m : Mp) : (s.setMp n m).syn = s.syn := rfl
@[simp] theorem State.setMp_det (s : State) (n : Nat) (m : Mp) : (s.setMp n m).det = s.det := rfl
@[simp] theorem State.setMp_runs (s : State) (n : Nat) (m : Mp) : (s.setMp n m).runs = s.runs := rfl
@[simp] theorem State.setMp_nextRun (s : State) (n : Nat) (m : Mp) : (s.setMp n m).nextRun = s.nextRun := rfl
@[simp] theorem State.setMp_ctxs (s : State) (n : Nat) (m : Mp) : (s.setMp n m).ctxs = s.ctxs := rfl
@[simp] theorem State.setMp_lnk (s : State) (n : Nat) (m : Mp) : (s.setMp n m).lnk = s.lnk := rfl
@[simp] theorem State.setMp_chn (s : State) (n : Nat) (m : Mp) : (s.setMp n m).chn = s.chn := rfl
@[simp] theorem State.setMp_pwr (s : State) (n : Nat) (m : Mp) : (s.setMp n m).pwr = s.pwr := rfl
@[simp] theorem State.setMp_evc (s : State) (n : Nat) (m : Mp) : (s.setMp n m).evc = { s.evc with mps := kset s.evc.mps n m } := rfl
@[simp] theorem State.setMp_ing (s : State) (n : Nat) (m : Mp) : (s.setMp n m).ing = s.ing := rfl
@[simp] theorem State.setMp_hub (s : State) (n : Nat) (m : Mp) : (s.setMp n m).hub = s.hub := rfl
@[simp] theorem State.setMp_board (s : State) (n : Nat) (m : Mp) : (s.setMp n m).board = s.board := rfl
@[simp] theorem State.setMp_hostMem (s : State) (n : Nat) (m : Mp) : (s.setMp n m).hostMem = s.hostMem := rfl
@[simp] theorem State.setMp_hostReqs (s : State) (n : Nat) (m : Mp) : (s.setMp n m).hostReqs = s.hostReqs := rfl
@[simp] theorem State.setMp_msi (s : State) (n : Nat) (m : Mp) : (s.setMp n m).msi = s.msi := rfl
@[simp] theorem State.setMp_tx (s : State) (n : Nat) (m : Mp) : (s.setMp n m).tx = s.tx := rfl
@[simp] theorem State.setMp_wire (s : State) (n : Nat) (m : Mp) : (s.setMp n m).wire = s.wire := rfl
@[simp] theorem State.setMp_busOut (s : State) (n : Nat) (m : Mp) : (s.setMp n m).busOut = s.busOut := rfl
@[simp] theorem State.setMp_pmbusOut (s : State) (n : Nat) (m : Mp) : (s.setMp n m).pmbusOut = s.pmbusOut := rfl

@[simp] theorem State.ingEvent_pending (s : State) (b : Byte) : (s.ingEvent b).pending = s.pending := rfl
@[simp] theorem State.ingEvent_fresh (s : State) (b : Byte) : (s.ingEvent b).fresh = s.fresh := rfl
@[simp] theorem State.ingEvent_clk (s : State) (b : Byte) : (s.ingEvent b).clk = s.clk := rfl
@[simp] theorem State.ingEvent_stallTot (s : State) (b : Byte) : (s.ingEvent b).stallTot = s.stallTot := rfl
@[simp] theorem State.ingEvent_tickAt (s : State) (b : Byte) : (s.ingEvent b).tickAt = s.tickAt := rfl
@[simp] theorem State.ingEvent_stalls (s : State) (b : Byte) : (s.ingEvent b).stalls = s.stalls := rfl
@[simp] theorem State.ingEvent_cores (s : State) (b : Byte) : (s.ingEvent b).cores = s.cores := rfl
@[simp] theorem State.ingEvent_ellSaved (s : State) (b : Byte) : (s.ingEvent b).ellSaved = s.ellSaved := rfl
@[simp] theorem State.ingEvent_hg (s : State) (b : Byte) : (s.ingEvent b).hg = s.hg := rfl
@[simp] theorem State.ingEvent_hgRegs (s : State) (b : Byte) : (s.ingEvent b).hgRegs = s.hgRegs := rfl
@[simp] theorem State.ingEvent_syn (s : State) (b : Byte) : (s.ingEvent b).syn = s.syn := rfl
@[simp] theorem State.ingEvent_det (s : State) (b : Byte) : (s.ingEvent b).det = s.det := rfl
@[simp] theorem State.ingEvent_runs (s : State) (b : Byte) : (s.ingEvent b).runs = s.runs := rfl
@[simp] theorem State.ingEvent_nextRun (s : State) (b : Byte) : (s.ingEvent b).nextRun = s.nextRun := rfl
@[simp] theorem State.ingEvent_ctxs (s : State) (b : Byte) : (s.ingEvent b).ctxs = s.ctxs := rfl
@[simp] theorem State.ingEvent_lnk (s : State) (b : Byte) : (s.ingEvent b).lnk = s.lnk := rfl
@[simp] theorem State.ingEvent_chn (s : State) (b : Byte) : (s.ingEvent b).chn = s.chn := rfl
@[simp] theorem State.ingEvent_pwr (s : State) (b : Byte) : (s.ingEvent b).pwr = s.pwr := rfl
@[simp] theorem State.ingEvent_evc (s : State) (b : Byte) : (s.ingEvent b).evc = s.evc := rfl
@[simp] theorem State.ingEvent_ing (s : State) (b : Byte) : (s.ingEvent b).ing = { s.ing with event := s.ing.event ||| b } := rfl
@[simp] theorem State.ingEvent_hub (s : State) (b : Byte) : (s.ingEvent b).hub = s.hub := rfl
@[simp] theorem State.ingEvent_board (s : State) (b : Byte) : (s.ingEvent b).board = s.board := rfl
@[simp] theorem State.ingEvent_hostMem (s : State) (b : Byte) : (s.ingEvent b).hostMem = s.hostMem := rfl
@[simp] theorem State.ingEvent_hostReqs (s : State) (b : Byte) : (s.ingEvent b).hostReqs = s.hostReqs := rfl
@[simp] theorem State.ingEvent_msi (s : State) (b : Byte) : (s.ingEvent b).msi = s.msi := rfl
@[simp] theorem State.ingEvent_tx (s : State) (b : Byte) : (s.ingEvent b).tx = s.tx := rfl
@[simp] theorem State.ingEvent_wire (s : State) (b : Byte) : (s.ingEvent b).wire = s.wire := rfl
@[simp] theorem State.ingEvent_busOut (s : State) (b : Byte) : (s.ingEvent b).busOut = s.busOut := rfl
@[simp] theorem State.ingEvent_pmbusOut (s : State) (b : Byte) : (s.ingEvent b).pmbusOut = s.pmbusOut := rfl

@[simp] theorem State.needCal_pending (s : State)  : (s.needCal).pending = s.pending := rfl
@[simp] theorem State.needCal_fresh (s : State)  : (s.needCal).fresh = s.fresh := rfl
@[simp] theorem State.needCal_clk (s : State)  : (s.needCal).clk = s.clk := rfl
@[simp] theorem State.needCal_stallTot (s : State)  : (s.needCal).stallTot = s.stallTot := rfl
@[simp] theorem State.needCal_tickAt (s : State)  : (s.needCal).tickAt = s.tickAt := rfl
@[simp] theorem State.needCal_stalls (s : State)  : (s.needCal).stalls = s.stalls := rfl
@[simp] theorem State.needCal_cores (s : State)  : (s.needCal).cores = s.cores := rfl
@[simp] theorem State.needCal_ellSaved (s : State)  : (s.needCal).ellSaved = s.ellSaved := rfl
@[simp] theorem State.needCal_hg (s : State)  : (s.needCal).hg = s.hg := rfl
@[simp] theorem State.needCal_hgRegs (s : State)  : (s.needCal).hgRegs = s.hgRegs := rfl
@[simp] theorem State.needCal_syn (s : State)  : (s.needCal).syn = s.syn := rfl
@[simp] theorem State.needCal_det (s : State)  : (s.needCal).det = s.det := rfl
@[simp] theorem State.needCal_runs (s : State)  : (s.needCal).runs = s.runs := rfl
@[simp] theorem State.needCal_nextRun (s : State)  : (s.needCal).nextRun = s.nextRun := rfl
@[simp] theorem State.needCal_ctxs (s : State)  : (s.needCal).ctxs = s.ctxs := rfl
@[simp] theorem State.needCal_lnk (s : State)  : (s.needCal).lnk = s.lnk := rfl
@[simp] theorem State.needCal_chn (s : State)  : (s.needCal).chn = s.chn := rfl
@[simp] theorem State.needCal_pwr (s : State)  : (s.needCal).pwr = { s.pwr with calDue := true, xcal := [] } := rfl
@[simp] theorem State.needCal_evc (s : State)  : (s.needCal).evc = s.evc := rfl
@[simp] theorem State.needCal_ing (s : State)  : (s.needCal).ing = s.ing := rfl
@[simp] theorem State.needCal_hub (s : State)  : (s.needCal).hub = { s.hub with ready := false } := rfl
@[simp] theorem State.needCal_board (s : State)  : (s.needCal).board = s.board := rfl
@[simp] theorem State.needCal_hostMem (s : State)  : (s.needCal).hostMem = s.hostMem := rfl
@[simp] theorem State.needCal_hostReqs (s : State)  : (s.needCal).hostReqs = s.hostReqs := rfl
@[simp] theorem State.needCal_msi (s : State)  : (s.needCal).msi = s.msi := rfl
@[simp] theorem State.needCal_tx (s : State)  : (s.needCal).tx = s.tx := rfl
@[simp] theorem State.needCal_wire (s : State)  : (s.needCal).wire = s.wire := rfl
@[simp] theorem State.needCal_busOut (s : State)  : (s.needCal).busOut = s.busOut := rfl
@[simp] theorem State.needCal_pmbusOut (s : State)  : (s.needCal).pmbusOut = s.pmbusOut := rfl

@[simp] theorem Core.later_sregs (k : Core) (n : Nat) (b : Bool) (t : Target) : (k.later n b t).sregs = k.sregs := rfl
@[simp] theorem Core.later_vregs (k : Core) (n : Nat) (b : Bool) (t : Target) : (k.later n b t).vregs = k.vregs := rfl
@[simp] theorem Core.later_pendW (k : Core) (n : Nat) (b : Bool) (t : Target) : (k.later n b t).pendW = pendInsert { cyc := k.scyc + n, issued := k.scyc, late := b, tgt := t } k.pendW := rfl
@[simp] theorem Core.later_pc (k : Core) (n : Nat) (b : Bool) (t : Target) : (k.later n b t).pc = k.pc := rfl
@[simp] theorem Core.later_scyc (k : Core) (n : Nat) (b : Bool) (t : Target) : (k.later n b t).scyc = k.scyc := rfl
@[simp] theorem Core.later_ell (k : Core) (n : Nat) (b : Bool) (t : Target) : (k.later n b t).ell = k.ell := rfl
@[simp] theorem Core.later_ctl (k : Core) (n : Nat) (b : Bool) (t : Target) : (k.later n b t).ctl = k.ctl := rfl
@[simp] theorem Core.later_loops (k : Core) (n : Nat) (b : Bool) (t : Target) : (k.later n b t).loops = k.loops := rfl
@[simp] theorem Core.later_frozen (k : Core) (n : Nat) (b : Bool) (t : Target) : (k.later n b t).frozen = k.frozen := rfl
@[simp] theorem Core.later_inHandler (k : Core) (n : Nat) (b : Bool) (t : Target) : (k.later n b t).inHandler = k.inHandler := rfl
@[simp] theorem Core.later_asyncQ (k : Core) (n : Nat) (b : Bool) (t : Target) : (k.later n b t).asyncQ = k.asyncQ := rfl
@[simp] theorem Core.later_hold (k : Core) (n : Nat) (b : Bool) (t : Target) : (k.later n b t).hold = k.hold := rfl
@[simp] theorem Core.later_waitQ (k : Core) (n : Nat) (b : Bool) (t : Target) : (k.later n b t).waitQ = k.waitQ := rfl
@[simp] theorem Core.later_halted (k : Core) (n : Nat) (b : Bool) (t : Target) : (k.later n b t).halted = k.halted := rfl
@[simp] theorem Core.later_fatalRec (k : Core) (n : Nat) (b : Bool) (t : Target) : (k.later n b t).fatalRec = k.fatalRec := rfl
@[simp] theorem Core.later_tpar (k : Core) (n : Nat) (b : Bool) (t : Target) : (k.later n b t).tpar = k.tpar := rfl
@[simp] theorem Core.later_descs (k : Core) (n : Nat) (b : Bool) (t : Target) : (k.later n b t).descs = k.descs := rfl
@[simp] theorem Core.later_arr (k : Core) (n : Nat) (b : Bool) (t : Target) : (k.later n b t).arr = k.arr := rfl
@[simp] theorem Core.later_eng (k : Core) (n : Nat) (b : Bool) (t : Target) : (k.later n b t).eng = k.eng := rfl
@[simp] theorem Core.later_banks (k : Core) (n : Nat) (b : Bool) (t : Target) : (k.later n b t).banks = k.banks := rfl
@[simp] theorem Core.later_bankQ (k : Core) (n : Nat) (b : Bool) (t : Target) : (k.later n b t).bankQ = k.bankQ := rfl
@[simp] theorem Core.later_dig (k : Core) (n : Nat) (b : Bool) (t : Target) : (k.later n b t).dig = k.dig := rfl
@[simp] theorem Core.later_imem (k : Core) (n : Nat) (b : Bool) (t : Target) : (k.later n b t).imem = k.imem := rfl
@[simp] theorem Core.later_starts (k : Core) (n : Nat) (b : Bool) (t : Target) : (k.later n b t).starts = k.starts := rfl
@[simp] theorem Core.later_segLen (k : Core) (n : Nat) (b : Bool) (t : Target) : (k.later n b t).segLen = k.segLen := rfl
@[simp] theorem Core.later_dmem (k : Core) (n : Nat) (b : Bool) (t : Target) : (k.later n b t).dmem = k.dmem := rfl
@[simp] theorem Core.later_spad (k : Core) (n : Nat) (b : Bool) (t : Target) : (k.later n b t).spad = k.spad := rfl
@[simp] theorem Core.later_spadQ (k : Core) (n : Nat) (b : Bool) (t : Target) : (k.later n b t).spadQ = k.spadQ := rfl
@[simp] theorem Core.later_accs (k : Core) (n : Nat) (b : Bool) (t : Target) : (k.later n b t).accs = k.accs := rfl
@[simp] theorem Core.later_strat (k : Core) (n : Nat) (b : Bool) (t : Target) : (k.later n b t).strat = k.strat := rfl
@[simp] theorem Core.later_ecc (k : Core) (n : Nat) (b : Bool) (t : Target) : (k.later n b t).ecc = k.ecc := rfl
@[simp] theorem Core.later_eccRegs (k : Core) (n : Nat) (b : Bool) (t : Target) : (k.later n b t).eccRegs = k.eccRegs := rfl
@[simp] theorem Core.later_pools (k : Core) (n : Nat) (b : Bool) (t : Target) : (k.later n b t).pools = k.pools := rfl
@[simp] theorem Core.later_streams (k : Core) (n : Nat) (b : Bool) (t : Target) : (k.later n b t).streams = k.streams := rfl
@[simp] theorem Core.later_outArr (k : Core) (n : Nat) (b : Bool) (t : Target) : (k.later n b t).outArr = k.outArr := rfl
@[simp] theorem Core.later_available (k : Core) (n : Nat) (b : Bool) (t : Target) : (k.later n b t).available = k.available := rfl
@[simp] theorem Core.later_scrubBusy (k : Core) (n : Nat) (b : Bool) (t : Target) : (k.later n b t).scrubBusy = k.scrubBusy := rfl
@[simp] theorem Core.later_owner (k : Core) (n : Nat) (b : Bool) (t : Target) : (k.later n b t).owner = k.owner := rfl
@[simp] theorem Core.later_run (k : Core) (n : Nat) (b : Bool) (t : Target) : (k.later n b t).run = k.run := rfl
@[simp] theorem Core.later_preempted (k : Core) (n : Nat) (b : Bool) (t : Target) : (k.later n b t).preempted = k.preempted := rfl
@[simp] theorem Core.later_resetDue (k : Core) (n : Nat) (b : Bool) (t : Target) : (k.later n b t).resetDue = k.resetDue := rfl
@[simp] theorem Core.later_patrol (k : Core) (n : Nat) (b : Bool) (t : Target) : (k.later n b t).patrol = k.patrol := rfl

@[simp] theorem Core.modEll_sregs (k : Core) (f : EllSt → EllSt) : (k.modEll f).sregs = k.sregs := rfl
@[simp] theorem Core.modEll_vregs (k : Core) (f : EllSt → EllSt) : (k.modEll f).vregs = k.vregs := rfl
@[simp] theorem Core.modEll_pendW (k : Core) (f : EllSt → EllSt) : (k.modEll f).pendW = k.pendW := rfl
@[simp] theorem Core.modEll_pc (k : Core) (f : EllSt → EllSt) : (k.modEll f).pc = k.pc := rfl
@[simp] theorem Core.modEll_scyc (k : Core) (f : EllSt → EllSt) : (k.modEll f).scyc = k.scyc := rfl
@[simp] theorem Core.modEll_ell (k : Core) (f : EllSt → EllSt) : (k.modEll f).ell = k.ell.map f := rfl
@[simp] theorem Core.modEll_ctl (k : Core) (f : EllSt → EllSt) : (k.modEll f).ctl = k.ctl := rfl
@[simp] theorem Core.modEll_loops (k : Core) (f : EllSt → EllSt) : (k.modEll f).loops = k.loops := rfl
@[simp] theorem Core.modEll_frozen (k : Core) (f : EllSt → EllSt) : (k.modEll f).frozen = k.frozen := rfl
@[simp] theorem Core.modEll_inHandler (k : Core) (f : EllSt → EllSt) : (k.modEll f).inHandler = k.inHandler := rfl
@[simp] theorem Core.modEll_asyncQ (k : Core) (f : EllSt → EllSt) : (k.modEll f).asyncQ = k.asyncQ := rfl
@[simp] theorem Core.modEll_hold (k : Core) (f : EllSt → EllSt) : (k.modEll f).hold = k.hold := rfl
@[simp] theorem Core.modEll_waitQ (k : Core) (f : EllSt → EllSt) : (k.modEll f).waitQ = k.waitQ := rfl
@[simp] theorem Core.modEll_halted (k : Core) (f : EllSt → EllSt) : (k.modEll f).halted = k.halted := rfl
@[simp] theorem Core.modEll_fatalRec (k : Core) (f : EllSt → EllSt) : (k.modEll f).fatalRec = k.fatalRec := rfl
@[simp] theorem Core.modEll_tpar (k : Core) (f : EllSt → EllSt) : (k.modEll f).tpar = k.tpar := rfl
@[simp] theorem Core.modEll_descs (k : Core) (f : EllSt → EllSt) : (k.modEll f).descs = k.descs := rfl
@[simp] theorem Core.modEll_arr (k : Core) (f : EllSt → EllSt) : (k.modEll f).arr = k.arr := rfl
@[simp] theorem Core.modEll_eng (k : Core) (f : EllSt → EllSt) : (k.modEll f).eng = k.eng := rfl
@[simp] theorem Core.modEll_banks (k : Core) (f : EllSt → EllSt) : (k.modEll f).banks = k.banks := rfl
@[simp] theorem Core.modEll_bankQ (k : Core) (f : EllSt → EllSt) : (k.modEll f).bankQ = k.bankQ := rfl
@[simp] theorem Core.modEll_dig (k : Core) (f : EllSt → EllSt) : (k.modEll f).dig = k.dig := rfl
@[simp] theorem Core.modEll_imem (k : Core) (f : EllSt → EllSt) : (k.modEll f).imem = k.imem := rfl
@[simp] theorem Core.modEll_starts (k : Core) (f : EllSt → EllSt) : (k.modEll f).starts = k.starts := rfl
@[simp] theorem Core.modEll_segLen (k : Core) (f : EllSt → EllSt) : (k.modEll f).segLen = k.segLen := rfl
@[simp] theorem Core.modEll_dmem (k : Core) (f : EllSt → EllSt) : (k.modEll f).dmem = k.dmem := rfl
@[simp] theorem Core.modEll_spad (k : Core) (f : EllSt → EllSt) : (k.modEll f).spad = k.spad := rfl
@[simp] theorem Core.modEll_spadQ (k : Core) (f : EllSt → EllSt) : (k.modEll f).spadQ = k.spadQ := rfl
@[simp] theorem Core.modEll_accs (k : Core) (f : EllSt → EllSt) : (k.modEll f).accs = k.accs := rfl
@[simp] theorem Core.modEll_strat (k : Core) (f : EllSt → EllSt) : (k.modEll f).strat = k.strat := rfl
@[simp] theorem Core.modEll_ecc (k : Core) (f : EllSt → EllSt) : (k.modEll f).ecc = k.ecc := rfl
@[simp] theorem Core.modEll_eccRegs (k : Core) (f : EllSt → EllSt) : (k.modEll f).eccRegs = k.eccRegs := rfl
@[simp] theorem Core.modEll_pools (k : Core) (f : EllSt → EllSt) : (k.modEll f).pools = k.pools := rfl
@[simp] theorem Core.modEll_streams (k : Core) (f : EllSt → EllSt) : (k.modEll f).streams = k.streams := rfl
@[simp] theorem Core.modEll_outArr (k : Core) (f : EllSt → EllSt) : (k.modEll f).outArr = k.outArr := rfl
@[simp] theorem Core.modEll_available (k : Core) (f : EllSt → EllSt) : (k.modEll f).available = k.available := rfl
@[simp] theorem Core.modEll_scrubBusy (k : Core) (f : EllSt → EllSt) : (k.modEll f).scrubBusy = k.scrubBusy := rfl
@[simp] theorem Core.modEll_owner (k : Core) (f : EllSt → EllSt) : (k.modEll f).owner = k.owner := rfl
@[simp] theorem Core.modEll_run (k : Core) (f : EllSt → EllSt) : (k.modEll f).run = k.run := rfl
@[simp] theorem Core.modEll_preempted (k : Core) (f : EllSt → EllSt) : (k.modEll f).preempted = k.preempted := rfl
@[simp] theorem Core.modEll_resetDue (k : Core) (f : EllSt → EllSt) : (k.modEll f).resetDue = k.resetDue := rfl
@[simp] theorem Core.modEll_patrol (k : Core) (f : EllSt → EllSt) : (k.modEll f).patrol = k.patrol := rfl

@[simp] theorem Core.noteRead_sregs (k : Core) (m : MemKind) (a n : Nat) : (k.noteRead m a n).sregs = k.sregs := rfl
@[simp] theorem Core.noteRead_vregs (k : Core) (m : MemKind) (a n : Nat) : (k.noteRead m a n).vregs = k.vregs := rfl
@[simp] theorem Core.noteRead_pendW (k : Core) (m : MemKind) (a n : Nat) : (k.noteRead m a n).pendW = k.pendW := rfl
@[simp] theorem Core.noteRead_pc (k : Core) (m : MemKind) (a n : Nat) : (k.noteRead m a n).pc = k.pc := rfl
@[simp] theorem Core.noteRead_scyc (k : Core) (m : MemKind) (a n : Nat) : (k.noteRead m a n).scyc = k.scyc := rfl
@[simp] theorem Core.noteRead_ell (k : Core) (m : MemKind) (a n : Nat) : (k.noteRead m a n).ell = k.ell := rfl
@[simp] theorem Core.noteRead_ctl (k : Core) (m : MemKind) (a n : Nat) : (k.noteRead m a n).ctl = k.ctl := rfl
@[simp] theorem Core.noteRead_loops (k : Core) (m : MemKind) (a n : Nat) : (k.noteRead m a n).loops = k.loops := rfl
@[simp] theorem Core.noteRead_frozen (k : Core) (m : MemKind) (a n : Nat) : (k.noteRead m a n).frozen = k.frozen := rfl
@[simp] theorem Core.noteRead_inHandler (k : Core) (m : MemKind) (a n : Nat) : (k.noteRead m a n).inHandler = k.inHandler := rfl
@[simp] theorem Core.noteRead_asyncQ (k : Core) (m : MemKind) (a n : Nat) : (k.noteRead m a n).asyncQ = k.asyncQ := rfl
@[simp] theorem Core.noteRead_hold (k : Core) (m : MemKind) (a n : Nat) : (k.noteRead m a n).hold = k.hold := rfl
@[simp] theorem Core.noteRead_waitQ (k : Core) (m : MemKind) (a n : Nat) : (k.noteRead m a n).waitQ = k.waitQ := rfl
@[simp] theorem Core.noteRead_halted (k : Core) (m : MemKind) (a n : Nat) : (k.noteRead m a n).halted = k.halted := rfl
@[simp] theorem Core.noteRead_fatalRec (k : Core) (m : MemKind) (a n : Nat) : (k.noteRead m a n).fatalRec = k.fatalRec := rfl
@[simp] theorem Core.noteRead_tpar (k : Core) (m : MemKind) (a n : Nat) : (k.noteRead m a n).tpar = k.tpar := rfl
@[simp] theorem Core.noteRead_descs (k : Core) (m : MemKind) (a n : Nat) : (k.noteRead m a n).descs = k.descs := rfl
@[simp] theorem Core.noteRead_arr (k : Core) (m : MemKind) (a n : Nat) : (k.noteRead m a n).arr = k.arr := rfl
@[simp] theorem Core.noteRead_eng (k : Core) (m : MemKind) (a n : Nat) : (k.noteRead m a n).eng = k.eng := rfl
@[simp] theorem Core.noteRead_banks (k : Core) (m : MemKind) (a n : Nat) : (k.noteRead m a n).banks = k.banks := rfl
@[simp] theorem Core.noteRead_bankQ (k : Core) (m : MemKind) (a n : Nat) : (k.noteRead m a n).bankQ = k.bankQ := rfl
@[simp] theorem Core.noteRead_dig (k : Core) (m : MemKind) (a n : Nat) : (k.noteRead m a n).dig = k.dig := rfl
@[simp] theorem Core.noteRead_imem (k : Core) (m : MemKind) (a n : Nat) : (k.noteRead m a n).imem = k.imem := rfl
@[simp] theorem Core.noteRead_starts (k : Core) (m : MemKind) (a n : Nat) : (k.noteRead m a n).starts = k.starts := rfl
@[simp] theorem Core.noteRead_segLen (k : Core) (m : MemKind) (a n : Nat) : (k.noteRead m a n).segLen = k.segLen := rfl
@[simp] theorem Core.noteRead_dmem (k : Core) (m : MemKind) (a n : Nat) : (k.noteRead m a n).dmem = k.dmem := rfl
@[simp] theorem Core.noteRead_spad (k : Core) (m : MemKind) (a n : Nat) : (k.noteRead m a n).spad = k.spad := rfl
@[simp] theorem Core.noteRead_spadQ (k : Core) (m : MemKind) (a n : Nat) : (k.noteRead m a n).spadQ = k.spadQ := rfl
@[simp] theorem Core.noteRead_accs (k : Core) (m : MemKind) (a n : Nat) : (k.noteRead m a n).accs = k.accs := rfl
@[simp] theorem Core.noteRead_strat (k : Core) (m : MemKind) (a n : Nat) : (k.noteRead m a n).strat = k.strat := rfl
@[simp] theorem Core.noteRead_ecc (k : Core) (m : MemKind) (a n : Nat) : (k.noteRead m a n).ecc = k.ecc := rfl
@[simp] theorem Core.noteRead_eccRegs (k : Core) (m : MemKind) (a n : Nat) : (k.noteRead m a n).eccRegs = (k.ceWords m a n).foldl (fun g w => g.countCe m w) k.eccRegs := rfl
@[simp] theorem Core.noteRead_pools (k : Core) (m : MemKind) (a n : Nat) : (k.noteRead m a n).pools = k.pools := rfl
@[simp] theorem Core.noteRead_streams (k : Core) (m : MemKind) (a n : Nat) : (k.noteRead m a n).streams = k.streams := rfl
@[simp] theorem Core.noteRead_outArr (k : Core) (m : MemKind) (a n : Nat) : (k.noteRead m a n).outArr = k.outArr := rfl
@[simp] theorem Core.noteRead_available (k : Core) (m : MemKind) (a n : Nat) : (k.noteRead m a n).available = k.available := rfl
@[simp] theorem Core.noteRead_scrubBusy (k : Core) (m : MemKind) (a n : Nat) : (k.noteRead m a n).scrubBusy = k.scrubBusy := rfl
@[simp] theorem Core.noteRead_owner (k : Core) (m : MemKind) (a n : Nat) : (k.noteRead m a n).owner = k.owner := rfl
@[simp] theorem Core.noteRead_run (k : Core) (m : MemKind) (a n : Nat) : (k.noteRead m a n).run = k.run := rfl
@[simp] theorem Core.noteRead_preempted (k : Core) (m : MemKind) (a n : Nat) : (k.noteRead m a n).preempted = k.preempted := rfl
@[simp] theorem Core.noteRead_resetDue (k : Core) (m : MemKind) (a n : Nat) : (k.noteRead m a n).resetDue = k.resetDue := rfl
@[simp] theorem Core.noteRead_patrol (k : Core) (m : MemKind) (a n : Nat) : (k.noteRead m a n).patrol = k.patrol := rfl

@[simp] theorem Core.noteFetch_sregs (k : Core) (n : Nat) : (k.noteFetch n).sregs = k.sregs := rfl
@[simp] theorem Core.noteFetch_vregs (k : Core) (n : Nat) : (k.noteFetch n).vregs = k.vregs := rfl
@[simp] theorem Core.noteFetch_pendW (k : Core) (n : Nat) : (k.noteFetch n).pendW = k.pendW := rfl
@[simp] theorem Core.noteFetch_pc (k : Core) (n : Nat) : (k.noteFetch n).pc = k.pc := rfl
@[simp] theorem Core.noteFetch_scyc (k : Core) (n : Nat) : (k.noteFetch n).scyc = k.scyc := rfl
@[simp] theorem Core.noteFetch_ell (k : Core) (n : Nat) : (k.noteFetch n).ell = k.ell := rfl
@[simp] theorem Core.noteFetch_ctl (k : Core) (n : Nat) : (k.noteFetch n).ctl = k.ctl := rfl
@[simp] theorem Core.noteFetch_loops (k : Core) (n : Nat) : (k.noteFetch n).loops = k.loops := rfl
@[simp] theorem Core.noteFetch_frozen (k : Core) (n : Nat) : (k.noteFetch n).frozen = k.frozen := rfl
@[simp] theorem Core.noteFetch_inHandler (k : Core) (n : Nat) : (k.noteFetch n).inHandler = k.inHandler := rfl
@[simp] theorem Core.noteFetch_asyncQ (k : Core) (n : Nat) : (k.noteFetch n).asyncQ = k.asyncQ := rfl
@[simp] theorem Core.noteFetch_hold (k : Core) (n : Nat) : (k.noteFetch n).hold = k.hold := rfl
@[simp] theorem Core.noteFetch_waitQ (k : Core) (n : Nat) : (k.noteFetch n).waitQ = k.waitQ := rfl
@[simp] theorem Core.noteFetch_halted (k : Core) (n : Nat) : (k.noteFetch n).halted = k.halted := rfl
@[simp] theorem Core.noteFetch_fatalRec (k : Core) (n : Nat) : (k.noteFetch n).fatalRec = k.fatalRec := rfl
@[simp] theorem Core.noteFetch_tpar (k : Core) (n : Nat) : (k.noteFetch n).tpar = k.tpar := rfl
@[simp] theorem Core.noteFetch_descs (k : Core) (n : Nat) : (k.noteFetch n).descs = k.descs := rfl
@[simp] theorem Core.noteFetch_arr (k : Core) (n : Nat) : (k.noteFetch n).arr = k.arr := rfl
@[simp] theorem Core.noteFetch_eng (k : Core) (n : Nat) : (k.noteFetch n).eng = k.eng := rfl
@[simp] theorem Core.noteFetch_banks (k : Core) (n : Nat) : (k.noteFetch n).banks = k.banks := rfl
@[simp] theorem Core.noteFetch_bankQ (k : Core) (n : Nat) : (k.noteFetch n).bankQ = k.bankQ := rfl
@[simp] theorem Core.noteFetch_dig (k : Core) (n : Nat) : (k.noteFetch n).dig = k.dig := rfl
@[simp] theorem Core.noteFetch_imem (k : Core) (n : Nat) : (k.noteFetch n).imem = k.imem := rfl
@[simp] theorem Core.noteFetch_starts (k : Core) (n : Nat) : (k.noteFetch n).starts = k.starts := rfl
@[simp] theorem Core.noteFetch_segLen (k : Core) (n : Nat) : (k.noteFetch n).segLen = k.segLen := rfl
@[simp] theorem Core.noteFetch_dmem (k : Core) (n : Nat) : (k.noteFetch n).dmem = k.dmem := rfl
@[simp] theorem Core.noteFetch_spad (k : Core) (n : Nat) : (k.noteFetch n).spad = k.spad := rfl
@[simp] theorem Core.noteFetch_spadQ (k : Core) (n : Nat) : (k.noteFetch n).spadQ = k.spadQ := rfl
@[simp] theorem Core.noteFetch_accs (k : Core) (n : Nat) : (k.noteFetch n).accs = k.accs := rfl
@[simp] theorem Core.noteFetch_strat (k : Core) (n : Nat) : (k.noteFetch n).strat = k.strat := rfl
@[simp] theorem Core.noteFetch_ecc (k : Core) (n : Nat) : (k.noteFetch n).ecc = k.ecc := rfl
@[simp] theorem Core.noteFetch_pools (k : Core) (n : Nat) : (k.noteFetch n).pools = k.pools := rfl
@[simp] theorem Core.noteFetch_streams (k : Core) (n : Nat) : (k.noteFetch n).streams = k.streams := rfl
@[simp] theorem Core.noteFetch_outArr (k : Core) (n : Nat) : (k.noteFetch n).outArr = k.outArr := rfl
@[simp] theorem Core.noteFetch_available (k : Core) (n : Nat) : (k.noteFetch n).available = k.available := rfl
@[simp] theorem Core.noteFetch_scrubBusy (k : Core) (n : Nat) : (k.noteFetch n).scrubBusy = k.scrubBusy := rfl
@[simp] theorem Core.noteFetch_owner (k : Core) (n : Nat) : (k.noteFetch n).owner = k.owner := rfl
@[simp] theorem Core.noteFetch_run (k : Core) (n : Nat) : (k.noteFetch n).run = k.run := rfl
@[simp] theorem Core.noteFetch_preempted (k : Core) (n : Nat) : (k.noteFetch n).preempted = k.preempted := rfl
@[simp] theorem Core.noteFetch_resetDue (k : Core) (n : Nat) : (k.noteFetch n).resetDue = k.resetDue := rfl
@[simp] theorem Core.noteFetch_patrol (k : Core) (n : Nat) : (k.noteFetch n).patrol = k.patrol := rfl

/-- A core's memory and error marks as it stands: reading them counts, and changes nothing else. -/
theorem Core.noteRead_self (k : Core) (m : MemKind) (a n : Nat) (h : k.ceWords m a n = []) : k.noteRead m a n = k := by
  simp [Core.noteRead, h]
end Sys2Proof.Machine
end

