-- ==== Sys2Proof/Laws/Tables.lean ====
section
/-!
SUPPORT. Laws of sparse tables: a read after a write, and what writes and removals of one key leave.
-/

namespace Sys2Proof.Machine

variable {α : Type}

@[simp] theorem kfind_nil (k : Nat) : kfind ([] : KMap α) k = none := rfl

@[simp] theorem kget_nil (d : α) (k : Nat) : kget d [] k = d := rfl

theorem kget_eq_kfind (d : α) (m : KMap α) (k : Nat) : kget d m k = (kfind m k).getD d := by
  induction m with
  | nil => rfl
  | cons p m ih =>
    obtain ⟨j, w⟩ := p
    simp only [kget, kfind]
    split <;> simp [ih]

/-- A key reads as it was written. -/
@[simp] theorem kfind_kset_self (m : KMap α) (k : Nat) (v : α) : kfind (kset m k v) k = some v := by
  induction m with
  | nil => simp [kset, kfind]
  | cons p m ih =>
    obtain ⟨j, w⟩ := p
    simp only [kset]
    split
    · simp [kfind]
    · split
      · simp [kfind]
      · rename_i h1 h2
        simp [kfind, ih, Ne.symm h2]

/-- Every other key reads as before. -/
theorem kfind_kset_ne (m : KMap α) {k j : Nat} (v : α) (h : j ≠ k) : kfind (kset m k v) j = kfind m j := by
  induction m with
  | nil => simp [kset, kfind, Ne.symm h]
  | cons p m ih =>
    obtain ⟨i, w⟩ := p
    simp only [kset]
    split
    · simp [kfind, Ne.symm h]
    · split
      · rename_i h2
        subst h2
        simp [kfind, Ne.symm h]
      · simp [kfind, ih]

@[simp] theorem kget_kset_self (d : α) (m : KMap α) (k : Nat) (v : α) : kget d (kset m k v) k = v := by
  simp [kget_eq_kfind]

theorem kget_kset_ne (d : α) (m : KMap α) {k j : Nat} (v : α) (h : j ≠ k) : kget d (kset m k v) j = kget d m j := by
  simp [kget_eq_kfind, kfind_kset_ne m v h]

/-- Of two writes of one key the second stands. -/
@[simp] theorem kset_kset (m : KMap α) (k : Nat) (v w : α) : kset (kset m k v) k w = kset m k w := by
  induction m with
  | nil => simp [kset]
  | cons p m ih =>
    obtain ⟨j, x⟩ := p
    simp only [kset]
    split
    · simp [kset]
    · split
      · simp [kset]
      · rename_i h1 h2
        simp [kset, h1, h2, ih]

/-- A key that was absent, written and removed leaves the table as it was. -/
theorem kdel_kset (m : KMap α) (k : Nat) (v : α) (h : kfind m k = none) : kdel (kset m k v) k = m := by
  induction m with
  | nil => simp [kset, kdel]
  | cons p m ih =>
    obtain ⟨j, x⟩ := p
    simp only [kfind] at h
    split at h
    · simp at h
    · rename_i hj
      simp only [kset]
      split
      · simp [kdel]
      · split
        · rename_i h2
          exact absurd h2.symm hj
        · simp [kdel, hj, ih h]

/-- A predicate that holds of every value and of a new one holds after a write. -/
theorem all_kset {p : Nat × α → Bool} (m : KMap α) (k : Nat) (v : α) (hm : m.all p = true) (hv : p (k, v) = true) :
    (kset m k v).all p = true := by
  induction m with
  | nil => simp [kset, hv]
  | cons q m ih =>
    obtain ⟨j, x⟩ := q
    simp only [List.all_cons, Bool.and_eq_true] at hm
    simp only [kset]
    split
    · simp [hv, hm.1, hm.2]
    · split
      · simp [hv, hm.2]
      · simp [hm.1, ih hm.2]

/-- A value found satisfies what every value of the table satisfies. -/
theorem all_kget {p : Nat × α → Bool} {q : α → Bool} (hpq : ∀ x, p x = q x.2) (m : KMap α) (d : α) (k : Nat)
    (hm : m.all p = true) (hd : q d = true) : q (kget d m k) = true := by
  induction m with
  | nil => simpa [kget] using hd
  | cons x m ih =>
    obtain ⟨j, w⟩ := x
    simp only [List.all_cons, Bool.and_eq_true, hpq] at hm
    simp only [kget]
    split
    · exact hm.1
    · exact ih (by simpa [List.all_eq_true, hpq] using hm.2)

theorem all_kmap {p : Nat × α → Bool} (f : Nat → α → α) (m : KMap α) (hm : m.all p = true)
    (hf : ∀ j w, p (j, w) = true → p (j, f j w) = true) : (kmap f m).all p = true := by
  induction m with
  | nil => simp [kmap]
  | cons x m ih =>
    obtain ⟨j, w⟩ := x
    simp only [List.all_cons, Bool.and_eq_true] at hm
    simp [kmap, hf j w hm.1, ih hm.2]

theorem all_kdel {p : Nat × α → Bool} (m : KMap α) (k : Nat) (hm : m.all p = true) : (kdel m k).all p = true := by
  induction m with
  | nil => simp [kdel]
  | cons x m ih =>
    obtain ⟨j, w⟩ := x
    simp only [List.all_cons, Bool.and_eq_true] at hm
    simp only [kdel]
    split
    · exact hm.2
    · simp [hm.1, ih hm.2]

end Sys2Proof.Machine
end

