-- ==== Sys2Proof/Laws/Slots.lean ====
section
/-!
SUPPORT. Laws of the issue of an ell: what a slot that is alone in its ell does, once for every slot.
-/

namespace Sys2Proof.Machine

@[simp] theorem State.core_setCore (s : State) (c : Nat) (k : Core) : (s.setCore c k).core c = k := by
  simp [State.core]

theorem State.core_setCore_ne (s : State) {c d : Nat} (k : Core) (h : d ≠ c) : (s.setCore c k).core d = s.core d := by
  simp [State.core, kget_kset_ne _ _ _ h]

@[simp] theorem State.setCore_setCore (s : State) (c : Nat) (k l : Core) : (s.setCore c k).setCore c l = s.setCore c l := by
  simp [State.setCore]

/-- The ell that a lone slot of number `n` and `par` parcels opens. -/
def EllSt.lone (n par : Nat) : EllSt := { EllSt.new with slots := BitVec.ofNat 6 (2 ^ n), parcels := 1 + par }

/-- The state in which the first slot of a ready core's ell issues. -/
def State.opened (s : State) (c n par : Nat) : State :=
  { s.setCore c { (s.seen c) with ell := some (EllSt.lone n par) } with ellSaved := kset s.ellSaved c (s.core c) }

@[simp] theorem State.opened_core (s : State) (c n par : Nat) :
    (s.opened c n par).core c = { (s.seen c) with ell := some (EllSt.lone n par) } := by
  show kget Core.reset (kset _ _ _) _ = _
  simp

theorem State.gate_ready {s : State} {c n par : Nat} {full : Core → Bool} (h : s.ready c par full) :
    s.gate c n par full = .go (s.opened c n par) := by
  obtain ⟨h1, h2, h3, -⟩ := h
  have ho : s.openEll c par (BitVec.ofNat 6 (2 ^ n)) full = s.opened c n par := by
    simp only [State.openEll, h3]; rfl
  simp [-BitVec.ofNat_pow, State.gate, h1, h2, ho, Core.ellOpen, EllSt.lone, EllSt.new]

/-- A slot alone in its ell: where nothing of it is illegal, its effect is that on the opened state, and the ell closes. -/
theorem State.slotP_ready {s : State} {c n par post : Nat} {full : Core → Bool} {p : BitVec 4}
    {chk : State → Option Cause} {f : State → State} (h : s.ready c par full) (hp : p.toNat = post)
    (hc : chk (s.opened c n par) = none) :
    s.slotP c n par full (.last p) chk f = .next ((f (s.opened c n par)).endEll c post) := by
  simp [State.slotP, State.gate_ready h, hc, Core.ellSound, EllSt.lone, EllSt.new, State.endSlot, hp]

/-- The end of an ell that issues, with no violation, uncorrectable read, HALT or TRAP in it. -/
theorem State.endEll_issued {s : State} {c post : Nat} {k : Core} {e : EllSt} (hk : s.core c = k) (he : k.ell = some e)
    (hb : e.block = none) (hc : e.causes = []) (hv : e.viols = 0) (hd : e.dues = []) (hh : e.halt = false)
    (hw : e.swtrap = none) :
    s.endEll c post = { s.setCore c ((k.noteFetch e.parcels).closeEll e post) with ellSaved := kdel s.ellSaved c } := by
  simp [State.endEll, hk, he, hb, hc, hv, hd, hh, hw, State.violations, State.uncorrectables]

theorem Core.closeEll_plain (k : Core) (n par post : Nat) :
    (k.noteFetch (1 + par)).closeEll (EllSt.lone n par) post = k.fallThrough (1 + par) post := rfl

/-- The state after a lone slot's ell has closed with core `k`. -/
theorem State.endEll_plain {s : State} {c n par post : Nat} {k : Core} (hs : kfind s.ellSaved c = none)
    (hk : k.ell = some (EllSt.lone n par)) :
    ((s.opened c n par).setCore c k).endEll c post = s.setCore c (k.fallThrough (1 + par) post) := by
  rw [State.endEll_issued (State.core_setCore _ _ _) hk rfl rfl rfl rfl rfl rfl]
  show _ = s.setCore c (k.fallThrough (1 + par) post)
  rw [← Core.closeEll_plain k n par post]
  simp [State.opened, State.setCore, kdel_kset _ _ _ hs, EllSt.lone]

/-- A lone slot whose effect is on its core alone and leaves the ell as it is. -/
theorem State.slotP_core {s : State} {c n par : Nat} {full : Core → Bool} {p : BitVec 4} {chk : State → Option Cause}
    {f : Core → Core} (h : s.ready c par full) (hc : chk (s.opened c n par) = none)
    (he : ∀ k : Core, (f k).ell = k.ell) :
    s.slotP c n par full (.last p) chk (fun s => s.modCore c f) =
      .next (s.setCore c
        ((f { s.seen c with ell := some (EllSt.lone n par) }).fallThrough (1 + par) p.toNat)) := by
  rw [State.slotP_ready h rfl hc]
  simp only [State.modCore, State.opened_core]
  rw [State.endEll_plain h.2.2.2 (he _)]

/-- A lone slot with a precise cause: its ell does not issue, and the cause is taken on the core as it stood. -/
theorem State.slotP_cause {s : State} {c n par : Nat} {full : Core → Bool} {p : BitVec 4} {chk : State → Option Cause}
    {f : State → State} {x : Cause} (h : s.ready c par full) (hc : chk (s.opened c n par) = some x) :
    s.slotP c n par full (.last p) chk f = .next ((s.setCore c ((s.core c).noteFetch (1 + par))).precise c x) := by
  have hx : kdel (kset s.ellSaved c (s.core c)) c = s.ellSaved := kdel_kset _ _ _ h.2.2.2
  simp only [State.slotP, State.gate_ready h, hc, State.endSlot, State.endEll, State.modCore, State.opened_core,
    State.core_setCore, Core.modEll, Option.map_some, EllSt.lone, EllSt.new, List.nil_append, lowestCause,
    List.foldl_nil, State.undoEll, State.setCore_ellSaved]
  have hy : ∀ k : Core, { ((s.opened c n par).setCore c k).setCore c (s.core c) with ellSaved := s.ellSaved } =
      s.setCore c (s.core c) := by
    intro k; simp [State.opened, State.setCore]
  simp only [State.opened, kfind_kset_self, hx] at hy ⊢
  rw [hy]
  simp

theorem State.openEll_core {s : State} {c n par : Nat} {full : Core → Bool} {b : Block}
    (hb : s.openBlock c par full = some b) :
    (s.openEll c par (BitVec.ofNat 6 (2 ^ n)) full).core c =
      { s.seen c with ell := some { EllSt.lone n par with block := some b } } := by
  unfold State.openEll
  rw [hb]
  exact kget_kset_self _ _ _ _

/-- The ell that a lone slot opens where something keeps it from issuing. -/
theorem State.slotP_blocked {s : State} {c n par : Nat} {full : Core → Bool} {p : BitVec 4} {chk : State → Option Cause}
    {f : State → State} {b : Block} (hh : s.hasCore c = true) (he : (s.core c).ell = none)
    (hb : s.openBlock c par full = some b) :
    s.slotP c n par full (.last p) chk f =
      .next ((s.openEll c par (BitVec.ofNat 6 (2 ^ n)) full).endEll c p.toNat) := by
  have hk := State.openEll_core (n := n) hb
  simp [-BitVec.ofNat_pow, State.slotP, State.gate, hh, he, hk, Core.ellOpen, State.endSlot]

/-- A core that is held, stalled or not issuing: nothing issues. -/
theorem State.slotP_held {s : State} {c n par : Nat} {full : Core → Bool} {p : BitVec 4} {chk : State → Option Cause}
    {f : State → State} (hh : s.hasCore c = true) (he : (s.core c).ell = none) (hs : kfind s.ellSaved c = none)
    (hb : s.openBlock c par full = some .held) :
    s.slotP c n par full (.last p) chk f = .next (s.setCore c (s.core c)) := by
  have hx : kdel (kset s.ellSaved c (s.core c)) c = s.ellSaved := kdel_kset _ _ _ hs
  have hk := State.openEll_core (n := n) hb
  rw [State.slotP_blocked hh he hb]
  simp only [State.endEll, hk, State.undoEll]
  simp [State.openEll, State.setCore, hx]

/-- A full queue: the core waits for it. -/
theorem State.slotP_full {s : State} {c n par : Nat} {full : Core → Bool} {p : BitVec 4} {chk : State → Option Cause}
    {f : State → State} (hh : s.hasCore c = true) (he : (s.core c).ell = none) (hs : kfind s.ellSaved c = none)
    (hb : s.openBlock c par full = some .full) :
    s.slotP c n par full (.last p) chk f = .next (s.setCore c { s.core c with waitQ := true }) := by
  have hx : kdel (kset s.ellSaved c (s.core c)) c = s.ellSaved := kdel_kset _ _ _ hs
  have hk := State.openEll_core (n := n) hb
  rw [State.slotP_blocked hh he hb]
  simp only [State.endEll, hk, State.undoEll]
  simp only [State.core] at hx
  simp [State.openEll, State.setCore, State.modCore, State.core, hx]

end Sys2Proof.Machine
end

