-- ==== Sys2Proof/WellFormed.lean ====
section
/-!
DEFINITION. Which commands are well formed: the units they name are units that some grade of the module has.
-/

namespace Sys2Proof

/-- A logical core of a grade A module (00 R2). -/
def okCore (c : Nat) : Bool := decide (c < 576)

/-- A port (09 R253). -/
def okPort (p : Nat) : Bool := decide (p < 32)

/-- A physical flag (08 R213). -/
def okFlag (n : Nat) : Bool := decide (n < 8192)

/-- A physical barrier (08 R224). -/
def okBarrier (n : Nat) : Bool := decide (n < 512)

/-- A hogshead die (07 R197). -/
def okDie (d : Nat) : Bool := decide (d < 2)

/-- A hogshead channel (07 R197). -/
def okChannel (h : Nat) : Bool := decide (h < 16)

/-- A function, 0 the PF and 1 to 512 the VFs (13 R342). -/
def okFn (f : Nat) : Bool := decide (f ≤ 512)

/-- An event source (13 R371). -/
def okSource (n : Nat) : Bool := decide (n < 1024)

/-- A management processor (13 R375). -/
def okMp (n : Nat) : Bool := decide (n < 4)

/-- A resident copy (14 R397). -/
def okCopy (n : Nat) : Bool := decide (n < 64)

/-- A region of hogshead named in lines of 64 bytes (07 R209). -/
def okRegion (off len : Nat) : Bool := decide (off + len ≤ 2147483648) && decide (0 < len)

/-- A codeword of 256 symbols (09 R254). -/
def okCodeword (xs : List (BitVec 10)) : Bool := decide (xs.length = 256)

/-- The units a command names exist. Values that the device itself checks are not restricted here. -/
def WellFormed (i : Instr) : Bool :=
  match i with
  | .emptyEll c _ => okCore c
  | .add c _ _ _ _ => okCore c
  | .sub c _ _ _ _ => okCore c
  | .and c _ _ _ _ => okCore c
  | .or c _ _ _ _ => okCore c
  | .xor c _ _ _ _ => okCore c
  | .shl c _ _ _ _ => okCore c
  | .shr c _ _ _ _ => okCore c
  | .sra c _ _ _ _ => okCore c
  | .slt c _ _ _ _ => okCore c
  | .sltu c _ _ _ _ => okCore c
  | .mul c _ _ _ _ => okCore c
  | .mulh c _ _ _ _ => okCore c
  | .mulhu c _ _ _ _ => okCore c
  | .min c _ _ _ _ => okCore c
  | .max c _ _ _ _ => okCore c
  | .addi c _ _ _ _ => okCore c
  | .andi c _ _ _ _ => okCore c
  | .ori c _ _ _ _ => okCore c
  | .xori c _ _ _ _ => okCore c
  | .shli c _ _ _ _ => okCore c
  | .shri c _ _ _ _ => okCore c
  | .srai c _ _ _ _ => okCore c
  | .lui c _ _ _ => okCore c
  | .lw c _ _ _ _ => okCore c
  | .lbu c _ _ _ _ => okCore c
  | .sw c _ _ _ _ => okCore c
  | .sb c _ _ _ _ => okCore c
  | .beq c _ _ _ _ => okCore c
  | .bne c _ _ _ _ => okCore c
  | .blt c _ _ _ _ => okCore c
  | .bge c _ _ _ _ => okCore c
  | .bltu c _ _ _ _ => okCore c
  | .bgeu c _ _ _ _ => okCore c
  | .jal c _ _ _ => okCore c
  | .jalr c _ _ _ _ => okCore c
  | .loop c _ _ _ _ => okCore c
  | .lidx c _ _ _ => okCore c
  | .crr c _ _ _ => okCore c
  | .crw c _ _ _ => okCore c
  | .crs c _ _ _ => okCore c
  | .crc c _ _ _ => okCore c
  | .tpw c _ _ _ _ => okCore c
  | .trap c _ _ => okCore c
  | .eret c _ => okCore c
  | .halt c _ => okCore c
  | .tile c _ _ _ _ _ _ _ _ _ => okCore c
  | .sload c _ _ _ _ _ => okCore c
  | .swap c _ => okCore c
  | .mstream c _ _ _ _ _ _ _ _ _ => okCore c
  | .tileStart c => okCore c
  | .backgroundLoadStart c => okCore c
  | .swapEffect c => okCore c
  | .mstreamStart c => okCore c
  | .resultColumn c => okCore c
  | .ldv c _ _ _ _ _ => okCore c
  | .lds c _ _ _ => okCore c
  | .ldb c _ _ _ _ _ => okCore c
  | .dwr c _ _ _ _ => okCore c
  | .dadd c _ _ _ => okCore c
  | .stv c _ _ _ _ _ => okCore c
  | .sts c _ _ _ => okCore c
  | .stb c _ _ _ _ _ => okCore c
  | .engineOpStart c _ _ _ => okCore c
  | .vadd c _ _ _ _ _ => okCore c
  | .vsub c _ _ _ _ _ => okCore c
  | .vmul c _ _ _ _ _ => okCore c
  | .vfma c _ _ _ _ _ _ => okCore c
  | .vdiv c _ _ _ _ _ => okCore c
  | .vmin c _ _ _ _ _ => okCore c
  | .vmax c _ _ _ _ _ => okCore c
  | .vcmp c _ _ _ _ _ _ => okCore c
  | .vsel c _ _ _ _ _ _ => okCore c
  | .vand c _ _ _ _ => okCore c
  | .vor c _ _ _ _ => okCore c
  | .vxor c _ _ _ _ => okCore c
  | .vmov c _ _ _ => okCore c
  | .vsplat c _ _ _ => okCore c
  | .viota c _ _ _ => okCore c
  | .viadd c _ _ _ _ => okCore c
  | .vrecip c _ _ _ _ => okCore c
  | .vsqrt c _ _ _ _ => okCore c
  | .vrsqrt c _ _ _ _ => okCore c
  | .vexp2 c _ _ _ _ => okCore c
  | .vlog2 c _ _ _ _ => okCore c
  | .vtanh c _ _ _ _ => okCore c
  | .vsigm c _ _ _ _ => okCore c
  | .verf c _ _ _ _ => okCore c
  | .vsinp c _ _ _ _ => okCore c
  | .vcosp c _ _ _ _ => okCore c
  | .vphase c _ _ _ _ _ => okCore c
  | .vrot c _ _ _ _ _ _ => okCore c
  | .vcvt c _ _ _ _ _ _ _ => okCore c
  | .vmxq c _ _ _ _ _ => okCore c
  | .vpack c _ _ _ _ => okCore c
  | .vunpk c _ _ _ _ => okCore c
  | .vrmax c _ _ _ _ => okCore c
  | .vrmin c _ _ _ _ => okCore c
  | .vramax c _ _ _ _ => okCore c
  | .vaclr c _ _ _ => okCore c
  | .vacc c _ _ _ _ => okCore c
  | .vrsum c _ _ _ _ _ => okCore c
  | .vacsum c _ _ => okCore c
  | .vacsumBankWrite c _ => okCore c
  | .vacvt c _ _ _ _ _ _ _ => okCore c
  | .vrq c _ _ => okCore c
  | .fset c _ _ => okCore c
  | .fclr c _ _ => okCore c
  | .fwait c _ _ _ _ => okCore c
  | .fwaitWake c => okCore c
  | .barr c _ _ _ => okCore c
  | .digest c _ => okCore c
  | .fence c _ _ => okCore c
  | .fenceRelease c => okCore c
  | .event c _ _ => okCore c
  | .ftest c _ _ _ => okCore c
  | .flagViewUpdate flag c => okFlag flag && okCore c
  | .barrierArrival bar => okBarrier bar
  | .barrierRelease bar => okBarrier bar
  | .digestHandover c => okCore c
  | .layerDigestPost _ _ => true
  | .deadlock _ => true
  | .objectBreak _ => true
  | .trapEntry c => okCore c
  | .hogsheadReissue c die chan _ _ => okCore c && okDie die && okChannel chan
  | .hogsheadRefresh die chan _ => okDie die && okChannel chan
  | .stratumPatrol c _ => okCore c
  | .hogsheadPatrol die _ => okDie die
  | .coreScrub c => okCore c
  | .scrubComplete c => okCore c
  | .regionScrub die off len => okDie die && okRegion off len
  | .regionScrubComplete die _ => okDie die
  | .start c _ => okCore c
  | .creditReturn c _ => okCore c
  | .grainLanding c _ _ => okCore c
  | .syncGrainLanding _ _ => true
  | .grainCollision _ _ _ _ => true
  | .bestEffortInject _ _ => true
  | .grainForward _ => true
  | .fetch _ => true
  | .key _ => true
  | .put _ => true
  | .hubReply _ _ _ => true
  | .codewordReceive port symbols => okPort port && okCodeword symbols
  | .controlGrain port _ => okPort port
  | .synced => true
  | .syncLost _ => true
  | .portGrainReceive port => okPort port
  | .nakReceive port _ => okPort port
  | .resend port => okPort port
  | .portTraining port _ _ _ _ _ _ => okPort port
  | .linkDown port _ => okPort port
  | .chainFull _ => true
  | .ready _ => true
  | .launch _ => true
  | .abort _ => true
  | .pathLost _ => true
  | .step _ => true
  | .breakObjects _ => true
  | .masterListenTimeout => true
  | .coordinationTimeout _ => true
  | .runLaunch _ => true
  | .furlongBoundary _ => true
  | .holdOriginate _ => true
  | .hold port _ => okPort port
  | .periodStretch _ => true
  | .beatStall => true
  | .thermalStepRequest _ => true
  | .stepUpRequest => true
  | .emergencyStall _ => true
  | .emergencyStallEnd _ => true
  | .thermalTrip => true
  | .powerStateEntry => true
  | .powerStateExit => true
  | .hostTarget _ => true
  | .enterOff => true
  | .exitOff => true
  | .pwrNextHiWrite _ => true
  | .crossingCalibration _ => true
  | .mode _ => true
  | .sealLock _ => true
  | .modeChangeApply => true
  | .detCntClear _ => true
  | .detCertData => true
  | .counterLoRead _ => true
  | .rcRead f _ => okFn f
  | .registerWrite f _ _ => okFn f
  | .enable _ => true
  | .bridgeTimeout _ => true
  | .portEnable port _ => okPort port
  | .retrain port => okPort port
  | .loopback port _ => okPort port
  | .maint port _ => okPort port
  | .lnkCoreLoop _ => true
  | .sqTail f _ => okFn f
  | .cqHead f _ => okFn f
  | .eqHead f _ => okFn f
  | .dqHead f _ => okFn f
  | .ringsEn f _ => okFn f
  | .ctxIrqAck f _ => okFn f
  | .ctxIrqTest f _ => okFn f
  | .evcHack _ => true
  | .evcSwset _ _ => true
  | .evcTgt src _ => okSource src
  | .sourcePending src => okSource src
  | .withdrawn src => okSource src
  | .delivery _ => true
  | .entrySequence mp => okMp mp
  | .exitSequence mp => okMp mp
  | .nop f _ => okFn f
  | .tunLoad f _ _ => okFn f
  | .tunUnload f _ => okFn f
  | .run f _ => okFn f
  | .request f _ => okFn f
  | .cancel f _ => okFn f
  | .stoneLoad f _ _ => okFn f
  | .stoneUnmap f _ => okFn f
  | .grant f _ => okFn f
  | .revokeGrant f _ => okFn f
  | .ctxKill f _ => okFn f
  | .preempt f _ => okFn f
  | .resume f _ _ => okFn f
  | .pmOptin f _ _ => okFn f
  | .debugConsent f _ => okFn f
  | .release f _ => okFn f
  | .runAdmission _ => true
  | .runComplete _ => true
  | .requestEligible _ _ _ => true
  | .stoneResident copy => okCopy copy
  | .stratumRewrite copy _ hg unit _ => okCopy copy && (if hg then decide (unit < 2) else okCore unit)
  | .program => true
  | .revoke => true
  | .ingAnchorData _ => true
  | .ingRevokeData _ => true
  | .revokeAdd => true
  | .dutySplitApply => true
  | .hubDumpBaseWrite _ _ => true
  | .hubResetCold => true
  | .hubResetWarm => true
  | .hubCoreReset _ => true
  | .stage _ => true
  | .activate => true
  | .raiseFloor => true
  | .fwCancel => true
  | .firmwareActivation => true
  | .trialTimeout => true
  | .hubRepairReq _ => true
  | .repairApply => true
  | .coldReset _ _ => true
  | .warmReset => true
  | .pfFunctionLevelReset => true
  | .contextReset f => okFn f
  | .fatalError _ => true
  | .mpWatchdog => true
  | .pllUnlock => true
  | .railFault => true
  | .inputExcursion => true
  | .inputSupply => true
  | .loadLoss => true
  | .malformedTlp _ => true
  | .capability => true
  | .statusWord => true
  | .statusInput _ => true
  | .statusTemperature _ => true
  | .statusCml _ => true
  | .readVin => true
  | .readIin => true
  | .readPin => true
  | .readTemperature1 => true
  | .readTemperature2 => true
  | .readTemperature3 => true
  | .mfrStepCap _ => true
  | .mfrState => true
  | .unsupportedCommand _ _ => true
  | .bypass _ => true
  | .idcode => true
  | .samplePreload _ => true
  | .extest _ => true
  | .chainTick _ => true
  | .vfEnable _ _ => true
  | .trialOk => true

end Sys2Proof
end

