-- ==== Sys2Proof/Tests/Slice0.lean ====
section
/-!
SUPPORT. Tests: an ill-formed term for each check of WellFormed; for every statement with hypotheses a state and operands
that meet them, clause by clause; and single commands on a small state with results worked out from the spec.
-/

namespace Sys2Proof.Tests

set_option Elab.async false

open Sys2Proof.Machine Sys2Proof.Claims

/-! Ill-formed terms, each beside its last well-formed neighbour. -/

theorem test_wf_core : WellFormed (.swapEffect 575) = true ∧ WellFormed (.swapEffect 576) = false ∧
    WellFormed (.add 576 .more 1 2 3) = false := by decide

theorem test_wf_port : WellFormed (.resend 31) = true ∧ WellFormed (.resend 32) = false := by decide

theorem test_wf_flag : WellFormed (.flagViewUpdate 8191 0) = true ∧ WellFormed (.flagViewUpdate 8192 0) = false ∧
    WellFormed (.flagViewUpdate 0 576) = false := by decide

theorem test_wf_barrier : WellFormed (.barrierArrival 511) = true ∧ WellFormed (.barrierArrival 512) = false := by decide

theorem test_wf_hogshead : WellFormed (.hogsheadRefresh 1 15 0) = true ∧ WellFormed (.hogsheadRefresh 2 15 0) = false ∧
    WellFormed (.hogsheadRefresh 1 16 0) = false := by decide

theorem test_wf_region : WellFormed (.regionScrub 0 2147483647 1) = true ∧ WellFormed (.regionScrub 0 2147483647 2) = false ∧
    WellFormed (.regionScrub 0 0 0) = false ∧ WellFormed (.regionScrub 2 0 1) = false := by decide

theorem test_wf_codeword : WellFormed (.codewordReceive 0 (List.replicate 256 0)) = true ∧
    WellFormed (.codewordReceive 0 (List.replicate 255 0)) = false := by decide +kernel

theorem test_wf_function : WellFormed (.ringsEn 512 1) = true ∧ WellFormed (.ringsEn 513 1) = false ∧
    WellFormed (.contextReset 513) = false := by decide

theorem test_wf_source : WellFormed (.evcTgt 1023 0) = true ∧ WellFormed (.evcTgt 1024 0) = false := by decide

theorem test_wf_mp : WellFormed (.entrySequence 3) = true ∧ WellFormed (.entrySequence 4) = false := by decide

theorem test_wf_copy : WellFormed (.stoneResident 63) = true ∧ WellFormed (.stoneResident 64) = false ∧
    WellFormed (.stratumRewrite 0 [] true 1 0) = true ∧ WellFormed (.stratumRewrite 0 [] true 2 0) = false ∧
    WellFormed (.stratumRewrite 0 [] false 576 0) = false := by decide +kernel

/-! A small state: core 0 in active run 0 of context 0. -/

def tun0 : Tun :=
  { modeReq := 0, freqStep := 3, furlongN := 16, holdFrames := 0, slack := 0, participants := [0], digestPoints := 0,
    rows := 1, slotPeriod := 0, features := 0, hgMask0 := 0, hgMask1 := 0, stoneId := 0, progHash := 0, numHash := 0,
    placeHash := 0, sealedOk := false, sections := [] }

def run0 : Run :=
  { ctx := 0, cmd := { id := 1, head := 1 }, job := 7, handle := 1, tun := tun0, launchFld := 0, cl := some 0,
    launched := some 0, manAddr := 0, manLen := 0, nreq := 0, refAddr := 0, gate := none, phase := .active, mode := 0,
    sealAdm := false, coreDetail := false, openFeat := 0, lnchStep := 3, counts := RunCounts.zero, digests := [],
    compare := false, mismatch := false, reqs := [], furlong := 0, exts := [], startF := 0, stallK := 0, holdsSent := 0,
    endStatus := none, endExit := false, stepAt := none, preempt := none, handed := [], detourAt := none, seqNext := 0,
    posted := 0, readyAt := none, fw := (false, 0, 0), opens := [(0, 0)], exempt := 0, lateBy := 0, openAt := 0, hubMark := (0, 0), dlSince := none }

def core0 : Core :=
  { Core.reset with
    run := some 0, owner := some 0, starts := [0, 3, 6, 9, 20, 40], segLen := 60, scyc := 100
    sregs := [(1, 5), (2, 0xFFFFFFF0), (3, 7), (4, 40), (5, 0x80000000)], ctl := { CtlRegs.reset with trapVec := 40 } }

def st0 : State := { State.reset with cores := [(0, core0)], runs := [(0, run0)], nextRun := 1 }

/-- The small state with another core 0, another run 0. -/
def withCore (k : Core) : State := { st0 with cores := [(0, k)] }

def withRun (x : Run) : State := { st0 with runs := [(0, x)] }

/-- The small state with no run. -/
def idle : State := { st0 with runs := [], cores := [(0, { core0 with run := none, owner := none })] }

/-- The end of an ell with POST 2, and the slots of an open ell with a load slot. -/
abbrev p2 : EllEnd := .last 2

def openEll : EllSt :=
  { slots := 8, parcels := 4, block := none, causes := [], target := none, penalty := 0, link := none, loop := none,
    swtrap := none, eret := false, halt := false, dues := [], viols := 0 }

/-! What each statement assumes, clause by clause. -/

theorem wit_StepRunsFrontCommand : st0.pending = [] := by decide

theorem ready0 : st0.ready 0 0 noQueue ∧ st0.ready 0 2 noQueue ∧ st0.ready 0 3 noQueue := by
  unfold State.ready; decide +kernel

theorem wit_ScalarResults :
    scalarResult (.add 0 p2 6 1 2) = some (0, p2, 6, 1, fun k => k.s 1 + k.s 2) ∧
    (scalarResult (.shli 0 p2 6 1 31)).isSome = true ∧ (scalarResult (.shli 0 p2 6 1 32)).isNone = true ∧
    (scalarResult (.lidx 0 p2 6 3)).isSome = true ∧ st0.ready 0 2 noQueue :=
  ⟨rfl, rfl, rfl, rfl, ready0.2.1⟩

theorem wit_WritesSeenAfterLatency : core0.pendW = [] ∧ (1 : BitVec 5) ≠ 0 ∧ (3 < 4 ∨ (3 = 4 ∧ false = false ∧ true = true)) ∧
    (3 < 3 ∨ (3 = 3 ∧ false = false ∧ true = true)) := by decide

theorem wit_SlotsComplete :
    slotOf (.ldv 576 p2 1 2 3 4) = some (576, 3, p2) ∧ st0.hasCore 576 = false ∧
    (let s := withCore { core0 with ell := some openEll }
     s.hasCore 0 = true ∧ (s.core 0).ell = some openEll ∧ 2 ^ 3 ≤ openEll.slots.toNat ∧
       slotOf (.ldv 0 p2 1 2 3 4) = some (0, 3, p2) ∧ slotOf (.stv 0 .more 1 2 3 4) = some (0, 4, .more) ∧
       openEll.slots.toNat < 2 ^ 4) ∧
    st0.hasCore 0 = true ∧ (st0.core 0).ell = none := by decide +kernel

theorem wit_HeldCoreIssuesNothing :
    (let s := { st0 with pwr := { Pwr.reset with standing := [.therm] } }
     s.hasCore 0 = true ∧ (s.core 0).ell = none ∧ kfind s.ellSaved 0 = none ∧ s.stalled = true) ∧
    (let s := withCore { core0 with halted := true }
     s.hasCore 0 = true ∧ (s.core 0).ell = none ∧ kfind s.ellSaved 0 = none ∧ s.issuing 0 = false) ∧
    (let s := withCore { core0 with hold := .fence 1 99 }
     s.hasCore 0 = true ∧ (s.core 0).ell = none ∧ kfind s.ellSaved 0 = none ∧ (s.core 0).asyncQ = [] ∧
       (s.core 0).hold ≠ .free) := by decide +kernel

theorem wit_EmptyEll : st0.ready 0 0 noQueue := ready0.1

def matOp0 : MatOp :=
  { kind := .swap, issued := 90, behind := false, tp := 0, n := 0, cs := 0, mask := 0, start := true, final := true,
    outv := true, sd := core0.operand 0, td := core0.operand 0, od := core0.operand 0, epoch := 0 }

def engOp0 : EngOp :=
  { kind := .stv, issued := 90, src := core0.operand 0, dst := core0.operand 0, row := 0, reg := 1, bank := 0, data := 0x11,
    epoch := 0 }

def fullQueues : State :=
  withCore { core0 with
    arr := { ArrayState.reset with queue := [matOp0, matOp0] }
    eng := { EngState.reset with loadQ := List.replicate 8 engOp0, storeQ := List.replicate 8 engOp0 } }

theorem wit_FullQueueHolds :
    slotOf (.swap 0 p2) = some (0, 2, p2) ∧ slotOf (.lds 0 p2 1 2) = some (0, 3, p2) ∧
    slotOf (.stb 0 p2 1 2 3 0) = some (0, 4, p2) ∧ fullQueues.ready 0 3 noQueue ∧
    2 ≤ (fullQueues.core 0).arr.queue.length ∧ 8 ≤ (fullQueues.core 0).eng.loadQ.length ∧
    8 ≤ (fullQueues.core 0).eng.storeQ.length ∧
    (∀ h rs w, Instr.lds 0 p2 1 2 ≠ .dwr 0 p2 h rs w) ∧ (∀ h rs, Instr.lds 0 p2 1 2 ≠ .dadd 0 p2 h rs) := by
  refine ⟨rfl, rfl, rfl, ?_, ?_, ?_, ?_, ?_, ?_⟩
  · unfold State.ready; decide +kernel
  · decide +kernel
  · decide +kernel
  · decide +kernel
  · intro h rs w; exact Instr.noConfusion
  · intro h rs; exact Instr.noConfusion

theorem wit_ReservedEncodingsTrap :
    reserved (.shli 0 p2 1 1 32) = some (0, 0, p2) ∧ reserved (.lidx 0 p2 1 4) = some (0, 0, p2) ∧
    reserved (.crr 0 p2 1 0x0D) = some (0, 0, p2) ∧ reserved (.tpw 0 p2 16 1 2) = some (0, 0, p2) ∧
    reserved (.vadd 0 p2 0xB 1 2 3) = some (0, 1, p2) ∧ reserved (.vphase 0 p2 1 2 3 4) = some (0, 1, p2) ∧
    reserved (.sload 0 p2 0 1 3 0) = some (0, 2, p2) ∧ reserved (.dwr 0 p2 1 2 24) = some (0, 3, p2) ∧
    reserved (.vcvt 0 p2 5 1 1 true 0 true) = some (0, 1, p2) ∧ reserved (.vcvt 0 p2 5 1 0xC true 2 true) = some (0, 1, p2) ∧
    reserved (.vmxq 0 p2 5 2 4 0) = none ∧ reserved (.vmxq 0 p2 0 2 4 0) = some (0, 1, p2) ∧
    reserved (.vacvt 0 p2 0xF 5 1 true true 1) = some (0, 1, p2) ∧ reserved (.vacvt 0 p2 0 5 1 true true 7) = none ∧
    st0.ready 0 2 noQueue ∧ st0.ready 0 3 noQueue ∧ (st0.core 0).arr.queue.length < 2 :=
  ⟨by decide, by decide, by decide, by decide, by decide, by decide, by decide, by decide, by decide, by decide, by decide, by decide,
    by decide, by decide, ready0.2.1, ready0.2.2, by decide⟩

theorem wit_TrapEntry :
    (let k := (st0.core 0).retire (st0.core 0).scyc
     k.ctl.trapVec.toNat < 65536 ∧ k.starts.contains k.ctl.trapVec.toNat = true ∧ k.inHandler = false) ∧
    (let s := withCore { core0 with asyncQ := [{ code := 0x0B, info := 3 }] }
     let k := (s.core 0).retire (s.core 0).scyc
     k.ctl.trapVec.toNat < 65536 ∧ k.starts.contains k.ctl.trapVec.toNat = true ∧
       (s.core 0).asyncQ = [{ code := 0x0B, info := 3 }] ∧ 0 ≤ (s.core 0).scyc ∧ (0x0B : Byte) ≠ 0x09) ∧
    (let s := withCore { core0 with asyncQ := [{ code := 0x0A, info := 3, cyc := 500 }, { code := 0x0B, info := 3, cyc := 90 }] }
     (s.core 0).asyncQ = [{ code := 0x0A, info := 3, cyc := 500 }] ++ { code := 0x0B, info := 3, cyc := 90 } :: [] ∧
       (s.core 0).scyc < 500 ∧ 90 ≤ (s.core 0).scyc) ∧
    (∀ h : Hold, h = .fence 1 99 ∨ h = .barr 5 true 99 →
      (let s := withCore { core0 with asyncQ := [{ code := 0x09, info := 3 }], hold := h }
       let k := (s.core 0).retire (s.core 0).scyc
       k.ctl.trapVec.toNat < 65536 ∧ k.starts.contains k.ctl.trapVec.toNat = true ∧ k.hold = h ∧
         (s.core 0).asyncQ = [{ code := 0x09, info := 3 }] ∧ 0 ≤ (s.core 0).scyc)) := by
  refine ⟨by decide +kernel, by decide +kernel, by decide +kernel, ?_⟩
  rintro h (rfl | rfl) <;> decide +kernel

theorem wit_NoHandlerHalts :
    (let s := withCore { core0 with inHandler := true }
     (s.core 0).asyncQ = [] ∧ (s.core 0).inHandler = true) ∧
    (let s := withCore { core0 with ctl := CtlRegs.reset }
     let k := (s.core 0).retire (s.core 0).scyc
     (s.core 0).asyncQ = [] ∧ 65536 ≤ k.ctl.trapVec.toNat) := by decide +kernel

def handler0 : Core :=
  { core0 with inHandler := true, frozen := some ([LoopLevel.idle], .fence 1 3), ctl := { core0.ctl with trapPc := 20 } }

theorem wit_TrapAndReturn : st0.ready 0 2 noQueue ∧ (st0.core 0).inHandler = false ∧ (withCore handler0).ready 0 2 noQueue ∧
    ((withCore handler0).core 0).frozen = some ([LoopLevel.idle], .fence 1 3) :=
  ⟨ready0.2.1, by decide, by unfold State.ready; decide +kernel, by decide⟩

theorem wit_HaltStopsIssue : st0.ready 0 2 noQueue ∧ (st0.core 0).asyncQ = [] := ⟨ready0.2.1, by decide⟩

def dueData : State := withCore { core0 with ecc := [{ mem := .dmem, word := 0, due := true }] }

theorem wit_DataLoads :
    dataLoad (.lw 0 p2 6 0 0x7FFC) = some (0, p2, 6, 0, 0x7FFC, 4) ∧ dataLoad (.lbu 0 p2 6 0 3) = some (0, p2, 6, 0, 3, 1) ∧
    st0.ready 0 2 noQueue ∧ dueData.ready 0 2 noQueue ∧
    (let a := dataAddr (st0.seen 0) 0 0x7FFC
     a + 4 = 32768 ∧ a % 4 = 0 ∧ (st0.seen 0).dueIn .dmem a 4 = false) ∧
    (let a := dataAddr (dueData.seen 0) 0 3
     a + 1 ≤ 32768 ∧ a % 1 = 0 ∧ (dueData.seen 0).dueIn .dmem a 1 = true) :=
  ⟨rfl, rfl, ready0.2.1, by unfold State.ready; decide +kernel, by decide +kernel, by decide +kernel⟩

theorem wit_DataStores :
    dataStore (.sw 0 p2 6 0 0x7FFC) = some (0, p2, 6, 0, 0x7FFC, 4) ∧ dataStore (.sb 0 p2 6 0 0x7FFF) = some (0, p2, 6, 0, 0x7FFF, 1) ∧
    st0.ready 0 2 noQueue ∧ Mem.wf (st0.core 0).dmem = true ∧
    (let a := dataAddr (st0.seen 0) 0 0x7FFC
     a + 4 ≤ 32768 ∧ a % 4 = 0) ∧
    dataLoad (.lw 0 p2 6 0 0x7FFD) = some (0, p2, 6, 0, 0x7FFD, 4) ∧ 32768 < dataAddr (st0.seen 0) 0 0x7FFD + 4 ∧
    dataStore (.sw 0 p2 6 0 2) = some (0, p2, 6, 0, 2, 4) ∧ dataAddr (st0.seen 0) 0 2 % 4 ≠ 0 :=
  ⟨rfl, rfl, ready0.2.1, by decide, by decide +kernel, rfl, by decide +kernel, rfl, by decide +kernel⟩

/-- An active loop whose body ends at the next ell. -/
def loop0 : LoopLevel := { active := true, index := 0, count := 2, first := 0, last := 0 }

def looping : Core := { core0 with loops := [loop0, LoopLevel.idle, LoopLevel.idle, LoopLevel.idle] }

theorem wit_Branches :
    branch (.beq 0 p2 1 2 20) = some (0, p2, fun k => k.s 1 = k.s 2, 20) ∧
    branch (.blt 0 p2 2 1 20) = some (0, p2, fun k => (k.s 2).toInt < (k.s 1).toInt, 20) ∧ st0.ready 0 2 noQueue ∧
    (st0.seen 0).s 1 ≠ (st0.seen 0).s 2 ∧ ((st0.seen 0).s 2).toInt < ((st0.seen 0).s 1).toInt ∧
    (st0.seen 0).starts.contains (target (st0.seen 0) (20 : BitVec 16).toInt) = true ∧ noBodyEnds (st0.seen 0) ∧
    (st0.seen 0).starts.contains (target (st0.seen 0) (0xFFFF : BitVec 16).toInt) = false ∧
    (withCore looping).ready 0 2 noQueue ∧ ((withCore looping).seen 0).inHandler = false ∧
    ((withCore looping).seen 0).starts.contains (target ((withCore looping).seen 0) (20 : BitVec 16).toInt) = true ∧
    ¬ noBodyEnds ((withCore looping).seen 0) := by
  refine ⟨rfl, rfl, ready0.2.1, ?_, ?_, ?_, ?_, ?_, ?_, ?_, ?_, ?_⟩
  · decide +kernel
  · decide +kernel
  · decide +kernel
  · unfold noBodyEnds; decide +kernel
  · decide +kernel
  · unfold State.ready; decide +kernel
  · decide +kernel
  · decide +kernel
  · unfold noBodyEnds; decide +kernel

theorem wit_Jumps : jumpOf (.jal 0 p2 7 40) = some (0, p2, 7, fun k => target k (40 : BitVec 21).toInt) ∧
    jumpOf (.jalr 0 p2 7 4 1) = some (0, p2, 7, fun k => dataAddr k 4 1) ∧
    st0.ready 0 2 noQueue ∧ noBodyEnds (st0.seen 0) ∧
    (st0.seen 0).starts.contains (target (st0.seen 0) (40 : BitVec 21).toInt) = true ∧
    (st0.seen 0).starts.contains (dataAddr (st0.seen 0) 4 0) = true ∧
    (st0.seen 0).starts.contains (dataAddr (st0.seen 0) 4 1) = false ∧
    (withCore looping).ready 0 2 noQueue ∧ ((withCore looping).seen 0).inHandler = false ∧
    ((withCore looping).seen 0).starts.contains (target ((withCore looping).seen 0) (40 : BitVec 21).toInt) = true ∧
    ¬ noBodyEnds ((withCore looping).seen 0) :=
  ⟨rfl, rfl, ready0.2.1, by unfold noBodyEnds; decide +kernel, by decide +kernel, by decide +kernel, by decide +kernel,
    by unfold State.ready; decide +kernel, by decide +kernel, by decide +kernel, by unfold noBodyEnds; decide +kernel⟩

/-- A loop of level 0 whose body ends six parcels on. -/
def around : Core := { core0 with
  loops := [{ loop0 with last := 6 }, LoopLevel.idle, LoopLevel.idle, LoopLevel.idle] }

theorem wit_Loops :
    (let k := st0.seen 0
     st0.ready 0 2 noQueue ∧ (0 : BitVec 5).toNat < 4 ∧ k.inHandler = false ∧ k.loops.length = 4 ∧
     (k.loops.getD 0 LoopLevel.idle).active = false ∧ (6 : BitVec 16) ≠ 0 ∧ k.s 1 ≠ 0 ∧ k.s 10 = 0 ∧
     k.starts.contains (k.pc + 6) = true ∧ k.starts.contains (k.pc + 7) = false) ∧
    (let k := (withCore around).seen 0
     (withCore around).ready 0 2 noQueue ∧ (k.loops.getD 1 LoopLevel.idle).active = false ∧
     (∀ x, x ∈ k.loops.take 1 → x.active = true ∧ k.pc + 6 ≤ x.last) ∧
     ¬ (∀ x, x ∈ k.loops.take 1 → x.active = true ∧ k.pc + 7 ≤ x.last)) ∧
    ((withCore looping).ready 0 2 noQueue ∧ (((withCore looping).seen 0).loops.getD 0 LoopLevel.idle).active = true) := by
  unfold State.ready; decide +kernel

/-- Two bodies that end at the next ell, the inner one in its last iteration, the outer one in the iteration given. -/
def nested (i : Nat) : Core :=
  { core0 with loops := [{ loop0 with index := i }, { loop0 with index := 1 }, LoopLevel.idle, LoopLevel.idle] }

theorem wit_LoopEnds_nested :
    (let k := nested 0
     k.inHandler = false ∧ k.loops.length = 4 ∧ k.loops[0]? = some loop0 ∧ loop0.active = true ∧ loop0.last = k.pc ∧
       loop0.index + 1 < loop0.count ∧
       (∀ (j : Nat) (y : LoopLevel), 0 < j → k.loops[j]? = some y →
         ¬ ((y.active = true ∧ y.last = k.pc) ∧ y.index + 1 < y.count))) ∧
    (let k := nested 1
     ∀ y, y ∈ k.loops → ¬ ((y.active = true ∧ y.last = k.pc) ∧ y.index + 1 < y.count)) := by
  refine ⟨⟨rfl, rfl, rfl, rfl, rfl, by decide, ?_⟩, by decide⟩
  intro j y hj h
  match j, h, hj with
  | 1, h, _ => cases h; decide
  | 2, h, _ => cases h; decide
  | 3, h, _ => cases h; decide
  | j + 4, h, _ => cases h

theorem wit_LoopEnds : looping.inHandler = false ∧ looping.loops.length = 4 ∧ looping.loops[0]? = some loop0 ∧
    loop0.active = true ∧ loop0.last = looping.pc ∧
    (∀ j y, looping.loops[j]? = some y → j ≠ 0 → ¬ (y.active = true ∧ y.last = looping.pc)) := by
  refine ⟨rfl, rfl, rfl, rfl, rfl, ?_⟩
  intro j y h hj
  match j, h, hj with
  | 0, _, hj => exact absurd rfl hj
  | 1, h, _ => cases h; decide
  | 2, h, _ => cases h; decide
  | 3, h, _ => cases h; decide
  | j + 4, h, _ => cases h

theorem wit_ControlRegisters : st0.ready 0 2 noQueue ∧ (0x0C : BitVec 16).toNat ≤ 0x0C ∧ (15 : BitVec 5).toNat < 16 ∧
    (0x04 ≤ 0x0A ∧ 0x0A ≠ 0x06 ∧ 0x0A ≠ 0x07) := ⟨ready0.2.1, by decide, by decide, by decide⟩

theorem wit_BushelOrderFree : ([Val.zero, Val.nan] : List Val).Perm [Val.nan, Val.zero] := List.Perm.swap _ _ _

theorem wit_VectorResults :
    (vectorEls (.vadd 0 p2 0xC 5 1 2)).map (fun x => (x.1, x.2.1, x.2.2.1, x.2.2.2.1, x.2.2.2.2.1)) = some (0, p2, 5, 4, 16) ∧
    (vectorEls (.vdiv 0 p2 0xD 5 1 2)).map (fun x => (x.1, x.2.1, x.2.2.1, x.2.2.2.1, x.2.2.2.2.1)) = some (0, p2, 5, 28, 32) ∧
    (vectorEls (.vsinp 0 p2 0xD 5 2)).map (fun x => (x.1, x.2.1, x.2.2.1, x.2.2.2.1, x.2.2.2.2.1)) = some (0, p2, 5, 16, 32) ∧
    (vectorEls (.vcvt 0 p2 5 1 0 true 7 true)).map (fun x => (x.1, x.2.1, x.2.2.1, x.2.2.2.1, x.2.2.2.2.1)) =
      some (0, p2, 5, 3, 32) ∧
    st0.ready 0 3 noQueue := ⟨by decide, by decide, by decide, by decide +kernel, ready0.2.2⟩

theorem wit_VectorParts : st0.ready 0 3 noQueue ∧ (30 : BitVec 5).toNat % 2 = 0 ∧ (28 : BitVec 5).toNat % 2 = 0 ∧
    fmtDU 0xD = some .f32 ∧ (narrow (0 : BitVec 4).toNat).isSome = true ∧
    (∀ m, narrow (8 : BitVec 4).toNat = some m → 64 * m.width * ((1 : BitVec 3).toNat + 1) ≤ 2048) ∧
    isMx (5 : BitVec 4).toNat = true ∧ (fmtOf (5 : BitVec 4).toNat).isSome = true := by
  refine ⟨ready0.2.2, by decide, by decide, by decide, by decide, ?_, by decide, by decide⟩
  intro m h; revert h; cases m <;> decide

/-- Core 0 with two columns in the result queue and an outstanding VACSUM of bank 1. -/
def banked : State :=
  withCore { core0 with
    arr := { ArrayState.reset with resultQ := [5, 6] }
    bankQ := [{ bank := 1, cyc := 99, act := .clear 0 }, { bank := 1, cyc := 105, act := .vacsumWrite Bushel.zero }] }

theorem wit_BankOperations : st0.ready 0 3 noQueue ∧ fmtDC 0xC = some .bf16 ∧ (st0.seen 0).arr.resultQ = [] ∧
    banked.ready 0 3 noQueue ∧ (banked.seen 0).arr.resultQ = [5, 6] :=
  ⟨ready0.2.2, by decide, by decide, by unfold State.ready; decide +kernel, by decide +kernel⟩

theorem wit_BankConversion : banked.ready 0 3 noQueue ∧ fmtDU 0xD = some .f32 ∧ fmtDU 0 = none ∧
    (∀ m, narrow (0 : BitVec 4).toNat = some m → 64 * m.width * ((3 : BitVec 3).toNat + 1) ≤ 2048) ∧
    banked.hasCore 0 = true ∧ (banked.core 0).ell = none ∧
    ((banked.core 0).bankQ.find? (fun x => x.bank == (1 : BitVec 2).toNat && x.act.cls == 1)).isSome = true := by
  refine ⟨by unfold State.ready; decide +kernel, by decide, by decide, ?_, by decide, by decide, by decide +kernel⟩
  intro m h; revert h; cases m <;> decide

theorem wit_EngineIssue :
    (engineIssue (.ldv 0 p2 1 2 3 4)).map (fun x => (x.1, x.2.1, x.2.2.1)) = some (0, p2, false) ∧
    (engineIssue (.stb 0 p2 1 2 3 0)).map (fun x => (x.1, x.2.1, x.2.2.1)) = some (0, p2, true) ∧
    st0.ready 0 3 loadFull ∧ st0.ready 0 3 storeFull :=
  ⟨by decide, by decide, by unfold State.ready; decide +kernel, by unfold State.ready; decide +kernel⟩

theorem wit_DescriptorWrites : st0.ready 0 3 noQueue ∧ (23 : BitVec 5).toNat < 24 := ⟨ready0.2.2, by decide⟩

/-- Descriptor 1: the local scratchpad, one row of 64 bytes of format BF16. -/
def spadDesc : Desc := 0x4000000020000000010000100000000000000000000000004000000000000003c0

def storing (d : Desc) (credits : Nat) : State :=
  let o : EngOp := { engOp0 with src := { h := 1, d := d, idx := [] } }
  withCore { core0 with
    eng := { EngState.reset with storeQ := [o] }
    pools := [(0, { dmod := 0, dcore := 0, limit := 2, count := credits, since := 7, flag := 0 })] }
/-- A grain for core 0 of module 0 on stream 3 with payload 0x55 and its CRC-32C, and the same with a wrong CRC. -/
def grain0 : Grain := 0x55d036459300300000

def badGrain : Grain := grain0 ^^^ 0x100000000

def stream0 (k : StreamKind) : StreamEntry :=
  { kind := k, srcMod := 0, srcCor := 0, base := 786368, rows := 1, bank := 1, lane0 := 0, count := 2, format := 0, landed := 0,
    sent := 0 }

/-- The grain of index 5 of stream 3, on its way to core 0 for cycle 80. -/
def flight0 : Flight := { run := 0, core := 0, g := grain0, t := 80, q := some 5, bad := 0 }

/-- A load of the row that this grain is to write, issued in cycle 90. -/
def loadOp0 : EngOp := { engOp0 with kind := .ldv, src := { h := 1, d := spadDesc, idx := [] } }

def lateLoad : State :=
  { withCore { core0 with
      streams := [(3, { stream0 .data with base := loadOp0.src.addr 0 0 })]
      eng := { EngState.reset with loadQ := [loadOp0] } } with
    lnk := { Lnk.reset with flights := [flight0] } }

/-- Core 0 whose stream 3 adds partial sums to bank 1, with its grain on its way since cycle 80. -/
def lateSum : State :=
  { withCore { core0 with streams := [(3, stream0 .partialSum)] } with lnk := { Lnk.reset with flights := [flight0] } }

theorem wit_BankReads_late :
    lateSum.ready 0 3 noQueue ∧ (lateSum.lateBank 0 (lateSum.core 0).scyc 1).isSome = true ∧
    banked.lateBank 0 (banked.core 0).scyc 1 = none ∧ (fmtDU 0xD).isSome = true := by
  refine ⟨by unfold State.ready; decide +kernel, by decide +kernel, by decide +kernel, by decide⟩

theorem wit_EngineStart :
    (st0.hasCore 0 = true ∧ (st0.core 0).ell = none ∧ st0.stalled = false ∧ st0.running 0 = true ∧
      (st0.core 0).eng.storeQ = []) ∧
    (let s := storing (spadDesc + 7) 1
     ∃ o, (s.core 0).eng.storeQ = [o] ∧ s.engFault 0 o = some (0x07, 1) ∧ s.running 0 = true) ∧
    (let s := storing spadDesc 1
     ∃ o, (s.core 0).eng.storeQ = [o] ∧ s.engFault 0 o = none ∧ o.writes.bind (fun x => Desc.pool x.d) = none ∧
       s.opLate 0 o 90 = none) ∧
    (let s := storing (spadDesc + 3) 0
     ∃ o, (s.core 0).eng.storeQ = [o] ∧ s.engFault 0 o = none ∧ o.writes.bind (fun x => Desc.pool x.d) = some 0 ∧
       (s.core 0).credits 0 = 0) ∧
    (let s := storing (spadDesc + 3) 1
     ∃ o, (s.core 0).eng.storeQ = [o] ∧ s.engFault 0 o = none ∧ o.writes.bind (fun x => Desc.pool x.d) = some 0 ∧
       (s.core 0).credits 0 ≠ 0 ∧ s.opLate 0 o (max 90 ((s.core 0).creditAt 0)) = none) ∧
    (lateLoad.stalled = false ∧ lateLoad.running 0 = true ∧ (lateLoad.core 0).eng.loadQ = [loadOp0] ∧
      lateLoad.engFault 0 loadOp0 = none ∧ loadOp0.writes.bind (fun x => Desc.pool x.d) = none ∧
      (lateLoad.opLate 0 loadOp0 90).isSome = true) :=
  ⟨by decide +kernel, ⟨_, rfl, by decide +kernel⟩, ⟨_, rfl, by decide +kernel⟩, ⟨_, rfl, by decide +kernel⟩,
    ⟨_, rfl, by decide +kernel⟩, by decide +kernel⟩

theorem wit_StoreLandsInScratchpad :
    (let s := storing spadDesc 1
     s.hasCore 0 = true ∧ (s.core 0).ell = none ∧ s.stalled = false ∧ s.running 0 = true ∧
     ∃ o, (s.core 0).eng.storeQ = [o] ∧ o.kind = .stv ∧ s.engFault 0 o = none ∧ Desc.space o.src.d = 0 ∧
       0 < Desc.rb o.src.d ∧ Desc.rb o.src.d = 64) :=
  ⟨by decide +kernel, by decide +kernel, by decide +kernel, by decide +kernel, _, rfl, by decide +kernel⟩

/-- Entry 0 of the tile parameters: M 16, one valid row, K 64, every format BF16, WBASE −32; and a reserved one. -/
def tileParams : DWord := 0x1f06660000

/-- 64 rows of 64 BF16 elements in the local scratchpad. -/
def tileDesc : Desc := 0x8000000040000000400001000000000000000000000000008000000000000003c0

def withTile (k : MatKind) : State :=
  let o : MatOp := { matOp0 with
    kind := k, tp := tileParams, n := 1, cs := 1, outv := true
    sd := { h := 1, d := tileDesc, idx := [] }
    td := { h := 1, d := tileDesc, idx := [] } }
  withCore { core0 with
    arr := { ArrayState.reset with queue := [o] }
    tpar := [(0, tileParams), (1, 7)] }

theorem wit_MatrixIssue :
    (matrixIssue (.tile 0 p2 0 1 1 1 1 true true true)).map (fun x => (x.1, x.2.1, x.2.2.1)) =
      some (0, p2, some (0, true, 0)) ∧
    (matrixIssue (.swap 0 p2)).map (fun x => (x.1, x.2.1, x.2.2.1)) = some (0, p2, none) ∧
    (matrixIssue (.mstream 0 p2 1 1 1 0 7 true true true)).map (fun x => (x.1, x.2.1, x.2.2.1)) =
      some (0, p2, some (1, true, 8)) ∧
    (withTile .swap).ready 0 3 matFull ∧ entryServes ((withTile .swap).seen 0) (0, true, 0) ∧
    ¬ entryServes ((withTile .swap).seen 0) (1, true, 8) := by
  refine ⟨rfl, rfl, rfl, ?_, ?_, ?_⟩
  · unfold State.ready; decide +kernel
  · exact ⟨_, rfl, by decide +kernel⟩
  · have h1 : tileOf (((withTile .swap).seen 0).tparam (1 : BitVec 4).toNat) = none := by decide +kernel
    rintro ⟨p, h, -⟩
    rw [h1] at h
    cases h

theorem wit_TileStarts :
    (∀ k, k = MatKind.tile ∨ k = .mstream →
      (let s := withTile k
       s.hasCore 0 = true ∧ (s.core 0).ell = none ∧ s.stalled = false ∧ s.running 0 = true ∧
       ∃ o p, (s.core 0).arr.queue = [o] ∧ tileOf o.tp = some p ∧ o.kind = k ∧ (s.core 0).accWrong o p = false ∧
         o.badHandle p (s.reach 0) = none)) ∧
    (let s := withTile .sload
     ∃ o p, (s.core 0).arr.queue = [o] ∧ tileOf o.tp = some p ∧ o.kind = .sload ∧ o.statFails p (s.reach 0) = false) := by
  refine ⟨?_, _, _, rfl, rfl, rfl, by decide +kernel⟩
  rintro k (rfl | rfl)
  · exact ⟨by decide +kernel, by decide +kernel, by decide +kernel, by decide +kernel, _, _, rfl, rfl, rfl, by decide +kernel,
      by decide +kernel⟩
  · exact ⟨by decide +kernel, by decide +kernel, by decide +kernel, by decide +kernel, _, _, rfl, rfl, rfl, by decide +kernel,
      by decide +kernel⟩

theorem wit_SwapInvertsPointer : ∀ o l, (o = matOp0 ∧ (l = some 30 ∨ l = some 24 ∨ l = none)) ∨
      (o = { matOp0 with behind := true } ∧ l = some 30) →
    (let s := withCore { core0 with arr := { ArrayState.reset with queue := [o], loadStart := l, aheadEnd := 96 } }
     s.hasCore 0 = true ∧ (s.core 0).ell = none ∧ s.stalled = false ∧ s.running 0 = true ∧
     (s.core 0).arr.queue = [o] ∧ o.kind = .swap ∧ (s.core 0).arr.jobs = [] ∧ (s.core 0).arr.loadStart = l) := by
  rintro o l (⟨rfl, rfl | rfl | rfl⟩ | ⟨rfl, rfl⟩) <;> decide +kernel

theorem wit_SwapInvertsPointer_counted :
    (let s := { withCore { core0 with arr := { ArrayState.reset with queue := [matOp0], loadStart := some 30 } } with
       stalls := [(90, (4, 0))] }
     (s.core 0).run.bind s.run? = some run0 ∧ (s.stallsAt (run0.position 90)).1 = 4) := by decide +kernel

def column0 (outv : Bool) : Column :=
  { wait := false, avail := 100, fmt := 0xC, wbase := 0, sat := false, outv := outv, vals := [none], n := 0, first := 0,
    od := { h := 1, d := spadDesc, idx := [] }, epoch := 0 }

theorem wit_ResultColumns :
    (st0.hasCore 0 = true ∧ (st0.core 0).ell = none ∧ st0.stalled = false ∧ st0.running 0 = true ∧
      (st0.core 0).arr.jobs = [] ∧ (st0.core 0).arr.columns = []) ∧
    (∀ q, q = [] ∨ q = [1, 2, 3] ∨ q = [1, 2, 3, 4] →
      (let s := withCore { core0 with arr := { ArrayState.reset with columns := [column0 true], resultQ := q } }
       s.running 0 = true ∧ (s.core 0).arr.columns = [column0 true] ∧ (s.core 0).arr.resultQ = q ∧ (column0 true).wait = false)) ∧
    (let s := withCore { core0 with arr := { ArrayState.reset with columns := [column0 false] } }
     s.running 0 = true ∧ s.writeRefused 0 (column0 false).od.d = false ∧ Desc.pool (column0 false).od.d = none) := by
  refine ⟨by decide +kernel, ?_, by decide +kernel⟩
  rintro q (rfl | rfl | rfl) <;> decide +kernel

/-- Core 0 in a run that has virtual flag 5, kept in physical flag 9, and virtual barrier 5 in physical barrier 2. -/
def flag0 : Flag :=
  { value := false, owner := 0, run := 0, vid := 5, broken := false, last := none, race := false, cyc := none, setOp := false, origin := none, issuers := [], owed := false,
    view := [], upd := [], hist := [] }

def barrier0 : Barrier :=
  { vid := 5, owner := 0, run := 0, broken := false, spans := false, rootMod := 0, modules := [0], parts := [0, 1], gens := 0, overran := false,
    coreGen := [], bits := [], arrivals := [], releases := [] }

def synced (f : Flag) (b : Barrier) (k : Core) : State :=
  { st0 with
    cores := [(0, k)]
    runs := [(0, { run0 with tun := { tun0 with sections := [{ type := 0x16, mod := 0, bytes := [1, 0, 0, 0, 0, 0, 0, 0, 5, 0, 0, 0, 0, 0, 0, 0] }] } })]
    syn := { Syn.reset with flags := [(9, f)], barriers := [(2, b)] } }
theorem wit_FlagSignals :
    (let s := synced flag0 barrier0 core0
     ∃ x e, s.ready 0 2 noQueue ∧ s.runOf 0 = some (0, x) ∧ s.flagEnt x 5 = some e ∧ flagKind e = 0 ∧
       s.physFlag 0 5 = some 9 ∧ kfind s.syn.flags 9 = some flag0 ∧ s.nameBroken 0 false 5 = false ∧ flag0.run = 0 ∧ flag0.upd = [] ∧
       flag0.cyc ≠ some ((s.core 0).scyc + 1)) ∧
    (∀ b : Bool, kfind (synced { flag0 with owed := b } barrier0 core0).syn.flags 9 = some { flag0 with owed := b }) :=
  ⟨⟨_, _, by unfold State.ready; decide +kernel, rfl, rfl, by decide +kernel, by decide +kernel, by decide +kernel,
    by decide +kernel, by decide +kernel, by decide +kernel⟩, by intro b; cases b <;> decide +kernel⟩

theorem wit_FlagReads :
    (let s := synced flag0 barrier0 core0
     s.ready 0 2 noQueue ∧ (s.core 0).run = some 0 ∧ s.physFlag 0 5 = some 9 ∧ kfind s.syn.flags 9 = some flag0 ∧
       s.nameBroken 0 false 5 = false) ∧
    (let s := synced flag0 barrier0 { core0 with hold := .fwait 5 true false 90 (some 95) }
     s.hasCore 0 = true ∧ (s.core 0).ell = none ∧ (s.core 0).hold = .fwait 5 true false 90 (some 95)) ∧
    (let s := synced flag0 barrier0 { core0 with hold := .fwait 5 true true 90 none }
     s.hasCore 0 = true ∧ (s.core 0).ell = none ∧ (s.core 0).hold = .fwait 5 true true 90 none ∧
       s.fwaitMet 0 (.fwait 5 true true 90 none) = none) :=
  ⟨⟨by unfold State.ready; decide +kernel, by decide +kernel⟩, by decide +kernel, by decide +kernel⟩

theorem wit_FlagViewUpdates :
    kfind (synced flag0 barrier0 core0).syn.flags 9 = some flag0 ∧ (∀ u, u ∈ flag0.upd → u.core ≠ 0) ∧
    (let u : ViewUpd := { core := 0, st := 101, cyc := 102, val := true }
     let f := { flag0 with value := true, upd := [u] }
     let s := synced f barrier0 { core0 with hold := .fwait 5 true false 100 none }
     kfind s.syn.flags 9 = some f ∧ f.upd = [u] ∧ u.core = 0 ∧ (s.core 0).run = some f.run ∧
       (s.core 0).hold = .fwait f.vid u.val false 100 none ∧ 100 < u.cyc) := by decide +kernel

theorem wit_BarrierArrivals :
    (let s := synced flag0 barrier0 core0
     kfind s.syn.barriers 2 = some barrier0 ∧ s.ready 0 2 noQueue ∧ (s.core 0).run = some 0 ∧ s.physBarr 0 5 = some 2 ∧
       s.nameBroken 0 true 5 = false ∧ barrier0.arrivals = []) ∧
    (let a : Arrival := { node := .cluster 0, parity := false, child := 0, core := 0, cyc := 102 }
     let n : NodeBit := { node := .cluster 0, parity := false, child := 0 }
     let b := { barrier0 with arrivals := [a] }
     let b2 := { b with bits := [n] }
     b.arrivals = [a] ∧ b.releases = [] ∧ b.broken = false ∧ n ∉ b.bits ∧ a.node ≠ .root ∧ n ∈ b2.bits ∧
       ((synced flag0 b2 core0).run? 0).map (fun x => x.endStatus) = some none) :=
  ⟨⟨by decide +kernel, by unfold State.ready; decide +kernel, by decide +kernel⟩, by decide +kernel⟩

theorem wit_BarrierReleases :
    kfind (synced flag0 barrier0 core0).syn.barriers 2 = some barrier0 ∧ barrier0.releases = [] ∧
    (∀ o : Bool,
     let a : Release := { node := .cluster 0, core := some 0, parity := true, cyc := 120 }
     let x : OutArr := { vid := 5, parity := true, nowait := false }
     let b := { barrier0 with releases := [a], overran := o }
     let s := synced flag0 b { core0 with outArr := [x], hold := .barr 5 true 99 }
     kfind s.syn.barriers 2 = some b ∧ b.releases = [a] ∧ a.core = some 0 ∧ b.broken = false ∧ (s.core 0).outArr = [x] ∧
       x.vid = b.vid ∧ x.parity = a.parity ∧ x.nowait = false ∧ (s.core 0).hold = .barr b.vid a.parity 99) :=
  ⟨by decide +kernel, by decide +kernel, by intro o; cases o <;> decide +kernel⟩

theorem wit_SyncSlotOthers :
    st0.ready 0 2 noQueue ∧ st0.runOf 0 = some (0, run0) ∧
    (let s := withCore { core0 with hold := .fence 31 100 }
     s.hasCore 0 = true ∧ (s.core 0).ell = none ∧ (s.core 0).hold = .fence 31 100 ∧ (s.core 0).fenceDone 31 = true) ∧
    (let s := withCore { core0 with
       hold := .fence 1 100, eng := { EngState.reset with loadQ := [engOp0] } }
     (s.core 0).hold = .fence 1 100 ∧ (s.core 0).fenceDone 1 = false) ∧
    (let s := withCore { core0 with dig := { sums := [(0, (7, 2))], issued := 1, handed := 0, reached := [(0, 80)] } }
     s.hasCore 0 = true ∧ (s.core 0).ell = none ∧ (s.core 0).run = some 0 ∧ s.run? 0 = some run0 ∧
       (s.core 0).dig.handed < (s.core 0).dig.issued ∧ (s.core 0).digestPending (s.core 0).dig.handed = false) ∧
    (let s := withCore { core0 with asyncQ := [{ code := 0x0B, info := 3 }] }
     s.hasCore 0 = true ∧ (s.core 0).ell = none ∧ (s.core 0).asyncQ = [{ code := 0x0B, info := 3 }] ∧
       (s.core 0).inHandler = false ∧ (s.core 0).halted = false ∧ s.running 0 = true ∧ (s.core 0).hold = .free ∧
       (s.core 0).waitQ = false ∧ (s.core 0).arr.jobs = [] ∧ 0 ≤ (s.core 0).scyc) ∧
    (let s := { withCore { core0 with asyncQ := [{ code := 0x0B, info := 3, cyc := 140 }], hold := .fence 1 99 } with clk := 140 }
     (s.core 0).asyncQ = [{ code := 0x0B, info := 3, cyc := 140 }] ∧ (s.core 0).hold ≠ .free ∧ s.running 0 = true ∧
       (s.core 0).scyc < 140 ∧ 140 ≤ max (s.core 0).scyc (s.nowRun 0)) ∧ (st0.core 0).asyncQ = [] :=
  ⟨ready0.2.1, by decide +kernel, by decide +kernel, by decide +kernel, by decide +kernel, by decide +kernel, by decide +kernel,
    by decide +kernel⟩

/-- A run whose cores have been held since cycle 50, at the cycle given. -/
def heldAt (t : Nat) : State :=
  let x := { run0 with dlSince := some 50, furlong := 64, openAt := 4194304, opens := [(64, 4194304)] }
  { synced flag0 barrier0 { core0 with hold := .barr 5 true 50 } with runs := [(0, x)], clk := t }

theorem wit_DeadlockAndBreak :
    (st0.run? 0 = some run0 ∧ (st0.coresOf 0).all (fun c => (st0.core c).deadlocked) = false) ∧
    (let s := withRun { run0 with phase := .waiting }
     s.run? 0 = some { run0 with phase := .waiting } ∧ RunPhase.waiting ≠ .active) ∧
    (∀ t, t = 4194353 ∨ t = 4194354 →
      (let s := heldAt t
       let x := { run0 with dlSince := some 50, furlong := 64, openAt := 4194304, opens := [(64, 4194304)] }
       s.run? 0 = some x ∧ (s.coresOf 0).filter (fun c => (s.core c).waitsOn.isSome) = [0] ∧ x.phase = .active ∧
         (s.coresOf 0).all (fun c => (s.core c).deadlocked) = true ∧ (s.core 0).heldSince 50 = true ∧ x.endStatus = none ∧
         bitOf s.syn.dlLog 0 = false ∧ (t = 4194353 → s.nowOf x < 50 + s.syn.dlTimeout.toNat * 1024) ∧
         (t = 4194354 → 50 + s.syn.dlTimeout.toNat * 1024 ≤ s.nowOf x))) ∧
    (let s := { heldAt 0 with syn := { Syn.reset with dlLog := 1 } }
     bitOf s.syn.dlLog 0 = true) ∧
    (let s := heldAt 0
     s.run? 0 = some { run0 with dlSince := some 50, furlong := 64, openAt := 4194304, opens := [(64, 4194304)] } ∧ 0 ∈ s.coresOf 0 ∧ (s.core 0).hold.object = some 5 ∧
       (s.core 0).inHandler = false ∧ (s.core 0).halted = false ∧ kfind s.syn.flags 9 = some flag0 ∧ flag0.run = 0 ∧
       flag0.broken = false ∧ flag0.hist = [] ∧ kfind s.syn.barriers 2 = some barrier0 ∧ barrier0.run = 0 ∧
       1 ∉ s.coresOf 0) := by
  refine ⟨by decide +kernel, by decide +kernel, ?_, by decide +kernel, by decide +kernel⟩
  rintro t (rfl | rfl) <;> decide +kernel

/-- Die 0 held by run 0 in Exact mode with every phase but 3, with an uncorrectable word, a corrected one and a failed
reissue; channel 4 was refreshed for cycle 100. -/
def hog0 : Hogshead :=
  { Hogshead.reset with
    ready := true, holder := some 0, mask := 0xFFFFFFF7, bad := [(0, true), (32, false), (64, false)], retries := 1
    due := [(4, 100)] }

def hogState : State := { st0 with hg := [(0, hog0)] }

def withHog (h : Hogshead) : State := { st0 with hg := [(0, h)] }

/-- A resident copy that a context maps, with rows in the stratum of core 1. -/
def copy0 : Copy :=
  { stoneHash := 3, placeHash := 4, valid := true, loading := false, revoked := false, damaged := false, hostVer := true,
    refcount := 1, publisher := 0, version := 1, strata := [(1, 0, 64)], hogs := [], rows := [], hashes := [], waiters := [] }

theorem wit_HogsheadReads :
    (∀ n, n = 0 ∨ n = 1 →
      (let s := withHog { hog0 with retries := n }
       s.hgPresent 0 = true ∧ 4 = hgChannel 256 ∧ 256 < hgSize ∧ s.hasCore 0 = true ∧
         (s.core 0).ell = none ∧ (s.hog 0).retries = n ∧ (s.core 0).run = some 0 ∧
         s.run? 0 = some run0 ∧ run0.endStatus = none)) ∧
    (let s := { hogState with stalls := [(0, (0, 20))] }
     s.hgPresent 0 = true ∧ 32 - (s.stallsAt s.pos).2 = 12 ∧ 32 - (hogState.stallsAt hogState.pos).2 = 32) ∧
    (12 < 13 ∧ hogState.hgMode 0 = some 0 ∧ st0.hgMode 0 = none ∧ kfind (hogState.hog 0).due 4 = some 100 ∧
      100 + refreshEvery (hogState.hog 0).rate = 228 ∧ 100 + refreshEvery (hogState.hog 0).rate ≠ 227 ∧
      (228, 4) ∉ (hogState.hog 0).uses ∧ kfind (hogState.hog 0).due 12 = none) ∧
    (let s := withHog { hog0 with uses := (List.range 64).map (fun d => (228 + d, 4)) }
     (∀ d, d < 64 → (228 + d, 4) ∈ (s.hog 0).uses) ∧ s.hgMode 0 = some 0 ∧ (s.hog 0).holder.bind s.run? = some run0) ∧
    (let s := { hogState with runs := [(0, { run0 with mode := 1 })] }
     s.hgMode 0 = some 1) ∧
    (let s := { st0 with
       cores := [(0, core0), (1, { Core.reset with
         patrol := some 36863, ecc := [{ mem := .strat, word := 294911, due := false }, { mem := .strat, word := 0, due := false }] })]
       ing := { Ing.reset with copies := [(0, copy0)] } }
     (s.core 0).run.isSome = true ∧ (s.core 1).run = none ∧ (s.core 1).ell = none ∧ s.hasCore 1 = true ∧
       s.mappedStratum 1 = true ∧ 36864 ≤ (s.core 1).patrol.getD 0 + 1) ∧
    (hogState.hgPresent 1 = true ∧ 64 * 33554431 < hgSize ∧ hogState.freePhases 0 = [3] ∧
      (withHog { hog0 with mask := 0xFFFFFFFF }).freePhases 0 = [] ∧ 64 * 0 < hgSize) := by
  refine ⟨?_, by decide +kernel, by decide +kernel, by decide +kernel, by decide +kernel, by decide +kernel, by decide +kernel⟩
  rintro n (rfl | rfl) <;> decide +kernel

theorem wit_ScrubsAndCredits :
    (st0.hasCore 575 = true ∧ (st0.core 575).ell = none ∧ (st0.core 575).run = none ∧ (st0.core 575).scrubBusy = false ∧
      (st0.core 575).owner = none ∧ (1 : Word).getLsbD 0 = true ∧ (st0.core 0).run.isSome = true) ∧
    (let s := withCore { core0 with run := none, owner := none, scrubBusy := true }
     s.hasCore 0 = true ∧ (s.core 0).ell = none ∧ (s.core 0).scrubBusy = true ∧ (s.core 0).owner = none ∧ s.ctxs = []) ∧
    (∀ f, (st0.ctx f).kill = none) ∧
    (∀ n, n = 0 ∨ n = 1 ∨ n = 2 →
      (let p : Pool := { dmod := 0, dcore := 1, limit := 2, count := n, since := 0, flag := 0 }
       let s := withCore { core0 with pools := [(7, p)] }
       (s.core 0).run = some 0 ∧ kfind (s.core 0).pools (7 : BitVec 8).toNat = some p ∧
         (n < 2 → p.count < p.limit) ∧ (n = 2 → p.limit ≤ p.count) ∧ kfind (s.core 0).pools (8 : BitVec 8).toNat = none)) ∧
    (st0.hgPresent 1 = true ∧ 2147479552 + 4096 ≤ hgSize ∧ st0.regionHeld 1 2147479552 4096 = false ∧ st0.freePhases 1 ≠ []) ∧
    (let s := withHog { hog0 with mask := 0xFFFFFFFF, scrub := [(4096, 64)] }
     s.hgPresent 0 = true ∧ s.regionHeld 0 4096 64 = false ∧ s.freePhases 0 = []) ∧
    (let s := withHog { hog0 with scrub := [(4096, 64), (8192, 64)] }
     s.freePhases 0 ≠ [] ∧ (4096, 64) ∈ (s.hog 0).scrub) := by
  refine ⟨by decide +kernel, by decide +kernel, fun _ => rfl, ?_, by decide +kernel, by decide +kernel, by decide +kernel⟩
  rintro n (rfl | rfl | rfl) <;> decide +kernel

/-- Core 0 with stream 3 in use, and a grain on its way to it. -/
def landing (k : StreamKind) (f : Flight) : State :=
  { withCore { core0 with streams := [(3, stream0 k)] } with lnk := { Lnk.reset with flights := [f] } }

theorem wit_GrainsLand :
    (∀ k : StreamKind,
      (let s := landing k flight0
       s.hasCore 0 = true ∧ (s.core 0).ell = none ∧ (s.core 0).halted = false ∧
       s.lnk.flights.find? (fun f => f.core == 0 && Grain.stream f.g == (3 : BitVec 8).toNat) = some flight0 ∧
       s.run? flight0.run = some run0 ∧ Grain.crcOk flight0.g = true ∧
       kfind (s.core 0).streams (3 : BitVec 8).toNat = some (stream0 k) ∧
       (stream0 k).base + 64 * (flight0.q.getD 0 % max 1 (stream0 k).rows) + 64 ≤ 786432)) ∧
    (let f := { flight0 with g := badGrain }
     let s := landing .data f
     s.lnk.flights.find? (fun f => f.core == 0 && Grain.stream f.g == (3 : BitVec 8).toNat) = some f ∧
       Grain.crcOk f.g = false) ∧
    (let s := { st0 with lnk := { Lnk.reset with flights := [flight0] } }
     kfind (s.core 0).streams (3 : BitVec 8).toNat = none) ∧
    st0.lnk.flights.find? (fun f => f.core == 0 && Grain.stream f.g == (3 : BitVec 8).toNat) = none := by
  refine ⟨?_, by decide +kernel, by decide +kernel, by decide +kernel⟩
  intro k; cases k <;> decide +kernel

/-- A request that holds row 0 of run 0. -/
def req0 : Req :=
  { cmd := { id := 2, head := 2 }, reqId := 11, rowWant := 0xFFFF, greedy := true, samplKey := 0, nonce := 0, inLen := 4,
    outLimit := 8, outAddr := 0, input := [], eligible := true, row := some 0, effect := 0, assigned := some 0xFFFFFFFF,
    finished := false, trunc := false, outBytes := [], done := false }

/-- A grain on its way to the host endpoint, and one to the hub sync unit. -/
def hostFlight (p : Payload) : Flight :=
  { run := 0, core := 0x3FE, g := mkGrain 0 0x3FE 0 0 false false p, t := 80, q := none, bad := 0 }

def syncFlight (p : Payload) : Flight :=
  { run := 0, core := 0x3FC, g := mkGrain 0 0x3FC 0 0 false false p, t := 80, q := none, bad := 0 }

def flying (x : Run) (fs : List Flight) : State := { withRun x with lnk := { Lnk.reset with flights := fs } }

/-- The next grain of an operation on its way to the host endpoint. -/
abbrev nextHost (s : State) (op : Nat) : Option Flight :=
  s.lnk.flights.find? (fun f => f.core == 0x3FE && f.run == 0 && bits (Grain.payload f.g) 0 8 == op)

theorem wit_HubGrains_host :
    (∀ op, op = 1 ∨ op = 2 ∨ op = 3 → ∀ x, x = run0 ∨ x = { run0 with reqs := [req0] } →
      (let f := hostFlight (BitVec.ofNat 512 (op + 5 * 256 + 3 * 2 ^ 64))
       let s := flying x [f]
       s.run? 0 = some x ∧ x.phase = .active ∧ nextHost s op = some f ∧ bits (Grain.payload f.g) 16 16 < x.tun.rows ∧
         bits (Grain.payload f.g) 8 6 ≤ 56 ∧ (x = run0 → x.rowReq 0 f.t = none) ∧ (x ≠ run0 → x.rowReq 0 f.t = some req0))) ∧
    (req0.finished = false ∧
      { run0 with reqs := [{ req0 with finished := true }] }.rowReq 0 80 = some { req0 with finished := true }) ∧
    (∀ op, op = 1 ∨ op = 2 ∨ op = 3 →
      (let f := hostFlight (BitVec.ofNat 512 (op + 1 * 2 ^ 16))
       nextHost (flying run0 [f]) op = some f ∧ run0.tun.rows ≤ bits (Grain.payload f.g) 16 16)) := by
  refine ⟨?_, by decide +kernel, ?_⟩
  · rintro op (rfl | rfl | rfl) x (rfl | rfl) <;> decide +kernel
  · rintro op (rfl | rfl | rfl) <;> decide +kernel

theorem wit_HubGrains_sync :
    (let f := syncFlight 0x51
     let s := { synced flag0 barrier0 core0 with lnk := { Lnk.reset with flights := [f] } }
     s.lnk.flights.find? (fun f => decide (0x3F0 ≤ f.core) && f.run == 0) = some f ∧ Grain.crcOk f.g = true ∧ f.core = 0x3FC ∧
       Grain.cls f.g = 0 ∧ Grain.null f.g = false ∧ Grain.payload f.g = BitVec.ofNat 512 0x51 ∧ 0x51 < 2 ^ 64 ∧
       0x51 % 16 = 1 ∧ s.physFlag 0 (BitVec.ofNat 16 (0x51 / 2 ^ 4)) = some 9) ∧
    (let f := { syncFlight 0x51 with g := (syncFlight 0x51).g ^^^ 0x100000000 }
     (flying run0 [f]).lnk.flights.find? (fun f => decide (0x3F0 ≤ f.core) && f.run == 0) = some f ∧ Grain.crcOk f.g = false ∧
       run0.endStatus = none) := by decide +kernel

/-- A best-effort grain of run 0 that is to enter stop 4 upwards. -/
def beGrain0 : BeGrain := { run := 0, src := 0, at0 := 0, arr := 0, g := mkGrain 0 9 3 1 false false 0, bad := 0, legs := [(4, true, 0)] }

theorem wit_HubGrains_stops :
    (let a := flight0
     let b := { flight0 with g := mkGrain 0 0 4 0 false false 0, core := 1 }
     let s := flying run0 [a, b]
     a.core < 1024 ∧ b.core < 1024 ∧ kget [] s.lnk.collide 4 = [] ∧ a.g ≠ b.g ∧
       s.lnk.flights.find? (fun f => f.run == 0 && f.g == a.g) = some a ∧
       (s.lnk.flights.erase a).find? (fun f => f.run == 0 && f.g == b.g) = some b) ∧
    (∀ n, n = 2 ∨ n = 3 →
      (let s := { st0 with lnk := { Lnk.reset with beWait := [beGrain0], beBuf := [(9, List.replicate n beGrain0)] } }
       s.lnk.beWait.find? (fun b => b.legs.head?.any (fun l => l.1 == 4 && l.2.1 == true)) = some beGrain0 ∧
         (kget [] s.lnk.beBuf 9).length = n)) ∧
    (let g := mkGrain 0 0x3FD 3 1 false false 0
     Grain.cls g ≠ 0 ∧ Grain.dmod g = st0.moduleId ∧ 0x3F0 ≤ Grain.dcore g) ∧
    (let g := mkGrain 0 0x3EF 3 1 false false 0
     Grain.cls g ≠ 0 ∧ Grain.dmod g = st0.moduleId ∧ Grain.dcore g < 0x3F0) ∧
    (let g := mkGrain 1 0 3 1 false false 0
     Grain.cls g ≠ 0 ∧ Grain.resent g = false ∧ Grain.resent (Grain.asResent g) = true ∧ Grain.dmod g ≠ st0.moduleId ∧ st0.route (Grain.dmod g) = none) ∧
    (let g := mkGrain 1 0 3 1 false false 0
     let s := { st0 with lnk := { Lnk.reset with ports := [(0, { Port.reset with st := 7 })] } }
     Grain.dmod g ≠ s.moduleId ∧ s.route (Grain.dmod g) = some 0) := by
  refine ⟨by decide +kernel, ?_, by decide +kernel, by decide +kernel, by decide +kernel, by decide +kernel⟩
  rintro n (rfl | rfl) <;> decide +kernel

/-- A run whose tables give the hub one slot of stream 5 to core 3. -/
def hubRun : Run := { run0 with tun := { tun0 with
  sections := [{ type := 0x18, mod := 0, bytes := [2, 5, 0, 0x80, 0, 0, 3, 0, 200, 0, 0, 0, 0, 0, 0, 0] }] } }

def replying : State :=
  { st0 with
    cores := [(0, core0), (3, { Core.reset with streams := [(5, stream0 .data)] })]
    runs := [(0, hubRun)]
    lnk := { Lnk.reset with replies := [(0, 3, 5, 100, 0x77)] } }

theorem wit_HubGrains_reply :
    replying.run? 0 = some hubRun ∧ hubRun.phase = .active ∧
    replying.lnk.replies.find? (fun e => e.1 == 0 && e.2.1 == 3 && e.2.2.1 == (5 : BitVec 8).toNat) = some (0, 3, 5, 100, 0x77) ∧
    replying.hubTimes hubRun 3 (5 : BitVec 8).toNat ≠ [] ∧
    kfind (replying.core 3).streams (5 : BitVec 8).toNat = some (stream0 .data) := by decide +kernel
/-- The small state with port 31 as given. -/
def withPort (x : Port) : State := { st0 with lnk := { Lnk.reset with ports := [(31, x)] } }

/-- A module whose boot is done. -/
def booted (s : State) : State := { s with hub := { Hub.reset with bootStage := 5, ready := true } }

/-- A run whose tables give port 31 an inbound slot of stream 3 to core 0, slot 403 of the run, from module 1 with sequence
number 7. -/
def portRun : Run := { run0 with tun := { tun0 with
  sections := [{ type := 0x18, mod := 0, bytes := [4, 3, 31, 0x80, 0, 0, 0, 0, 0x93, 1, 0, 0, 0, 0, 0, 0] },
    { type := 0x19, mod := 0, bytes := [1, 0, 0, 0, 1, 0, 31, 0, 7, 0, 0, 0, 0x93, 1, 0, 0, 0, 0, 0, 0] }] } }

theorem wit_Ports_codewords :
    (st0.port 31).cwLock = false ∧ ((withPort { Port.reset with cwLock := true }).port 31).cwLock = true ∧
    (List.replicate 256 (0 : BitVec 10)).length = 256 := by decide +kernel

theorem wit_Ports_training :
    (∀ n, n = 0 ∨ n = 4 ∨ n = 5 →
      (let s := booted (withPort { Port.reset with st := BitVec.ofNat 3 n })
       (s.port 31).st = BitVec.ofNat 3 n ∧ (s.port 31).st ≠ 7 ∧ (s.port 31).st ≠ 6 ∧ (s.port 31).enable = true ∧
         s.chn.strapsOk = true ∧ s.portUsed 31 = false ∧ s.hub.splitAct.getLsbD 3 = false ∧ s.hub.bootStage = 5 ∧
         s.hub.fatal = false ∧ s.restsDown (s.port 31) = false)) ∧
    (let x := partnerOf (st0.moduleId / 16) (st0.moduleId % 16) 31
     x.1 < 1024 ∧ x.2 < 32 ∧ x.1 ≠ 5) := by
  refine ⟨?_, by decide +kernel⟩
  rintro n (rfl | rfl | rfl) <;> decide +kernel

theorem wit_Ports_down :
    (let s := withPort { Port.reset with st := 7 }
     (s.port 31).st ≠ 0 ∧ s.portUsed 31 = false) ∧
    (let s := { withPort { Port.reset with st := 7 } with runs := [(0, portRun)] }
     (s.port 31).st ≠ 0 ∧ s.runs = [(0, portRun)] ∧ s.usesPort portRun 31 = true ∧ portRun.mode ≠ 2 ∧
       portRun.endStatus = none) ∧
    (st0.port 31).st = 0 := by decide +kernel

/-- The control grains of slot 0 of frame 5 from port 0 of module 0, and of slot 1 from its port 31, which asks to retrain. -/
def ctrlGrain : Grain := 0x7234f19f000000000000000fffff00000000000000000000000000000000000000000000000000000000000000000000000000000000000000000000000000000000000000000005

def retrainGrain : Grain := 0x7811f83c000000000000000fffff00000000000000000000000000000000000000000000000000000000000000000000000000000000000000000000000000000007c00000030005

/-- The first of them, asking for a far-end loop. -/
def farGrain : Grain := 0x10775f05000000000000000fffff00000000000000000000000000000000000000000000000000000000000000000000000000000000000000000000000000000000000000040005

theorem wit_Ports_control :
    (let s := withPort { Port.reset with frameLock := true, missed := 30, rxQ := [(25, badGrain)] }
     (s.port 31).rxQ = [(25, badGrain)] ∧ 25 % 25 = 0 ∧ (s.port 31).frameLock = true ∧ ctlCrcOk badGrain = false ∧
       (s.port 31).missed + 1 < 32) ∧
    (∀ e : Option Nat, e = none ∨ e = some 10 →
      (let s := withPort { Port.reset with frameLock := true, rxQ := [(0, ctrlGrain)], expSlot := e }
       (s.port 31).rxQ = [(0, ctrlGrain)] ∧ ctlCrcOk ctrlGrain = true ∧
         ((s.port 31).expSlot = none ∨ (s.port 31).expSlot = some (2 * bits ctrlGrain 0 16 + bits ctrlGrain 16 1)) ∧
         ctrlGrain.getLsbD 17 = false ∧ (∀ j, j < 5 → ctrlGrain.getLsbD (64 + 64 * j + 12) = false))) ∧
    (ctlCrcOk farGrain = true ∧ farGrain.getLsbD 17 = false ∧ farGrain.getLsbD 18 = true ∧ ctrlGrain.getLsbD 18 = false ∧
      (∀ j, j < 5 → farGrain.getLsbD (64 + 64 * j + 12) = false)) ∧
    (ctlCrcOk retrainGrain = true ∧ retrainGrain.getLsbD 17 = true) := by
  refine ⟨by decide +kernel, ?_, by decide +kernel, by decide +kernel⟩
  rintro e (rfl | rfl) <;> decide +kernel

/-- A NAK for sequence number 7 of this module, and the copy that it asks for. -/
def nak0 : DWord := 0x71000

def kept0 : Retained := { run := 0, seq := 7, port := 30, g := grain0, age := 5, sent := 1 }

theorem wit_Ports_resend :
    (let s := { st0 with lnk := { Lnk.reset with retained := [kept0] } }
     nak0.getLsbD 12 = true ∧ bits nak0 0 10 = s.moduleId ∧ s.moduleId ≠ 0x3FF ∧
       s.lnk.retained.find? (fun e => e.seq == bits nak0 16 32) = some kept0 ∧ kept0.sent < 2 ∧
       (0 : DWord).getLsbD 12 = false) ∧
    (∀ own : Option Nat, own = none ∨ own = some 0 →
      (let s := { withPort { Port.reset with st := 7, resendQ := [(own, grain0)] } with chn := { Chn.reset with count := 23 } }
       (s.port 31).resendQ = [(own, grain0)] ∧ (s.port 31).st = 7 ∧ s.retryFree (s.port 31) = true ∧ s.run? 0 = some run0)) ∧
    (let s := withPort { Port.reset with st := 7, resendQ := [(none, grain0)] }
     s.retryFree (s.port 31) = false) ∧ (st0.port 31).resendQ = [] := by
  refine ⟨by decide +kernel, ?_, by decide +kernel, by decide +kernel⟩
  rintro own (rfl | rfl) <;> decide +kernel

/-- Unscheduled grains on stream 3 for the management processors of module 0 and for module 1. -/
def beGrain : Grain := mkGrain 0 0x3FD 3 1 false false 0

def beGrain1 : Grain := mkGrain 1 0 3 1 false false 0

/-- Port 31 active with a grain of slot k received; port 0 active or not. -/
def received (k : Nat) (g : Grain) (zero : BitVec 3) : State :=
  { idle with
    lnk := { Lnk.reset with ports := [(0, { Port.reset with st := zero }), (31, { Port.reset with st := 7, rxQ := [(k, g)] })] } }

theorem wit_ReceivedGrains :
    ((idle.port 31).rxQ = []) ∧
    (∀ k, k = 1 ∨ k = 49 →
      (let s := received k beGrain 0
       (s.port 31).rxQ = [(k, beGrain)] ∧ k % 25 ≠ 0 ∧ (s.port 31).st = 7 ∧ s.runs = [] ∧ s.lnk.heldIn = [] ∧ Grain.idle beGrain = false ∧
         Grain.crcOk beGrain = true ∧ s.malformedCond beGrain k none = none ∧ Grain.resent beGrain = false ∧
         Grain.cls beGrain ≠ 0 ∧ Grain.dmod beGrain = s.moduleId ∧ 0x3F0 ≤ Grain.dcore beGrain)) ∧
    (let s := received 1 beGrain1 7
     Grain.idle beGrain1 = false ∧ Grain.crcOk beGrain1 = true ∧ s.malformedCond beGrain1 1 none = none ∧
       Grain.resent beGrain1 = false ∧ Grain.cls beGrain1 ≠ 0 ∧ Grain.dmod beGrain1 ≠ s.moduleId ∧
       s.route (Grain.dmod beGrain1) = some 0) ∧
    ((received 1 beGrain1 0).route (Grain.dmod beGrain1) = none ∧ Grain.idle idleGrain = true ∧ Grain.crcOk idleGrain = true ∧
      Grain.idle (idleGrain ^^^ 0x100000000) = true ∧ Grain.crcOk (idleGrain ^^^ 0x100000000) = false) ∧
    (Grain.idle badGrain = false ∧ Grain.crcOk badGrain = false ∧ Grain.dmod badGrain = idle.moduleId ∧
      Grain.resent badGrain = false) ∧
    (Grain.crcOk grain0 = true ∧ (received 1 grain0 0).malformedCond grain0 1 none = some 0 ∧ Grain.resent grain0 = false) ∧
    ((received 1 beGrain 0).port 0).st ≠ 7 := by
  refine ⟨by decide +kernel, ?_, by decide +kernel, by decide +kernel, by decide +kernel, by decide +kernel, by decide +kernel⟩
  rintro k (rfl | rfl) <;> decide +kernel

/-- The run with slots at port 31 and a grain received in slot 3 of its frame 8. -/
def slotted (k : Nat) (g : Grain) : State :=
  { received k g 0 with cores := [(0, core0)], runs := [(0, portRun)], chn := { Chn.reset with count := 223 } }

/-- The grain that these tables name, and its re-sent copy. -/
def slotGrain : Grain := mkGrain 0 0 3 0 false false 0x55

def copyGrain : Grain := Grain.asResent slotGrain

def nakOut : OutNak := { run := 0, dcore := 0, strm := 3, src := 1, seq := 7, tries := 0, q := 0, t := 500 }

theorem wit_ReceivedGrains_slots :
    (let s := slotted 3 slotGrain
     s.rxFrame 31 3 = 8 ∧ s.runs = [(0, portRun)] ∧ s.slotNo portRun 8 3 = some 403 ∧ s.lnk.heldIn = [] ∧
       s.landsLate 31 8 3 slotGrain = none ∧
       (∃ e, s.inSlot portRun 31 8 3 = some e ∧ e.dcore < 0x3F0 ∧ s.malformedCond slotGrain 3 (some e) = none) ∧
       Grain.idle slotGrain = false ∧ Grain.dmod slotGrain = s.moduleId ∧ Grain.resent slotGrain = false ∧
       Grain.crcOk slotGrain = true ∧ Grain.cls slotGrain = 0 ∧ s.expected portRun 31 8 3 = some (1, 7) ∧
       Grain.crcOk (slotGrain ^^^ 0x100000000) = false) ∧
    (let s := { slotted 49 copyGrain with lnk := { (slotted 49 copyGrain).lnk with outNaks := [nakOut] } }
     (s.port 31).rxQ = [(49, copyGrain)] ∧
       s.runs.findSome? (fun e => s.expected e.2 31 (s.rxFrame 31 49) 49) = none ∧ Grain.idle copyGrain = false ∧
       Grain.crcOk copyGrain = true ∧ Grain.dmod copyGrain = s.moduleId ∧ Grain.resent copyGrain = true ∧
       takeNak (Grain.dcore copyGrain) (Grain.stream copyGrain) s.lnk.outNaks = some (nakOut, [])) :=
  ⟨⟨by decide +kernel, by decide +kernel, by decide +kernel, by decide +kernel, by decide +kernel, ⟨_, rfl, by decide +kernel⟩,
    by decide +kernel⟩, by decide +kernel⟩

/-- The run a frame late, by a hold of its first furlong. -/
def lateRun : Run :=
  { portRun with tun := { portRun.tun with holdFrames := 1 }, furlong := 1, exts := [(0, 1)], exempt := 10, lateBy := 1 }

theorem wit_ReceivedGrains_held :
    (let s := { slotted 3 slotGrain with runs := [(0, lateRun)] }
     (s.port 31).rxQ = [(3, slotGrain)] ∧ s.lnk.heldIn = [] ∧ s.landsLate 31 (s.rxFrame 31 3) 3 slotGrain = some (0, 9)) ∧
    (let s := slotted 3 slotGrain
     let h := (0, 31, 8, 3, slotGrain)
     let t := { s with lnk := { s.lnk with heldIn := [h] } }
     t.lnk.heldIn.find? (fun h => h.2.1 == 31 && h.2.2.1 == t.rxFrame 31 3 && h.2.2.2.1 == 3) = some h) := by decide +kernel

/-- A hold of job 7, furlong 0, index 1. -/
def holdPayload : Payload := 7 + 0 * 2 ^ 64 + 1 * 2 ^ 96

/-- CHAIN_FULL from module 1 with count 1,000 at frame 9. -/
def fullPayload : Payload := 1 + 1 * 2 ^ 16 + 1000 * 2 ^ 128 + 9 * 2 ^ 192

/-- Member 1 of group 0, whose parent port 28 has heard the frame given. -/
def member1 (f : BitVec 16) : State :=
  { idle with
    chn := { Chn.reset with straps := { Straps.module0 with mbr := 1 } }
    lnk := { Lnk.reset with ports := [(28, { Port.reset with st := 7, depth := 3, lastHeard := some (f, 44) })] } }

theorem wit_ChainAndHolds_master :
    (st0.master = true ∧ st0.chn.running = false ∧ st0.chn.count < 400000) ∧ (member1 9).master = false ∧
    (∀ far : Bool,
      (let s := { idle with
         chn := { Chn.reset with count := 400000 }
         lnk := { Lnk.reset with ports := [(0, { Port.reset with st := 7, farSynced := far })] } }
       s.master = true ∧ s.chn.running = false ∧ 400000 ≤ s.chn.count ∧ (s.port 0).st = 7 ∧ (s.port 0).farSynced = far ∧
         (∀ q, q < 32 → q ≠ 0 → (s.port q).st ≠ 7))) ∧
    (let s := { idle with chn := { Chn.reset with okFrames := 1024, depth := 0, synced := true, theta := -25 } }
     1024 ≤ s.chn.okFrames ∧ s.chn.depth ≠ 15 ∧ s.chn.synced = true ∧ 24 < s.chn.theta.natAbs) ∧
    (let s := { member1 9 with chn := { (member1 9).chn with silent := 1024, synced := true } }
     s.parentPorts ≠ [] ∧ 1024 ≤ s.chn.silent ∧ s.chn.synced = true) := by
  refine ⟨by decide +kernel, by decide +kernel, ?_, by decide +kernel, by decide +kernel⟩
  intro far; cases far <;> decide +kernel

theorem wit_ChainAndHolds_full :
    bits fullPayload 0 8 = 1 ∧ bits fullPayload 192 16 = 9 ∧ bits (2 : Payload) 0 8 ≠ 1 ∧ { Chn.reset with depth := 14 }.depth ≠ 15 ∧
    (∀ f : BitVec 16, f = 9 ∨ f = 8 →
      (let s := member1 f
       s.chn.depth = 15 ∧ s.master = false ∧ s.parentPort = some 28 ∧ (s.port 28).lastHeard = some (f, 44))) ∧
    (∀ f : BitVec 16, f = 9 ∨ f = 8 →
      (let s := { idle with
         chn := { Chn.reset with asked := true }
         lnk := { Lnk.reset with ports := [(0, { Port.reset with st := 7, farSynced := true, lastHeard := some (f, 44) })] } }
       s.chn.depth = 15 ∧ s.master = true ∧ s.chn.asked = true ∧ s.portTo (bits fullPayload 16 16) = some 0 ∧
         (s.port 0).lastHeard = some (f, 44) ∧ (s.port 0).farSynced = true)) ∧
    (idle.master = true ∧ idle.chn.asked = false ∧ idle.chn.depth = 15) := by
  refine ⟨by decide +kernel, by decide +kernel, by decide +kernel, by decide +kernel, ?_, ?_, by decide +kernel⟩
  · rintro f (rfl | rfl) <;> decide +kernel
  · rintro f (rfl | rfl) <;> decide +kernel

theorem wit_ChainAndHolds_hold :
    (let s := { st0 with chn := { Chn.reset with holdsSeen := [(7, 0, 1)] } }
     s.chn.holdsSeen.contains (BitVec.ofNat 64 (bits holdPayload 0 64), bits holdPayload 64 32, bits holdPayload 96 8) = true) ∧
    (∀ n, n = 0 ∨ n = 1 →
      (let x := { run0 with furlong := n, openAt := 65536 * n, opens := [(n, 65536 * n)] }
       let s := { withRun x with clk := 65536 * n + 65535 }
       s.chn.holdsSeen.contains (BitVec.ofNat 64 (bits holdPayload 0 64), bits holdPayload 64 32, bits holdPayload 96 8) = false ∧
         s.runs = [(0, x)] ∧ x.job = BitVec.ofNat 64 (bits holdPayload 0 64) ∧ x.phase = .active ∧
         (n = 0 → x.furlong ≤ bits holdPayload 64 32 ∧ s.clk < x.openAt + x.furlongCc) ∧
         (n = 1 → bits holdPayload 64 32 < x.furlong))) := by
  refine ⟨by decide +kernel, ?_⟩
  rintro n (rfl | rfl) <;> decide +kernel

/-- A run at its boundary: the tick in progress ends at the clock value given. -/
def atBoundary (x : Run) : State := { withRun x with clk := 65531 }

theorem wit_Furlongs_cycle :
    (let s := { st0 with stalls := [(0, (5, 1))] }
     0 < (s.stallsAt s.pos).2) ∧
    (let s := { st0 with pwr := { Pwr.reset with standing := [.therm] } }
     (s.stallsAt s.pos).2 = 0 ∧ s.stallStands = true) ∧
    ((st0.stallsAt st0.pos).2 = 0 ∧ st0.stallStands = false ∧ st0.stallTot ≤ st0.clk) := by decide +kernel

theorem wit_Furlongs_boundary :
    (st0.run? 0 = some run0 ∧ run0.phase = .active ∧ (∀ c, c ∈ st0.coresOf 0 → (st0.core c).ell = none) ∧
      { st0 with clk := 65530 }.clk + ccPerTick st0.pwr.cur ≤ { st0 with clk := 65530 }.boundaryAt run0) ∧
    (let s := atBoundary run0
     s.boundaryAt run0 < s.clk + ccPerTick s.pwr.cur ∧ run0.endStatus = none ∧ run0.preempt = none ∧ run0.stepAt = none ∧
       s.pwr.standing = []) ∧
    { run0 with phase := .waiting }.phase ≠ .active ∧
    (let x := { run0 with stepAt := some (1, 2) }
     let s := atBoundary x
     s.runs = [(0, x)] ∧ x.stepAt = some (1, 2) ∧ 1 ≤ x.furlong + 1 ∧ s.pwr.standing = [] ∧
       (2 : BitVec 2).toNat + 1 = s.pwr.cur.toNat ∧ x.mode ≠ 1 ∧ (2 : BitVec 2).toNat ≤ x.lnchStep.toNat ∧
       s.boundaryAt x < s.clk + ccPerTick s.pwr.cur) ∧
    (let x := { run0 with stepAt := some (2, 2) }
     x.stepAt = some (2, 2) ∧ x.furlong + 1 < 2) ∧
    (let x := { run0 with endStatus := some 6 }
     (atBoundary x).run? 0 = some x ∧ x.endStatus = some 6 ∧ x.endExit = false) := by decide +kernel

theorem wit_Furlongs_holds :
    (run0.stallK < run0.tun.slack + run0.holdsSent * st0.extCc run0 + 1) ∧
    (let x := { run0 with stallK := 1 }
     (withRun x).run? 0 = some x ∧ x.phase = .active ∧
       x.tun.slack + x.holdsSent * (withRun x).extCc x + 1 ≤ x.stallK ∧
       (withRun x).chn.holdsSeen.contains (x.job, x.furlong, x.holdsSent + 1) = false) ∧
    { st0 with chn := { Chn.reset with holdsSeen := [(7, 0, 1)] } }.chn.holdsSeen.contains (run0.job, run0.furlong, 1) = true := by
  decide +kernel

/-- A management grain's payload: TYPE, sender 0, job 7 and a field at bit 128. -/
def mgmtPayload (t n : Nat) : Payload := BitVec.ofNat 512 (t + 7 * 2 ^ 64 + n * 2 ^ 128)

/-- A run that has been admitted on module 0 alone. -/
def admitted0 : Run := { run0 with phase := .admitted, cl := none, launched := none }

theorem wit_Furlongs_grains :
    (∀ t, 2 ≤ t → t ≤ 7 → bits (mgmtPayload t 0) 0 8 = t ∧ bits (mgmtPayload (t + 1) 0) 0 8 ≠ t ∧
      (withRun admitted0).namedRuns (mgmtPayload t 0) = [0] ∧ idle.namedRuns (mgmtPayload t 0) = []) ∧
    (admitted0.phase = .admitted ∧ admitted0.cl = none ∧ (withRun admitted0).isEntry admitted0 = true ∧
      admitted0.tun.participants = [0] ∧ admitted0.endStatus = none ∧ admitted0.endExit = false) ∧
    (∀ l : Option Nat, l = none ∨ l = some 0 →
      (let x := { admitted0 with phase := .waiting, launched := l }
       (withRun x).namedRuns (mgmtPayload 4 6) = [0] ∧ (withRun x).runs = [(0, x)])) ∧
    (bits (mgmtPayload 3 24) 128 64 = 24 ∧ (withRun admitted0).chn.count + 24 ≤ 24 ∧
      bits (mgmtPayload 3 23) 128 64 < (withRun admitted0).chn.count + 24) ∧
    (run0.phase = .active ∧ run0.mode ≠ 2 ∧ run0.mode ≠ 1 ∧ run0.endStatus = none ∧ st0.namedRuns (mgmtPayload 4 6) = [0] ∧
      (∀ e, e ∈ st0.activeRuns → e.1 = 0) ∧ run0.furlong < bits (mgmtPayload 6 1) 128 32 ∧
      bits (mgmtPayload 6 0) 128 32 ≤ run0.furlong) ∧
    (let s := { st0 with runs := [(0, run0), (1, { run0 with job := 8 })] }
     s.namedRuns (mgmtPayload 6 1) = [0] ∧ s.run? 0 = some run0 ∧ ∃ e, e ∈ s.activeRuns ∧ e.1 ≠ 0) ∧
    (let x := { run0 with mode := 2, tun := { tun0 with
       sections := [{ type := 0x1A, mod := 0, bytes := [1, 0, 5, 0, 0, 0, 0, 0, 0, 0, 0, 0] }] } }
     (withRun x).namedRuns (mgmtPayload 5 (3 + 1 * 2 ^ 32 + 5 * 2 ^ 48)) = [0] ∧ x.mode = 2 ∧
       x.furlong < bits (mgmtPayload 5 (3 + 1 * 2 ^ 32 + 5 * 2 ^ 48)) 128 32 + 2 ∧
       x.tun.detour st0.moduleId 1 5 ≠ none) := by
  refine ⟨?_, by decide +kernel, by rintro l (rfl | rfl) <;> decide +kernel, by decide +kernel, by decide +kernel,
    ⟨by decide +kernel, by decide +kernel, (1, { run0 with job := 8 }), by decide +kernel, by decide⟩, by decide +kernel⟩
  intro t h2 h7
  match t, h2, h7 with
  | 2, _, _ => decide +kernel
  | 3, _, _ => decide +kernel
  | 4, _, _ => decide +kernel
  | 5, _, _ => decide +kernel
  | 6, _, _ => decide +kernel
  | 7, _, _ => decide +kernel

/-- The READY records that agree and do not. -/
def readyPayload (mode : Nat) : Payload :=
  BitVec.ofNat 512 (2 + 7 * 2 ^ 64 + mode * 2 ^ 256 + 3 * 2 ^ 264 + 16 * 2 ^ 272)

theorem wit_Furlongs_ready :
    (bits (readyPayload 0) 0 8 = 2 ∧ (withRun admitted0).namedRuns (readyPayload 0) = [0] ∧
      (readyOf (readyPayload 0)).job = admitted0.job ∧ (readyOf (readyPayload 0)).sender = 0) ∧
    (let m : ReadyRec := (withRun admitted0).readyRec admitted0
     m.mode = (readyOf (readyPayload 0)).mode ∧ m.fstep = (readyOf (readyPayload 0)).fstep ∧
       m.fn = (readyOf (readyPayload 0)).fn ∧ m.mode ≠ (readyOf (readyPayload 1)).mode) ∧
    (let c := ((withRun admitted0).chn.count + (withRun admitted0).chn.margin.toNat + 23) / 24 * 24
     (withRun admitted0).chn.count + 24 ≤ c) ∧
    (let x := { admitted0 with tun := { tun0 with participants := [0, 1] } }
     (withRun x).namedRuns (readyPayload 0) = [0] ∧ 1 ∈ x.tun.participants ∧ (readyOf (readyPayload 0)).sender ≠ 1) := by
  decide +kernel

/-- Readings at t °C everywhere. -/
def hot (t : Nat) : Telemetry := { Telemetry.zero with hottest := t, hubCore := t, hg0 := t, hg1 := t }

def withPwr (x : Pwr) : State := { st0 with pwr := x }

theorem wit_PowerAndThermal_beats :
    (st0.board.loadOn = true ∧ st0.pwr.st = 0 ∧ st0.hub.fatal = false ∧
      kget 0 (withPwr { Pwr.reset with stretches := [(17, 5), (19, 4)] }).pwr.stretches 17 < 6 ∧
      4 ≤ kget 0 (withPwr { Pwr.reset with stretches := [(17, 5), (19, 4)] }).pwr.stretches 19) ∧
    (let s := withPwr { Pwr.reset with stretches := [(21, 5)] }
     (21, 5) ∈ s.pwr.stretches ∧ 5000 * s.pwr.beatRoot < (4200 + 200 * 5 + 100) * 24) ∧
    (let s := withPwr { Pwr.reset with stretches := [(21, 3)] }
     ∀ k m, (k, m) ∈ s.pwr.stretches → ¬ 5000 * s.pwr.beatRoot < (4200 + 200 * m + 100) * 24) := by
  refine ⟨by decide +kernel, by decide +kernel, ?_⟩
  intro s k m h
  simp only [s, withPwr, List.mem_singleton, Prod.mk.injEq] at h
  rw [h.2]; decide

theorem wit_PowerAndThermal_regions :
    (∀ n : BitVec 3, n = 2 ∨ n = 3 →
      (let s := withPwr { Pwr.reset with st := n, stretches := [(17, 5), (18, 5)] }
       s.board.loadOn = true ∧ s.hub.fatal = false ∧ (s.pwr.st = 2 ∨ s.pwr.st = 3) ∧ 18 ≤ 18 ∧ s.pwr.st ≠ 0 ∧ ¬ 18 ≤ 17)) ∧
    (withPwr { Pwr.reset with st := 1 }).pwr.st = 1 ∧ (withPwr { Pwr.reset with extend := true }).pwr.extend = true := by
  refine ⟨?_, by decide +kernel⟩
  rintro n (rfl | rfl) <;> decide +kernel

theorem wit_PowerAndThermal_steps :
    (let s := withPwr { Pwr.reset with hotBeats := 64, tele := { Telemetry.zero with power10ms := 801 } }
     s.runs = [(0, run0)] ∧ run0.phase = .active ∧ run0.mode ≠ 1 ∧ run0.stepAt = none ∧ s.pwr.cur ≠ 0 ∧
       64 ≤ s.pwr.hotBeats ∧ 800 < s.pwr.tele.power10ms ∧ s.activeRuns ≠ []) ∧
    (let s := { withPwr { Pwr.reset with hotBeats := 64 } with runs := [(0, { run0 with mode := 1 })] }
     s.activeRuns ≠ [] ∧ s.singleRun = false) ∧
    (let x := { run0 with furlong := 1, openAt := 65536 }
     let s := { withRun x with pwr := { Pwr.reset with cur := 2, coolAt := some 0 } }
     s.runs = [(0, x)] ∧ x.phase = .active ∧ x.mode ≠ 1 ∧ x.stepAt = none ∧ s.pwr.cur.toNat < x.lnchStep.toNat ∧
       x.startF < x.furlong ∧ s.pwr.coolAt = some 0 ∧
       0 ≤ x.openAt - x.furlongCc - kget 0 x.exts (x.furlong - 1) * s.extCc x) ∧
    (run0.lnchStep.toNat ≤ st0.pwr.cur.toNat ∧ st0.pwr.coolAt = none) := by decide +kernel

theorem wit_PowerAndThermal_limits :
    (∀ why : EmergCond,
      (let t := { hot 105 with power := 851, nbrDev := 61 }
       let s := withPwr { Pwr.reset with tele := t }
       s.board.loadOn = true ∧ s.pwr.st ≠ 4 ∧ s.hub.fatal = false ∧ why ∉ s.pwr.standing ∧ why ∉ s.pwr.emergIn ∧
         why ∈ (withPwr { Pwr.reset with tele := t, standing := [.therm, .power, .neighbour] }).pwr.standing ∧
         s.pwr.thEmerg.toNat ≤ maxRegion s.pwr.tele ∧ 850 < s.pwr.tele.power ∧ 60 < s.pwr.tele.nbrDev)) ∧
    (maxRegion (hot 99) < 100 ∧ ¬ maxRegion (hot 100) < 100 ∧ (hot 99).power < 800 ∧ (hot 99).nbrDev ≤ 50 ∧
      (hot 99).nbrTemp ≤ 20) ∧
    (115 ≤ maxRegion (hot 115) ∧ maxRegion (hot 114) < 115) := by
  refine ⟨?_, by decide +kernel, by decide +kernel⟩
  intro why; cases why <;> decide +kernel

theorem wit_PowerAndThermal_states :
    (∀ n : BitVec 3, n = 1 ∨ n = 2 ∨ n = 3 →
      (let s := withPwr { Pwr.reset with st := n, untilTk := some 10 }
       s.board.loadOn = true ∧ s.pwr.st = n ∧
         10 ≤ s.chn.count + (if s.pwr.st = 1 then 10 else if s.pwr.st = 2 then 4000 else 400000))) ∧
    (st0.pwr.st ≠ 4 ∧ st0.activeRuns ≠ []) ∧
    (idle.regsAct = true ∧ idle.hub.fatal = false ∧ idle.activeRuns = [] ∧ (∀ p, p < 32 → idle.portUsed p = false)) ∧
    ((withPwr { Pwr.reset with st := 4 }).board.loadOn = true ∧ (withPwr { Pwr.reset with st := 4 }).pwr.st = 4) := by
  refine ⟨?_, by decide +kernel, by decide +kernel, by decide +kernel⟩
  rintro n (rfl | rfl | rfl) <;> decide +kernel

theorem wit_PowerAndThermal_crossings :
    (let s := withPwr { Pwr.reset with calDue := true }
     s.board.loadOn = true ∧ s.pwr.st ≠ 4 ∧ s.hub.fatal = false ∧ s.pwr.calDue = true) ∧
    (∀ i, i < 192 → ([] : List Nat).getD i 0 ≤ Config.xcalShare (i / 4) (i % 4)) ∧
    (∃ i, i < 192 ∧ Config.xcalShare (i / 4) (i % 4) < [Config.xcalShare 0 0 + 1].getD i 0) ∧ st0.pwr.calDue = false :=
  ⟨by decide +kernel, fun _ _ => Nat.zero_le _, ⟨0, by decide, Nat.lt_succ_self _⟩, by decide⟩

/-- A pre-emption for the boundary that opens furlong f. -/
def saving (f : Nat) : Preempt :=
  { cmd := { id := 2, head := 2 }, furlong := f, addr := 0x1000, len := 0x1000000, saveKey := 0, saved := 0, cores := []
    flags := [], barriers := [] }

theorem wit_Furlongs_saved :
    (let x := { run0 with preempt := some (saving 1) }
     let s := atBoundary x
     s.run? 0 = some x ∧ s.boundaryAt x < s.clk + ccPerTick s.pwr.cur ∧ x.endStatus = none ∧ (saving 1).furlong = x.furlong + 1 ∧
       (s.core 0).run = some 0) ∧
    (∀ p, { run0 with preempt := some (saving 2) }.preempt = some p → p.furlong ≠ run0.furlong + 1) := by
  refine ⟨by decide +kernel, fun p h => ?_⟩
  cases h; decide

theorem wit_Furlongs_agree :
    readyAgree (readyOf (readyPayload 0)) ((withRun admitted0).readyRec admitted0) = true ∧
    readyAgree (readyOf (readyPayload 1)) ((withRun admitted0).readyRec admitted0) = false := by decide +kernel

/-- A run that waits. -/
def waiting : Run := { run0 with phase := .waiting, cl := none, launched := none }

/-- The DET_ block with mode m active and perhaps another pending. -/
def detMode (m : BitVec 2) (pend : Bool) : Det := { Det.reset with active := m, changePend := pend }

theorem wit_RegisterCommands_mode :
    (∀ x : State, x = { st0 with board := { Board.reset with loadOn := false } } ∨ x = withPwr { Pwr.reset with st := 4 } →
      x.regsAct = false) ∧
    (st0.regsAct = true ∧ idle.regsAct = true ∧ idle.activeRuns = [] ∧ st0.activeRuns ≠ []) ∧
    (∀ m, m < 3 → modeTaken st0 m) ∧ ¬ modeTaken st0 3 ∧
    ¬ modeTaken { st0 with det := { Det.reset with sealLock := true } } 2 ∧
    (bits (2 : Word) 0 2 = 2 ∧ idle.det.active ≠ 2) ∧
    ((0x100 : Word).getLsbD 8 = true ∧ idle.det.sealLock = false ∧ (2 : Word).getLsbD 8 = false ∧
      (1 : Word).getLsbD 0 = true ∧ (0 : Word).getLsbD 0 = false) ∧
    (∀ p : Bool, { idle with det := detMode 2 p }.det.active = 2 ∧ { st0 with det := detMode 2 p }.det.active = 2) ∧
    (let s := { st0 with det := { detMode 0 true with pendMode := 2 } }
     s.det.changePend = true ∧ s.det.pendMode = 2 ∧ s.activeRuns ≠ []) ∧
    (let s := { idle with det := { detMode 0 true with pendMode := 1 } }
     s.det.changePend = true ∧ s.activeRuns = [] ∧ idle.det.changePend = false) := by
  refine ⟨?_, by decide +kernel, ?_, by unfold modeTaken; decide +kernel, by unfold modeTaken; decide +kernel,
    by decide +kernel, by decide +kernel, ?_, by decide +kernel, by decide +kernel⟩
  · rintro x (rfl | rfl) <;> decide +kernel
  · intro m h
    match m, h with
    | 0, _ => exact .inl rfl
    | 1, _ => exact .inr (.inl rfl)
    | 2, _ => exact .inr (.inr ⟨rfl, rfl⟩)
  · intro p; cases p <;> decide +kernel

theorem wit_RegisterCommands_counters :
    ((withPwr { Pwr.reset with st := 4 }).board.loadOn = true ∧ (withPwr { Pwr.reset with st := 4 }).pwr.st = 4 ∧
      st0.board.loadOn = true ∧ st0.pwr.st ≠ 4) ∧
    (let d := { Det.reset with emerg := { val := 2 ^ 32 + 3, latch := some 7 } }
     detCounter d 2 = { val := 2 ^ 32 + 3, latch := some 7 }) ∧
    (let s := { st0 with ctxs := [(1, { Ctx.reset with enabled := true, dbErr := 3 })] }
     1 ≤ 1 ∧ 1 ≤ 512 ∧ (s.ctx 1).enabled = true ∧ (s.ctx 1).dbErr = 3) ∧
    (∀ off, off = 0x103F ∨ off = 0x1044 ∨ off = 0x1080 → off ≠ 0x2008 ∧ (off < 0x1040 ∨ 0x1080 ≤ off ∨ off % 8 ≠ 0)) ∧
    (512 < 513 ∧ (0x401000 ≤ 0x600FFF ∧ 0x600FFF < 0x601000)) ∧
    (∀ off, off = 0x1000 ∨ off = 0x7FFF ∨ off = 0x8010 ∨ off = 0x1FFFFFFF →
      (0x1000 ≤ off ∧ off < 0x8000) ∨ (0x8010 ≤ off ∧ off < 0x20000000)) := by
  refine ⟨by decide +kernel, by decide +kernel, by decide +kernel, ?_, by decide, ?_⟩
  · rintro off (rfl | rfl | rfl) <;> decide
  · rintro off (rfl | rfl | rfl | rfl) <;> decide

/-- Bridge 63 selected, as given. -/
def withBridge (b : Bridge) : State := { idle with syn := { Syn.reset with brgSel := 63, bridges := [(63, b)] } }

/-- An enabled bridge with value 1 and a timeout of 10 µs. -/
def openBridge : Bridge := { Bridge.reset with setter := 1, waiter := 2, enabled := true, value := true, timeout := 10 }

/-- The gated run that waits on bridge 63 since the tick given, at tick 2,001. -/
def gatedAt (posted : Nat) : State :=
  { withBridge openBridge with
    runs := [(0, { waiting with gate := some 63, posted := posted })], chn := { Chn.reset with count := 2001 } }

theorem wit_ControlWrites_bridges :
    (∀ b : Bridge, b = Bridge.reset ∨ b = openBridge →
      (withBridge b).regsAct = true ∧ kget Bridge.reset (withBridge b).syn.bridges (withBridge b).syn.brgSel.toNat = b) ∧
    (∀ v : Word, v = 0x80000000 + 512 + 1 * 65536 ∨ v = 0x80000000 + 1 + 512 * 65536 →
      v.getLsbD 31 = true ∧ 1 ≤ bits v 0 10 ∧ bits v 0 10 ≤ 512 ∧ 1 ≤ bits v 16 10 ∧ bits v 16 10 ≤ 512 ∧
        bits v 0 10 ≠ bits v 16 10) ∧
    (∀ v : Word, v = 0x80000000 ∨ v = 0x80000000 + 513 + 65536 ∨ v = 0x80000000 + 3 + 3 * 65536 →
      v.getLsbD 31 = true ∧ ¬ (1 ≤ bits v 0 10 ∧ bits v 0 10 ≤ 512 ∧ 1 ≤ bits v 16 10 ∧ bits v 16 10 ≤ 512 ∧
        bits v 0 10 ≠ bits v 16 10)) ∧
    ((0 : Word).getLsbD 31 = false) ∧
    (∀ t, t = 0 ∨ t = 1 →
      (let x := { waiting with gate := some 63, posted := t }
       (gatedAt t).run? 0 = some x ∧ (gatedAt t).runs = [(0, x)] ∧ x.phase = .waiting ∧ x.gate = some 63 ∧
         (t = 0 → x.posted + 200 * (kget Bridge.reset (gatedAt t).syn.bridges 63).timeout < (gatedAt t).chn.count) ∧
         (t = 1 → ¬ x.posted + 200 * (kget Bridge.reset (gatedAt t).syn.bridges 63).timeout < (gatedAt t).chn.count))) ∧
    (idle.run? 0 = none ∧ st0.run? 0 = some run0 ∧ run0.phase ≠ .waiting) := by
  refine ⟨?_, ?_, ?_, by decide, ?_, by decide +kernel⟩
  · rintro b (rfl | rfl) <;> decide +kernel
  · rintro v (rfl | rfl) <;> decide
  · rintro v (rfl | rfl | rfl) <;> decide
  · rintro t (rfl | rfl) <;> decide +kernel

/-- Port 31 in a state, with MAINT, in loop-back or not. -/
def maintPort (st : BitVec 3) (sel : BitVec 3) (split : BitVec 7) : State :=
  { idle with
    lnk := { Lnk.reset with ports := [(31, { Port.reset with st := st, maint := true, loopSel := sel })] }
    hub := { Hub.reset with splitAct := split } }

theorem wit_ControlWrites_ports :
    (let s := { idle with runs := [(0, portRun)] }
     s.regsAct = true ∧ s.portUsed 31 = true) ∧
    (idle.portUsed 31 = false ∧ idle.hub.warming = false ∧ { idle.hub with warming := true }.warming = true ∧
      (idle.port 31).maint = false) ∧
    (∀ d, 2 ≤ d → d ≤ 5 →
      (let s := maintPort 7 0 0
       let v : Word := BitVec.ofNat 32 (4 * d)
       s.regsAct = true ∧ s.portUsed 31 = false ∧ (s.port 31).maint = true ∧ (s.port 31).enable = true ∧
         s.chn.strapsOk = true ∧ bits v 2 3 = d ∧ (s.port 31).loopSel.toNat ≠ d)) ∧
    (bits (4 : Word) 2 3 = 1 ∧ 6 ≤ bits (24 : Word) 2 3 ∧ bits (8 : Word) 2 3 = ((maintPort 6 2 0).port 31).loopSel.toNat ∧
      bits (0 : Word) 2 3 = 0 ∧ ((maintPort 6 2 0).port 31).loopSel ≠ 0) ∧
    (((maintPort 7 0 0).port 31).st = 7 ∧ (maintPort 7 0 0).hub.warming = false) ∧
    (∀ n : BitVec 3, n = 1 ∨ n = 4 →
      (maintPort n 0 8).hub.splitAct.getLsbD 3 = true ∧ ((maintPort n 0 8).port 31).st = n ∧ 1 ≤ n.toNat ∧ n.toNat ≤ 4) ∧
    (((maintPort 0 0 8).port 31).st = 0 ∧ ((maintPort 3 0 0).port 31).st ≠ 7 ∧ ((maintPort 3 0 0).port 31).st ≠ 6 ∧
      (maintPort 3 0 0).hub.splitAct.getLsbD 3 = false) := by
  refine ⟨by decide +kernel, by decide +kernel, ?_, by decide +kernel, by decide +kernel, ?_, by decide +kernel⟩
  · intro d h2 h5
    match d, h2, h5 with
    | 2, _, _ => decide +kernel
    | 3, _, _ => decide +kernel
    | 4, _, _ => decide +kernel
    | 5, _, _ => decide +kernel
  · rintro n (rfl | rfl) <;> decide +kernel

/-- Host-assisted power, in a power state; core 0 owned or not. -/
def assisted (st : BitVec 3) (own : Option Nat) : State :=
  { st0 with
    runs := [], cores := [(0, { core0 with run := none, owner := own })]
    hub := { Hub.reset with splitAct := 0x40 }, pwr := { Pwr.reset with st := st, untilTk := some 100 } }

theorem wit_ControlWrites_power :
    (idle.hub.splitAct.getLsbD 6 = false ∧ 3 < bits (64 : Word) 4 3 ∧ { Hub.reset with fatal := true }.fatal = true) ∧
    (∀ t, t ≤ 3 →
      (let v : Word := BitVec.ofNat 32 (16 * t)
       bits v 4 3 = t ∧ (assisted 0 none).hub.splitAct.getLsbD 6 = true ∧ (assisted 0 none).hub.fatal = false ∧
         (assisted 0 none).regsAct = true ∧ (assisted 0 none).activeRuns = [] ∧
         (0 < t → (assisted 0 none).pwr.st.toNat < t) ∧ (t < 3 → t < (assisted 3 none).pwr.st.toNat))) ∧
    ((∀ e, e ∈ (assisted 0 none).cores → e.2.owner = none) ∧ (∃ e, e ∈ (assisted 1 (some 0)).cores ∧ e.2.owner ≠ none) ∧
      (assisted 1 (some 0)).pwr.st.toNat < 2) ∧
    (let n := fun (v : Word) => BitVec.ofNat 64 (v.toNat * 2 ^ 32 + (assisted 2 none).pwr.nextLo.toNat)
     n 0 = 0 ∧ ¬ (n 1).toNat < 100 ∧
       (let s := { assisted 2 none with pwr := { (assisted 2 none).pwr with nextLo := 99 } }
        s.pwr.untilTk = some 100 ∧ BitVec.ofNat 64 ((0 : Word).toNat * 2 ^ 32 + s.pwr.nextLo.toNat) = 99)) ∧
    ((assisted 0 none).core (bits (0x83EF : Word) 0 10)).owner = none ∧ (st0.core (bits (0 : Word) 0 10)).owner ≠ none ∧ 32 ≤ 32 := by
  refine ⟨by decide +kernel, ?_, ⟨by decide +kernel, ⟨_, List.mem_cons_self, by decide⟩, by decide +kernel⟩, by decide +kernel,
    by decide +kernel, by decide +kernel, by decide⟩
  intro t h
  match t, h with
  | 0, _ => decide +kernel
  | 1, _ => decide +kernel
  | 2, _ => decide +kernel
  | 3, _ => decide +kernel
/-- Context 0 with its rings enabled and one entry posted. -/
def liveCtx : Ctx :=
  { Ctx.reset with
    ringsEn := true
    sq := { Ring.reset with base := 0x1000, prod := 1 }
    cq := { Ring.reset with base := 0x2000, prod := 3, cons := 1 }
    eq := { Ring.reset with base := 0x3000, prod := 2 }
    dq := { Ring.reset with base := 0x4000, prod := 2 } }

/-- The state s with context 0 live. -/
def live (s : State) : State := { s with ctxs := [(0, liveCtx)] }

/-- The same with its CQ full and one completion held. -/
def heldCtx : Ctx := { liveCtx with cq := { Ring.reset with base := 0x2000, prod := 15, cons := 0 }, held := [[1, 2]] }

theorem wit_DoorbellsAndEvents_bells :
    (1 ≤ 512 ∧ idle.reachable 1 = false) ∧
    ({ idle with hub := { Hub.reset with warming := true } }.reachable 0 = true ∧ idle.hub.warming = false ∧
      0xEFFFFFF < 0xF000000 ∧ idle.evc.msixPend = []) ∧
    (let s := live idle
     s.reachable 0 = true ∧ (let x := s.ctx 0
       x.ringsEn = true ∧
       ((15 : Word).toNat < 2 ^ x.sq.k ∧ ringDist (2 ^ x.sq.k) x.sq.cons x.sq.prod ≤ ringDist (2 ^ x.sq.k) x.sq.cons (15 : Word).toNat) ∧
       x.sq.prod ≠ (15 : Word).toNat ∧ 2 ^ x.sq.k ≤ (16 : Word).toNat ∧
       ((3 : Word).toNat < 2 ^ x.cq.k ∧ ringDist (2 ^ x.cq.k) x.cq.cons (3 : Word).toNat ≤ ringDist (2 ^ x.cq.k) x.cq.cons x.cq.prod) ∧
       x.held = [] ∧
       ringDist (2 ^ x.eq.k) x.eq.cons (2 : Word).toNat ≤ ringDist (2 ^ x.eq.k) x.eq.cons x.eq.prod ∧
       ringDist (2 ^ x.dq.k) x.dq.cons (2 : Word).toNat ≤ ringDist (2 ^ x.dq.k) x.dq.cons x.dq.prod ∧
       ¬ ringDist (2 ^ x.dq.k) x.dq.cons (3 : Word).toNat ≤ ringDist (2 ^ x.dq.k) x.dq.cons x.dq.prod) ∧
     s.busyCtx 0 = false) ∧
    (let x := heldCtx
     x.ringsEn = true ∧ x.held = [[1, 2]] ∧ (1 : Word).toNat < 2 ^ x.cq.k ∧
       ringDist (2 ^ x.cq.k) x.cq.cons (1 : Word).toNat ≤ ringDist (2 ^ x.cq.k) x.cq.cons x.cq.prod ∧
       (x.cq.prod + 1) % 2 ^ x.cq.k ≠ (1 : Word).toNat) ∧
    (idle.reachable 0 = true ∧ (idle.ctx 0).ringsEn = false ∧ (idle.ctx 0).held = [] ∧ (live st0).busyCtx 0 = true ∧
      (0 : Word).getLsbD 0 = false ∧ (1 : Word).getLsbD 0 = true) ∧
    ((idle.tgt (256 + 0)).getLsbD 1 = true ∧
      ({ idle with evc := { Evc.reset with tgt := [(256, 1)] } }.tgt (256 + 0)).getLsbD 1 = false) := by decide +kernel

theorem wit_DoorbellsAndEvents_sources :
    (idle.regsAct = true ∧
      (∀ v : Word, v = 256 ∨ v = 769 → (bits v 0 10 ≤ 256 ∨ 768 < bits v 0 10) ∧
        ({ idle with evc := { Evc.reset with tgt := [(769, 3)] } }.tgt (bits v 0 10)).getLsbD 1 = true) ∧
      (257 ≤ bits (257 : Word) 0 10 ∧ bits (768 : Word) 0 10 ≤ 768) ∧ (idle.tgt (bits (5 : Word) 0 10)).getLsbD 1 = false ∧ 31 < 32) ∧
    (1022 < 1023 ∧ (idle.tgt 1022).getLsbD 0 = false ∧ ¬ (257 ≤ 1022 ∧ 1022 ≤ 768)) ∧
    ((idle.tgt 768).getLsbD 0 = true ∧ bits (2 : Word) 1 13 = bits (idle.tgt 768) 1 13 ∧ (2 : Word).getLsbD 0 = false ∧
      bits (2 : Word) 8 6 = 0 ∧ bits (0x103 : Word) 8 6 ≠ 0 ∧ bits (4 : Word) 1 13 ≠ bits (idle.tgt 768) 1 13) ∧
    (let s := { idle with evc := { Evc.reset with sw := [5], tgt := [(5, 1)] }, pwr := { Pwr.reset with st := 1 } }
     s.evPending 5 = true ∧ 5 ∉ s.evc.counted ∧ s.target 5 = .mp 0 ∧ 1 ≤ s.pwr.st.toNat ∧ s.pwr.st.toNat ≤ 3) ∧
    idle.evPending 256 = false := by
  refine ⟨⟨by decide +kernel, ?_, by decide +kernel⟩, by decide +kernel⟩
  rintro v (rfl | rfl) <;> decide +kernel

theorem wit_DoorbellsAndEvents_delivery :
    (idle.due (.pf 63) = false ∧ idle.board.loadOn = true) ∧
    (∀ m : Word, m = 0 ∨ m = 1 →
      (let s := { idle with
         ctxs := [(2, { Ctx.reset with moder := { Moder.reset with count := 1 } })]
         evc := { Evc.reset with
           sw := [256, 258], hmod := [(0, { Moder.reset with count := 1 })], msix := [(3, m), (256 * 2 + 3, m)]
           msixCtl := [(0, 0x80000000)] } }
       (bits (s.msixControl 0) 30 2 = 2 ∧ bits (s.msixControl 2) 30 2 ≠ 2) ∧
       (s.due (.pf 0) = true ∧ s.pendingOf (.pf 0) ≠ [] ∧ (s.msixWord 0 (4 * 0 + 3)).getLsbD 0 = (m == 1)) ∧
         s.due (.vf 2) = true ∧ s.pendingOf (.vf 2) ≠ [] ∧ (s.msixWord 2 (4 * 0 + 3)).getLsbD 0 = (m == 1))) ∧
    (let s := { idle with evc := { Evc.reset with
       sw := [5], tgt := [(5, 1)], mpmod := [(0, { Moder.reset with count := 1 })] } }
     s.due (.mp 0) = true ∧ (s.mp 0).chaining = false ∧ (s.mp 0).stack.length < 16 ∧ s.best 0 = some 5 ∧
       s.prio 5 < runningPrio (s.mp 0).stack) := by
  refine ⟨by decide +kernel, ?_, by decide +kernel⟩
  rintro m (rfl | rfl) <;> decide +kernel

/-- Processor 0 as given, with source 5 pending for it or not. -/
def mpState (m : Mp) (sw : List Nat) : State := { idle with evc := { Evc.reset with sw := sw, tgt := [(5, 1)], mps := [(0, m)] } }

theorem wit_DoorbellsAndEvents_entries :
    (∀ sw, sw = [] ∨ sw = [5] →
      (let s := mpState { stack := [(784, 9)], entering := true, chaining := false, records := [], frame := 1, fetch := 0 } sw
       (s.mp 0).entering = true ∧ s.best 0 = (if sw = [5] then some 5 else none))) ∧
    ((idle.mp 3).stack = [] ∧ (idle.mp 3).entering = false) ∧
    (let s := mpState { stack := [(784, 9)], entering := false, chaining := false, records := [], frame := 1, fetch := 0 } []
     (s.mp 0).stack = (784, 9) :: [] ∧ (s.mp 0).chaining = false ∧ (s.mp 0).entering = false ∧
       ({ s with evc := { s.evc with insvc := s.evc.insvc.filter (fun z => z != 784) } }).best 0 = none) ∧
    (let s := mpState { stack := [(784, 9)], entering := false, chaining := false, records := [], frame := 1, fetch := 0 } [5]
     let left : State := { s with evc := { s.evc with insvc := s.evc.insvc.filter (fun z => z != 784) } }
     left.best 0 = some 5 ∧ left.prio 5 < runningPrio []) ∧
    (let s := mpState { stack := [(784, 9)], entering := false, chaining := true, records := [], frame := 1, fetch := 0 } [5]
     (s.mp 0).chaining = true ∧ s.best 0 = some 5) := by
  refine ⟨?_, by decide +kernel⟩
  rintro sw (rfl | rfl) <;> decide +kernel

/-- An entry of bytes given as (offset, value). -/
def entryOf (xs : List (Nat × Nat)) : Entry := BitVec.ofNat 512 (xs.foldl (fun a x => a + x.2 * 2 ^ (8 * x.1)) 0)

/-- The entry of opcode op, and an empty CQ slot. -/
def opOf (op : Nat) : Entry := entryOf [(0, op)]

theorem wit_Submissions :
    (submissionOf (.cancel 0 (opOf 5)) = some (0, 0x05, opOf 5) ∧ submissionOf (.nop 513 (some 0)) = some (513, 0, 0) ∧ 512 < 513) ∧
    (bits (opOf 5) 0 8 = 5 ∧ bits (opOf 4) 0 8 ≠ 5 ∧ bits (opOf 4) 0 8 ≤ 5 ∧ 0x10 ≤ bits (opOf 0x19) 0 8 ∧
      bits (opOf 0x19) 0 8 ≤ 0x19 ∧
      (∀ op, op = 6 ∨ op = 0x0F ∨ op = 0x1A → ¬ (bits (opOf op) 0 8 ≤ 5 ∨ (0x10 ≤ bits (opOf op) 0 8 ∧ bits (opOf op) 0 8 ≤ 0x19)))) ∧
    (idle.reads 0 = false ∧ (live idle).reads 0 = true ∧ room (live idle) 0 ∧ (live idle).memOk = true) ∧
    (let s := { live idle with hub := { Hub.reset with fatal := true } }
     s.reads 0 = true ∧ s.hub.fatal = true ∧ room s 0 ∧ s.memOk = true) ∧
    (let s := { live idle with hub := { Hub.reset with bootStage := 6 } }
     s.reads 0 = true ∧ s.hub.fatal = false ∧ s.hub.bootStage = 6 ∧ room s 0 ∧ s.memOk = true) ∧
    (∀ op, op = 0x12 ∨ op = 0x16 →
      (let s := { idle with ctxs := [(1, { liveCtx with enabled := true })] }
       s.reads 1 = true ∧ s.hub.fatal = false ∧ s.hub.bootStage ≠ 6 ∧ 0x12 ≤ bits (opOf op) 0 8 ∧ bits (opOf op) 0 8 ≤ 0x16 ∧
         1 ≠ 0 ∧ room s 1 ∧ s.memOk = true)) ∧
    (wellLaid 5 (entryOf [(0, 5), (16, 1)]) = false ∧ wellLaid 5 (entryOf [(0, 5), (8, 7)]) = true) := by
  refine ⟨⟨rfl, rfl, by decide⟩, ⟨by decide +kernel, by decide +kernel, by decide +kernel, by decide +kernel, by decide +kernel, ?_⟩, ?_, ?_, ?_, ?_, by decide +kernel⟩
  · rintro op (rfl | rfl | rfl) <;> decide +kernel
  · unfold room; decide +kernel
  · unfold room; decide +kernel
  · unfold room; decide +kernel
  · rintro op (rfl | rfl) <;> unfold room <;> decide +kernel

/-- The base point of P-384 as an uncompressed public key. -/
def basePoint : List Byte := keyBytes (0xaa87ca22be8b05378eb1c71ef320ad746e1d3b628ba79b9859f741e082542a385502f25dbf55296c3a545e3872760ab7, 0x3617de4a96262c6f5d9e98bf9292dc29f8f41dbd289a147ce9da3113b5f0b8c00a60b1ce1d7e819d7a431d7c90ea0e5f)

theorem accepts_live {s : State} {op : Nat} {e : Entry} (h : s.reads 0 = true ∧ s.hub.fatal = false ∧
    s.hub.bootStage ≠ 6 ∧ bits e 0 8 = op ∧ wellLaid op e = true ∧ (s.ctx 0).cq.full = false ∧ (s.ctx 0).held = [] ∧
    s.memOk = true) : accepts s 0 op e :=
  ⟨by decide, h.1, h.2.1, h.2.2.1, h.2.2.2.1, h.2.2.2.2.1, fun _ _ => rfl, ⟨h.2.2.2.2.2.1, h.2.2.2.2.2.2.1⟩, h.2.2.2.2.2.2.2⟩

/-- A run of context 0 with JOB_ID 7 that takes requests. -/
def serving : Run := { run0 with nreq := 1, tun := { tun0 with digestPoints := 1 } }

theorem wit_SubmissionEffects_nop : accepts (live idle) 0 0 (entryOf [(2, 0xFFFF)]) :=
  accepts_live (by decide +kernel)

/-- The shortest image of R300: header, directory of eight sections, and the sections of one participant, module 0. -/
def tinyTun : List Byte :=
  let dir := fun (ty md off len : Nat) => leBytes 32 (ty + md * 2 ^ 16 + off * 2 ^ 64 + len * 2 ^ 128)
  leBytes 128 (0x4E555457 + 1 * 2 ^ 32 + 128 * 2 ^ 48 + 640 * 2 ^ 64 + 0x10000 * 2 ^ 128 + 3 * 2 ^ 168 + 12 * 2 ^ 176 +
    1 * 2 ^ 184 + 1 * 2 ^ 224 + 8 * 2 ^ 240 + 1 * 2 ^ 288 + 1 * 2 ^ 304) ++
  dir 1 0xFFFF 384 0 ++ dir 2 0xFFFF 384 2 ++ dir 3 0xFFFF 448 8 ++ dir 4 0xFFFF 384 0 ++ dir 0x10 0 384 0 ++
  dir 0x16 0 512 8 ++ dir 0x18 0 384 0 ++ dir 0x19 0 576 4 ++ List.replicate 256 0

theorem wit_SubmissionEffects_tun :
    accepts (live idle) 0 1 (entryOf [(0, 1), (16, 640)]) ∧
    ((live idle).ctx 0).freeHandle = some 1 ∧ (live idle).loadStatus 0 tinyTun 641 = 2 ∧
    (Config.numericsCountsOk [] = true → (live idle).loadStatus 0 tinyTun 640 = 0) ∧
    (let s := { idle with ctxs := [(0, { liveCtx with tuns := [(1, tun0)] })] }
     accepts s 0 2 (entryOf [(0, 2), (4, 1)]) ∧ s.ctxRuns 0 = [] ∧
       kfind (s.ctx 0).tuns (bits (entryOf [(0, 2), (4, 1)]) (8 * 4) (8 * 2)) = some tun0) := by
  refine ⟨accepts_live (by decide +kernel), by decide +kernel, by decide +kernel, ?_, accepts_live (by decide +kernel),
    by decide +kernel, by decide +kernel⟩
  intro h
  have hn : (parseTun tinyTun).sectionBytes 1 0xFFFF = [] := by decide +kernel
  simp only [State.loadStatus, hn, h]
  decide +kernel

theorem wit_SubmissionEffects_run :
    (let s := { idle with ctxs := [(0, { liveCtx with tuns := [(1, tun0)] })] }
     let e := entryOf [(0, 3), (4, 1), (8, 7), (16, 24), (24, 64), (32, 1000)]
     accepts s 0 3 e ∧
       bits e 64 64 ≠ 0 ∧ bits e 192 64 % 64 = 0 ∧ bits e 128 64 % 24 = 0 ∧ (kfind (s.ctx 0).tuns (bits e 32 16)).isSome = true ∧
       s.liveRun 0 (bits e 64 64) = none ∧ s.gateDenied 0 e = false) ∧
    (let e := entryOf [(0, 3), (4, 1)]
     accepts (live idle) 0 3 e ∧
       bits e 64 64 = 0) :=
  ⟨⟨accepts_live (by decide +kernel), by decide +kernel⟩, accepts_live (by decide +kernel), by decide +kernel⟩

theorem wit_SubmissionEffects_request :
    (let e := entryOf [(0, 4), (8, 7), (16, 11), (32, 16777216)]
     ∀ x, x = serving ∨ x = { serving with nreq := 0 } →
      (let s := live (withRun x)
       accepts s 0 4 e ∧ s.runs = [(0, x)] ∧ x.ctx = 0 ∧
         x.phase ≠ .preempted ∧ x.job.toNat = bits e 64 64 ∧ bits e 64 64 ≠ 0 ∧ bits e 128 64 ≠ 0 ∧ bits e 256 32 ≠ 0 ∧
         bits e 256 32 ≤ 16777216 ∧ s.rowsByHost = false)) ∧
    (let e := entryOf [(0, 4), (8, 7), (16, 11), (32, 16777216)]
     (live (withRun serving)).requestDenied serving e = false ∧
       (live (withRun serving)).requestDenied { serving with nreq := 0 } e = true) := by
  refine ⟨?_, by decide +kernel⟩
  intro e x hx
  rcases hx with rfl | rfl
  · exact ⟨accepts_live (by decide +kernel), by decide +kernel⟩
  · exact ⟨accepts_live (by decide +kernel), by decide +kernel⟩

theorem wit_SubmissionEffects_cancel :
    (let e := entryOf [(0, 5), (8, 7)]
     accepts (live idle) 0 5 e ∧ bits e 64 64 ≠ 0 ∧ (live idle).liveRun 0 (bits e 64 64) = none ∧
       accepts (live st0) 0 5 e ∧ (live st0).runs = [(0, run0)] ∧ run0.ctx = 0 ∧
       run0.phase = .active ∧ run0.job.toNat = bits e 64 64 ∧ run0.endStatus = none) :=
  ⟨accepts_live (by decide +kernel), by decide +kernel, by decide +kernel, accepts_live (by decide +kernel), by decide +kernel⟩

theorem wit_SubmissionEffects_grant :
    (let e := entryOf [(0, 0x12), (4, 512), (6, 1), (8, 2047), (12, 1)]
     let s := live idle
     accepts s 0 0x12 e ∧ bits e 32 16 ≤ 512 ∧ bits e 48 8 ≤ 1 ∧
       bits e 96 32 * 1048576 ≠ 0 ∧ s.hgPresent (bits e 48 8) = true ∧
       bits e 64 32 * 1048576 + bits e 96 32 * 1048576 ≤ hgSize ∧
       s.grantBlocked (bits e 48 8) (bits e 64 32 * 1048576) (bits e 96 32 * 1048576) = false ∧
       (s.ctx (bits e 32 16)).freeGrant (bits e 48 8) = some 0) ∧
    (let e := entryOf [(0, 0x13), (4, 0), (6, 1), (7, 3)]
     let g : Grant := { die := 1, off := 0, len := 1048576 }
     let s := { idle with ctxs := [(0, { liveCtx with grants1 := [(3, g)] })] }
     accepts s 0 0x13 e ∧ bits e 32 16 ≤ 512 ∧ s.hgPresent (bits e 48 8) = true ∧
       kfind ((s.ctx (bits e 32 16)).grants (bits e 48 8)) (bits e 56 8) = some g ∧
       s.regionUsed (bits e 32 16) (bits e 48 8) g.off g.len = false ∧ s.freePhases (bits e 48 8) ≠ [] ∧
       g.off ≤ 0xFFFFF ∧ 0xFFFFF < g.off + g.len) :=
  ⟨⟨accepts_live (by decide +kernel), by decide +kernel⟩, accepts_live (by decide +kernel), by decide +kernel⟩

theorem wit_SubmissionEffects_records :
    (let e := entryOf [(0, 0x17)]
     accepts (live idle) 0 0x17 e ∧ bits e 128 32 = 0) ∧
    (let e := entryOf [(0, 0x17), (8, 64), (16, 4096)]
     accepts (live idle) 0 0x17 e ∧ bits e 128 32 ≠ 0 ∧ keyPoint [4] = none ∧
       keyPoint basePoint ≠ none) ∧
    accepts (live idle) 0 0x18 (entryOf [(0, 0x18), (4, 1)]) ∧
    (accepts (live idle) 0 0x19 (entryOf [(0, 0x19)]) ∧ (live idle).ctxRuns 0 = []) ∧
    (let e := entryOf [(0, 0x14), (4, 512)]
     accepts (live idle) 0 0x14 e ∧ 1 ≤ bits e 32 16 ∧ bits e 32 16 = 512 ∧
       (live idle).ctxRuns (bits e 32 16) = [] ∧ ((live idle).ctx (bits e 32 16)).pmOpt = none ∧ (live idle).ing.copies = [] ∧
       ((live idle).ctx (bits e 32 16)).kill = none ∧ (live idle).ownedCores (bits e 32 16) = [] ∧
       ((live idle).ctx (bits e 32 16)).grants0 = [] ∧ ((live idle).ctx (bits e 32 16)).grants1 = []) ∧
    (let e := entryOf [(0, 0x14), (4, 512)]
     let s := { live idle with cores := [(0, { core0 with run := none, owner := some 512 })] }
     accepts s 0 0x14 e ∧ s.ctxRuns 512 = [] ∧ (s.ctx 512).pmOpt = none ∧ (s.ctx 512).kill = none ∧ s.ing.copies = [] ∧
       s.ownedCores 512 ≠ []) :=
  ⟨⟨accepts_live (by decide +kernel), by decide +kernel⟩, ⟨accepts_live (by decide +kernel), by decide +kernel⟩,
    accepts_live (by decide +kernel), ⟨accepts_live (by decide +kernel), by decide +kernel⟩,
    ⟨accepts_live (by decide +kernel), by decide +kernel⟩, accepts_live (by decide +kernel), by decide +kernel⟩

/-- A saved run with no core of this module. -/
def saved0 : Preempt :=
  { cmd := { id := 1, head := 1 }, furlong := 1, addr := 0, len := 65616, saveKey := 0, saved := 65616, cores := [], flags := [],
    barriers := [] }

theorem slice_eq (bs : List Byte) (o n : Nat) (h : o + n ≤ bs.length) : slice bs o n = (bs.drop o).take n := by
  unfold slice
  have : ((bs.drop o).take n).length = n := by rw [List.length_take, List.length_drop]; omega
  simp [this]

/-- Some image is the one written for that run: a header and a body of zeros with their tag. -/
theorem saved0_image : ∃ bs, saved0.imageOk bs = true := by
  have main : ∀ h c t : List Byte, h.length = 64 → c.length = 65536 → t.length = 16 →
      xorBytes (beBytes 16 (ghash (beNat (aes128 (beBytes 16 saved0.saveKey.toNat) (List.replicate 16 0)))
        (padBlock h ++ padBlock c ++ beBytes 8 (8 * h.length) ++ beBytes 8 (8 * c.length))))
        (aes128 (beBytes 16 saved0.saveKey.toNat) (slice h 22 12 ++ beBytes 4 1)) = t →
      saved0.imageOk (h ++ (c ++ t)) = true := by
    intro h c t hh hc ht he
    have hl : (h ++ (c ++ t)).length = 65616 := by simp [hh, hc, ht]
    have h0 : saveLen saved0.cores.length = 65616 := by decide
    have h1 : slice (h ++ (c ++ t)) 22 12 = slice h 22 12 := by
      rw [slice_eq _ _ _ (by omega), slice_eq _ _ _ (by omega), List.drop_append_of_le_length (by omega),
        List.take_append_of_le_length (by rw [List.length_drop]; omega)]
    have h2 : (h ++ (c ++ t)).take 64 = h := by rw [List.take_append_of_le_length (by omega), List.take_of_length_le (by omega)]
    have h3 : slice (h ++ (c ++ t)) 64 (65616 - 80) = c := by
      rw [slice_eq _ _ _ (by omega), ← hh, List.drop_left, List.take_append_of_le_length (by omega),
        List.take_of_length_le (by omega)]
    have h4 : slice (h ++ (c ++ t)) (65616 - 16) 16 = t := by
      rw [slice_eq _ _ _ (by omega), ← List.append_assoc, List.drop_left' (by simp [hh, hc]), List.take_of_length_le (by omega)]
    unfold Preempt.imageOk
    simp only [h0, h1, h2, h3, h4, gcmOpen]
    rw [if_pos he]
    rfl
  exact ⟨_, main (List.replicate 64 0) (List.replicate 65536 0) _ (by rw [List.length_replicate])
    (by rw [List.length_replicate]) (by decide +kernel) rfl⟩

theorem wit_SubmissionEffects_preempt :
    (let e := entryOf [(0, 0x15), (8, 7), (16, 1), (32, 1245264)]
     let s := live st0
     accepts s 0 0x15 e ∧ bits e 64 64 ≠ 0 ∧ bits e 32 16 ≤ 512 ∧
       s.runs = [(0, run0)] ∧ run0.ctx = bits e 32 16 ∧ run0.phase = .active ∧ run0.job.toNat = bits e 64 64 ∧
       run0.preempt = none ∧ saveLen (s.coresOf 0).length = bits e 256 64 ∧ run0.furlong < bits e 128 32) ∧
    (let e := entryOf [(0, 0x15), (8, 7), (32, 1245264)]
     let x := { run0 with phase := .admitted, launched := none }
     let s := live (withRun x)
     accepts s 0 0x15 e ∧ bits e 64 64 ≠ 0 ∧ s.runs = [(0, x)] ∧ x.ctx = bits e 32 16 ∧ x.phase = .admitted ∧
       x.job.toNat = bits e 64 64 ∧ x.preempt = none ∧ saveLen (s.coresOf 0).length = bits e 256 64 ∧ x.launched = none ∧
       bits e 128 32 = 0) ∧
    (let e := entryOf [(0, 0x16), (8, 7), (16, 24), (32, 65616)]
     let x := { run0 with phase := .preempted, preempt := some saved0 }
     let s := live (withRun x)
     accepts s 0 0x16 e ∧ bits e 64 64 ≠ 0 ∧
       bits e 128 64 % 24 = 0 ∧ s.runs = [(0, x)] ∧ x.ctx = bits e 32 16 ∧ x.phase = .preempted ∧
       x.job.toNat = bits e 64 64 ∧ x.preempt = some saved0 ∧ saveLen saved0.cores.length ≤ bits e 256 64 ∧
       (∃ bs, saved0.imageOk bs = true) ∧ (live idle).runs = []) :=
  ⟨⟨accepts_live (by decide +kernel), by decide +kernel⟩, ⟨accepts_live (by decide +kernel), by decide +kernel⟩,
    accepts_live (by decide +kernel), by decide +kernel, by decide +kernel, by decide +kernel, by decide +kernel, by decide +kernel, by decide +kernel, by decide +kernel,
    by decide +kernel, saved0_image, by decide +kernel⟩

theorem wit_SubmissionEffects_late :
    (let e := entryOf [(0, 0x15), (8, 7), (16, 0), (32, 1245264)]
     let s := live st0
     accepts s 0 0x15 e ∧ bits e 64 64 ≠ 0 ∧ bits e 32 16 ≤ 512 ∧ s.runs = [(0, run0)] ∧ run0.ctx = bits e 32 16 ∧
       run0.phase = .active ∧ run0.job.toNat = bits e 64 64 ∧ run0.preempt = none ∧
       saveLen (s.coresOf 0).length ≤ bits e 256 64 ∧ bits e 128 32 ≤ run0.furlong ∧ run0.launched ≠ none ∧ run0.endStatus = none) :=
  ⟨accepts_live (by decide +kernel), by decide +kernel⟩

/-- A stone of 513 bytes, built from the layouts of R394: one tensor of one row of 64 INT8 codes, one chunk stored as the
tag of a block of zeros, the publisher's key being the base point, and the signature of its hash under it. -/
def stone0 : List Byte :=
  leBytes 4 0x4E545357 ++ leBytes 2 1 ++ leBytes 2 256 ++ leBytes 8 513 ++ leBytes 4 1 ++ leBytes 4 1 ++ leBytes 8 64 ++
  beBytes 16 0x8c4f262412b7f9ed867606705a130de5 ++ leBytes 8 0 ++ leBytes 8 256 ++ leBytes 8 320 ++ leBytes 8 384 ++
  leBytes 8 512 ++ List.replicate 168 0 ++ leBytes 4 5 ++ leBytes 4 0xB ++ leBytes 4 1 ++ leBytes 4 64 ++ List.replicate 48 0 ++
  leBytes 8 0 ++ leBytes 4 1 ++ leBytes 4 1 ++
  beBytes 48 0xbec021b4f368e3069134e012c2b4307083d3a9bdd206e24e5f0d86e13d6636655933ec2b413465966817a9c208a11717 ++
  beBytes 48 0x8d999057ba3d2d969260045c55b97f089025959a6f434d651d207d19fb96e9e4fe0e86ebe0e64f85b96a9c75295df61 ++
  beBytes 48 0x7216a175133f1d985d099db2edd6d9947a19138a49492aad97fd3b09fcf087a145ec6af8421d932c4d141d7a3657882f ++
  List.replicate 33 0

/-- Its hash. -/
def stoneHash0 : Hash :=
  0xdb53a9e4aada685750ed3b2016521b386b2fcdbaeb9e2084de286e425a27a0a43bf7ed81c62cc1603e91912d1a1930fd

theorem stone0_hash : sha384 (stone0.take (sigOff stone0)) = stoneHash0 := by decide +kernel

theorem stone0_signed : ecdsaVerify basePoint stoneHash0 (slice stone0 (sigOff stone0) 96) = true := by decide +kernel

theorem basePoint_publisher : publisherOf basePoint = 0x8c4f262412b7f9ed867606705a130de5 := by decide +kernel

/-- A placement of its row in core 0 of module 0. -/
def stonePlaces : List Byte :=
  leBytes 8 1 ++ leBytes 4 5 ++ [0xB, 0, 0, 0, 0, 0, 0, 0] ++ leBytes 4 0 ++ leBytes 4 1 ++ leBytes 4 0 ++ leBytes 4 64 ++
  leBytes 4 0 ++ leBytes 4 0 ++ leBytes 4 64 ++ List.replicate 8 0

/-- The tun that names this stone. -/
def stoneTun : Tun := { tun0 with stoneId := stoneHash0, sections := [{ type := 3, mod := 0xFFFF, bytes := stonePlaces }] }

/-- The publisher's anchor is provisioned; some copies stand. -/
def stoneState (ks : KMap Copy) : State :=
  { idle with
    ctxs := [(0, { liveCtx with tuns := [(1, stoneTun)] })]
    ing := { Ing.reset with copies := ks, anchors := [(0, { pubkey := basePoint, prov := true, revoked := false })] } }

theorem stoneState_anchor (ks : KMap Copy) :
    (stoneState ks).ing.anchorFor (beNat (slice stone0 0x20 16)) = some basePoint := by
  have h : beNat (slice stone0 0x20 16) = 0x8c4f262412b7f9ed867606705a130de5 := by decide +kernel
  simp [stoneState, Ing.anchorFor, h, basePoint_publisher]

theorem wit_SubmissionEffects_verify (ks : KMap Copy) (hk : ks = [] ∨ ks = [(2, { copy0 with stoneHash := stoneHash0, placeHash := 0 })]) :
    (let e := entryOf [(0, 0x10), (4, 1), (16, 1), (17, 2)]
     let s := stoneState ks
     accepts s 0 0x10 e ∧ kfind (s.ctx 0).tuns (bits e 32 16) = some stoneTun ∧ s.mappings 0 < 8 ∧
       s.hub.splitAct.getLsbD 1 = false ∧ s.hub.splitAct.getLsbD 2 = false ∧ e.getLsbD 8 = false ∧
       stoneOk stone0 (bits e 128 64) false = true ∧ sha384 (stone0.take (sigOff stone0)) = stoneTun.stoneId ∧
       s.ing.revokes stoneHash0 (BitVec.ofNat 128 (beNat (slice stone0 0x20 16))) (BitVec.ofNat 64 (leAt stone0 0x30 8)) = false ∧
       s.ing.anchorFor (beNat (slice stone0 0x20 16)) = some basePoint ∧
       ecdsaVerify basePoint stoneHash0 (slice stone0 (sigOff stone0) 96) = true ∧
       ecdsaVerify basePoint stoneHash0 (slice [] 0 96) = false) := by
  refine ⟨?_, ?_, ?_, ?_, ?_, by decide +kernel, by decide +kernel, stone0_hash, ?_, stoneState_anchor ks, stone0_signed,
    by decide +kernel⟩ <;> rcases hk with rfl | rfl
  · exact accepts_live (by decide +kernel)
  · exact accepts_live (by decide +kernel)
  all_goals decide +kernel

theorem wit_SubmissionEffects_ingest :
    (let ts := stoneTensors stone0
     let n := (stoneChunks stone0).length
     let ps := stoneTun.places (stoneState []).moduleId
     let pay := payloadBytes stone0 (stoneChunks stone0) (neededChunks ts n ps)
     ps ≠ [] ∧ chunkStatus stone0 (stoneChunks stone0) (neededChunks ts n ps) = 0 ∧
       (∀ p, p ∈ ps → (stoneState []).placeOk ts p = true ∧ (p.kind ≠ 0 ∨ (stoneState []).hasCore p.core = true) ∧
         p.rows ts n pay ≠ [] ∧ ∀ row, row ∈ p.rows ts n pay → (stoneState []).rowGranted row = false) ∧
       placesDisjoint ps = true ∧ (stoneState []).ing.copies = []) ∧
    (let k := { copy0 with stoneHash := stoneHash0, placeHash := 0 }
     (stoneState [(2, k)]).ing.copies.find? (fun p => p.2.stoneHash == stoneHash0 && p.2.placeHash == stoneTun.placeHash) =
       some (2, k) ∧ k.valid = true) := by decide +kernel

theorem wit_SubmissionEffects_stone :
    (let e := entryOf [(0, 0x10), (4, 1)]
     accepts (live idle) 0 0x10 e ∧
       kfind ((live idle).ctx 0).tuns (bits e 32 16) = none) ∧
    (let e := entryOf [(0, 0x11), (4, 63)]
     let s := { idle with ctxs := [(0, { liveCtx with stones := [63] })], ing := { Ing.reset with copies := [(63, copy0)] } }
     accepts s 0 0x11 e ∧ kfind s.ing.copies (bits e 32 16) = some copy0 ∧ s.ctxRuns 0 = [] ∧
       (s.ctx 0).stones.contains (bits e 32 16) = true) :=
  ⟨⟨accepts_live (by decide +kernel), by decide +kernel⟩, accepts_live (by decide +kernel), by decide +kernel⟩
/-- A module that is ready, with run 0 as given and nothing else. -/
def readyState (x : Run) : State := { withRun x with cores := [], hub := { Hub.reset with ready := true, bootStage := 5 } }

/-- Core 575 alone in the core map of module 0. -/
def mapped : Tun := { tun0 with
  sections := [{ type := 0x10, mod := 0, bytes := leBytes 32 (575 + 0xFFFF * 2 ^ 16 + 0xFFFFFFFFFFFFFFFFFFFF * 2 ^ 64) }] }

theorem wit_RunLifetime_admission :
    idle.run? 0 = none ∧
    (let x := { waiting with tun := mapped, manLen := 100000 }
     let s := readyState x
     s.runs = [(0, x)] ∧ x.phase = .waiting ∧ s.admitting false = true ∧ x.gate = none ∧ x.preempt = none ∧ s.admitStatus x = 0 ∧
       s.resourcesFree x = true ∧ s.rewriteOwed x = false ∧ x.tun.coreMap s.moduleId ≠ [] ∧
       (∀ e, e ∈ x.tun.coreMap s.moduleId → e.core = 575 ∧ s.coreReady x e.core = true) ∧ x.tun.participants.length ≤ 1 ∧
       x.launchFld = 0 ∧ x.cl = none) ∧
    (let x := { waiting with tun := mapped }
     (readyState x).runs = [(0, x)] ∧ (readyState x).admitting false = true ∧ (readyState x).admitStatus x ≠ 0) ∧
    (let x := { waiting with tun := { mapped with participants := [0, 1] }, manLen := 100000 }
     let s := readyState x
     s.runs = [(0, x)] ∧ x.phase = .waiting ∧ s.admitting false = true ∧ s.admitStatus x = 0 ∧ s.resourcesFree x = false) ∧
    st0.admitting run0.preempt.isSome = false := by
  decide +kernel

/-- A run whose only core is complete. -/
def allDone : State := withCore { core0 with halted := true }

/-- Run 0 with one request, and digest point 0 handed over at cycle 50. -/
def pointRun (q : Req) : Run :=
  { serving with reqs := [q], handed := [(0, 0, 9, 3, 50)], compare := true, tun := { tun0 with digestPoints := 1, rows := 1 } }

theorem wit_RunLifetime_launch :
    (let x := { run0 with phase := .admitted, cl := some 24 }
     x.preempt = none ∧ x.endExit = false ∧ ((24 : Nat) < (withRun x).pwr.lastOut.1 + 24 ∨ (withRun x).pwr.lastOut.2 + 24 ≤ 24)) ∧
    (∀ n, n = 23 ∨ n = 24 →
      (let x := { run0 with phase := .admitted, cl := some n }
       let s := { withRun x with pwr := { Pwr.reset with st := 1 } }
       s.runs = [(0, x)] ∧ x.phase = .admitted ∧ x.endStatus = none ∧ s.pwr.st ≠ 0 ∧
         (n = 24 → s.chn.count + 24 ≤ n) ∧ (n = 23 → n < s.chn.count + 24))) ∧
    (let x := { run0 with phase := .admitted, cl := some 48 }
     let s := { withRun x with pwr := { Pwr.reset with lastOut := (24, 25) }, chn := { Chn.reset with count := 48 } }
     s.pwr.st = 0 ∧ 48 ≤ s.chn.count ∧ s.pwr.lastOut.1 + 24 ≤ 48 ∧ 48 < s.pwr.lastOut.2 + 24) := by
  refine ⟨by decide +kernel, ?_, by decide +kernel⟩
  rintro n (rfl | rfl) <;> decide +kernel

theorem wit_RunLifetime :
    (let x := { run0 with phase := .admitted, cl := some 24 }
     (withRun x).runs = [(0, x)] ∧ x.phase = .admitted ∧ x.cl = some 24 ∧ (withRun x).pwr.st = 0 ∧ x.endStatus = none ∧
       (withRun x).chn.count < 24 ∧ 24 ≤ { withRun x with chn := { Chn.reset with count := 24 } }.chn.count) ∧
    (let x := { run0 with phase := .ended }
     (withRun x).runs = [(0, x)] ∧ x.phase = .ended) ∧
    (allDone.runs = [(0, run0)] ∧ run0.phase = .active ∧ run0.endStatus = none ∧ allDone.coresOf 0 = [0] ∧
      (allDone.core 0).complete = true ∧ allDone.pointReached 0 run0 run0.digests.length = false) ∧
    (st0.runs = [(0, run0)] ∧ run0.phase = .active ∧ 0 ∈ st0.coresOf 0 ∧ (st0.core 0).halted = false) ∧
    (let q := { req0 with eligible := false, row := none, inLen := 65536 }
     let x := { run0 with reqs := [q] }
     (withRun x).runs = [(0, x)] ∧ x.reqs = [q] ∧ q.reqId = 11 ∧ q.eligible = false ∧ q.done = false ∧
       (withRun x).stageUsed + (q.inLen + 65535) / 65536 ≤ 1024) ∧
    (let x := { run0 with phase := .admitted, cl := none }
     let p : Payload := 3 + 7 * 2 ^ 64 + 24 * 2 ^ 128
     (withRun x).runs = [(0, x)] ∧ x.phase = .admitted ∧ x.cl = none ∧
       x.job.toNat = bits p 64 64 ∧ x.tun.participants.contains (bits p 16 16) = true ∧ bits p 0 8 = 3 ∧
       (withRun x).chn.count + 24 ≤ bits p 128 64) ∧
    (∀ t, t = 4 ∨ t = 5 ∨ t = 7 →
      (let p : Payload := BitVec.ofNat 512 (t + 7 * 2 ^ 64)
       run0.job.toNat = bits p 64 64 ∧ run0.tun.participants.contains (bits p 16 16) = true ∧ bits p 0 8 = t ∧
         run0.phase = .active ∧ run0.endStatus = none ∧ run0.mode ≠ 2)) ∧
    (let p : Payload := 6 + 7 * 2 ^ 64 + 1 * 2 ^ 128 + 2 * 2 ^ 160
     run0.job.toNat = bits p 64 64 ∧ run0.tun.participants.contains (bits p 16 16) = true ∧ bits p 0 8 = 6 ∧ run0.mode ≠ 1 ∧
       run0.furlong < bits p 128 32) := by
  refine ⟨by decide +kernel, by decide +kernel, by decide +kernel, by decide +kernel, by decide +kernel, by decide +kernel,
    ?_, by decide +kernel⟩
  rintro t (rfl | rfl | rfl) <;> decide +kernel

theorem wit_RunLifetime_points :
    (∀ q : Req, q = { req0 with row := none, assigned := none } ∨ q = { req0 with finished := true } →
      (withRun (pointRun q)).runs = [(0, pointRun q)] ∧ (pointRun q).phase = .active ∧ (withRun (pointRun q)).coresOf 0 = [0] ∧
        (pointRun q).handed = [(0, (pointRun q).digests.length, 9, 3, 50)] ∧ (pointRun q).reqs = [q] ∧
        (pointRun q).compare = true ∧ (pointRun q).digests.length < (pointRun q).tun.digestPoints ∧
        (withRun (pointRun q)).rowsByHost = false ∧ 0 < (pointRun q).tun.rows) ∧
    (let q := { req0 with row := none, assigned := none }
     q.eligible = true ∧ q.assigned = none ∧ q.done = false ∧ q.finished = false ∧ q.row = none) ∧
    st0.pointReached 0 run0 run0.digests.length = false ∧
    (let x := { admitted0 with readyAt := some 5 }
     let s := { withRun x with chn := { Chn.reset with count := 20000005 } }
     s.runs = [(0, x)] ∧ x.phase = .admitted ∧ x.cl = none ∧ s.isEntry x = true ∧ x.readyAt = some 5 ∧
       5 + 20000000 ≤ s.chn.count ∧ x.endExit = false) := by
  refine ⟨?_, by decide +kernel, by decide +kernel, by decide +kernel⟩
  rintro q (rfl | rfl) <;> decide +kernel

/-- A row of the stratum of core 1 whose bytes come from chunk 0, in a copy as given. -/
def row0 : PlacedRow := { hog := false, unit := 1, addr := 64, bytes := List.replicate 64 9, chunks := [0] }

def stoned (k : Copy) : State :=
  { idle with
    cores := [(1, { Core.reset with ecc := [{ mem := .strat, word := 15, due := true }] })]
    ing := { Ing.reset with copies := [(63, k)] } }

/-- The same row placed on die 0. -/
def hogRow : PlacedRow := { row0 with hog := true, unit := 0 }

theorem wit_StonesAndAnchors_copies :
    kfind idle.ing.copies 63 = none ∧
    (kfind (stoned copy0).ing.copies 63 = some copy0 ∧ copy0.loading = false ∧ { copy0 with valid := false }.valid = false) ∧
    (let k := { copy0 with valid := false, loading := true, rows := [row0], waiters := [(0, { id := 1, head := 1 })] }
     kfind (stoned k).ing.copies 63 = some k ∧ k.loading = true ∧ k.rows = [row0] ∧ row0.hog = false ∧
       ((stoned k).core row0.unit).run = none ∧ k.waiters = [(0, { id := 1, head := 1 })] ∧ (stoned k).memOk = true ∧
       k.revoked = false ∧ { k with revoked := true }.revoked = true) ∧
    (let k := { copy0 with valid := false, loading := true, rows := [{ row0 with unit := 0 }] }
     let s := { st0 with ing := { Ing.reset with copies := [(63, k)] } }
     kfind s.ing.copies 63 = some k ∧ (s.core 0).run ≠ none) ∧
    (let k := { copy0 with valid := false, loading := true, rows := [hogRow] }
     kfind (stoned k).ing.copies 63 = some k ∧ k.rows = [hogRow] ∧ hogRow.hog = true ∧
       ((stoned k).hog hogRow.unit).holder = none ∧ ((stoned k).hog hogRow.unit).scrub = []) ∧
    (let k := { copy0 with rows := [row0], hashes := [] }
     let s := stoned k
     let lo := 127 / 64 * 64
     kfind s.ing.copies 63 = some k ∧ k.valid = true ∧ k.rows = [row0] ∧ row0.unit = 1 ∧
       overlaps row0.addr row0.bytes.length lo 64 = true ∧ (s.core 1).dueIn .strat lo 64 = true ∧ (s.core 1).run = none) ∧
    (let k := { copy0 with rows := [hogRow], hashes := [(0, sha384 [])] }
     let s := { stoned k with hg := [(0, { Hogshead.reset with bad := [(96, true)] })] }
     let lo := 127 / 64 * 64
     kfind s.ing.copies 63 = some k ∧ k.valid = true ∧ k.rows = [hogRow] ∧ hogRow.unit = 0 ∧
       overlaps hogRow.addr hogRow.bytes.length lo 64 = true ∧ (s.hog 0).badIn true lo 64 ≠ [] ∧ (s.hog 0).holder = none ∧
       (s.hog 0).scrub = []) ∧
    rereadOk [] [0] [none] = false ∧ rereadOk [(0, sha384 [])] [0] [some []] = true ∧
    (idle.core 1).dueIn .strat (127 / 64 * 64) 64 = false := by decide +kernel

/-- The chunks that the row's source lies in, in ascending order. -/
theorem row0_chunks : (List.range 65536).filter (fun j => row0.chunks.contains j) = [0] := by
  have h : ∀ n, (List.range (n + 1)).filter (fun j => row0.chunks.contains j) = [0] := by
    intro n
    induction n with
    | zero => rfl
    | succ n ih =>
      have hn : row0.chunks.contains (n + 1) = false := by simp [row0]
      rw [List.range_succ, List.filter_append, ih, List.filter_cons, hn]
      rfl
  exact h 65535

theorem wit_StonesAndAnchors_anchors :
    (idle.regsAct = true ∧ (idle.ing.anchor idle.ing.anchorSel.toNat).prov = false ∧ keyPoint (memReads idle.ing.stageKey 0 97) = none) ∧
    (let s := { idle with ing := { Ing.reset with
       stageKey := (List.range 97).map (fun i => (⟨i, basePoint.getD i 0⟩ : Host.Cell)) } }
     keyPoint (memReads s.ing.stageKey 0 97) ≠ none) ∧
    ({ Ing.reset with anchors := [(0, { pubkey := [], prov := true, revoked := false })] }.anchor 0).prov = true ∧
    (let s := { idle with ing := { Ing.reset with revList := List.replicate 1024 [] } }
     1024 ≤ s.ing.revList.length) ∧
    (let k := { copy0 with stoneHash := 0 }
     let s := { stoned k with ing := { Ing.reset with copies := [(63, k)], revStage := [⟨0, 1⟩] } }
     let e := memReads s.ing.revStage 0 64
     s.ing.revList.length < 1024 ∧ leAt e 0 1 = 1 ∧ kfind s.ing.copies 63 = some k ∧ slice e 16 48 = hashBytes k.stoneHash) := by
  decide +kernel

/-- A firmware image of 256 bytes, with no body, with a zero key and signature. -/
def emptyImage : List Byte := leBytes 256 (0x57465457 + 1 * 2 ^ 32)

def withHub (h : Hub) : State := { idle with hub := h }

/-- Findings with slot A accepted or not, a hub that passes or not, and a latency for the first crossing. -/
def bootOk (slotA pass : Bool) (cal : List Nat) : BootFindings :=
  { slotAOk := slotA, slotBOk := false, sites := [], rows := [], hubPass := pass, cal := cal, enable := true }

/-- A module in its boot, whose next tick is the one given. -/
def booting (bf : BootFindings) (t : Nat) : State :=
  { idle with hub := { Hub.reset with boot := some bf, bootTk := t - 1, bootStage := 0 } }

theorem wit_BringUpAndService_boot :
    (∀ t, t = 1 ∨ t = 200000 ∨ t = 6000000 ∨ t = 6080000 ∨ t = 15600000 ∨ t = 20000000 →
      (let s := booting (bootOk true true []) t
       s.board.loadOn = true ∧ s.pwr.st ≠ 4 ∧ s.hub.boot = some (bootOk true true []) ∧ s.hub.bootTk + 1 = t ∧
         (bootOk true true []).slotAOk = true ∧ s.hub.activeRec = false ∧
         (bootOk true true []).hubPass = true)) ∧
    Hub.reset.fwA.accepted Hub.reset.floorSvn.toNat = true ∧
    ((bootOk false true []).slotAOk = false ∧ (bootOk false true []).slotBOk = false ∧ (bootOk true false []).hubPass = false) ∧
    ((∀ i, i < 192 → (bootOk true true []).cal.getD i 0 ≤ Config.xcalShare (i / 4) (i % 4)) ∧
      (∃ i, i < 192 ∧ Config.xcalShare (i / 4) (i % 4) < (bootOk true true [Config.xcalShare 0 0 + 1]).cal.getD i 0)) ∧
    (∀ n, n = 1999999 ∨ n = 2000000 →
      (let s := { idle with board := { Board.reset with loadOn := false, vinTk := n } }
       s.board.loadOn = false ∧ (n = 1999999 → s.board.vinTk < 2000000) ∧
         (n = 2000000 → 2000000 ≤ s.board.vinTk ∧ (bootOk true true []).enable = true ∧
           { bootOk true true [] with enable := false }.enable = false))) ∧
    (idle.board.loadOn = true ∧ idle.hub.fatal = false ∧ idle.hub.warming = false ∧ idle.hub.bootStage.toNat < 5 ∧
      (withHub { Hub.reset with bootStage := 5 }).hub.bootStage = 5 ∧ portsStop 2 = true ∧
      { Board.reset with loadOn := false }.loadOn = false) ∧
    (1 ≤ 512 ∧ 512 < 513 ∧ (withHub { Hub.reset with warming := true }).hub.warming = true) ∧
    (let v : Word := 0x80000000 + 575
     bits v 0 10 = 575 ∧ v.getLsbD 31 = true ∧ idle.regsAct = true ∧ idle.hasCore 575 = true ∧ idle.runOf 575 = none ∧
       (idle.core 575).scrubBusy = false ∧ (idle.core 575).resetDue = false) ∧
    (bits (0x80000000 : Word) 0 10 = 0 ∧ st0.runOf 0 = some (0, run0) ∧ (0 : Word).getLsbD 31 = false) :=
  ⟨by rintro t (rfl | rfl | rfl | rfl | rfl | rfl) <;> decide +kernel,
    by simp [FwSlot.accepted, Hub.reset, FwSlot.factory], by decide,
    ⟨fun _ _ => Nat.zero_le _, ⟨0, by decide, Nat.lt_succ_self _⟩⟩, by rintro n (rfl | rfl) <;> decide +kernel,
    by decide +kernel, by decide +kernel, by decide +kernel, by decide +kernel⟩

theorem wit_BringUpAndService_firmware :
    (idle.board.loadOn = true ∧ idle.pwr.st ≠ 4 ∧ idle.hub.fatal = false ∧ idle.hub.fwState ≠ 3 ∧ idle.hub.fwState ≠ 4 ∧
      idle.hub.fwState ≠ 1 ∧ (withHub { Hub.reset with fwState := 1, fwPrev := 2 }).hub.fwState = 1) ∧
    (stageStatus 0 (slice [1, 2, 3] 0 3) ≠ 0 ∧ imageOk (slice emptyImage 0 256) = true ∧
      (imageTrusted 0 (slice emptyImage 0 256) = true → stageStatus 0 (slice emptyImage 0 256) = 0)) ∧
    (idle.regsAct = true ∧ { Hub.reset with fwState := 2 }.fwState = 2 ∧ { Hub.reset with fwState := 3 }.fwState = 3 ∧
      { Hub.reset with trialOk := true }.trialOk = true ∧ Hub.reset.trialOk = false) ∧
    ({ Hub.reset with fwState := 3 }.repairSt.getLsbD 0 = false ∧ idle.activeRuns = [] ∧ st0.activeRuns ≠ []) ∧
    (∀ n, n = 200000000 ∨ n = 199999999 →
      (let s := { withHub { Hub.reset with fwState := 4 } with chn := { Chn.reset with count := n } }
       s.hub.fwState = 4 ∧ s.board.loadOn = true ∧
         (n = 200000000 → s.hub.trialAt + 200000000 ≤ s.chn.count) ∧ (n ≠ 200000000 → s.chn.count < s.hub.trialAt + 200000000))) := by
  refine ⟨by decide +kernel, ⟨by decide +kernel, by decide +kernel, ?_⟩, by decide +kernel, by decide +kernel, ?_⟩
  · intro h
    have h1 : imageOk (slice emptyImage 0 256) = true := by decide +kernel
    unfold stageStatus
    rw [h1, h]
    rfl
  · rintro n (rfl | rfl) <;> decide +kernel

theorem wit_BringUpAndService_repair :
    (let v : Word := 0x80000000 + 9 * 2
     v.getLsbD 31 = true ∧ 9 ≤ bits v 1 4 ∧ idle.hub.repairSt.getLsbD 0 = false) ∧
    (let v : Word := 0x80000000 + 8 * 2 + 8 * 32 + 1
     v.getLsbD 31 = true ∧ bits v 1 4 < 9 ∧ bits v 5 4 < 9 ∧ idle.hub.mappedSite (bits v 0 1) (bits v 1 4) ≠ some (bits v 5 4) ∧
       { Hub.reset with repairMap := [(1, 8, 8)] }.mappedSite (bits v 0 1) (bits v 1 4) = some (bits v 5 4)) ∧
    ({ Hub.reset with repairSt := 1 }.repairSt.getLsbD 0 = true ∧ (0 : Word).getLsbD 31 = false) ∧
    (let s := withHub { Hub.reset with repairPend := some (1, 8, 8), repairMap := [(0, 8, 1)] }
     idle.hub.repairPend = none ∧ s.hub.repairPend = some (1, 8, 8) ∧ s.runs = [] ∧ s.ing.copies = [] ∧
       s.hub.mappedSite 1 8 = none) ∧
    (let s := withHub { Hub.reset with repairPend := some (1, 2, 8), repairMap := [(1, 2, 1)] }
     s.hub.repairPend = some (1, 2, 8) ∧ s.runs = [] ∧ s.ing.copies = [] ∧ s.hub.mappedSite 1 2 = some 1 ∧
       s.hub.columnAt 1 2 8 = some 7 ∧ 2 < s.gridRows) ∧
    (∃ e, e ∈ (withRun { waiting with preempt := some (saving 1) }).runs ∧
      (e.2.phase = .admitted ∨ e.2.phase = .active ∨ e.2.phase = .preempted ∨ e.2.preempt ≠ none)) ∧
    (∃ e, e ∈ (stoned { copy0 with loading := true }).ing.copies ∧ e.2.loading = true) ∧
    (idle.hub.dumpOwed = false ∧ (1 ≤ (8 : Byte).toNat ∧ (8 : Byte).toNat ≤ 8) ∧ 8 < (9 : Byte).toNat ∧ (0 : Byte).toNat = 0) :=
  ⟨by decide +kernel, by decide +kernel, by decide +kernel, by decide +kernel, by decide +kernel,
    ⟨_, List.mem_cons_self, .inr (.inr (.inr nofun))⟩, ⟨_, List.mem_cons_self, rfl⟩, by decide +kernel⟩

/-- A module that is ready, in a power state, whose next submission is declared for tick n. -/
def expecting (st : BitVec 3) (n : DWord) : State :=
  { withHub { Hub.reset with ready := true } with pwr := { Pwr.reset with st := st, nextAt := n } }

theorem wit_BoardAndTick :
    (∀ n, n = 61 ∨ n = 60 → (60 < n ↔ n = 61)) ∧
    (st0.board.loadOn = true ∧ idle.activeRuns = [] ∧ st0.activeRuns ≠ [] ∧ { Board.reset with loadOn := false }.loadOn = false) ∧
    ((0xFF : Byte).toNat ∉ [0x19, 0x79, 0x7C, 0x7D, 0x7E, 0x88, 0x89, 0x97, 0x8D, 0x8E, 0x8F, 0xD0, 0xD1] ∧
      (0xD1 : Byte).toNat ∈ [0x19, 0x79, 0x7C, 0x7D, 0x7E, 0x88, 0x89, 0x97, 0x8D, 0x8E, 0x8F, 0xD0, 0xD1]) ∧
    (st0.pwr.st ≠ 4 ∧ st0.hub.boot = none ∧
      (let s := { idle with pwr := { Pwr.reset with standing := [.therm] } }
       s.pwr.standing ≠ [] ∧ s.clk < max s.clk (s.tickAt + ccPerTick s.pwr.cur) ∧ s.runs = [] ∧ s.lnk.beWait = [] ∧
         s.lnk.beBuf = [] ∧ s.lnk.collide = [] ∧ s.lnk.routerQ = []) ∧
      (withPwr { Pwr.reset with st := 4 }).pwr.st = 4) ∧
    (512 < 513 ∧ 512 ≤ 512 ∧ st0.hub.bootStage ≠ 6 ∧ (withHub { Hub.reset with bootStage := 6 }).hub.bootStage = 6) ∧
    (let s := { idle with pwr := { Pwr.reset with hotBeats := 64 } }
     s.board.loadOn = true ∧ s.pwr.st = 0 ∧ s.hub.fatal = false ∧ 64 ≤ s.pwr.hotBeats ∧
       s.activeRuns = [] ∧ StepCond.thermStep ∉ s.pwr.stepCond ∧ idle.pwr.hotBeats < 64) := by
  refine ⟨by rintro n (rfl | rfl) <;> decide, by decide +kernel⟩

theorem wit_BoardAndTick_entry :
    (idle.knownEvents = [] ∧ (expecting 0 30).knownEvents ≠ []) ∧
    (∀ n : DWord, n = 29 ∨ n = 30 ∨ n = 16000 ∨ n = 2000000 →
      (let s := expecting 0 n
       s.board.loadOn = true ∧ s.pwr.st ≠ 4 ∧ s.hub.fatal = false ∧ s.hub.ready = true ∧ s.pwr.transition = false ∧
         s.hub.splitAct.getLsbD 6 = false ∧ 5 * (s.nextEvent - s.chn.count) = 5 * n.toNat ∧ s.pwr.st = 0 ∧
         s.activeRuns = [] ∧ (∀ e, e ∈ s.cores → e.2.owner = none) ∧ s.pwr.autoHold = true ∧ s.pwr.autoDoze = true ∧
         s.pwr.autoStow = true)) ∧
    (let s := expecting 3 29
     5 * (s.nextEvent - s.chn.count) < 150 ∧ 1 ≤ s.pwr.st.toNat ∧ s.pwr.st.toNat ≤ 3) ∧
    (let s := { expecting 0 9999 with runs := [(0, { run0 with exts := [(0, 2)], tun := { tun0 with holdFrames := 5 } })], clk := 65536 }
     s.activeRuns ≠ [] ∧ 150 ≤ 5 * (s.nextEvent - s.chn.count) ∧ 5 * (s.nextEvent - s.chn.count) < 80000 ∧ s.pwr.autoHold = true ∧
       (∀ e, e ∈ s.activeRuns → (e.2.furlong + 1) * e.2.furlongCc ≤ s.nowOf e.2)) ∧
    (withHub { Hub.reset with ready := true, splitAct := 0x40 }).hub.splitAct.getLsbD 6 = true := by
  refine ⟨by decide +kernel, ?_, by decide +kernel, by decide +kernel, by decide +kernel⟩
  rintro n (rfl | rfl | rfl | rfl) <;> decide +kernel

theorem wit_StepKeepsMemories : st0.memOk = true ∧ step st0 = .next st0 := ⟨by decide, rfl⟩
/-! Checks against the spec's worked values and the standards it names. -/

theorem test_crc32c : crc32c ("123456789".toList.map (fun c => BitVec.ofNat 8 c.toNat)) = 0xE3069283 := by decide +kernel

theorem test_grain_crc : Grain.crcOk grain0 = true ∧ Grain.crcOk badGrain = false := by decide +kernel

theorem test_sha384 : sha384 [0x61, 0x62, 0x63] =
    0xCB00753F45A35E8BB5A03D699AC65007272C32AB0EDED1631A8B605A43FF5BED8086072BA1E7CC2358BAECA134C825A7 := by decide +kernel

/-- FIPS 197, appendix C.1. -/
theorem test_aes128 : aes128 ((List.range 16).map (fun i => BitVec.ofNat 8 i)) ((List.range 16).map (fun i => BitVec.ofNat 8 (17 * i))) =
    [0x69, 0xC4, 0xE0, 0xD8, 0x6A, 0x7B, 0x04, 0x30, 0xD8, 0xCD, 0xB7, 0x80, 0x70, 0xB4, 0xC5, 0x5A] := by decide +kernel

/-- A bushel at WBASE −4 that holds −4 is −0.25: 0xBE80 in BF16 and 0xA8 in E4M3 (03 R88). -/
theorem test_bushel_convert :
    Bushel.convert { Bushel.zero with s := -4 } (-4) .bf16 false = 0xBE80 ∧
    Bushel.convert { Bushel.zero with s := -4 } (-4) .e4m3 false = 0xA8 := by decide +kernel

/-- R82: a contribution truncates toward zero and sets LOSS; one above the window is clamped and sets OVF. -/
theorem test_bushel_contribute :
    Bushel.zero.contribute 0 (.fin true 3 (-1)) = { Bushel.zero with s := -1, loss := true } ∧
    Bushel.zero.contribute 0 (.fin false 1 159) = { Bushel.zero with s := 2 ^ 159 - 1, ovf := true } ∧
    Bushel.zero.contribute 0 .nan = { Bushel.zero with nv := true } := by decide +kernel

/-! Single commands on the small state. -/

/-- The pending writes and the place of core 0 after a command. -/
def after (i : Instr) (s : State) : Option (List (Nat × Target) × Nat × Nat) :=
  match exec i s with
  | .next t => some ((t.core 0).pendW.map (fun w => (w.cyc, w.tgt)), (t.core 0).pc, (t.core 0).scyc)
  | _ => none

theorem test_add_wraps : after (.add 0 p2 6 1 2) st0 = some ([(101, .sreg 6 0xFFFFFFF5)], 3, 103) := by decide +kernel

theorem test_sra_keeps_sign : after (.sra 0 p2 6 5 3) st0 = some ([(101, .sreg 6 0xFF000000)], 3, 103) := by decide +kernel

theorem test_slt_signed : after (.slt 0 p2 6 2 1) st0 = some ([(101, .sreg 6 1)], 3, 103) ∧
    after (.sltu 0 p2 6 2 1) st0 = some ([(101, .sreg 6 0)], 3, 103) := by decide +kernel

/-- −16 × −16 = 256: the high word is 0 signed, and 0xFFFFFFE0 unsigned. -/
theorem test_mulh : after (.mulh 0 p2 6 2 2) st0 = some ([(103, .sreg 6 0)], 3, 103) ∧
    after (.mulhu 0 p2 6 2 2) st0 = some ([(103, .sreg 6 0xFFFFFFE0)], 3, 103) := by decide +kernel

theorem test_addi_sign : after (.addi 0 p2 6 1 0xFFFF) st0 = some ([(101, .sreg 6 4)], 3, 103) ∧
    after (.ori 0 p2 6 1 0xFFFF) st0 = some ([(101, .sreg 6 0xFFFF)], 3, 103) := by decide +kernel

theorem test_lui : after (.lui 0 p2 6 0xABCD) st0 = some ([(101, .sreg 6 0xABCD0000)], 3, 103) := by decide +kernel

theorem test_empty_ell : after (.emptyEll 0 9) { st0 with cores := [(0, { core0 with starts := [0, 1] })] } = some ([], 1, 110) := by
  decide +kernel

theorem test_lw_little_endian :
    after (.lw 0 p2 6 3 1) (withCore { core0 with dmem := [⟨8, 0x11⟩, ⟨9, 0x22⟩, ⟨11, 0x44⟩] }) =
      some ([(103, .sreg 6 0x44002211)], 3, 103) := by decide +kernel

theorem test_sw_little_endian :
    (match exec (.sw 0 p2 2 3 1) st0 with
     | .next t => some (t.core 0).dmem
     | _ => none) = some [⟨8, 0xF0⟩, ⟨9, 0xFF⟩, ⟨10, 0xFF⟩, ⟨11, 0xFF⟩] := by decide +kernel

/-- Trap entry of a misaligned load: DMEM_RANGE, its address in TRAP_INFO, the handler 7 cycles later (05 R158, R159). -/
theorem test_misaligned_traps :
    (match exec (.lw 0 p2 6 3 0) st0 with
     | .next t => let k := t.core 0
       some (k.pc, k.scyc, k.ctl.trapCause, k.ctl.trapInfo, k.ctl.trapPc, k.inHandler)
     | _ => none) = some (40, 107, 0x03, 0x70000, 0, true) := by decide +kernel

theorem test_branch : after (.beq 0 p2 1 1 20) st0 = some ([], 20, 103) ∧ after (.bne 0 p2 1 1 20) st0 = some ([], 3, 103) ∧
    after (.blt 0 p2 2 1 9) st0 = some ([], 9, 103) ∧ after (.bltu 0 p2 2 1 9) st0 = some ([], 3, 103) := by decide +kernel

theorem test_jal : after (.jal 0 p2 7 6) st0 = some ([(101, .sreg 7 3)], 6, 103) := by decide +kernel

theorem test_loop_back : after (.add 0 p2 6 1 1) (withCore looping) = some ([(101, .sreg 6 10)], 0, 103) := by decide +kernel

/-- 1.0 + 2.0 = 3.0 in the first lane of binary32, and 1.5 × 1.5 = 2.25 in BF16 (03 R95). -/
theorem test_vector_lanes :
    elAdd .f32 0x3F800000 0x40000000 = 0x40400000 ∧ elMul .bf16 0x3FC0 0x3FC0 = 0x4010 ∧
    elAdd .bf16 0x4380 0x3F80 = 0x4380 := by decide +kernel

theorem test_vadd_latency :
    (match exec (.vadd 0 p2 0xD 5 1 2) (withCore { core0 with vregs := [(1, 0x3F800000), (2, 0x40000000)] }) with
     | .next t => (t.core 0).pendW.map (fun w => (w.cyc, w.late))
     | _ => []) = [(104, false)] := by decide +kernel

theorem test_fset_reaches_core :
    (match exec (.fset 0 p2 5) (synced flag0 barrier0 core0) with
     | .next t => (t.syn.flags.map (fun p => (p.1, p.2.value, p.2.viewAt 0 101, p.2.viewAt 0 102)))
     | _ => []) = [(9, true, false, true)] := by decide +kernel

theorem test_barr_arrives :
    (match exec (.barr 0 p2 5 false) (synced flag0 barrier0 core0) with
     | .next t => t.syn.barriers.flatMap (fun p => p.2.arrivals.map (fun a => (a.node, a.parity, a.cyc)))
     | _ => []) = [(.cluster 0, false, 102)] := by decide +kernel

/-- The wiring of R269: port 0 of member 0 leads to member 1's port 28 of the same group. -/
theorem test_wiring : partnerOf 0 0 0 = (1, 28) ∧ partnerOf 0 1 28 = (0, 0) ∧ partnerOf 0 0 1 = (1, 29) := by decide

theorem test_mode_exact_to_open :
    (match exec (.mode 2) idle with
     | .next t => some (t.barRead 0x1000, t.barRead 0x1004)
     | _ => none) = some (2, 2) := by decide +kernel

theorem test_seal_lock_write_once :
    (match exec (.sealLock 0x100) idle with
     | .next t => (match exec (.mode 2) t with
       | .next u => some (u.det.sealLock, u.det.mode)
       | _ => none)
     | _ => none) = some (true, 0) := by decide +kernel

theorem test_nop_completes :
    (match exec (.nop 0 (some (entryOf [(2, 0x34), (3, 0x12)]))) (live idle) with
     | .next t => some (memReads t.hostMem 0x2060 8)
     | _ => none) = some [0, 0, 0x34, 0x12, 1, 0, 0, 1] := by decide +kernel

theorem test_front_command_first :
    (match step { st0 with pending := [.add 0 p2 6 1 2, .swap 0 p2] } with
     | .next t => some t.pending
     | _ => none) = some [.swap 0 p2] := by decide +kernel

/-- Hold pays from 150 ns on (12 R334). -/
theorem test_power_states_pay :
    (match exec .powerStateEntry (expecting 0 29), exec .powerStateEntry (expecting 0 30) with
     | .next t, .next u => some (t.pwr.st, u.pwr.st)
     | _, _ => none) = some (0, 1) := by decide +kernel

theorem test_chain_tick :
    (match exec (.chainTick Telemetry.zero) { st0 with chn := { Chn.reset with running := true, count := 41 } } with
     | .next t => some t.chn.count
     | _ => none) = some 42 := by decide +kernel
end Sys2Proof.Tests
end

section
/-!
The DET_ block's mode and lock (02 R43, R46), and the obligation on register commands.
-/

namespace Sys2Proof.Machine

@[simp] theorem State.softSet_det (s : State) (src : Nat) : (s.softSet src).det = s.det := by
  unfold State.softSet
  split <;> rfl

theorem exec_sealLock (v : Word) {s : State} (hs : s.regsAct = true) :
    exec (.sealLock v) s = .next (s.writeLock (v.getLsbD 8)) := by
  simp [exec, execSealLock, State.mmio, hs, bitOf]

/-- With no run active a mode that may be written is in force at once, and no change is pending (R43). -/
theorem State.writeMode_det_of_idle (s : State) (m : BitVec 2) (h3 : m ≠ 3) (h2 : m = 2 → s.det.sealLock = false)
    (hr : s.activeRuns = []) :
    (s.writeMode m).det = { s.det with mode := m, active := m, pendMode := m, changePend := false } := by
  have hrefused : ¬ (m = 3 || (m = 2 && s.det.sealLock)) = true := by simp_all
  rw [State.writeMode, if_neg hrefused, if_neg (by simp [hr])]
  dsimp only
  split
  · exact State.softSet_det _ _
  · rfl

/-- With no run active the lock puts Exact in force where Open is active, and also where it is only pending (R43, R46). -/
theorem State.writeLock_active_of_idle {s : State} (hl : s.det.sealLock = false) (hr : s.activeRuns = []) :
    (s.writeLock true).det.active =
      if s.det.active = 2 ∨ (s.det.changePend = true ∧ s.det.pendMode = 2) then 0 else s.det.active := by
  have htaken : ¬ (!true || s.det.sealLock) = true := by simp [hl]
  rw [State.writeLock, if_neg htaken]
  by_cases hopen : s.det.active = 2 ∨ (s.det.changePend = true ∧ s.det.pendMode = 2)
  · rw [if_pos (by simpa using hopen), if_pos hopen]
    exact congrArg Det.active (State.writeMode_det_of_idle { s with det := { s.det with sealLock := true } } 0
      (by decide) (fun h => absurd h (by decide)) hr)
  · rw [if_neg (by simpa using hopen), if_neg hopen]

/-- A module in Sealed with a change to Open pending and no run active: what a write of Open during a Sealed run leaves once
that run has ended, until MODE_CHANGE_APPLY. -/
def sealedOpenPending : State :=
  { State.reset with det := { Det.reset with mode := 2, active := 1, pendMode := 2, changePend := true } }

/-- SEAL_LOCK takes this module from Sealed to Exact. -/
theorem sealLock_sealedOpenPending {u : State} (h : exec (.sealLock 0x100) sealedOpenPending = .next u) :
    u.det.active = 0 := by
  rw [exec_sealLock 0x100 (by decide)] at h
  obtain rfl : sealedOpenPending.writeLock true = u := Host.Outcome.next.inj h
  rw [State.writeLock_active_of_idle rfl rfl, if_pos (by decide)]

end Sys2Proof.Machine

namespace Sys2Proof.Claims

open Sys2Proof.Machine

/-- Refutes O50: the clause of SEAL_LOCK with no run active says that an active mode other than Open stays, and leaves out an
Open that is only pending. In `sealedOpenPending` the lock makes Exact active (R46), where the clause demands Sealed. -/
theorem not_registerCommands : ¬ Obligations.RegisterCommands := by
  unfold Obligations.RegisterCommands
  intro h
  obtain ⟨-, -, hact, -⟩ := h sealedOpenPending 0x100 0 0
  obtain ⟨-, -, -, -, hlock, -⟩ := hact (by decide)
  obtain ⟨u, hu, -, -, -, -, hidle, -⟩ := hlock (by decide)
  have hsealed : u.det.active = 1 := hidle rfl rfl
  have hexact : u.det.active = 0 := sealLock_sealedOpenPending hu
  exact absurd (hsealed.symm.trans hexact) (by decide)

end Sys2Proof.Claims
end

section
/-!
What reset leaves (02 R69, 05 R156, 06 R163): a core and a port that nothing has touched are as reset leaves them.
-/

namespace Sys2Proof.Machine

theorem State.reset_core (c : Nat) : State.reset.core c = Core.reset := rfl

theorem State.reset_port (p : Nat) : State.reset.port p = Port.reset := rfl

theorem Core.reset_s (r : BitVec 5) : Core.reset.s r = 0 := ite_self 0

theorem Core.reset_v (r : BitVec 5) : Core.reset.v r = 0 := rfl

/-- A descriptor that nothing has defined has SPACE 0x7 (06 R163). -/
theorem Core.reset_desc_space (h : BitVec 8) : bits (Core.reset.desc h) 0 3 = 7 := by
  show bits (7 : Desc) 0 3 = 7
  decide +kernel

end Sys2Proof.Machine

namespace Sys2Proof.Claims

open Sys2Proof.Machine

/-- Settles O59: the eleven registers by evaluating the reads of BAR0, the cores and ports because reset touches none. -/
theorem resetState : Obligations.ResetState := by
  unfold Obligations.ResetState
  refine ⟨rfl, rfl, rfl, rfl, rfl, rfl, ?_, ?_, ?_, ?_, ?_, ?_, ?_, ?_, ?_, ?_, ?_, ?_, ?_, ?_, ?_, rfl⟩
  iterate 11 decide +kernel
  · intro c r
    rw [State.reset_core]
    exact ⟨Core.reset_s r, Core.reset_v r, rfl, rfl, rfl⟩
  · intro c h
    rw [State.reset_core]
    exact Core.reset_desc_space h
  · intro c a
    rw [State.reset_core]
    exact ⟨rfl, rfl, rfl, rfl⟩
  · intro p
    rw [State.reset_port]
    exact ⟨rfl, rfl⟩

end Sys2Proof.Claims
end

section
/-!
VACVT (06 R180) and the grains it waits for: what an instruction alone in a ready ell leaves when it samples a bank.
-/

namespace Sys2Proof.Machine

/-! Packed elements -/

/-- A field that lies within the width reads the number that was reduced to it. -/
theorem bits_ofNat {n lo w : Nat} (x : Nat) (h : lo + w ≤ n) : bits (BitVec.ofNat n x) lo w = x / 2 ^ lo % 2 ^ w := by
  rw [bits, BitVec.toNat_ofNat]
  apply Nat.eq_of_testBit_eq
  intro i
  simp only [Nat.testBit_mod_two_pow, Nat.testBit_div_two_pow]
  by_cases hi : i < w
  · simp [hi, show lo + i < n by omega, Nat.add_comm]
  · simp [hi]

/-- Field j of packed elements is element j. -/
theorem packNat_field (w : Nat) (xs : List Nat) (j : Nat) : packNat w xs / 2 ^ (w * j) % 2 ^ w = xs.getD j 0 % 2 ^ w := by
  induction xs generalizing j with
  | nil => simp [packNat]
  | cons x xs ih =>
    cases j with
    | zero => simp [packNat]
    | succ j =>
      rw [Nat.mul_succ, Nat.add_comm, Nat.pow_add, ← Nat.div_div_eq_div_mul, packNat,
        Nat.add_mul_div_left _ _ (Nat.two_pow_pos w), Nat.div_eq_of_lt (Nat.mod_lt _ (Nat.two_pow_pos w)), Nat.zero_add, ih]
      rfl

/-- Element j of a register made of elements. -/
theorem VReg.el_vOf {w j : Nat} (xs : List Nat) (h : w * j + w ≤ 2048) : VReg.el (vOf w xs) w j = xs.getD j 0 % 2 ^ w := by
  rw [VReg.el, vOf, bits_ofNat _ h, packNat_field]

/-- Element j of part p of a register (06 R177). -/
theorem VReg.el_partOf {w p j : Nat} (xs : List Nat) (h : w * (64 * p + j) + w ≤ 2048) :
    VReg.el (partOf w p xs) w (64 * p + j) = xs.getD j 0 % 2 ^ w := by
  rw [VReg.el, partOf, bits_ofNat _ h, show w * (64 * p + j) = 64 * w * p + w * j by ring, Nat.pow_add,
    ← Nat.div_div_eq_div_mul, Nat.mul_div_cancel _ (Nat.two_pow_pos _), packNat_field]

/-- The bits that part p occupies. -/
theorem partMask_getLsbD {w p i : Nat} (h : i < 2048) :
    (partMask w p).getLsbD i = decide (64 * w * p ≤ i ∧ i < 64 * w * (p + 1)) := by
  have hend : 64 * w * (p + 1) = 64 * w * p + 64 * w := by ring
  rw [partMask, BitVec.getLsbD_ofNat, Nat.testBit_mul_two_pow, Nat.testBit_two_pow_sub_one, hend]
  by_cases hlo : 64 * w * p ≤ i
  · simp only [h, hlo, decide_true, true_and, Bool.true_and]
    exact decide_eq_decide.2 (by omega)
  · simp [hlo]

/-! The core that an ell sees -/

/-- The effect of a pending write is on registers and descriptors alone. -/
theorem Core.apply_eq (k : Core) (t : Target) :
    k.apply t = { k with
      sregs := (k.apply t).sregs, vregs := (k.apply t).vregs, ctl := (k.apply t).ctl, tpar := (k.apply t).tpar
      descs := (k.apply t).descs } := by
  cases t with
  | sreg r v =>
    simp only [Core.apply, Core.setS]
    split <;> rfl
  | _ => rfl

/-- So is that of the writes that a core retires. -/
theorem Core.retireList_eq (ws : List PendWrite) (k : Core) (i : Nat) :
    k.retireList i ws = { k with
      sregs := (k.retireList i ws).sregs, vregs := (k.retireList i ws).vregs, ctl := (k.retireList i ws).ctl
      tpar := (k.retireList i ws).tpar, descs := (k.retireList i ws).descs, pendW := (k.retireList i ws).pendW } := by
  induction ws generalizing k with
  | nil => rfl
  | cons w ws ih =>
    rw [Core.retireList]
    split
    · rw [ih, Core.apply_eq]
    · rfl

@[simp] theorem State.seen_scyc (s : State) (c : Nat) : (s.seen c).scyc = (s.core c).scyc := by
  rw [State.seen, Core.retire, Core.retireList_eq]

@[simp] theorem State.seen_run (s : State) (c : Nat) : (s.seen c).run = (s.core c).run := by
  rw [State.seen, Core.retire, Core.retireList_eq]

@[simp] theorem State.seen_streams (s : State) (c : Nat) : (s.seen c).streams = (s.core c).streams := by
  rw [State.seen, Core.retire, Core.retireList_eq]

/-- The grain for which a sample has to wait is the same once the ell is open. -/
theorem State.lateBank_opened (s : State) (c n par t b : Nat) :
    (s.opened c n par).lateBank c t b = s.lateBank c t b := by
  unfold State.lateBank State.lateGrain
  rw [State.opened_core]
  simp only [State.seen_streams]
  rfl

/-- A stall at a position is no matter of the cores. -/
theorem State.stallPos_withCores (s : State) (cs es : KMap Core) (p n : Nat) :
    ({ s with cores := cs, ellSaved := es } : State).stallPos p n =
      { s.stallPos p n with cores := cs, ellSaved := es } := by
  by_cases h : s.pos ≤ p
  · rw [show s.stallPos p n = _ from if_pos h]
    exact if_pos h
  · rw [show s.stallPos p n = _ from if_neg h]
    exact if_neg h

/-- A wait for a grain is no matter of the cores, but for the run that the waiting core is in. -/
theorem State.await_withCores (s : State) {c : Nat} (g : Nat × Nat × Nat) (cs es : KMap Core)
    (h : (kget Core.reset cs c).run = (s.core c).run) :
    ({ s with cores := cs, ellSaved := es } : State).await c g = { s.await c g with cores := cs, ellSaved := es } := by
  have hc : ({ s with cores := cs, ellSaved := es } : State).core c = kget Core.reset cs c := rfl
  have hrun : ({ s with cores := cs, ellSaved := es } : State).run? = s.run? := rfl
  unfold State.await
  rw [hc, h, hrun]
  cases (s.core c).run.bind s.run? with
  | none => rfl
  | some x =>
    by_cases hn : s.pos - x.position g.2.2 = 0
    · have hn' : ({ s with cores := cs, ellSaved := es } : State).pos - x.position g.2.2 = 0 := hn
      simp only [if_pos hn, if_pos hn']
    · have hn' : ¬ ({ s with cores := cs, ellSaved := es } : State).pos - x.position g.2.2 = 0 := hn
      simp only [if_neg hn, if_neg hn', State.stallPos_withCores]
      rfl


/-! Samples of a bank by a lone slot -/

/-- The effects that a sample takes in find the same banks whatever ell the core has open. -/
theorem Core.bankGo_ell (q : List BankEff) (k : Core) (e : Option EllSt) (t : Nat) :
    ({ k with ell := e } : Core).bankGo t q = ({ (k.bankGo t q).1 with ell := e }, (k.bankGo t q).2) := by
  induction q generalizing k with
  | nil => rfl
  | cons x xs ih =>
    by_cases h : (x.cyc < t || (x.cyc == t && decide (x.act.cls ≤ 1))) = true
    · have hx := ih { k with banks := kset k.banks x.bank ((k.bank x.bank).apply (gens xs x.bank) x.act).1 }
      simp only [Core.bankGo, if_pos h]
      exact congrArg (fun r => (r.1, r.2 + b2n ((k.bank x.bank).apply (gens xs x.bank) x.act).2)) hx
    · simp only [Core.bankGo, if_neg h]

/-- They touch the banks and what waits for them alone. -/
theorem Core.bankGo_eq (q : List BankEff) (k : Core) (t : Nat) :
    (k.bankGo t q).1 = { k with banks := (k.bankGo t q).1.banks, bankQ := (k.bankGo t q).1.bankQ } := by
  induction q generalizing k with
  | nil => rfl
  | cons x xs ih =>
    by_cases h : (x.cyc < t || (x.cyc == t && decide (x.act.cls ≤ 1))) = true
    · simp only [Core.bankGo, if_pos h]
      rw [ih]
    · simp only [Core.bankGo, if_neg h]

/-- The core once a sample of bank b in its cycle has been taken: the effects that come before have been made and the bank read. -/
def Core.sampled (k : Core) (b : Nat) : Core := (k.bankGo k.scyc k.bankQ).1.bankRead b

theorem Core.sampled_scyc (k : Core) (b : Nat) : (k.sampled b).scyc = k.scyc := by
  show (k.bankGo k.scyc k.bankQ).1.scyc = k.scyc
  rw [Core.bankGo_eq]

/-- A sample by a lone slot: the violations that it meets are noted in the ell. -/
theorem Core.bankSample_lone (k : Core) (n par b : Nat) :
    ({ k with ell := some (EllSt.lone n par) } : Core).bankSample b =
      { k.sampled b with ell := some { EllSt.lone n par with viols := (k.bankGo k.scyc k.bankQ).2 } } := by
  unfold Core.bankSample
  rw [show ({ k with ell := some (EllSt.lone n par) } : Core).bankGo k.scyc k.bankQ = _ from Core.bankGo_ell _ _ _ _]
  conv_rhs => rw [← Nat.zero_add (k.bankGo k.scyc k.bankQ).2]
  rfl

theorem Core.nstatAt_ell (k : Core) (e : Option EllSt) (t : Nat) (v : BitVec 3) :
    ({ k with ell := e } : Core).nstatAt t v = { k.nstatAt t v with ell := e } := by
  unfold Core.nstatAt
  split <;> rfl

/-- The end of a lone slot's ell that met schedule violations: each is posted once the ell has closed. -/
theorem State.endEll_viols {s : State} {c n par post v : Nat} {k : Core} (hs : kfind s.ellSaved c = none) :
    ((s.opened c n par).setCore c { k with ell := some { EllSt.lone n par with viols := v } }).endEll c post =
      (s.setCore c (k.fallThrough (1 + par) post)).violations c v := by
  have hclosed : { ((s.opened c n par).setCore c (k.fallThrough (1 + par) post)) with
      ellSaved := kdel (s.opened c n par).ellSaved c } = s.setCore c (k.fallThrough (1 + par) post) := by
    simp [State.opened, State.setCore, kdel_kset _ _ _ hs]
  rw [← hclosed]
  simp only [State.endEll, State.core_setCore]
  simp [EllSt.lone, EllSt.new, State.uncorrectables]
  rfl

/-- A lone slot that samples a bank to which no grain is owed: `f` leaves core `g`, and `n` violations in the ell. -/
theorem State.sampleSlot_issued {s : State} {c lat b n : Nat} {p : BitVec 4} {bad : Bool} {f : Core → Core} {g : Core}
    (h : s.ready c 3 noQueue) (hbad : bad = false) (hl : s.lateBank c (s.seen c).scyc b = none)
    (hf : f { s.seen c with ell := some (EllSt.lone 1 3) } = { g with ell := some { EllSt.lone 1 3 with viols := n } }) :
    s.sampleSlot c (.last p) bad lat b f =
      .next ((s.setCore c ((g.vBusy lat).fallThrough 4 p.toNat)).violations c n) := by
  subst hbad
  have hl' : (s.opened c 1 3).lateBank c ((s.opened c 1 3).core c).scyc b = none := by
    rw [State.lateBank_opened, State.opened_core]
    exact hl
  have hg : (f ((s.opened c 1 3).core c)).vBusy lat =
      { g.vBusy lat with ell := some { EllSt.lone 1 3 with viols := n } } := by
    rw [State.opened_core, hf]
    rfl
  rw [State.sampleSlot, State.slotP_ready h rfl rfl, hl']
  simp only [State.modCore, hg]
  rw [State.endEll_viols h.2.2.2]

/-- A lone slot that samples a bank to which a grain is owed does not issue, and the module waits (02 R40). -/
theorem State.sampleSlot_late {s : State} {c lat b : Nat} {p : BitVec 4} {bad : Bool} {f : Core → Core}
    {g : Nat × Nat × Nat} (h : s.ready c 3 noQueue) (hbad : bad = false)
    (hl : s.lateBank c (s.seen c).scyc b = some g) :
    s.sampleSlot c (.last p) bad lat b f = .next ((s.setCore c (s.core c)).await c g) := by
  subst hbad
  have hl' : (s.opened c 1 3).lateBank c ((s.opened c 1 3).core c).scyc b = some g := by
    rw [State.lateBank_opened, State.opened_core]
    exact hl
  have hopen : (s.opened c 1 3).await c g = { s.await c g with
      cores := kset s.cores c { s.seen c with ell := some (EllSt.lone 1 3) }, ellSaved := kset s.ellSaved c (s.core c) } :=
    State.await_withCores s g _ _ (by simp)
  have hshut : (s.setCore c (s.core c)).await c g =
      { s.await c g with cores := kset s.cores c (s.core c), ellSaved := s.ellSaved } :=
    State.await_withCores s g _ s.ellSaved (by simp)
  rw [State.sampleSlot, State.slotP_ready h rfl rfl, hl']
  dsimp only
  rw [hopen, hshut]
  simp [State.endEll, State.modCore, State.core, State.setCore, State.undoEll, Core.modEll, kdel_kset _ _ _ h.2.2.2]


/-- The lanes of bank b, converted with one rounding at its WBASE (03 R87). -/
def Core.converted (z : Core) (b : Nat) (m : Fmt) (sat : Bool) : List Nat :=
  (z.bankLanes b).map (fun x => x.convert ((z.bank b).wbase.getD 0) m sat)

/-- Lane j converted; beyond the last lane nothing, as a zero converts to zero bits. -/
theorem Core.converted_getD (z : Core) (b : Nat) (m : Fmt) (sat : Bool) (j : Nat) :
    (z.converted b m sat).getD j 0 =
      ((z.bankLanes b).getD j Bushel.zero).convert ((z.bank b).wbase.getD 0) m sat :=
  List.getD_map (z.bankLanes b) Bushel.zero (fun x => x.convert ((z.bank b).wbase.getD 0) m sat)

/-- What a VACVT of cycle t that read lanes `xs` of bank b adds to its write: the flags of the lanes reach NSTAT at t + 5, and with
CLR the bank is cleared (03 R86; 06 R180). -/
def Core.vacvtEnd (y : Core) (t b : Nat) (clr : Bool) (xs : List Bushel) : Core :=
  let y := y.nstatAt (t + 5) (flagsOr xs)
  if clr then y.bankAt b t .clearKeep else y

theorem Core.vacvtEnd_ell (y : Core) (e : Option EllSt) (t b : Nat) (clr : Bool) (xs : List Bushel) :
    ({ y with ell := e } : Core).vacvtEnd t b clr xs = { y.vacvtEnd t b clr xs with ell := e } := by
  unfold Core.vacvtEnd
  rw [Core.nstatAt_ell]
  cases clr <;> rfl

theorem Core.nstatAt_scyc (k : Core) (t : Nat) (v : BitVec 3) : (k.nstatAt t v).scyc = k.scyc := by
  unfold Core.nstatAt
  split <;> rfl

/-- The effect of a VACVT that writes `tgt` of the sampled core, as `execVacvt` has it. -/
def Core.vacvt (k : Core) (b : Nat) (clr : Bool) (tgt : Core → Target) : Core :=
  let z := k.bankSample b
  let y := (z.later 5 false (tgt z)).nstatAt (z.scyc + 5) (flagsOr (z.bankLanes b))
  if clr then y.bankAt b y.scyc .clearKeep else y

theorem Core.vacvt_eq (k : Core) (b : Nat) (clr : Bool) (tgt : Core → Target) :
    k.vacvt b clr tgt = ((k.bankSample b).later 5 false (tgt (k.bankSample b))).vacvtEnd (k.bankSample b).scyc b clr
      ((k.bankSample b).bankLanes b) := by
  simp only [Core.vacvt, Core.nstatAt_scyc]
  rfl

/-- A VACVT in a lone slot: what it writes does not depend on the ell, in which it notes the violations that its sample met. -/
theorem Core.vacvt_lone (k : Core) (n par b : Nat) (clr : Bool) {tgt : Core → Target}
    (ht : ∀ (z : Core) (e : Option EllSt), tgt { z with ell := e } = tgt z) :
    ({ k with ell := some (EllSt.lone n par) } : Core).vacvt b clr tgt =
      { ((k.sampled b).later 5 false (tgt (k.sampled b))).vacvtEnd k.scyc b clr ((k.sampled b).bankLanes b) with
        ell := some { EllSt.lone n par with viols := (k.bankGo k.scyc k.bankQ).2 } } := by
  rw [Core.vacvt_eq, Core.bankSample_lone]
  have hcyc := Core.sampled_scyc k b
  generalize some { EllSt.lone n par with viols := (k.bankGo k.scyc k.bankQ).2 } = e
  generalize k.sampled b = z at hcyc ⊢
  show (({ z with ell := e } : Core).later 5 false (tgt { z with ell := e })).vacvtEnd z.scyc b clr (z.bankLanes b) = _
  rw [ht z e, ← hcyc]
  exact Core.vacvtEnd_ell (z.later 5 false (tgt z)) e z.scyc b clr (z.bankLanes b)

end Sys2Proof.Machine

namespace Sys2Proof.Claims
open Sys2Proof.Machine

/-- Settles O25: an ell of VACVT alone issues as the one sample of its bank does (`sampleSlot_issued`), and the fields of
the packed register are the converted lanes. -/
theorem bankConversion : Obligations.BankConversion := by
  unfold Obligations.BankConversion
  intro s c p f vd bank sat clr part
  refine ⟨fun h => ⟨?_, ?_, ?_⟩, ?_⟩
  · intro g hl hfmt
    refine State.sampleSlot_late h ?_ hl
    obtain ⟨hu, hp⟩ | ⟨hu, m, hm, hp⟩ := hfmt
    · simp [hu, hp]
    · simp [hu, hm, partOk, hp]
  · intro m hl hm hp
    refine ⟨vOf 32 (((s.seen c).sampled bank.toNat).converted bank.toNat m sat), ?_, ?_⟩
    · intro j hj
      rw [VReg.el_vOf _ (by omega), Core.converted_getD]
      rfl
    · have hf := Core.vacvt_lone (s.seen c) 1 3 bank.toNat clr (fun _ _ => rfl)
        (tgt := fun z => .vreg vd vAll (vOf 32 (z.converted bank.toNat m sat)))
      show execVacvt c (.last p) f vd bank sat clr part s = _
      simp only [execVacvt, hm, hp]
      exact State.sampleSlot_issued h rfl hl hf
  · intro m hl hu hm hp
    refine ⟨partMask m.width part.toNat,
      partOf m.width part.toNat (((s.seen c).sampled bank.toNat).converted bank.toNat m sat),
      fun i hi => partMask_getLsbD hi, ?_, ?_⟩
    · intro j hj
      rw [VReg.el_partOf _ (by nlinarith), Core.converted_getD]
      rfl
    · have hf := Core.vacvt_lone (s.seen c) 1 3 bank.toNat clr (fun _ _ => rfl)
        (tgt := fun z => .vreg vd (partMask m.width part.toNat) (partOf m.width part.toNat (z.converted bank.toNat m sat)))
      show execVacvt c (.last p) f vd bank sat clr part s = _
      simp only [execVacvt, hu, hm]
      exact State.sampleSlot_issued h (by simp [partOk, hp]) hl hf
  · intro hc he
    show execVacsumBankWrite c bank s = _
    simp only [execVacsumBankWrite, State.coreEvent, hc, he]
    cases (s.core c).bankQ.find? (fun x => x.bank == bank.toNat && x.act.cls == 1) <;> rfl

end Sys2Proof.Claims
end

section
/-!
A table with one key, and what leaves its key as it is. A run that is the module's only one stays the only one through the
cycles, grains and effects that its end makes up for: each changes a run at most under the key that it finds.
-/

namespace Sys2Proof.Machine

/-! Tables -/

/-- The key of a table that has one. -/
def soleKey {α : Type} : KMap α → Option Nat
  | [(k, _)] => some k
  | _ => none

section
variable {α : Type}

theorem soleKey_eq_some {m : KMap α} {k : Nat} : soleKey m = some k ↔ ∃ x, m = [(k, x)] := by
  match m with
  | [] => simp [soleKey]
  | [(j, w)] => simp [soleKey]
  | _ :: _ :: _ => simp [soleKey]

@[simp] theorem soleKey_kmap (f : Nat → α → α) (m : KMap α) : soleKey (kmap f m) = soleKey m := by
  match m with
  | [] => rfl
  | [(j, w)] => rfl
  | (_, _) :: (_, _) :: _ => rfl

/-- A write of a key that the table holds changes no key. -/
theorem soleKey_kset {m : KMap α} {k : Nat} {x : α} (h : kfind m k = some x) (y : α) :
    soleKey (kset m k y) = soleKey m := by
  match m with
  | [] => simp at h
  | [(j, w)] =>
    have hj : j = k := by
      by_contra hne
      simp [kfind, hne] at h
    simp [kset, hj, soleKey]
  | (i, v) :: (j, w) :: m =>
    simp only [kset]
    split
    · rfl
    · split
      · rfl
      · split
        · rfl
        · split <;> rfl

end

/-- What every step of a fold keeps, the fold keeps. -/
theorem foldl_keeps {σ α β : Type} (φ : σ → β) {f : σ → α → σ} (h : ∀ s a, φ (f s a) = φ s) (xs : List α) (s : σ) :
    φ (xs.foldl f s) = φ s := by
  induction xs generalizing s with
  | nil => rfl
  | cons a xs ih => rw [List.foldl_cons, ih, h]

/-! Runs, counts and stalls -/

theorem State.setRun_soleKey {s : State} {r : Nat} {x : Run} (h : s.run? r = some x) (y : Run) :
    soleKey (s.setRun r y).runs = soleKey s.runs := soleKey_kset h y

@[simp] theorem State.modRun_soleKey (s : State) (r : Nat) (g : Run → Run) :
    soleKey (s.modRun r g).runs = soleKey s.runs := by
  unfold State.modRun
  split
  next h => exact State.setRun_soleKey h _
  · rfl

@[simp] theorem State.modCore_runs (s : State) (c : Nat) (f : Core → Core) : (s.modCore c f).runs = s.runs := rfl

@[simp] theorem State.chargeRuns_soleKey (s : State) (g : RunCounts → RunCounts) :
    soleKey (s.chargeRuns g).runs = soleKey s.runs := by
  simp [State.chargeRuns]

@[simp] theorem State.countStall_soleKey (s : State) (n : Nat) : soleKey (s.countStall n).runs = soleKey s.runs := by
  simp [State.countStall]

@[simp] theorem State.passBack_soleKey (s : State) (p n : Nat) : soleKey (s.passBack p n).runs = soleKey s.runs := by
  simp [State.passBack]

@[simp] theorem State.stallNow_soleKey (s : State) (n : Nat) : soleKey (s.stallNow n).runs = soleKey s.runs := by
  simp [State.stallNow]

@[simp] theorem State.stallPos_soleKey (s : State) (p n : Nat) : soleKey (s.stallPos p n).runs = soleKey s.runs := by
  simp only [State.stallPos]
  split <;> simp

@[simp] theorem State.stallAt_soleKey (s : State) (c t n : Nat) : soleKey (s.stallAt c t n).runs = soleKey s.runs := by
  simp only [State.stallAt]
  split <;> simp

@[simp] theorem State.countConflict_soleKey (s : State) : soleKey s.countConflict.runs = soleKey s.runs := by
  simp [State.countConflict]

@[simp] theorem State.await_soleKey (s : State) (c : Nat) (g : Nat × Nat × Nat) :
    soleKey (s.await c g).runs = soleKey s.runs := by
  simp only [State.await]
  split
  · rfl
  · dsimp only
    split <;> simp

@[simp] theorem State.endRunExit_soleKey (s : State) (c : Nat) (st : Byte) :
    soleKey (s.endRunExit c st).runs = soleKey s.runs := by
  simp only [State.endRunExit]
  split <;> simp

@[simp] theorem State.endDueOf_soleKey (s : State) (c : Nat) : soleKey (s.endDueOf c).runs = soleKey s.runs := by
  simp only [State.endDueOf, State.endRunDue]
  split <;> simp

@[simp] theorem State.afterHalt_soleKey (s : State) (c : Nat) : soleKey (s.afterHalt c).runs = soleKey s.runs := by
  simp only [State.afterHalt]
  split <;> simp

@[simp] theorem State.raiseAsyncAt_soleKey (s : State) (c : Nat) (code : Byte) (info : Word) (t : Nat) :
    soleKey (s.raiseAsyncAt c code info t).runs = soleKey s.runs := by
  simp only [State.raiseAsyncAt]
  split <;> split <;> simp

/-! Events -/

@[simp] theorem State.eventEntry_runs (s : State) (f : Nat) (bs : List Byte) : (s.eventEntry f bs).runs = s.runs := by
  simp only [State.eventEntry]
  split <;> simp

@[simp] theorem State.postEvent_runs (s : State) (f type status core job detail : Nat) :
    (s.postEvent f type status core job detail).runs = s.runs := by
  simp only [State.postEvent, State.eventEntry_runs]
  split <;> simp [State.modCtx]

@[simp] theorem State.violation_runs (s : State) (c : Nat) : (s.violation c).runs = s.runs := by
  simp only [State.violation]
  split
  · split <;> simp
  · rfl

@[simp] theorem State.violations_runs (s : State) (c n : Nat) : (s.violations c n).runs = s.runs := by
  induction n generalizing s with
  | zero => rfl
  | succ n ih => simp [State.violations, ih]

/-! Operands and the matrix array -/

@[simp] theorem State.access_soleKey (s : State) (c t b : Nat) : soleKey (s.access c t b).runs = soleKey s.runs := by
  simp only [State.access]
  split <;> simp

@[simp] theorem State.accessAll_soleKey (s : State) (c t a n : Nat) :
    soleKey (s.accessAll c t a n).runs = soleKey s.runs :=
  foldl_keeps (fun s : State => soleKey s.runs) (fun _ _ => State.access_soleKey ..) _ _

@[simp] theorem State.scaleAccess_soleKey (s : State) (c t a n : Nat) (unit : Bool) :
    soleKey (s.scaleAccess c t a n unit).runs = soleKey s.runs :=
  foldl_keeps (fun s : State => soleKey s.runs) (fun _ _ => State.access_soleKey ..) _ _

@[simp] theorem State.portFetch_soleKey (s : State) (c h t a n : Nat) :
    soleKey (s.portFetch c h t a n).1.runs = soleKey s.runs := by
  simp only [State.portFetch]
  split <;> simp

@[simp] theorem State.stratRead_soleKey (s : State) (c a n : Nat) :
    soleKey (s.stratRead c a n).1.runs = soleKey s.runs := by
  simp only [State.stratRead]
  split <;> simp

@[simp] theorem State.loadRow_soleKey (s : State) (c : Nat) (o : Operand) (p : TileP) (row k0 cs t : Nat) (quiet :
    Bool) :
    soleKey (s.loadRow c o p row k0 cs t quiet).1.runs = soleKey s.runs := by
  simp only [State.loadRow]
  split
  · rw [foldl_keeps (fun (y : State × Nat) => soleKey y.1.runs) (fun _ _ => State.portFetch_soleKey ..)]
    dsimp only
    split <;> simp
  · split <;> simp

@[simp] theorem State.injectRow_soleKey (s : State) (c : Nat) (o : Operand) (p : TileP) (m0 k0 cs r t : Nat)
    (masked : Nat → Bool) (quiet : Bool) :
    soleKey (s.injectRow c o p m0 k0 cs r t masked quiet).runs = soleKey s.runs := by
  simp only [State.injectRow]
  split
  · rfl
  · split <;> simp

@[simp] theorem State.injectRows_soleKey (s : State) (c : Nat) (o : Operand) (p : TileP) (m0 k0 cs l : Nat)
    (masked : Nat → Bool) (upto n : Nat) :
    soleKey (s.injectRows c o p m0 k0 cs l masked upto n).runs = soleKey s.runs := by
  induction n generalizing s with
  | zero => rfl
  | succ n ih => simp [State.injectRows, ih]

@[simp] theorem State.runLoad_soleKey (s : State) (c : Nat) (j : Job) (p : TileP) (upto : Option Nat) :
    soleKey (s.runLoad c j p upto).1.runs = soleKey s.runs := by
  cases upto <;> simp [State.runLoad]

@[simp] theorem State.landLoads_soleKey (s : State) (c w n : Nat) :
    soleKey (s.landLoads c w n).runs = soleKey s.runs := by
  induction n generalizing s with
  | zero => rfl
  | succ n ih =>
    simp only [State.landLoads]
    split
    · rfl
    · split
      · rfl
      · simp [ih]

@[simp] theorem State.swapAt_soleKey (s : State) (c w : Nat) : soleKey (s.swapAt c w).runs = soleKey s.runs := by
  simp only [State.swapAt, State.modCore_runs]
  split <;> split <;> simp

@[simp] theorem State.streamAccess_soleKey (s : State) (c : Nat) (o : Operand) (p : TileP) (n t : Nat) (chs :
    List Nat) :
    soleKey (s.streamAccess c o p n t chs).runs = soleKey s.runs := by
  have hfold : ∀ (f : Nat → Nat × Nat) (xs : List Nat) (s : State),
      soleKey (xs.foldl (fun s j => s.access c (f j).1 (f j).2) s).runs = soleKey s.runs :=
    fun f => foldl_keeps (fun s : State => soleKey s.runs) (fun _ _ => State.access_soleKey ..)
  simp only [State.streamAccess]
  split
  · exact hfold (fun j => (t + j, weightPath)) _ _
  · rw [hfold (fun r => (t, spadBank (64 * r) + unitless)), hfold (fun r => (t, spadBank (64 * r)))]

@[simp] theorem State.subVector_soleKey (s : State) (c : Nat) (o : Operand) (p : TileP) (n ch t : Nat) :
    soleKey (s.subVector c o p n ch t).1.runs = soleKey s.runs := by
  simp only [State.subVector]
  split <;> split <;> simp

@[simp] theorem State.enterGroup_soleKey (s : State) (c : Nat) (o : MatOp) (p : TileP) (st : SetP) (grp e : Nat) :
    soleKey (s.enterGroup c o p st grp e).runs = soleKey s.runs := by
  simp only [State.enterGroup, State.setCore_runs]
  rw [foldl_keeps (fun (y : State × List (Nat × List Val)) => soleKey y.1.runs) (fun _ _ => State.subVector_soleKey ..)]
  simp only [apply_ite State.runs, apply_ite soleKey, State.streamAccess_soleKey, ite_self]

@[simp] theorem State.runJob_soleKey (s : State) (c : Nat) (j : Job) (p : TileP) :
    soleKey (s.runJob c j p).1.runs = soleKey s.runs := by
  simp only [State.runJob]
  split
  · rfl
  · split <;> simp

@[simp] theorem State.advance_soleKey (s : State) (c t : Nat) (col : Bool) (n : Nat) :
    soleKey (s.advance c t col n).runs = soleKey s.runs := by
  induction n generalizing s with
  | zero => rfl
  | succ n ih =>
    simp only [State.advance]
    split
    · rfl
    · split
      · rfl
      · split
        · rfl
        · split <;> simp [ih]

@[simp] theorem State.arrayAt_soleKey (s : State) (c t : Nat) : soleKey (s.arrayAt c t).runs = soleKey s.runs :=
  State.advance_soleKey ..

@[simp] theorem State.bankRun_runs (s : State) (c t : Nat) : (s.bankRun c t).runs = s.runs := by
  simp [State.bankRun]

@[simp] theorem State.drainBanks_runs (s : State) (r t : Nat) : (s.drainBanks r t).runs = s.runs :=
  foldl_keeps State.runs (fun _ _ => State.bankRun_runs ..) _ _

/-! Flags and barriers -/

@[simp] theorem State.modFlag_runs (s : State) (p : Nat) (f : Flag → Flag) : (s.modFlag p f).runs = s.runs := by
  simp only [State.modFlag]
  split <;> rfl

@[simp] theorem State.modBarr_runs (s : State) (p : Nat) (f : Barrier → Barrier) : (s.modBarr p f).runs = s.runs := by
  simp only [State.modBarr]
  split <;> rfl

@[simp] theorem State.flagRace_runs (s : State) (f : Flag) : (s.flagRace f).runs = s.runs := by
  simp only [State.flagRace]
  split <;> simp

@[simp] theorem State.reportRaces_runs (s : State) (due : Flag → Bool) : (s.reportRaces due).runs = s.runs := by
  refine foldl_keeps State.runs (fun s p => ?_) _ _
  split <;> simp

@[simp] theorem State.flagOp_runs (s : State) (p : Nat) (origin : Option Nat) (rank : Nat × Nat) (st : Nat) (val :
    Bool) :
    (s.flagOp p origin rank st val).runs = s.runs := by
  simp only [State.flagOp]
  split
  · rfl
  · split
    · rfl
    · split
      · simp
      · split <;> simp

@[simp] theorem State.creditBack_runs (s : State) (c p t : Nat) : (s.creditBack c p t).runs = s.runs := by
  simp only [State.creditBack]
  split
  · simp
  · split <;> simp

@[simp] theorem State.syncApply_runs (s : State) (r e t : Nat) : (s.syncApply r e t).runs = s.runs := by
  simp only [State.syncApply]
  split
  case h_3 => split <;> simp
  case h_6 => rfl
  all_goals split <;> simp [State.pushArrival, State.pushRelease]

@[simp] theorem State.syncEntries_runs (s : State) (r t pl n : Nat) : (s.syncEntries r t pl n).runs = s.runs := by
  induction n generalizing s pl with
  | zero => rfl
  | succ n ih => simp [State.syncEntries, ih]

/-! Grains -/

@[simp] theorem State.transmit_runs (s : State) (port : Nat) (g : Grain) : (s.transmit port g).runs = s.runs := rfl

@[simp] theorem State.sendRouted_runs (s : State) (g : Grain) : (s.sendRouted g).runs = s.runs := by
  simp only [State.sendRouted]
  split
  · split <;> rfl
  · split <;> rfl

@[simp] theorem State.retain_soleKey (s : State) (r port : Nat) (g : Grain) :
    soleKey (s.retain r port g).runs = soleKey s.runs := by
  simp only [State.retain]
  split
  · rfl
  · next h => exact State.setRun_soleKey h _

@[simp] theorem State.moveOn_runs (s : State) (f : Flight) : (s.moveOn f).runs = s.runs := by
  simp only [State.moveOn]
  split <;> rfl

@[simp] theorem State.beArrive_runs (s : State) (b : BeGrain) (p : Nat) : (s.beArrive b p).runs = s.runs := by
  simp only [State.beArrive]
  split <;> simp

@[simp] theorem State.hostAct_soleKey (s : State) (r : Nat) (x : Run) (p : Payload) (t : Nat) :
    soleKey (s.hostAct r x p t).runs = soleKey s.runs := by
  have hput : soleKey (s.hostPut r x p t).runs = soleKey s.runs := by
    simp only [State.hostPut]
    split
    · rfl
    · split
      · rfl
      · split <;> simp
  simp only [State.hostAct]
  split
  · rfl
  · split
    case h_3 => exact hput
    all_goals rfl

@[simp] theorem State.hubAct_soleKey (s : State) (r : Nat) (f : Flight) :
    soleKey (s.hubAct r f).runs = soleKey s.runs := by
  simp only [State.hubAct]
  split
  · rfl
  · split
    · simp
    · split <;> simp

/-! What comes before the end of a run -/

@[simp] theorem State.catchUp_soleKey (s : State) (r : Nat) (x : Run) :
    soleKey (s.catchUp r x).runs = soleKey s.runs := by
  rw [State.catchUp, State.reportRaces_runs]
  exact foldl_keeps (fun s : State => soleKey s.runs) (fun _ _ => State.arrayAt_soleKey ..) _ _

/-- What a run has on its way arrives at the hub and leaves by the ports, and changes no run but under its key. -/
@[simp] theorem State.landAll_soleKey (s : State) (r : Nat) (x : Run) :
    soleKey (s.landAll r x false).runs = soleKey s.runs := by
  simp only [State.landAll]
  rw [foldl_keeps (fun s : State => soleKey s.runs)]
  · dsimp only
    rw [foldl_keeps (fun s : State => soleKey s.runs)]
    · rw [foldl_keeps State.runs (fun _ _ => State.beArrive_runs ..),
        foldl_keeps State.runs (fun _ _ => State.moveOn_runs ..)]
    · intro s f
      split <;> simp
  · intro s o
    split
    · split
      · split <;> simp
      · rfl
    · rfl

end Sys2Proof.Machine
end

section
/-!
The end of a run (02 R63, 05 R162): what completions and the release of a run's objects and cores leave.
-/

namespace Sys2Proof.Machine

/-! Entries for the host (13 R347 to R353) -/

/-- One state is another but for the rings of the contexts and what was written to the host. -/
def State.SameButHost (s u : State) : Prop :=
  u = { s with ctxs := u.ctxs, hostMem := u.hostMem, hostReqs := u.hostReqs }

namespace State.SameButHost
variable {s t u : State}

theorem refl (s : State) : s.SameButHost s := rfl

theorem trans (h : s.SameButHost t) (h' : t.SameButHost u) : s.SameButHost u := by
  rw [State.SameButHost, h', h]

theorem ite {c : Prop} [Decidable c] (ht : s.SameButHost t) (hu : s.SameButHost u) :
    s.SameButHost (if c then t else u) := by
  split
  · exact ht
  · exact hu

theorem runs (h : s.SameButHost u) : u.runs = s.runs := by rw [show u = _ from h]
theorem cores (h : s.SameButHost u) : u.cores = s.cores := by rw [show u = _ from h]
theorem hub (h : s.SameButHost u) : u.hub = s.hub := by rw [show u = _ from h]

end State.SameButHost

theorem State.hostWrite_same (s : State) (f : Nat) (relaxed : Bool) (a : Nat) (bs : List Byte) :
    s.SameButHost (s.hostWrite f relaxed a bs) := rfl

theorem State.setCtx_same (s : State) (f : Nat) (x : Ctx) : s.SameButHost (s.setCtx f x) := rfl

/-- An entry is written and the context's index of its ring moves on. -/
theorem State.hostWrite_setCtx_same (s : State) (f : Nat) (relaxed : Bool) (a : Nat) (bs : List Byte)
    (g : Nat) (x : Ctx) : s.SameButHost ((s.hostWrite f relaxed a bs).setCtx g x) := rfl

theorem State.postCompletion_same (s : State) (f : Nat) (bs : List Byte) : s.SameButHost (s.postCompletion f bs) := by
  simp only [State.postCompletion]
  split
  · exact .refl s
  · split
    · exact s.setCtx_same f _
    · exact s.hostWrite_setCtx_same f false _ _ f _

theorem State.complete_same (s : State) (f opcode : Nat) {status : Nat} (h : status ≠ 2) (cmd : Cmd)
    (b6 job q16 q24 : Nat) : s.SameButHost (s.complete f opcode status cmd b6 job q16 q24) := by
  simp only [State.complete, if_neg h]
  exact s.postCompletion_same f _

@[simp] theorem State.complete_runs (s : State) (f opcode status : Nat) (cmd : Cmd) (b6 job q16 q24 : Nat) :
    (s.complete f opcode status cmd b6 job q16 q24).runs = s.runs := by
  simp only [State.complete, (State.postCompletion_same ..).runs]
  split <;> rfl

theorem State.eventEntry_same (s : State) (f : Nat) (bs : List Byte) : s.SameButHost (s.eventEntry f bs) := by
  simp only [State.eventEntry]
  split
  · exact s.setCtx_same f _
  · exact s.hostWrite_setCtx_same f false _ _ f _

theorem State.postEvent_same (s : State) (f type status core job detail : Nat) :
    s.SameButHost (s.postEvent f type status core job detail) := by
  simp only [State.postEvent]
  refine .trans ?_ (State.eventEntry_same ..)
  split
  · exact .refl s
  · exact (s.eventEntry_same f _).trans (State.setCtx_same ..)

theorem State.postDigest_same (s : State) (f kind core job mism l cnt : Nat) (d : DWord) :
    s.SameButHost (s.postDigest f kind core job mism l cnt d) := by
  simp only [State.postDigest]
  split
  · exact .refl s
  · split
    · exact s.setCtx_same f _
    · exact s.hostWrite_setCtx_same f false _ _ f _

/-! Requests -/

theorem State.completeReq_same (s : State) (x : Run) (q : Req) {st : Nat} (h : st ≠ 2) (host : Bool) :
    s.SameButHost (s.completeReq x q st host) := by
  simp only [State.completeReq]
  split
  · exact .refl s
  · exact (s.hostWrite_same x.ctx true _ _).trans (State.complete_same _ _ _ h ..)

@[simp] theorem State.completeReq_runs (s : State) (x : Run) (q : Req) (st : Nat) (host : Bool) :
    (s.completeReq x q st host).runs = s.runs := by
  simp only [State.completeReq]
  split <;> simp

@[simp] theorem State.endReqs_runs (s : State) (x : Run) (st : Nat) (host : Bool) (qs : List Req) :
    (s.endReqs x st host qs).runs = s.runs := by
  induction qs generalizing s with
  | nil => rfl
  | cons q qs ih =>
    rw [State.endReqs, ih]
    split <;> simp

/-! Bounds -/

theorem State.settleBounds_eq (s : State) : s.settleBounds = { s with pwr := s.settleBounds.pwr } := by
  simp only [State.settleBounds]
  split <;> rfl

@[simp] theorem State.settleBounds_runs (s : State) : s.settleBounds.runs = s.runs := by rw [s.settleBounds_eq]
@[simp] theorem State.settleBounds_cores (s : State) : s.settleBounds.cores = s.cores := by rw [s.settleBounds_eq]
@[simp] theorem State.settleBounds_syn (s : State) : s.settleBounds.syn = s.syn := by rw [s.settleBounds_eq]
@[simp] theorem State.settleBounds_chn (s : State) : s.settleBounds.chn = s.chn := by rw [s.settleBounds_eq]

/-! Release -/

/-- A value of a changed table satisfies what the change and the default give. -/
theorem kget_kmap_prop {α : Type} {P : α → Prop} {d : α} {f : Nat → α → α} (hd : P d) (hf : ∀ j w, P (f j w)) (m : KMap α)
    (k : Nat) : P (kget d (kmap f m) k) := by
  induction m with
  | nil => exact hd
  | cons p m ih =>
    obtain ⟨j, w⟩ := p
    simp only [kmap, kget]
    split
    · exact hf j w
    · exact ih

@[simp] theorem State.letGo_runs (s : State) (r : Nat) : (s.letGo r).runs = s.runs := by
  simp only [State.letGo]
  split
  · split <;> rfl
  · rfl

@[simp] theorem State.releaseObjects_runs (s : State) (r : Nat) : (s.releaseObjects r).runs = s.runs := rfl
@[simp] theorem State.leaveCores_runs (s : State) (r : Nat) : (s.leaveCores r).runs = s.runs := rfl
@[simp] theorem State.leaveCores_syn (s : State) (r : Nat) : (s.leaveCores r).syn = s.syn := rfl

/-- A core that its run leaves has none. -/
theorem State.leaveCores_run (s : State) (r c : Nat) : ((s.leaveCores r).core c).run ≠ some r := by
  refine kget_kmap_prop (P := fun k => k.run ≠ some r) (show Core.reset.run ≠ some r from nofun) (fun _ k => ?_) s.cores c
  split
  · exact nofun
  next h => exact h

@[simp] theorem State.modCore_syn (s : State) (c : Nat) (f : Core → Core) : (s.modCore c f).syn = s.syn := rfl

theorem State.core_modCore_self (s : State) (c : Nat) (f : Core → Core) : (s.modCore c f).core c = f (s.core c) :=
  s.core_setCore c _

theorem State.core_modCore_ne (s : State) {c d : Nat} (f : Core → Core) (h : d ≠ c) : (s.modCore c f).core d = s.core d :=
  kget_kset_ne _ _ _ h

theorem State.core_modCore_run (s : State) {f : Core → Core} (hf : ∀ k, (f k).run = k.run) (c d : Nat) :
    ((s.modCore c f).core d).run = (s.core d).run := by
  by_cases h : d = c
  · rw [h, State.core_modCore_self, hf]
  · rw [State.core_modCore_ne _ _ h]

@[simp] theorem State.unmarkSaved_runs (s : State) (x : Run) : (s.unmarkSaved x).runs = s.runs := by
  simp only [State.unmarkSaved]
  split
  · rfl
  · exact foldl_keeps State.runs (fun s (e : Nat × Core) => State.modCore_runs s e.1 _) _ _

@[simp] theorem State.unmarkSaved_syn (s : State) (x : Run) : (s.unmarkSaved x).syn = s.syn := by
  simp only [State.unmarkSaved]
  split
  · rfl
  · exact foldl_keeps State.syn (fun s (e : Nat × Core) => State.modCore_syn s e.1 _) _ _

@[simp] theorem State.unmarkSaved_run (s : State) (x : Run) (c : Nat) :
    ((s.unmarkSaved x).core c).run = (s.core c).run := by
  simp only [State.unmarkSaved]
  split
  · rfl
  · refine foldl_keeps (fun s : State => (s.core c).run) (fun s e => ?_) _ _
    apply State.core_modCore_run
    exact fun _ => rfl

/-- What is kept of a run at its end: its completions stand, its objects, its cores and then itself are gone. -/
theorem State.finishRun_eq {s : State} {r : Nat} {x : Run} (h : s.run? r = some x) (st : Nat) (host : Bool) :
    ∃ (t : State) (l : Lnk) (n : Chn), t.runs = s.runs ∧ s.finishRun r st host =
      { ((t.releaseObjects r).leaveCores r).unmarkSaved x with
        runs := kdel (((t.releaseObjects r).leaveCores r).unmarkSaved x).runs r, lnk := l, chn := n }.settleBounds := by
  simp only [State.finishRun, h]
  refine ⟨_, _, _, ?_, rfl⟩
  cases x.preempt <;> simp [apply_ite State.runs, apply_ite Prod.fst, State.signed]

/-- A state that holds no object of a run and none of its cores. -/
def State.Released (s : State) (r : Nat) : Prop :=
  (∀ q, q ∈ s.syn.flags → q.2.run ≠ r) ∧ (∀ q, q ∈ s.syn.barriers → q.2.run ≠ r) ∧ ∀ c, (s.core c).run ≠ some r

/-- The end of the only run leaves no run, and nothing of it. -/
theorem State.finishRun_sole {s : State} {r : Nat} (h : soleKey s.runs = some r) (st : Nat) (host : Bool) :
    (s.finishRun r st host).runs = [] ∧ (s.finishRun r st host).Released r := by
  obtain ⟨x, hx⟩ := soleKey_eq_some.1 h
  have hrun : s.run? r = some x := by simp [State.run?, hx, kfind]
  obtain ⟨t, l, n, ht, he⟩ := State.finishRun_eq hrun st host
  have hcore : ∀ c, ((s.finishRun r st host).core c).run ≠ some r := by
    intro c
    have hc := State.leaveCores_run (t.releaseObjects r) r c
    rw [← State.unmarkSaved_run _ x c] at hc
    rwa [he, State.core, State.settleBounds_cores]
  refine ⟨?_, ?_, ?_, hcore⟩
  · simp [he, ht, hx, kdel]
  · simp [he, State.releaseObjects]
  · simp [he, State.releaseObjects]

end Sys2Proof.Machine
end

section
/-!
RUN_COMPLETE, RUN_LAUNCH, COORDINATION_TIMEOUT and REQUEST_ELIGIBLE on a module with one run (02 R63; 10 R282 to R284;
13 R359).
-/

namespace Sys2Proof.Machine

/-! One run -/

section
variable {s : State} {r : Nat} {x : Run}

theorem State.run?_sole (hr : s.runs = [(r, x)]) : s.run? r = some x := by simp [State.run?, hr, kfind]

theorem State.soleKey_runs (hr : s.runs = [(r, x)]) : soleKey s.runs = some r := by rw [hr, soleKey]

theorem State.setRun_sole (hr : s.runs = [(r, x)]) (y : Run) : (s.setRun r y).runs = [(r, y)] := by simp [hr, kset]

theorem State.modRun_eq (hr : s.run? r = some x) (g : Run → Run) : s.modRun r g = s.setRun r (g x) := by
  simp [State.modRun, hr]

theorem State.modRun_sole (hr : s.runs = [(r, x)]) (g : Run → Run) : (s.modRun r g).runs = [(r, g x)] := by
  rw [State.modRun_eq (State.run?_sole hr), State.setRun_sole hr]

end

@[simp] theorem State.run?_setRun_self (s : State) (r : Nat) (x : Run) : (s.setRun r x).run? r = some x :=
  kfind_kset_self _ _ _

@[simp] theorem State.modRun_chn (s : State) (r : Nat) (g : Run → Run) : (s.modRun r g).chn = s.chn := by
  simp only [State.modRun]
  split <;> rfl

@[simp] theorem State.modRun_hub (s : State) (r : Nat) (g : Run → Run) : (s.modRun r g).hub = s.hub := by
  simp only [State.modRun]
  split <;> rfl

@[simp] theorem State.modRun_cores (s : State) (r : Nat) (g : Run → Run) : (s.modRun r g).cores = s.cores := by
  simp only [State.modRun]
  split <;> rfl

/-- A run that the module does not have (log 77). -/
theorem exec_noSuchRun {s : State} {r : Nat} (h : s.run? r = none) (id : DWord) :
    exec (.runAdmission r) s = .fault .noSuchUnit ∧ exec (.runLaunch r) s = .fault .noSuchUnit ∧
      exec (.runComplete r) s = .fault .noSuchUnit ∧ exec (.layerDigestPost r none) s = .fault .noSuchUnit ∧
      exec (.coordinationTimeout r) s = .fault .noSuchUnit ∧
      exec (.requestEligible r id none) s = .fault .noSuchUnit := by
  refine ⟨?_, ?_, ?_, ?_, ?_, ?_⟩
  · show execRunAdmission r s = _
    simp only [execRunAdmission, h]
  · show execRunLaunch r s = _
    simp only [execRunLaunch, h]
  · show execRunComplete r s = _
    simp only [execRunComplete, h]
  · show execLayerDigestPost r none s = _
    simp only [execLayerDigestPost, h]
  · show execCoordinationTimeout r s = _
    simp only [execCoordinationTimeout, h]
  · show execRequestEligible r id none s = _
    simp only [execRequestEligible, h]

/-! RUN_COMPLETE -/

section
variable {s : State} {r : Nat} {x : Run}

/-- What comes before the end of the only run leaves it the only run. -/
theorem State.caughtUp_sole (hr : s.runs = [(r, x)]) (t : Nat) :
    soleKey ((((s.catchUp r x).landAll r x false).drainBanks r t).runs) = some r := by
  rw [State.drainBanks_runs, State.landAll_soleKey, State.catchUp_soleKey, State.soleKey_runs hr]

theorem execRunComplete_ended (hr : s.runs = [(r, x)]) (hp : x.phase = .ended) :
    ∃ u, exec (.runComplete r) s = .next u ∧ u.runs = [] ∧ u.Released r := by
  have h := State.finishRun_sole (State.caughtUp_sole hr ((x.furlong + 1) * 2 ^ x.tun.furlongN))
    (x.endStatus.getD 0).toNat true
  refine ⟨_, ?_, h⟩
  show execRunComplete r s = _
  simp only [execRunComplete, State.run?_sole hr, hp]

theorem execRunComplete_done (hr : s.runs = [(r, x)]) (hp : x.phase = .active) (he : x.endStatus = none)
    (hc : ∀ c, c ∈ s.coresOf r → (s.core c).complete = true) (hd : s.pointReached r x x.digests.length = false) :
    ∃ u, exec (.runComplete r) s = .next u ∧ u.runs = [] ∧ u.Released r := by
  have h := State.finishRun_sole (State.caughtUp_sole hr (2 ^ 64)) (s.exitStatus (s.coresOf r)) true
  refine ⟨_, ?_, h⟩
  have hall : (s.coresOf r).all (fun c => (s.core c).complete) = true := List.all_eq_true.2 hc
  show execRunComplete r s = _
  simp only [execRunComplete, State.run?_sole hr, hp, he, hall, hd]
  rfl

theorem execRunComplete_running {c : Nat} (hr : s.runs = [(r, x)]) (hp : x.phase = .active) (hc : c ∈ s.coresOf r)
    (hh : (s.core c).halted = false) : exec (.runComplete r) s = .next s := by
  have hall : (s.coresOf r).all (fun c => (s.core c).complete) = false :=
    List.all_eq_false.2 ⟨c, hc, by simp [Core.complete, hh]⟩
  show execRunComplete r s = _
  simp [execRunComplete, State.run?_sole hr, hp, hall]

end

/-! Grains that are routed (10 R273), and an ABORT to the other participants (10 R284) -/

@[simp] theorem State.sendRouted_event (s : State) (g : Grain) : (s.sendRouted g).chn.event = s.chn.event := by
  simp only [State.sendRouted]
  split
  · split <;> rfl
  · split <;> rfl

@[simp] theorem State.sendMgmt_runs (s : State) (dmod type job : Nat) (rest : List Byte) :
    (s.sendMgmt dmod type job rest).runs = s.runs := by
  rw [State.sendMgmt, State.sendRouted_runs]

@[simp] theorem State.sendMgmt_event (s : State) (dmod type job : Nat) (rest : List Byte) :
    (s.sendMgmt dmod type job rest).chn.event = s.chn.event := by
  rw [State.sendMgmt, State.sendRouted_event]

theorem State.toParticipants_keeps {β : Type} (φ : State → β)
    (h : ∀ (s : State) (m type job : Nat) (rest : List Byte), φ (s.sendMgmt m type job rest) = φ s)
    (s : State) (x : Run) (type : Nat) (rest : List Byte) : φ (s.toParticipants x type rest) = φ s :=
  foldl_keeps φ (fun s m => h s m type x.job.toNat rest) _ s

@[simp] theorem State.sendAbort_runs (s : State) (x : Run) (st : Byte) : (s.sendAbort x st).runs = s.runs :=
  State.toParticipants_keeps State.runs State.sendMgmt_runs s x 4 [st]

@[simp] theorem State.sendAbort_event (s : State) (x : Run) (st : Byte) : (s.sendAbort x st).chn.event = s.chn.event :=
  State.toParticipants_keeps (fun s => s.chn.event) State.sendMgmt_event s x 4 [st]

@[simp] theorem State.concludeRun_chn (s : State) (r : Nat) (st : Byte) : (s.concludeRun r st).chn = s.chn := by
  simp [State.concludeRun]

/-- A run that no core's EXITST ends is over with the status that it has, else with the one given. -/
theorem State.concludeRun_sole {s : State} {r : Nat} {x : Run} (hr : s.runs = [(r, x)]) (he : x.endExit = false)
    (st : Byte) : (s.concludeRun r st).run? r = some { x with phase := .ended, endStatus := some (x.endStatus.getD st) } := by
  simp [State.run?, State.concludeRun, State.modRun_sole hr, he, kfind]

section
variable {s : State} {r : Nat} {x : Run}

/-! RUN_LAUNCH -/

theorem State.lateLaunch_sole (hr : s.runs = [(r, x)]) (hs : x.endStatus = none) (he : x.endExit = false) :
    (s.lateLaunch r x).run? r = some { x with phase := .ended, endStatus := some 7 } ∧
      (s.lateLaunch r x).chn.event.getLsbD 3 = true := by
  refine ⟨?_, ?_⟩
  · rw [State.lateLaunch, State.concludeRun_sole (by rw [State.sendAbort_runs, hr]) he, hs, Option.getD_none]
  · simp [State.lateLaunch]

/-- In a power state RUN_LAUNCH waits, or ends the run once the module can no longer be Active in time (12 R335). -/
theorem execRunLaunch_asleep {n : Nat} (hr : s.runs = [(r, x)]) (hp : x.phase = .admitted) (hc : x.cl = some n)
    (hst : s.pwr.st ≠ 0) : exec (.runLaunch r) s = .next (if s.chn.count + 24 > n then s.lateLaunch r x else s) := by
  show execRunLaunch r s = _
  simp only [execRunLaunch, State.run?_sole hr, hc]
  rw [if_neg (by simp [hp]), if_pos (by simpa using hst)]

theorem execRunLaunch_early {n : Nat} (hr : s.runs = [(r, x)]) (hp : x.phase = .admitted) (hc : x.cl = some n)
    (hst : s.pwr.st = 0) (hn : s.chn.count < n) : exec (.runLaunch r) s = .next s := by
  show execRunLaunch r s = _
  simp only [execRunLaunch, State.run?_sole hr, hc]
  rw [if_neg (by simp [hp]), if_neg (by simp [hst]), if_pos hn]

theorem execRunLaunch_late {n : Nat} (hr : s.runs = [(r, x)]) (hp : x.phase = .admitted) (hc : x.cl = some n)
    (hst : s.pwr.st = 0) (hn : n ≤ s.chn.count) (hlo : s.pwr.lastOut.1 + 24 ≤ n) (hhi : n < s.pwr.lastOut.2 + 24) :
    exec (.runLaunch r) s = .next (s.lateLaunch r x) := by
  show execRunLaunch r s = _
  simp only [execRunLaunch, State.run?_sole hr, hc]
  rw [if_neg (by simp [hp]), if_neg (by simp [hst]), if_neg (Nat.not_lt.2 hn), if_pos (by simp [hlo, hhi])]

theorem execRunLaunch_active {n : Nat} (hr : s.runs = [(r, x)]) (hp : x.phase = .admitted) (hc : x.cl = some n)
    (hst : s.pwr.st = 0) (he : x.endStatus = none) (hpre : x.preempt = none) (hn : n ≤ s.chn.count)
    (hout : n < s.pwr.lastOut.1 + 24 ∨ s.pwr.lastOut.2 + 24 ≤ n) :
    ∃ (u : State) (y : Run), exec (.runLaunch r) s = .next u ∧ u.run? r = some y ∧ y.phase = .active ∧
      y.launched = some (x.launched.getD n) ∧ u.cores = s.cores := by
  have hin : ¬ (decide (s.pwr.lastOut.1 + 24 ≤ n) && decide (n < s.pwr.lastOut.2 + 24)) = true := by
    simp only [Bool.and_eq_true, decide_eq_true_eq]
    omega
  have hlaunch : ∃ y : Run, exec (.runLaunch r) s = .next ((s.setRun r y).postEvent x.ctx 0x02 0 0xFFFF x.job.toNat 0) ∧
      y.phase = .active ∧ y.launched = some (x.launched.getD n) := by
    refine ⟨?launched, ?_, ?_, ?_⟩
    rotate_left
    · show execRunLaunch r s = _
      simp only [execRunLaunch, State.run?_sole hr, hc]
      rw [if_neg (by simp [hp]), if_neg (by simp [hst]), if_neg (Nat.not_lt.2 hn), if_neg hin, if_neg (by simp [he])]
      split
      next h => simp [hpre] at h
      · rfl
    · rfl
    · rfl
  obtain ⟨y, hexec, hphase, hlaunched⟩ := hlaunch
  refine ⟨_, y, hexec, ?_, hphase, hlaunched, (State.postEvent_same ..).cores⟩
  rw [State.run?, State.postEvent_runs]
  exact State.run?_setRun_self s r y

/-! COORDINATION_TIMEOUT -/

/-- A coordinator that waits for the launch of a run and became ready k ticks before tick n or earlier. -/
def State.readySince (s : State) (x : Run) (k n : Nat) : Prop :=
  x.phase = .admitted ∧ x.cl = none ∧ s.isEntry x = true ∧ ∃ a, x.readyAt = some a ∧ a + k ≤ n

theorem State.not_readySince (s : State) (x : Run) (k n : Nat) : ¬ s.readySince x k n ↔
    (x.phase != .admitted || x.cl.isSome || !s.isEntry x || !x.readyAt.any (fun a => decide (a + k ≤ n))) = true := by
  unfold State.readySince
  cases x.readyAt <;> cases x.cl <;> simp [imp_iff_not_or, or_assoc]

theorem execCoordinationTimeout_early (hr : s.runs = [(r, x)]) (h : ¬ s.readySince x 20000000 s.chn.count) :
    exec (.coordinationTimeout r) s = .next s := by
  show execCoordinationTimeout r s = _
  simp only [execCoordinationTimeout, State.run?_sole hr]
  rw [if_pos ((s.not_readySince x 20000000 s.chn.count).1 h)]

theorem execCoordinationTimeout_late (hr : s.runs = [(r, x)]) (h : s.readySince x 20000000 s.chn.count) :
    exec (.coordinationTimeout r) s = .next ((s.sendAbort x 7).concludeRun r 7) := by
  show execCoordinationTimeout r s = _
  simp only [execCoordinationTimeout, State.run?_sole hr]
  rw [if_neg (fun hn => (s.not_readySince x 20000000 s.chn.count).2 hn h)]

/-! REQUEST_ELIGIBLE -/

theorem execRequestEligible_some {q : Req} (hr : s.runs = [(r, x)]) (hq : x.reqs = [q]) (he : q.eligible = false)
    (hd : q.done = false) (bs : List Byte) (hroom : s.stageUsed + (q.inLen + 65535) / 65536 ≤ 1024) :
    exec (.requestEligible r q.reqId (some bs)) s =
      .next (s.setRun r { x with reqs := [{ q with eligible := true, input := slice bs 0 q.inLen }] }) := by
  show execRequestEligible r q.reqId (some bs) s = _
  simp [execRequestEligible, State.run?_sole hr, hq, he, hd, Nat.not_lt.2 hroom, State.modRun_eq (State.run?_sole hr),
    Run.modReq]

theorem execRequestEligible_none {q : Req} (hr : s.runs = [(r, x)]) (hq : x.reqs = [q]) (he : q.eligible = false)
    (hd : q.done = false) :
    ∃ u, exec (.requestEligible r q.reqId none) s = .next u ∧
      u.run? r = some { x with reqs := [{ q with done := true }] } ∧
      u.hub.dmaErr = satAdd s.hub.dmaErr 1 := by
  have hc := s.dmaFailed.completeReq_same x q (st := 6) (by decide) true
  have hr' : (s.dmaFailed.completeReq x q 6 true).runs = [(r, x)] := hc.runs.trans hr
  refine ⟨(s.dmaFailed.completeReq x q 6 true).modRun r (fun x => x.modReq q.reqId (fun q => { q with done := true })),
    ?_, ?_, ?_⟩
  · show execRequestEligible r q.reqId none s = _
    simp [execRequestEligible, State.run?_sole hr, hq, he, hd]
  · rw [State.run?_sole (State.modRun_sole hr' _)]
    simp [Run.modReq, hq]
  · rw [State.modRun_hub, hc.hub]
    rfl

end

end Sys2Proof.Machine
end

section
/-!
LAYER_DIGEST_POST on a module with one run (02 R60; 11 R307; 13 R359, R362, R365, R366).
-/

namespace Sys2Proof.Machine

/-! Requests of a run -/

/-- A run of which those of some requests that FINAL ended complete and free their rows (R362). -/
def Run.closeReqs : Run → List Req → Run
  | x, [] => x
  | x, q :: qs =>
    (if q.finished && !q.done then x.modReq q.reqId (fun z => { z with done := true, row := none }) else x).closeReqs qs

theorem Run.closeReqs_eq (x : Run) (qs : List Req) : x.closeReqs qs = { x with reqs := (x.closeReqs qs).reqs } := by
  induction qs generalizing x with
  | nil => rfl
  | cons q qs ih =>
    rw [Run.closeReqs]
    split
    · rw [ih]; rfl
    · exact ih x

theorem Run.assignRows_eq (x : Run) (byHost : Bool) (pt : Word) (eff : Nat) (qs : List Req) :
    x.assignRows byHost pt eff qs = { x with reqs := (x.assignRows byHost pt eff qs).reqs } := by
  induction qs generalizing x with
  | nil => rfl
  | cons q qs ih =>
    rw [Run.assignRows]
    generalize (if !q.eligible || q.assigned.isSome || q.done then none
      else if byHost then (if x.reqs.any (fun y => y.row == some q.rowWant) then none else some q.rowWant)
      else x.freeRow) = row
    cases row with
    | none => exact ih x
    | some i =>
      rw [ih]
      rfl

/-- What the requests that FINAL ended leave of the only run; their completions change the host's memory alone. -/
theorem State.finishReqs_sole {s : State} {r : Nat} {x : Run} (hr : s.runs = [(r, x)]) (z : Run) (qs : List Req) :
    (s.finishReqs r z qs).runs = [(r, x.closeReqs qs)] ∧ (s.finishReqs r z qs).cores = s.cores ∧
      (s.finishReqs r z qs).hub = s.hub := by
  induction qs generalizing s x with
  | nil => exact ⟨hr, rfl, rfl⟩
  | cons q qs ih =>
    rw [State.finishReqs, Run.closeReqs]
    by_cases hq : (q.finished && !q.done) = true
    · rw [if_pos hq, if_pos hq]
      have hsame := s.completeReq_same z q (st := 0) (by decide) true
      obtain ⟨hruns, hcores, hhub⟩ := ih (State.modRun_sole (hsame.runs.trans hr) _)
      refine ⟨hruns, hcores.trans ?_, hhub.trans ?_⟩
      · rw [State.modRun_cores, hsame.cores]
      · rw [State.modRun_hub, hsame.hub]
    · rw [if_neg hq, if_neg hq]
      exact ih hr

/-- An eligible request alone in its run has the first row from the point on. -/
theorem Run.assignRows_free {x : Run} {q : Req} (pt : Word) (eff : Nat) (hq : x.reqs = [q]) (he : q.eligible = true)
    (ha : q.assigned = none) (hd : q.done = false) (hrow : q.row = none) (hn : 0 < x.tun.rows) :
    (x.assignRows false pt eff x.reqs).reqs = [{ q with row := some 0, assigned := some pt, effect := eff }] := by
  have hfree : x.freeRow = some 0 := by
    rw [Run.freeRow, List.find?_range_eq_some]
    simp [hq, hrow, hn]
  simp [hq, Run.assignRows, he, ha, hd, hfree, Run.modReq]

/-! The point -/

section
variable {s : State} {r : Nat} {x : Run}

theorem execLayerDigestPost_early (hr : s.runs = [(r, x)])
    (h : x.phase ≠ .active ∨ s.pointReached r x x.digests.length = false) (ref : Dma) :
    exec (.layerDigestPost r ref) s = .next s := by
  show execLayerDigestPost r ref s = _
  simp only [execLayerDigestPost, State.run?_sole hr]
  rw [if_pos (by rcases h with h | h <;> simp [h])]

/-- A point that a single core hands over is reached. -/
theorem State.pointReached_single {c l : Nat} {h : DWord × Nat × Nat} (hc : s.coresOf r = [c])
    (hh : x.handed = [(c, l, h)]) : s.pointReached r x l = true ∧ s.pointParts r x l = [(c, l, h)] := by
  simp [State.pointReached, State.pointParts, hc, hh]

/-- Whether a read of the reference table that was due has failed. -/
def Run.readFailed (x : Run) (ref : Dma) : Bool :=
  x.compare && decide (x.digests.length < x.tun.digestPoints) && ref.isNone

/-- Whether a digest of n words differs from the entry of the reference table that was read. -/
def Run.mismatches (x : Run) (ref : Dma) (n : Nat) (d : DWord) : Bool :=
  match ref with
  | some ent => x.compareWith x.digests.length n d ent
  | none => false

/-- The run with one more digest of n words, compared with what was read. -/
def Run.atPoint (x : Run) (ref : Dma) (n : Nat) (d : DWord) : Run :=
  { x with
    digests := x.digests ++ [(n, d)], handed := [], mismatch := x.mismatch || x.mismatches ref n d
    compare := x.compare && !x.readFailed ref }

theorem State.SameButHost.dmaFailed {u : State} (h : s.SameButHost u) : s.dmaFailed.SameButHost u.dmaFailed := by
  rw [show u = _ from h]
  rfl

/-- The entries of a point are posted, a failed read is counted, and the run goes on from the digest. -/
theorem execLayerDigestPost_point {c n t : Nat} {d : DWord} (hr : s.runs = [(r, x)]) (hp : x.phase = .active)
    (hc : s.coresOf r = [c]) (hh : x.handed = [(c, x.digests.length, d, n, t)]) (ref : Dma) :
    let z := x.atPoint ref (min n (2 ^ 32 - 1)) d
    ∃ v, (if x.readFailed ref then s.dmaFailed else s).SameButHost v ∧ exec (.layerDigestPost r ref) s =
      (let v := (v.setRun r z).finishReqs r z z.reqs
       if z.tun.digestPoints = 0 then .next v
       else .next (v.modRun r (fun y =>
         y.assignRows v.rowsByHost (BitVec.ofNat 32 x.digests.length) (t + 64) y.reqs))) := by
  obtain ⟨hreached, hparts⟩ := State.pointReached_single hc hh
  have hgone : x.handed.filter (fun h => h.2.1 != x.digests.length) = [] := by simp [hh]
  refine ⟨?posted, ?same, ?step⟩
  rotate_left 2
  · show execLayerDigestPost r ref s = _
    simp only [execLayerDigestPost, State.run?_sole hr]
    rw [if_neg (by simp [hp, hreached])]
    simp only [hparts, hgone, List.foldl_cons, List.foldl_nil, zero_add, Nat.zero_max]
    rfl
  · have hdigest : ∀ m cnt, s.SameButHost (if x.coreDetail = true then
        (s.postDigest x.ctx 0 0xFFFF x.job.toNat m x.digests.length cnt d).postDigest x.ctx 1 c x.job.toNat 0
          x.digests.length n d
        else s.postDigest x.ctx 0 0xFFFF x.job.toNat m x.digests.length cnt d) :=
      fun _ _ => .ite ((State.postDigest_same ..).trans (State.postDigest_same ..)) (State.postDigest_same ..)
    rw [Run.readFailed]
    by_cases hf : (x.compare && decide (x.digests.length < x.tun.digestPoints) && ref.isNone) = true
    · rw [if_pos hf, if_pos hf]
      exact (State.SameButHost.dmaFailed (.ite ((hdigest _ _).trans (State.postEvent_same ..)) (hdigest _ _))).trans
        (State.postEvent_same ..)
    · rw [if_neg hf, if_neg hf]
      exact .ite ((hdigest _ _).trans (State.postEvent_same ..)) (hdigest _ _)

/-- The run as LAYER_DIGEST_POST leaves it: requests that FINAL ended are closed, and where the tun has digest points rows
are given out. -/
def Run.afterPoint (x : Run) (byHost : Bool) (ref : Dma) (n : Nat) (d : DWord) (t : Nat) : Run :=
  let z := (x.atPoint ref n d).closeReqs x.reqs
  if x.tun.digestPoints = 0 then z else z.assignRows byHost (BitVec.ofNat 32 x.digests.length) (t + 64) z.reqs

theorem Run.afterPoint_eq (x : Run) (byHost : Bool) (ref : Dma) (n : Nat) (d : DWord) (t : Nat) :
    x.afterPoint byHost ref n d t = { x.atPoint ref n d with reqs := (x.afterPoint byHost ref n d t).reqs } := by
  rw [Run.afterPoint]
  split
  · exact Run.closeReqs_eq ..
  · rw [Run.assignRows_eq, Run.closeReqs_eq]

/-- LAYER_DIGEST_POST of a point that the run's only core here has reached. -/
theorem execLayerDigestPost_sole {c n t : Nat} {d : DWord} (hr : s.runs = [(r, x)]) (hp : x.phase = .active)
    (hc : s.coresOf r = [c]) (hh : x.handed = [(c, x.digests.length, d, n, t)]) (ref : Dma) :
    ∃ u, exec (.layerDigestPost r ref) s = .next u ∧
      u.run? r = some (x.afterPoint s.rowsByHost ref (min n (2 ^ 32 - 1)) d t) ∧ u.cores = s.cores ∧
      u.hub = (if x.readFailed ref then s.dmaFailed else s).hub := by
  obtain ⟨v, hv, hexec⟩ := execLayerDigestPost_point hr hp hc hh ref
  have hvr : v.runs = [(r, x)] := by
    rw [hv.runs, ← hr]
    split <;> rfl
  have hvc : v.cores = s.cores := by
    rw [hv.cores]
    split <;> rfl
  obtain ⟨hruns, hcores, hhub⟩ := State.finishReqs_sole (State.setRun_sole hvr (x.atPoint ref (min n (2 ^ 32 - 1)) d))
    (x.atPoint ref (min n (2 ^ 32 - 1)) d) x.reqs
  have hby : v.rowsByHost = s.rowsByHost := by
    rw [State.rowsByHost, hv.hub]
    split <;> rfl
  have hrows : ((v.setRun r (x.atPoint ref (min n (2 ^ 32 - 1)) d)).finishReqs r (x.atPoint ref (min n (2 ^ 32 - 1)) d)
      x.reqs).rowsByHost = s.rowsByHost := by
    rw [← hby, State.rowsByHost, hhub]
    rfl
  rw [hexec]
  by_cases hd : x.tun.digestPoints = 0
  · refine ⟨_, if_pos hd, ?_, hcores.trans hvc, hhub.trans hv.hub⟩
    rw [Run.afterPoint, if_pos hd]
    exact State.run?_sole hruns
  · refine ⟨_, if_neg hd, ?_, ?_, ?_⟩
    · rw [Run.afterPoint, if_neg hd, ← hrows]
      exact State.run?_sole (State.modRun_sole hruns _)
    · rw [State.modRun_cores]
      exact hcores.trans hvc
    · rw [State.modRun_hub]
      exact hhub.trans hv.hub

/-- An eligible request has the first row from 64 cycles after the point on. -/
theorem Run.afterPoint_gives {q : Req} {d : DWord} {ref : Dma} {n t : Nat} (hq : x.reqs = [q]) (he : q.eligible = true)
    (ha : q.assigned = none) (hd : q.done = false) (hf : q.finished = false) (hrow : q.row = none) (hn : 0 < x.tun.rows)
    (hp : x.tun.digestPoints ≠ 0) :
    (x.afterPoint false ref n d t).reqs =
      [{ q with row := some 0, assigned := some (BitVec.ofNat 32 x.digests.length), effect := t + 64 }] := by
  have hclose : (x.atPoint ref n d).closeReqs x.reqs = x.atPoint ref n d := by simp [hq, Run.closeReqs, hf]
  rw [Run.afterPoint, if_neg hp, hclose]
  exact Run.assignRows_free _ _ hq he ha hd hrow hn

/-- A request that FINAL ended is closed, and takes no row again. -/
theorem Run.afterPoint_closes {q : Req} {d : DWord} {ref : Dma} {n t : Nat} (hq : x.reqs = [q]) (hf : q.finished = true)
    (hd : q.done = false) (byHost : Bool) :
    (x.afterPoint byHost ref n d t).reqs = [{ q with done := true, row := none }] := by
  have hclose : ((x.atPoint ref n d).closeReqs x.reqs).reqs = [{ q with done := true, row := none }] := by
    simp [hq, Run.closeReqs, hf, hd, Run.modReq, Run.atPoint]
  rw [Run.afterPoint]
  split
  · exact hclose
  · simp [hclose, Run.assignRows]

theorem Run.afterPoint_digests (byHost : Bool) (ref : Dma) (n : Nat) (d : DWord) (t : Nat) :
    (x.afterPoint byHost ref n d t).digests = x.digests ++ [(n, d)] ∧ (x.afterPoint byHost ref n d t).handed = [] := by
  rw [Run.afterPoint_eq]
  exact ⟨rfl, rfl⟩

/-- A failed read ends the comparison (R366). -/
theorem Run.afterPoint_compare {ref : Dma} (h : x.readFailed ref = true) (byHost : Bool) (n : Nat) (d : DWord) (t : Nat) :
    (x.afterPoint byHost ref n d t).compare = false := by
  rw [Run.afterPoint_eq]
  simp [Run.atPoint, h]

/-- A run mismatches from the first point on whose count or digest is not that of the reference table (R366). -/
theorem Run.afterPoint_mismatch (hcmp : x.compare = true) (hl : x.digests.length < x.tun.digestPoints) (byHost : Bool)
    (ent : List Byte) (n : Nat) (d : DWord) (t : Nat) : (x.afterPoint byHost (some ent) n d t).mismatch = true ↔
      x.mismatch = true ∨ leAt ent 4 4 ≠ n ∨ leAt ent 8 8 ≠ d.toNat := by
  rw [Run.afterPoint_eq]
  simp [Run.atPoint, Run.mismatches, Run.compareWith, hcmp, hl]

end

end Sys2Proof.Machine
end

section
/-!
RUN_ADMISSION on a module with one run, which waits (02 R45; 05 R141; 13 R356).
-/

namespace Sys2Proof.Machine

/-! The preparation of cores (05 R141) -/

/-- A core that is a run's own, owned by a context, at schedule cycle 0. -/
def Core.givenTo (k : Core) (r ctx : Nat) : Prop := k.run = some r ∧ k.owner = some ctx ∧ k.scyc = 0

theorem Core.spadPut_place (k : Core) (a : Nat) (bs : List Byte) (bad : List Nat) :
    ((k.spadPut a bs bad).run, (k.spadPut a bs bad).owner, (k.spadPut a bs bad).scyc) = (k.run, k.owner, k.scyc) :=
  foldl_keeps (fun k : Core => (k.run, k.owner, k.scyc)) (f := fun k o => k.poison .spad (a + o)) (fun _ _ => rfl) bad _

theorem Core.prepare_givenTo (k : Core) (t : Tun) (e : CoreEnt) (ctx r : Nat) : (k.prepare t e ctx r).givenTo r ctx := by
  have h : ((k.prepare t e ctx r).run, (k.prepare t e ctx r).owner, (k.prepare t e ctx r).scyc) = (some r, some ctx, 0) :=
    foldl_keeps (fun k : Core => (k.run, k.owner, k.scyc)) (f := fun k (q : Nat × List Byte) => k.spadPut q.1 q.2 [])
      (fun k q => k.spadPut_place q.1 q.2 []) _ _
  simpa [Core.givenTo] using h

/-- The cores of a tun are the run's own; a core that was keeps so. -/
theorem State.prepareCores_givenTo (r : Nat) (x : Run) (es : List CoreEnt) (c : Nat) (s : State)
    (h : (s.core c).givenTo r x.ctx ∨ ∃ e, e ∈ es ∧ e.core = c) : ((s.prepareCores r x es).core c).givenTo r x.ctx := by
  induction es generalizing s with
  | nil => simpa [State.prepareCores] using h
  | cons e es ih =>
    refine ih _ ?_
    by_cases hc : c = e.core
    · left
      rw [hc, State.core_modCore_self]
      exact Core.prepare_givenTo ..
    · rcases h with h | ⟨e', he', rfl⟩
      · left
        rwa [State.core_modCore_ne _ _ hc]
      · right
        refine ⟨e', ?_, rfl⟩
        rcases List.mem_cons.1 he' with rfl | he'
        · exact absurd rfl hc
        · exact he'

/-- Cores, objects and dies alone change where a run takes them. -/
theorem State.prepareCores_eq (s : State) (r : Nat) (x : Run) (es : List CoreEnt) :
    s.prepareCores r x es = { s with cores := (s.prepareCores r x es).cores } := by
  induction es generalizing s with
  | nil => rfl
  | cons e es ih =>
    rw [State.prepareCores, ih]
    rfl

theorem State.holdDies_eq (s : State) (r : Nat) (x : Run) : s.holdDies r x = { s with hg := (s.holdDies r x).hg } := by
  simp only [State.holdDies, List.foldl_cons, List.foldl_nil]
  split <;> split <;> rfl

theorem State.occupy_eq {x : Run} (hp : x.preempt = none) (s : State) (r : Nat) :
    s.occupy r x = { s with
      syn := (s.occupy r x).syn, hg := (s.occupy r x).hg
      cores := ((s.allocate r x).prepareCores r x (x.tun.coreMap s.moduleId)).cores } := by
  have h : s.occupy r x = ((s.allocate r x).prepareCores r x (x.tun.coreMap s.moduleId)).holdDies r x := by
    rw [State.occupy, hp]
  rw [h, State.holdDies_eq, State.prepareCores_eq]
  rfl

/-! The launch of a run of one module -/

theorem ceil24_bounds (n : Nat) : ceil24 n % 24 = 0 ∧ n ≤ ceil24 n ∧ ceil24 n < n + 24 := by
  unfold ceil24
  omega

theorem State.wake_eq (s : State) : ∃ b, s.wake = { s with pwr := { s.pwr with transition := b } } := by
  simp only [State.wake]
  split <;> exact ⟨_, rfl⟩

theorem State.newEvent_eq (s : State) (t : Nat) :
    ∃ b, s.newEvent t = { s with pwr := { s.pwr with transition := b } } := by
  simp only [State.newEvent]
  split
  · exact s.wake_eq
  · exact ⟨_, rfl⟩

/-- A participant that learns in time at what tick its run launches. -/
theorem State.learnLaunch_intime {s : State} {r c : Nat} {x : Run} (hr : s.run? r = some x) (hp : x.phase = .admitted)
    (hc : x.cl = none) (hn : s.chn.count + 24 ≤ c) :
    s.learnLaunch r c = (s.setRun r { x with cl := some c }).newEvent c := by
  simp only [State.learnLaunch, hr]
  rw [if_neg (by simp [hp, hc]), if_neg (by omega)]

/-! RUN_ADMISSION -/

section
variable {s : State} {r : Nat} {x : Run}

theorem State.firstWaiting_sole (hr : s.runs = [(r, x)]) : s.firstWaiting r x = true := by
  simp [State.firstWaiting, hr]

theorem execRunAdmission_refused (hr : s.runs = [(r, x)]) (hp : x.phase = .waiting) (ha : s.admitting false = true)
    (hpre : x.preempt = none) (hst : s.admitStatus x ≠ 0) : ∃ u, exec (.runAdmission r) s = .next u ∧ u.runs = [] := by
  have hsole : soleKey ((if s.admitStatus x = 2 then s.countMalformed x.ctx else s).runs) = some r := by
    split
    · exact State.soleKey_runs (s := s.countMalformed x.ctx) hr
    · exact State.soleKey_runs hr
  refine ⟨_, ?_, (State.finishRun_sole hsole (s.admitStatus x) true).1⟩
  show execRunAdmission r s = _
  simp only [execRunAdmission, State.run?_sole hr]
  rw [if_neg (by simp [hp, ha, hpre, State.firstWaiting_sole hr]), if_pos (by simp [hst])]

theorem execRunAdmission_waits (hr : s.runs = [(r, x)]) (hp : x.phase = .waiting) (ha : s.admitting false = true)
    (hpre : x.preempt = none) (hst : s.admitStatus x = 0) (h : s.resourcesFree x = false ∨ s.rewriteOwed x = true) :
    exec (.runAdmission r) s = .next s := by
  show execRunAdmission r s = _
  simp only [execRunAdmission, State.run?_sole hr]
  rw [if_neg (by simp [hp, ha, hpre, State.firstWaiting_sole hr]), if_neg (by simp [hst]),
    if_pos (by rcases h with h | h <;> simp [h])]

theorem execRunAdmission_notYet (hr : s.runs = [(r, x)])
    (h : x.phase ≠ .waiting ∨ s.admitting x.preempt.isSome = false) : exec (.runAdmission r) s = .next s := by
  show execRunAdmission r s = _
  simp only [execRunAdmission, State.run?_sole hr]
  rw [if_pos (by rcases h with h | h <;> simp [h])]

/-- The module with a run's clock step in force. -/
def State.atStep (s : State) (stp : BitVec 2) : State :=
  { s.settleBounds with pwr := { s.settleBounds.pwr with cur := stp } }

/-- The module with a run that it has admitted, before the launch is known. -/
def State.admittedAs (s : State) (r : Nat) (x : Run) : State :=
  ((s.atStep x.tun.freqStep).occupy r x).setRun r ((s.atStep x.tun.freqStep).admitted x)

theorem execRunAdmission_admits (hr : s.runs = [(r, x)]) (hp : x.phase = .waiting) (ha : s.admitting false = true)
    (hg : x.gate = none) (hpre : x.preempt = none) (hst : s.admitStatus x = 0) (hfree : s.resourcesFree x = true)
    (howed : s.rewriteOwed x = false) (hready : ∀ e, e ∈ x.tun.coreMap s.moduleId → s.coreReady x e.core = true) :
    exec (.runAdmission r) s = .next ((s.admittedAs r x).towardsLaunch r ((s.admittedAs r x).admitted x)) := by
  have hall : (x.tun.coreMap s.moduleId).all (fun e => s.coreReady x e.core) = true := List.all_eq_true.2 hready
  show execRunAdmission r s = _
  simp only [execRunAdmission, State.run?_sole hr, hg]
  rw [if_neg (by simp [hp, ha, hpre, State.firstWaiting_sole hr]), if_neg (by simp [hst]),
    if_neg (by simp [hfree, howed]), if_neg (by simp [hall])]
  rfl

theorem State.atStep_eq (s : State) (stp : BitVec 2) : s.atStep stp = { s with pwr := (s.atStep stp).pwr } := by
  rw [State.atStep, s.settleBounds_eq]

theorem State.admitted_fresh (s : State) (hpre : x.preempt = none) : (s.admitted x).phase = .admitted ∧
    (s.admitted x).mode = s.det.active ∧ (s.admitted x).cl = x.cl ∧ (s.admitted x).tun = x.tun ∧
    (s.admitted x).launchFld = x.launchFld := by
  simp [State.admitted, hpre]

/-- What a run that is admitted finds: its clock step in force, and its cores its own. -/
theorem State.admittedAs_facts (s : State) (r : Nat) (hpre : x.preempt = none) : (s.admittedAs r x).chn = s.chn ∧
    (s.admittedAs r x).pwr.cur = x.tun.freqStep ∧
    (s.admittedAs r x).run? r = some ((s.atStep x.tun.freqStep).admitted x) ∧
    ∀ e, e ∈ x.tun.coreMap s.moduleId → ((s.admittedAs r x).core e.core).givenTo r x.ctx := by
  refine ⟨?_, ?_, State.run?_setRun_self .., fun e he => ?_⟩
  · rw [State.admittedAs, State.setRun_chn, State.occupy_eq hpre, s.atStep_eq]
  · rw [State.admittedAs, State.setRun_pwr, State.occupy_eq hpre]
    rfl
  · have hm : (s.atStep x.tun.freqStep).moduleId = s.moduleId := by rw [s.atStep_eq, State.moduleId, State.moduleId]
    rw [State.core, State.admittedAs, State.setRun_cores, State.occupy_eq hpre, hm]
    exact State.prepareCores_givenTo r x _ _ _ (.inr ⟨e, he, rfl⟩)

/-- A run of one module that is admitted launches at the least multiple of 24 not below the count plus 24 (10 R282). -/
theorem State.towardsLaunch_alone {a : Run} (hr : s.run? r = some a) (hp : a.phase = .admitted)
    (hc : a.cl = none) {y : Run} (hf : y.launchFld = 0) (hone : y.tun.participants.length ≤ 1) :
    s.towardsLaunch r y =
      (s.setRun r { a with cl := some (ceil24 (s.chn.count + 24)) }).newEvent (ceil24 (s.chn.count + 24)) := by
  rw [State.towardsLaunch, if_neg (by simp [hf]), if_pos hone]
  exact State.learnLaunch_intime hr hp hc (ceil24_bounds _).2.1

/-- The only run, whose checks pass and whose resources are free. -/
theorem execRunAdmission_launches (hr : s.runs = [(r, x)]) (hp : x.phase = .waiting) (ha : s.admitting false = true)
    (hg : x.gate = none) (hpre : x.preempt = none) (hst : s.admitStatus x = 0) (hfree : s.resourcesFree x = true)
    (howed : s.rewriteOwed x = false) (hready : ∀ e, e ∈ x.tun.coreMap s.moduleId → s.coreReady x e.core = true)
    (hone : x.tun.participants.length ≤ 1) (hf : x.launchFld = 0) (hc : x.cl = none) :
    ∃ (u : State) (y : Run), exec (.runAdmission r) s = .next u ∧ u.run? r = some y ∧ y.phase = .admitted ∧
      y.mode = s.det.active ∧ u.pwr.cur = x.tun.freqStep ∧ y.cl = some (ceil24 (s.chn.count + 24)) ∧
      ∀ e, e ∈ x.tun.coreMap s.moduleId → (u.core e.core).givenTo r x.ctx := by
  obtain ⟨hchn, hcur, hrun, hcores⟩ := State.admittedAs_facts s r hpre
  obtain ⟨hphase, hmode, hcl, -, -⟩ := (s.atStep x.tun.freqStep).admitted_fresh hpre
  obtain ⟨-, -, -, htun, hfld⟩ := (s.admittedAs r x).admitted_fresh hpre
  have hlaunch := State.towardsLaunch_alone (y := (s.admittedAs r x).admitted x) hrun hphase (hcl.trans hc)
    (hfld.trans hf) (by rw [htun]; exact hone)
  rw [hchn] at hlaunch
  obtain ⟨b, hb⟩ := ((s.admittedAs r x).setRun r { (s.atStep x.tun.freqStep).admitted x with
    cl := some (ceil24 (s.chn.count + 24)) }).newEvent_eq (ceil24 (s.chn.count + 24))
  refine ⟨_, { (s.atStep x.tun.freqStep).admitted x with cl := some (ceil24 (s.chn.count + 24)) },
    execRunAdmission_admits hr hp ha hg hpre hst hfree howed hready, ?_, hphase,
    ?_, ?_, rfl, ?_⟩
  · rw [hlaunch, hb]
    exact State.run?_setRun_self ..
  · refine hmode.trans ?_
    rw [s.atStep_eq]
  · rw [hlaunch, hb]
    exact hcur
  · rw [hlaunch, hb]
    exact hcores

end

end Sys2Proof.Machine
end

section
/-!
The management grains that name a run, on a module with one run (10 R281 to R284, R291, R293; 08 R228).
-/

namespace Sys2Proof.Machine

section
variable {s : State} {r : Nat} {x : Run} {p : Payload}

/-- A grain with the run's JOB_ID from one of its participants names it (log 86). -/
theorem State.namedRuns_sole (hr : s.runs = [(r, x)]) (hj : x.job.toNat = bits p 64 64)
    (hm : x.tun.participants.contains (bits p 16 16) = true) : s.namedRuns p = [r] := by
  simp only [State.namedRuns, hr, mgmtJob, mgmtSender]
  rw [List.filter_cons_of_pos (by simpa [hj] using hm)]
  rfl

/-- A grain of a command's type does to each run that it names what the command does. -/
theorem State.mgmt_sole (hr : s.runs = [(r, x)]) (hj : x.job.toNat = bits p 64 64)
    (hm : x.tun.participants.contains (bits p 16 16) = true) {type : Nat} (ht : bits p 0 8 = type) (v : State)
    (f : State → Nat → State) : s.mgmt type p (v.eachRun f (s.namedRuns p)) = .next (f v r) := by
  rw [State.namedRuns_sole hr hj hm, State.mgmt, if_pos ht]
  rfl

/-- The first status that ends a run stands. -/
theorem State.endRun_first (hr : s.runs = [(r, x)]) (he : x.endStatus = none) (st : Byte) :
    s.endRun r st = s.setRun r { x with endStatus := some st } := by
  rw [State.endRun, State.modRun_eq (State.run?_sole hr), if_neg (by simp [he])]

variable (hr : s.runs = [(r, x)]) (hj : x.job.toNat = bits p 64 64)
  (hm : x.tun.participants.contains (bits p 16 16) = true)
include hr hj hm

theorem execLaunch_sole (ht : bits p 0 8 = 3) (hp : x.phase = .admitted) (hc : x.cl = none)
    (hn : s.chn.count + 24 ≤ bits p 128 64) :
    exec (.launch p) s = .next ((s.setRun r { x with cl := some (bits p 128 64) }).newEvent (bits p 128 64)) :=
  (State.mgmt_sole hr hj hm ht s _).trans
    (congrArg Host.Outcome.next (State.learnLaunch_intime (State.run?_sole hr) hp hc hn))

theorem execAbort_sole (ht : bits p 0 8 = 4) (hp : x.phase = .active) (he : x.endStatus = none) :
    exec (.abort p) s = .next (s.setRun r { x with endStatus := some (BitVec.ofNat 8 (bits p 128 8)) }) := by
  have habort : ∀ st, s.abortRun r st = s.endRun r st := fun st => by simp only [State.abortRun, State.run?_sole hr, hp]
  exact (State.mgmt_sole hr hj hm ht s _).trans
    (congrArg Host.Outcome.next ((habort _).trans (State.endRun_first hr he _)))

theorem execPathLost_sole (ht : bits p 0 8 = 5) (hmode : x.mode ≠ 2) (he : x.endStatus = none) :
    exec (.pathLost p) s = .next (s.setRun r { x with endStatus := some 5 }) := by
  refine (State.mgmt_sole hr hj hm ht s _).trans (congrArg Host.Outcome.next ?_)
  simp only [State.learnLoss, State.run?_sole hr]
  rw [if_pos (by simpa using hmode)]
  exact State.endRun_first hr he _

/-- A STEP for a furlong that the run has not reached waits for it, and CHANGING stands (12 R320). -/
theorem execStep_sole (ht : bits p 0 8 = 6) (hp : x.phase = .admitted ∨ x.phase = .active) (hmode : x.mode ≠ 1)
    (hf : x.furlong < bits p 128 32) : ∃ u, exec (.step p) s = .next u ∧
      u.run? r = some { x with stepAt := some (bits p 128 32, BitVec.ofNat 2 (bits p 160 8)) } ∧
      u.pwr.changing = true ∧ u.pwr.cur = s.pwr.cur := by
  obtain ⟨b, hb⟩ := s.wake_eq
  have hwr : s.wake.runs = [(r, x)] := by rw [hb, ← hr]
  have hstep : s.wake.stepFor r (bits p 128 32) (BitVec.ofNat 2 (bits p 160 8)) =
      { s.wake.setRun r { x with stepAt := some (bits p 128 32, BitVec.ofNat 2 (bits p 160 8)) } with
        pwr := { s.wake.pwr with changing := true } } := by
    have hholds : x.holdsUnits = true := by rcases hp with h | h <;> simp [Run.holdsUnits, h]
    have halone : s.wake.activeRuns.any (fun e => e.1 != r) = false := by
      rw [List.any_eq_false]
      intro e he
      have hmem : e ∈ [(r, x)] := hwr ▸ (List.mem_filter.1 he).1
      simp [List.mem_singleton.1 hmem]
    simp only [State.stepFor, State.run?_sole hwr]
    rw [if_neg (by simpa [hholds] using hmode), if_neg (by simp [halone]), if_neg (by simp [Nat.not_le.2 hf])]
  refine ⟨_, (State.mgmt_sole hr hj hm ht s.wake _).trans (congrArg Host.Outcome.next hstep), ?_, rfl, ?_⟩
  · exact State.run?_setRun_self ..
  · show s.wake.pwr.cur = s.pwr.cur
    rw [hb]

end

/-! The break of a run's objects (08 R228) -/

@[simp] theorem State.modRun_syn (s : State) (r : Nat) (g : Run → Run) : (s.modRun r g).syn = s.syn := by
  simp only [State.modRun]
  split <;> rfl

@[simp] theorem State.raiseAsyncAt_syn (s : State) (c : Nat) (code : Byte) (info : Word) (t : Nat) :
    (s.raiseAsyncAt c code info t).syn = s.syn := by
  have hdue : ∀ s : State, (s.endDueOf c).syn = s.syn := by
    intro s
    simp only [State.endDueOf, State.endRunDue]
    split <;> simp
  have hexit : ∀ (s : State) st, (s.endRunExit c st).syn = s.syn := by
    intro s st
    simp only [State.endRunExit]
    split <;> simp
  have hhalt : ∀ s : State, (s.afterHalt c).syn = s.syn := by
    intro s
    simp only [State.afterHalt]
    split
    · exact hexit _ _
    · rfl
  simp only [State.raiseAsyncAt]
  split <;> split <;> simp [hdue, hhalt]

@[simp] theorem State.breakCore_syn (s : State) (c now : Nat) : (s.breakCore c now).syn = s.syn :=
  (foldl_keeps State.syn (fun _ _ => State.raiseAsyncAt_syn ..) _ _).trans (State.modCore_syn ..)

/-- What every change of a value makes true is true of a changed table. -/
theorem kmap_forall {α : Type} {P : α → Prop} {f : Nat → α → α} (hf : ∀ j w, P (f j w)) (m : KMap α) :
    ∀ q, q ∈ kmap f m → P q.2 := by
  induction m with
  | nil => exact nofun
  | cons p m ih =>
    obtain ⟨j, w⟩ := p
    intro q hq
    rcases List.mem_cons.1 hq with rfl | hq
    · exact hf j w
    · exact ih q hq

/-- Every object of a run is broken (08 R228). -/
theorem State.breakRun_broken (s : State) (r : Nat) :
    (∀ q, q ∈ (s.breakRun r).syn.flags → q.2.run = r → q.2.broken = true) ∧
      (∀ q, q ∈ (s.breakRun r).syn.barriers → q.2.run = r → q.2.broken = true) := by
  simp only [State.breakRun, apply_ite State.syn]
  rw [foldl_keeps State.syn (fun v c => v.breakCore_syn c (s.nowRun r)), ite_self]
  refine ⟨kmap_forall (P := fun f : Flag => f.run = r → f.broken = true) (fun _ f => ?_) _,
    kmap_forall (P := fun b : Barrier => b.run = r → b.broken = true) (fun _ b => ?_) _⟩
  · split
    · exact fun _ => rfl
    next h => simpa using h
  · split
    · exact fun _ => rfl
    next h => exact fun hb => absurd hb h

theorem execBreakObjects_sole {s : State} {r : Nat} {x : Run} {p : Payload} (hr : s.runs = [(r, x)])
    (hj : x.job.toNat = bits p 64 64) (hm : x.tun.participants.contains (bits p 16 16) = true) (ht : bits p 0 8 = 7) :
    ∃ u, exec (.breakObjects p) s = .next u ∧
    (∀ q, q ∈ u.syn.flags → q.2.run = r → q.2.broken = true) ∧
    (∀ q, q ∈ u.syn.barriers → q.2.run = r → q.2.broken = true) :=
  ⟨_, State.mgmt_sole hr hj hm ht s _, s.breakRun_broken r⟩

end Sys2Proof.Machine
end

section
/-!
The obligation on the life of a run, from the commands' rules.
-/

namespace Sys2Proof.Claims

open Sys2Proof.Machine

/-- Settles O55: each clause is the rule of its command on a module with one run. Before a run ends, what it still has on its
way takes effect and leaves it the only run (`soleKey`). -/
theorem runLifetime : Obligations.RunLifetime := by
  unfold Obligations.RunLifetime
  intro s r x p id
  refine ⟨fun hnone => exec_noSuchRun hnone id, fun hr => ⟨?_, ?_, ?_, ?_, ?_, ?_, ?_, ?_, ?_, ?_, ?_, ?_, ?_⟩⟩
  · intro hp ha hg hpre
    refine ⟨execRunAdmission_refused hr hp ha hpre, execRunAdmission_waits hr hp ha hpre, ?_⟩
    intro hst hfree howed hready hone hf hc
    obtain ⟨u, y, hexec, hrun, hphase, hmode, hcur, hcl, hcores⟩ :=
      execRunAdmission_launches hr hp ha hg hpre hst hfree howed hready hone hf hc
    obtain ⟨hmod, hle, hlt⟩ := ceil24_bounds (s.chn.count + 24)
    exact ⟨u, y, _, hexec, hrun, hphase, hmode, hcur, hcl, hmod, hle, by omega, hcores⟩
  · exact execRunAdmission_notYet hr
  · intro n hp hc hst hn
    rw [execRunLaunch_asleep hr hp hc hst, if_neg (by omega)]
  · intro n hp hc hs he h
    obtain ⟨hrun, hevent⟩ := State.lateLaunch_sole hr hs he
    refine ⟨s.lateLaunch r x, _, ?_, hrun, rfl, rfl, hevent⟩
    rcases h with ⟨hst, hn⟩ | ⟨hst, hn, hlo, hhi⟩
    · rw [execRunLaunch_asleep hr hp hc hst, if_pos hn]
    · exact execRunLaunch_late hr hp hc hst hn hlo hhi
  · intro n hp hc hst he hpre
    exact ⟨execRunLaunch_early hr hp hc hst, execRunLaunch_active hr hp hc hst he hpre⟩
  · exact execRunComplete_ended hr
  · intro hp he hc hd
    obtain ⟨u, hexec, hruns, -, -, hcores⟩ := execRunComplete_done hr hp he hc hd
    exact ⟨u, hexec, hruns, hcores⟩
  · exact fun c => execRunComplete_running hr
  · rintro q hq rfl he hd
    exact ⟨execRequestEligible_some hr hq he hd, execRequestEligible_none hr hq he hd⟩
  · exact execLayerDigestPost_early hr
  · intro c d n t ref hp hc hh
    obtain ⟨u, hexec, hrun, hcores, hhub⟩ := execLayerDigestPost_sole hr hp hc hh ref
    obtain ⟨hdigests, hhanded⟩ := x.afterPoint_digests s.rowsByHost ref (min n (2 ^ 32 - 1)) d t
    refine ⟨u, _, hexec, hrun, hdigests, hhanded, hcores, ?_, fun q hq hf hd => Run.afterPoint_closes hq hf hd _, ?_, ?_⟩
    · intro q hq he ha hd hf hrow hby hn hpts
      rw [hby]
      exact Run.afterPoint_gives hq he ha hd hf hrow hn hpts
    · rintro rfl hcmp hl
      have hfailed : x.readFailed none = true := by simp [Run.readFailed, hcmp, hl]
      rw [if_pos hfailed] at hhub
      exact ⟨Run.afterPoint_compare hfailed _ _ _ _, by rw [hhub]; rfl⟩
    · rintro ent rfl hcmp hl
      exact Run.afterPoint_mismatch hcmp hl _ _ _ _ _
  · refine ⟨execCoordinationTimeout_early hr, fun hlate he => ?_⟩
    refine ⟨_, _, execCoordinationTimeout_late hr hlate,
      State.concludeRun_sole (by rw [State.sendAbort_runs, hr]) he _, rfl, rfl⟩
  · intro hj hm
    exact ⟨execLaunch_sole hr hj hm, execAbort_sole hr hj hm, execPathLost_sole hr hj hm, execStep_sole hr hj hm,
      execBreakObjects_sole hr hj hm⟩

end Sys2Proof.Claims
end

section
/-!
Exact sums of bushels (03 R82, R85). The sum of a bushel is addition modulo 2^192, and its flags only ever gain, so
contributions commute, and joining with another bushel moves past them.
-/

namespace Sys2Proof.Machine

/-- Reading a sum as signed 192-bit reduces it to its balanced residue modulo 2^192. -/
theorem wrap192_eq_bmod (v : Int) : wrap192 v = v.bmod (2 ^ 192) := by
  have hcast : ((v % ((2 ^ 192 : Nat) : Int)).toNat % 2 ^ 192 : Nat) = v % ((2 ^ 192 : Nat) : Int) := by omega
  simp only [wrap192, toSigned, ofSigned, Int.bmod_def, hcast]
  exact if_congr (by omega) rfl rfl

theorem wrap192_wrap192_add (x y : Int) : wrap192 (wrap192 x + y) = wrap192 (x + y) := by
  simp only [wrap192_eq_bmod, Int.bmod_add_bmod]

theorem wrap192_add_wrap192 (x y : Int) : wrap192 (x + wrap192 y) = wrap192 (x + y) := by
  simp only [wrap192_eq_bmod, Int.add_bmod_bmod]

/-- A finite contribution adds its clamped truncation, which does not depend on the bushel (03 R82). -/
theorem Bushel.contribute_fin (b : Bushel) (wbase : Int) (neg : Bool) (m : Nat) (e : Int) :
    b.contribute wbase (.fin neg m e) =
      { b with
        s := wrap192 (b.s + (clampWin (truncQ wbase neg m e).1).1)
        ovf := b.ovf || (clampWin (truncQ wbase neg m e).1).2
        loss := b.loss || (truncQ wbase neg m e).2 } := rfl

theorem Bushel.contribute_inf (b : Bushel) (wbase : Int) (neg : Bool) :
    b.contribute wbase (.inf neg) = { b with nv := true } := rfl

theorem Bushel.contribute_nan (b : Bushel) (wbase : Int) : b.contribute wbase .nan = { b with nv := true } := rfl

/-- Two contributions commute on every bushel, also on one whose sum has left the window. -/
theorem Bushel.contribute_right_comm (b : Bushel) (wbase : Int) (v w : Val) :
    (b.contribute wbase v).contribute wbase w = (b.contribute wbase w).contribute wbase v := by
  cases v with
  | nan => cases w <;> rfl
  | inf => cases w <;> rfl
  | fin =>
    cases w with
    | nan => rfl
    | inf => rfl
    | fin => simp only [contribute_fin, wrap192_wrap192_add, add_right_comm, Bool.or_right_comm]

theorem Bushel.join_comm (a b : Bushel) : a.join b = b.join a := by
  simp only [join, add_comm, Bool.or_comm]

/-- A contribution to one of two groups is a contribution to the join of the groups. -/
theorem Bushel.join_contribute (a b : Bushel) (wbase : Int) (v : Val) :
    a.join (b.contribute wbase v) = (a.join b).contribute wbase v := by
  cases v with
  | nan => simp only [contribute_nan, join, Bool.or_true]
  | inf => simp only [contribute_inf, join, Bool.or_true]
  | fin => simp only [contribute_fin, join, wrap192_wrap192_add, wrap192_add_wrap192, add_assoc, Bool.or_assoc]

/-- A bushel that has taken contributions in the order of a list (03 R82). -/
def Bushel.contributeAll (b : Bushel) (wbase : Int) (vs : List Val) : Bushel :=
  vs.foldl (fun b v => b.contribute wbase v) b

/-- The order of the contributions does not matter (03 R85). -/
theorem Bushel.contributeAll_perm (b : Bushel) (wbase : Int) {xs ys : List Val} (h : xs.Perm ys) :
    b.contributeAll wbase xs = b.contributeAll wbase ys :=
  h.foldl_eq' (fun v _ w _ b => b.contribute_right_comm wbase v w) b

theorem Bushel.contributeAll_append (b : Bushel) (wbase : Int) (xs ys : List Val) :
    b.contributeAll wbase (xs ++ ys) = (b.contributeAll wbase xs).contributeAll wbase ys :=
  List.foldl_append

theorem Bushel.join_contributeAll (a b : Bushel) (wbase : Int) (vs : List Val) :
    a.join (b.contributeAll wbase vs) = (a.join b).contributeAll wbase vs :=
  (List.foldl_hom a.join fun b v => (a.join_contribute b wbase v).symm).symm

/-- A cleared bushel adds nothing to one that has gathered contributions. This needs the contributions: on a sum that is no
192-bit number the join would wrap. -/
theorem Bushel.contributeAll_join_zero (wbase : Int) (vs : List Val) :
    (zero.contributeAll wbase vs).join zero = zero.contributeAll wbase vs := by
  rw [join_comm, join_contributeAll, show zero.join zero = zero by decide]

/-- Contributions taken in two groups, the groups then joined, are contributions taken in one (03 R85). -/
theorem Bushel.contributeAll_join (wbase : Int) (xs ys : List Val) :
    (zero.contributeAll wbase xs).join (zero.contributeAll wbase ys) = zero.contributeAll wbase (xs ++ ys) := by
  rw [join_contributeAll, contributeAll_join_zero, contributeAll_append]

end Sys2Proof.Machine

namespace Sys2Proof.Claims

open Sys2Proof.Machine

/-- Settles O21: contributions commute, and joining a group moves past the other group's contributions. -/
theorem bushelOrderFree : Obligations.BushelOrderFree := by
  unfold Obligations.BushelOrderFree
  intro wbase xs ys
  exact ⟨fun h => Bushel.zero.contributeAll_perm wbase h, Bushel.contributeAll_join wbase xs ys⟩

end Sys2Proof.Claims
end

section
/-!
The array's events (04 R109, R118 to R130; 05 R153): an operation that leaves the command queue, a SWAP, and a result column.
-/

namespace Sys2Proof.Machine

/-! Events of a core -/

theorem State.coreEvent_idle {s : State} {c : Nat} {f : Core → Out} (hc : s.hasCore c = true)
    (he : (s.core c).ell = none) :
    s.coreEvent c f = f (s.core c) := by
  simp [State.coreEvent, hc, he]

theorem State.running_run {s : State} {c : Nat} (h : s.running c = true) :
    ∃ x, (s.core c).run.bind s.run? = some x := by
  unfold State.running at h
  split at h
  next x hx => exact ⟨x, hx⟩
  next => cases h

/-- An event of the command queue acts where the array runs and the head is an operation of its kind. -/
theorem State.matEvent_head {s : State} {c : Nat} {o : MatOp} {rest : List MatOp} {kind : MatKind} {p : TileP}
    {f : Core → MatOp → TileP → State} (hc : s.hasCore c = true) (he : (s.core c).ell = none) (hs : s.stalled = false)
    (hr : s.running c = true) (hq : (s.core c).arr.queue = o :: rest) (hk : o.kind = kind)
    (hp : (if kind = .swap then tileOf 0 else tileOf o.tp) = some p) :
    s.matEvent c kind f = .next (f (s.core c) o p) := by
  simp only [State.matEvent, State.coreEvent_idle hc he, hs, hr, hq, hk, if_true]
  rw [hp]
  rfl

/-! The head of the command queue leaves it -/

@[simp] theorem Core.queueFreed_arr (k : Core) (t : Nat) : (k.queueFreed t).arr = k.arr := by
  unfold Core.queueFreed; split <;> rfl

@[simp] theorem Core.queueFreed_vregs (k : Core) (t : Nat) : (k.queueFreed t).vregs = k.vregs := by
  unfold Core.queueFreed; split <;> rfl

@[simp] theorem Core.queueFreed_sregs (k : Core) (t : Nat) : (k.queueFreed t).sregs = k.sregs := by
  unfold Core.queueFreed; split <;> rfl

@[simp] theorem Core.queueFreed_run (k : Core) (t : Nat) : (k.queueFreed t).run = k.run := by
  unfold Core.queueFreed; split <;> rfl

section
variable (k : Core) (t : Nat) (f : ArrayState → ArrayState)

@[simp] theorem Core.popMat_arr : (k.popMat t f).arr = f { k.arr with queue := k.arr.queue.drop 1 } :=
  Core.queueFreed_arr _ t

@[simp] theorem Core.popMat_vregs : (k.popMat t f).vregs = k.vregs := Core.queueFreed_vregs _ t

@[simp] theorem Core.popMat_sregs : (k.popMat t f).sregs = k.sregs := Core.queueFreed_sregs _ t

@[simp] theorem Core.popMat_run : (k.popMat t f).run = k.run := Core.queueFreed_run _ t

end

/-! A job begins -/

/-- A start notes WBASE in the accumulator entries, and nothing else (R125). -/
theorem Core.record_eq (k : Core) (o : MatOp) (p : TileP) :
    k.record o p = { k with arr := { k.arr with acc := (k.record o p).arr.acc } } := by
  unfold Core.record
  split <;> rfl

/-- The rules of R124 and R125 look at the accumulators alone. -/
theorem Core.accWrong_congr {k l : Core} (h : l.arr.acc = k.arr.acc) (o : MatOp) (p : TileP) :
    l.accWrong o p = k.accWrong o p := by
  simp only [Core.accWrong, h]

/-- What a core may reach depends on its own fields through the run that it is in. -/
theorem State.reach_setCore (s : State) {c : Nat} {k : Core} (h : k.run = (s.core c).run) :
    (s.setCore c k).reach c = s.reach c := by
  unfold State.reach
  rw [State.core_setCore, h]
  rfl

/-- The job of a sound operation, as it starts. -/
def MatOp.job (o : MatOp) (phase load w : Nat) : Job :=
  { op := o, mark := false, set := 0, phase := phase, grp := 0, load := load, w := w }

def Core.addJob (k : Core) (j : Job) : Core := { k with arr := { k.arr with jobs := k.arr.jobs ++ [j] } }

/-- A tile or MSTREAM with its accumulator entries as it needs them and no fault in its operands: the entries that it
starts are recorded, and its job begins. -/
theorem State.matStart_sound {s : State} {c : Nat} {o : MatOp} {p : TileP} (ha : (s.core c).accWrong o p = false)
    (hb : o.badHandle p (s.reach c) = none) {phase : Nat} (hph : (if o.kind = .tile then 0 else 2) = phase)
    (load w : Nat) :
    s.matStart c o p load w = s.setCore c (((s.core c).record o p).addJob (o.job phase load w)) := by
  simp [State.matStart, ha, hb, hph, State.modCore, Core.addJob, MatOp.job]

/-- Core `g` is core `k` once the head of its command queue has become job `j`, up to the cycles that its array keeps, the
accumulator entries recorded and the cycle of an ell that the full queue held. -/
structure Core.StartsJob (k g : Core) (rest : List MatOp) (j : Job) : Prop where
  queue : g.arr.queue = rest
  jobs : g.arr.jobs = k.arr.jobs ++ [j]
  ptr : g.arr.ptr = k.arr.ptr
  vregs : g.vregs = k.vregs
  sregs : g.sregs = k.sregs

/-- A change of the array's cycles alone. -/
def TimingOnly (f : ArrayState → ArrayState) : Prop :=
  ∀ a, f a = { a with
    nextLoad := (f a).nextLoad, injFree := (f a).injFree, lastEntry := (f a).lastEntry, aheadEnd := (f a).aheadEnd
    done := (f a).done }

section
variable {k : Core} {o : MatOp} {rest : List MatOp} {f : ArrayState → ArrayState}

theorem Core.popMat_startsJob (hq : k.arr.queue = o :: rest) (hf : TimingOnly f) (t : Nat) (j : Job) :
    k.StartsJob ((k.popMat t f).addJob j) rest j := by
  have harr := Core.popMat_arr k t f
  rw [hf] at harr
  exact
    { queue := by rw [Core.addJob, harr, hq]; rfl
      jobs := by rw [Core.addJob, harr]
      ptr := by rw [Core.addJob, harr]
      vregs := Core.popMat_vregs ..
      sregs := Core.popMat_sregs .. }

theorem Core.StartsJob.record {g : Core} {j : Job} (h : k.StartsJob (g.addJob j) rest j) (o : MatOp) (p : TileP) :
    k.StartsJob ((g.record o p).addJob j) rest j := by
  rw [Core.record_eq]
  exact ⟨h.queue, h.jobs, h.ptr, h.vregs, h.sregs⟩

/-- The head of the queue leaves it in cycle t, and a sound tile or MSTREAM begins its job. -/
theorem State.popMat_matStart {s : State} {c : Nat} {p : TileP} (hf : TimingOnly f)
    (ha : (s.core c).accWrong o p = false) (hb : o.badHandle p (s.reach c) = none) {phase : Nat}
    (hph : (if o.kind = .tile then 0 else 2) = phase) (t load w : Nat) :
    (s.modCore c (fun k => k.popMat t f)).matStart c o p load w =
      s.setCore c ((((s.core c).popMat t f).record o p).addJob (o.job phase load w)) := by
  have hacc : ((s.core c).popMat t f).arr.acc = (s.core c).arr.acc := by rw [Core.popMat_arr, hf]
  have ha' : ((s.modCore c (fun k => k.popMat t f)).core c).accWrong o p = false := by
    rw [State.core_modCore_self, Core.accWrong_congr hacc, ha]
  have hb' : o.badHandle p ((s.modCore c (fun k => k.popMat t f)).reach c) = none := by
    rw [State.modCore, State.reach_setCore s (Core.popMat_run ..), hb]
  rw [State.matStart_sound ha' hb' hph]
  simp [State.modCore]

end

/-- What the statement of a start asks, from the core that it leaves. -/
theorem Core.StartsJob.of_exec {s : State} {c : Nat} {i : Instr} {g : Core} {rest : List MatOp} {j : Job}
    (h : (s.core c).StartsJob g rest j) (hx : exec i s = .next (s.setCore c g)) :
    ∃ u : State, exec i s = .next u ∧ (u.core c).arr.queue = rest ∧
      (u.core c).arr.jobs = (s.core c).arr.jobs ++ [j] ∧ (u.core c).arr.ptr = (s.core c).arr.ptr ∧
      (u.core c).vregs = (s.core c).vregs ∧ (u.core c).sregs = (s.core c).sregs ∧ (∀ d, d ≠ c → u.core d = s.core d) ∧ u.hostMem = s.hostMem := by
  refine ⟨_, hx, ?_⟩
  rw [State.core_setCore]
  exact ⟨h.queue, h.jobs, h.ptr, h.vregs, h.sregs, fun d hd => State.core_setCore_ne s g hd, rfl⟩

/-! SWAP -/

section
variable {s : State} {c : Nat}

/-- With no job the array has no event to run. -/
theorem State.advance_noJobs (hj : (s.core c).arr.jobs = []) (t : Nat) (col : Bool) (n : Nat) :
    s.advance c t col n = s := by
  cases n with
  | zero => rfl
  | succ n => simp [State.advance, hj, firstJob]

/-- With no job there is no load to complete. -/
theorem State.landLoads_noJobs (hj : (s.core c).arr.jobs = []) (w n : Nat) : s.landLoads c w n = s := by
  cases n with
  | zero => rfl
  | succ n => simp [State.landLoads, hj]

/-- The cycles that the last background load lacks where a SWAP comes in cycle w (R119). -/
def Core.missing (k : Core) (w : Nat) : Nat :=
  match k.arr.loadStart with
  | some l => l + 66 - w
  | none => 0

/-- Posting an event is all that a schedule violation does. -/
theorem State.violation_same (s : State) (c : Nat) : s.SameButHost (s.violation c) := by
  unfold State.violation
  split
  · split
    · exact State.postEvent_same ..
    · exact .refl s
  · exact .refl s

@[simp] theorem State.violation_core (s : State) (c d : Nat) : (s.violation c).core d = s.core d := by
  rw [State.core, (s.violation_same c).cores]
  rfl

/-- A stall is no matter of the cores, the contexts or the host. -/
theorem State.stallAt_eq (s : State) (c t n : Nat) :
    s.stallAt c t n = { s with
      stalls := (s.stallAt c t n).stalls, stallTot := (s.stallAt c t n).stallTot, det := (s.stallAt c t n).det
      runs := (s.stallAt c t n).runs } := by
  unfold State.stallAt
  split
  · rfl
  · unfold State.stallPos
    dsimp only
    split <;> rfl

@[simp] theorem State.stallAt_core (s : State) (c t n d : Nat) : (s.stallAt c t n).core d = s.core d := by
  rw [State.stallAt_eq]
  rfl

/-- The cycles of a stall at a position at which the module stalls already are counted once (02 R53). -/
theorem State.stallPos_stallCc (s : State) (p n : Nat) :
    (s.stallPos p n).det.stallCc = s.det.stallCc.add (n - (s.stallsAt p).1) := by
  unfold State.stallPos
  dsimp only
  split <;> rfl

theorem State.stallAt_stallCc {x : Run} (hx : (s.core c).run.bind s.run? = some x) (t n : Nat) :
    (s.stallAt c t n).det.stallCc = s.det.stallCc.add (n - (s.stallsAt (x.position t)).1) := by
  rw [State.stallAt, hx]
  exact State.stallPos_stallCc ..

/-- Before the pointer is inverted: a SWAP that comes too early stalls the module, with a schedule violation (R120). -/
def State.swapStall (s : State) (c w : Nat) : State :=
  if 0 < (s.core c).missing w then (s.violation c).stallAt c w ((s.core c).missing w) else s

@[simp] theorem State.swapStall_core (s : State) (c w d : Nat) : (s.swapStall c w).core d = s.core d := by
  unfold State.swapStall
  split <;> simp

theorem State.swapStall_onTime {w : Nat} (h : (s.core c).missing w = 0) : s.swapStall c w = s :=
  if_neg (by omega)

section
variable {w : Nat} (h : 0 < (s.core c).missing w)
include h

theorem State.swapStall_ctxs : (s.swapStall c w).ctxs = (s.violation c).ctxs := by
  rw [State.swapStall, if_pos h, State.stallAt_eq]

theorem State.swapStall_hostMem : (s.swapStall c w).hostMem = (s.violation c).hostMem := by
  rw [State.swapStall, if_pos h, State.stallAt_eq]

theorem State.swapStall_stallCc {x : Run} (hx : (s.core c).run.bind s.run? = some x) :
    (s.swapStall c w).det.stallCc = s.det.stallCc.add ((s.core c).missing w - (s.stallsAt (x.position w)).1) := by
  have hsame : s.violation c = _ := s.violation_same c
  have hrun : ((s.violation c).core c).run.bind (s.violation c).run? = some x := by
    rw [State.violation_core, ← hx, hsame]
    rfl
  rw [State.swapStall, if_pos h, State.stallAt_stallCc hrun, hsame]
  rfl

end

/-- Array `b` is array `a` with the pointer inverted, up to the cycles that it keeps. -/
structure ArrayState.InvertedTo (a b : ArrayState) : Prop where
  queue : b.queue = a.queue
  ptr : b.ptr = !a.ptr
  acc : b.acc = a.acc
  copy0 : b.copy0 = a.copy0
  copy1 : b.copy1 = a.copy1

/-- As the SWAP leaves the queue, the array's cycles change and the rest of it stays. -/
theorem ArrayState.InvertedTo.popMat {a : ArrayState} {g : Core} {f : ArrayState → ArrayState} (h : a.InvertedTo g.arr)
    (hf : TimingOnly f) (t : Nat) : { a with queue := a.queue.drop 1 }.InvertedTo (g.popMat t f).arr := by
  rw [Core.popMat_arr, hf]
  exact ⟨congrArg (List.drop 1) h.queue, h.ptr, h.acc, h.copy0, h.copy1⟩

/-- A SWAP with no job of the array in progress inverts the pointer, and the module stalls where it comes too early. -/
theorem State.swapAt_noJobs (hj : (s.core c).arr.jobs = []) (w : Nat) :
    ∃ g : Core, (s.core c).arr.InvertedTo g.arr ∧ s.swapAt c w = (s.swapStall c w).setCore c g := by
  rw [State.swapAt, State.landLoads_noJobs hj]
  change ∃ g : Core, _ ∧ (s.swapStall c w).modCore c _ = _
  rw [State.modCore, State.swapStall_core]
  refine ⟨_, ?_, rfl⟩
  exact ⟨rfl, rfl, rfl, rfl, rfl⟩

/-- The cycle in which a SWAP takes effect (05 R153). -/
def MatOp.swapCycle (o : MatOp) (k : Core) : Nat := if o.behind then max o.issued k.arr.aheadEnd else o.issued

/-- SWAP_EFFECT with no job of the array in progress. -/
theorem exec_swapEffect_noJobs {o : MatOp} {rest : List MatOp} (hc : s.hasCore c = true) (he : (s.core c).ell = none)
    (hs : s.stalled = false) (hr : s.running c = true) (hq : (s.core c).arr.queue = o :: rest) (hk : o.kind = .swap)
    (hj : (s.core c).arr.jobs = []) :
    ∃ f, TimingOnly f ∧ exec (.swapEffect c) s =
      .next ((s.swapAt c (o.swapCycle (s.core c))).modCore c (fun k => k.popMat (o.swapCycle (s.core c)) f)) := by
  have htile : ∃ p, (if MatKind.swap = .swap then tileOf 0 else tileOf o.tp) = some p :=
    Option.isSome_iff_exists.1 (show (tileOf 0).isSome = true by decide)
  obtain ⟨p, hp⟩ := htile
  have hx : execSwapEffect c s = _ := State.matEvent_head hc he hs hr hq hk hp
  simp only [State.arrayAt, State.advance_noJobs hj, hj, firstJob] at hx
  exact ⟨_, fun _ => rfl, hx⟩

end

/-! Result columns -/

/-- The flags that a column which has not been held brings to NSTAT (05 R151). -/
theorem Column.flags_eq {x : Column} (hw : x.wait = false) :
    (if x.fmt == 0xE || x.wait then 0 else flagsOrSome x.vals) =
      if x.fmt = 0xE then 0 else flagsOr (x.vals.filterMap id) := by
  simp [hw, flagsOrSome]

theorem Core.popColumn_cons {k : Core} {x : Column} {xs : List Column} (h : k.arr.columns = x :: xs) :
    k.popColumn = { k with arr := { k.arr with columns := xs } } := by
  simp [Core.popColumn, h]

@[simp] theorem Core.nstatAt_arr (k : Core) (t : Nat) (v : BitVec 3) : (k.nstatAt t v).arr = k.arr := by
  unfold Core.nstatAt
  split <;> rfl

end Sys2Proof.Machine

namespace Sys2Proof.Claims
open Sys2Proof.Machine

/-- Settles O31: the operation that leaves the queue is sound, so its start changes its own core alone, by the array's
cycles, the accumulator entries recorded and the job. -/
theorem tileStarts : Obligations.TileStarts := by
  unfold Obligations.TileStarts
  intro s c o rest p hc he hs hr hq hp
  refine ⟨fun hk ha hb => ?_, fun hk ha hb => ?_, fun hk hb => ?_⟩
  · have hx : execTileStart c s = _ := State.matEvent_head hc he hs hr hq hk ((if_neg (by decide)).trans hp)
    dsimp only at hx
    rw [State.popMat_matStart (fun _ => rfl) ha hb (if_pos hk)] at hx
    exact ((Core.popMat_startsJob hq (fun _ => rfl) _ _).record o p).of_exec hx
  · have hx : execMstreamStart c s = _ := State.matEvent_head hc he hs hr hq hk ((if_neg (by decide)).trans hp)
    dsimp only at hx
    rw [State.popMat_matStart (fun _ => rfl) ha hb (if_neg (by simp [hk]))] at hx
    exact ((Core.popMat_startsJob hq (fun _ => rfl) _ _).record o p).of_exec hx
  · have hx : execBackgroundLoadStart c s = _ :=
      State.matEvent_head hc he hs hr hq hk ((if_neg (by decide)).trans hp)
    simp only [State.modCore, State.reach_setCore s (Core.popMat_run ..), hb, State.core_setCore,
      State.setCore_setCore, Bool.false_eq_true, if_false] at hx
    exact (Core.popMat_startsJob hq (fun _ => rfl) _ (o.job 0 _ _)).of_exec hx

/-- Settles O32: with no job in progress the SWAP acts on its own core by the pointer and the array's cycles, and what else
changes is the stall with its event. -/
theorem swapInvertsPointer : Obligations.SwapInvertsPointer := by
  unfold Obligations.SwapInvertsPointer
  intro s c o rest hc he hs hr hq hk hj
  obtain ⟨f, hf, hx⟩ := exec_swapEffect_noJobs hc he hs hr hq hk hj
  obtain ⟨g, hg, hswap⟩ := State.swapAt_noJobs hj (o.swapCycle (s.core c))
  obtain ⟨x, hrun⟩ := State.running_run hr
  have hinv := hg.popMat hf (o.swapCycle (s.core c))
  refine ⟨_, hx, ?_⟩
  rw [hswap, State.modCore, State.core_setCore, State.setCore_setCore, State.core_setCore]
  refine ⟨hinv.queue.trans (by rw [hq]; rfl), hinv.ptr, hinv.acc, hinv.copy0, hinv.copy1, fun d hd => ?_, fun hm => ?_,
    fun hm => ?_⟩
  · rw [State.core_setCore_ne _ _ hd, State.swapStall_core]
  · refine ⟨?_, State.swapStall_ctxs hm, State.swapStall_hostMem hm⟩
    rw [State.setCore_det, State.swapStall_stallCc (w := o.swapCycle (s.core c)) hm hrun, hrun]
    rfl
  · rw [State.swapStall_onTime (w := o.swapCycle (s.core c)) hm]
    exact ⟨rfl, rfl, rfl, rfl⟩

/-- Settles O33: with no job in progress no column forms, and the oldest one goes where it is meant to. -/
theorem resultColumns : Obligations.ResultColumns := by
  unfold Obligations.ResultColumns
  intro s c hc he hs hr hj
  have hx : execResultColumn c s = _ := State.coreEvent_idle hc he
  simp only [hs, hr, Bool.false_and, Bool.not_true, Bool.or_self, Bool.false_eq_true, if_false,
    State.advance_noJobs hj] at hx
  refine ⟨fun h => ?_, fun x xs h hw => ?_⟩
  · rw [h] at hx
    exact hx
  · rw [h] at hx
    simp only [Column.flags_eq hw, State.modCore, Core.popColumn_cons h] at hx
    refine ⟨fun ho hl => ?_, fun ho hl => ?_, fun ho hacc hp => ?_⟩
    · rw [if_pos ho, if_neg (Nat.not_le.2 hl)] at hx
      refine hx.trans ?_
      simp
    · rw [if_pos ho, if_pos hl] at hx
      exact hx
    · simp only [ho, hacc, hp, Bool.false_eq_true, if_false] at hx
      exact hx

end Sys2Proof.Claims
end

section
/-!
Scalar registers and the writes on their way (05 R135 to R137).
-/

namespace Sys2Proof.Machine

theorem Core.s_zero (k : Core) : k.s 0 = 0 := if_pos rfl

/-- What a register reads after a write: s0 takes none (R137). -/
theorem Core.setS_s (k : Core) (r q : BitVec 5) (v : Word) :
    (k.setS r v).s q = if q = 0 then 0 else if q = r then v else k.s q := by
  by_cases hq : q = 0
  · rw [hq, Core.s_zero, if_pos rfl]
  · rw [if_neg hq]
    by_cases hr : r = 0
    · rw [Core.setS, if_pos hr, if_neg (hr ▸ hq)]
    · rw [Core.setS, if_neg hr, Core.s, Core.s, if_neg hq, if_neg hq]
      by_cases h : q = r
      · rw [if_pos h, h, kget_kset_self]
      · rw [if_neg h, kget_kset_ne _ _ _ (fun e => h (BitVec.eq_of_toNat_eq e))]

theorem Core.setS_zero (k : Core) (v : Word) : k.setS 0 v = k := if_pos rfl

/-- The writes on their way are no register. -/
theorem Core.pendW_s (k : Core) (ws : List PendWrite) (q : BitVec 5) : ({ k with pendW := ws } : Core).s q = k.s q := rfl

/-- A write is made by an ell that issues in its cycle or later, and stays on its way for an earlier one (R135). -/
theorem Core.retireList_cons (k : Core) (i : Nat) (w : PendWrite) (ws : List PendWrite) :
    k.retireList i (w :: ws) = if w.cyc ≤ i then (k.apply w.tgt).retireList i ws else { k with pendW := w :: ws } := rfl

/-- Of two writes the one that does not come later is made first, in whichever order they were scheduled (R136). -/
theorem pendInsert_pair {a b : PendWrite} (hab : a.le b = true) (hba : b.le a = false) :
    pendInsert a (pendInsert b []) = [a, b] ∧ pendInsert b (pendInsert a []) = [a, b] := by
  simp [pendInsert, hab, hba]

end Sys2Proof.Machine

namespace Sys2Proof.Claims

open Sys2Proof.Machine

/-- Settles O4: s0 is neither read from nor written to the table of registers. -/
theorem s0ReadsZero : Obligations.S0ReadsZero := by
  unfold Obligations.S0ReadsZero
  exact fun k v => ⟨k.s_zero, k.setS_zero v⟩

/-- Settles O3: a lone write is made or not yet made by its cycle; of two due in one cycle the order of `pendInsert` makes the
one that stands the last. -/
theorem writesSeenAfterLatency : Obligations.WritesSeenAfterLatency := by
  unfold Obligations.WritesSeenAfterLatency
  refine ⟨fun k lat cyc late r q v hk => ?_, fun k cyc ia ib la lb r va vb hr hlater => ?_⟩
  · rw [Core.retire, Core.later, hk]
    show (Core.retireList _ cyc [_]).s q = _
    rw [Core.retireList_cons]
    by_cases hdue : k.scyc + lat ≤ cyc
    · rw [if_pos hdue]
      refine (Core.setS_s _ r q v).trans ?_
      simp only [hdue, and_true, Core.pendW_s]
    · rw [if_neg hdue]
      by_cases hq : q = 0
      · rw [hq, Core.s_zero, if_pos rfl]
      · simp only [hdue, and_false, if_false, if_neg hq, Core.pendW_s]
  · intro a b
    have hab : a.le b = true := by
      obtain h | ⟨h, hla, hlb⟩ := hlater <;> simp [PendWrite.le, a, b, *]
    have hba : b.le a = false := by
      obtain h | ⟨h, hla, hlb⟩ := hlater
      · have : ¬ ib < ia ∧ ¬ ib = ia := by omega
        simp [PendWrite.le, a, b, this]
      · simp [PendWrite.le, a, b, *]
    obtain ⟨h₁, h₂⟩ := pendInsert_pair hab hba
    have hlast : (({ k with pendW := [a, b] } : Core).retire cyc).s r = vb := by
      show (Core.retireList _ cyc [a, b]).s r = vb
      rw [Core.retireList_cons, if_pos (Nat.le_refl cyc), Core.retireList_cons, if_pos (Nat.le_refl cyc)]
      refine (Core.setS_s _ r r vb).trans ?_
      rw [if_neg hr, if_pos rfl]
    rw [h₁, h₂]
    exact ⟨hlast, hlast⟩

end Sys2Proof.Claims
end

section
/-!
The slot commands (05 R133, R134, R139): each is `State.slotP` of its slot's number, size and queue, and leaves its core's ell
open. What keeps an ell from issuing, and what a command answers whatever holds its core.
-/

namespace Sys2Proof.Machine

/-! Cores that a change leaves as they are -/

@[simp] theorem State.modFlag_cores (s : State) (p : Nat) (f : Flag → Flag) : (s.modFlag p f).cores = s.cores := by
  unfold State.modFlag
  split <;> rfl

@[simp] theorem State.modBarr_cores (s : State) (p : Nat) (f : Barrier → Barrier) : (s.modBarr p f).cores = s.cores := by
  unfold State.modBarr
  split <;> rfl

@[simp] theorem State.pushArrival_cores (s : State) (p : Nat) (a : Arrival) : (s.pushArrival p a).cores = s.cores :=
  State.modBarr_cores _ _ _

@[simp] theorem State.postEvent_cores (s : State) (f type status core job detail : Nat) :
    (s.postEvent f type status core job detail).cores = s.cores :=
  (State.postEvent_same s f type status core job detail).cores

@[simp] theorem State.flagRace_cores (s : State) (f : Flag) : (s.flagRace f).cores = s.cores := by
  unfold State.flagRace
  dsimp only
  split
  · exact State.postEvent_cores _ _ _ _ _ _ _
  · rfl

@[simp] theorem State.flagOp_cores (s : State) (p : Nat) (origin : Option Nat) (rank : Nat × Nat) (st : Nat) (val : Bool) :
    (s.flagOp p origin rank st val).cores = s.cores := by
  unfold State.flagOp
  dsimp only
  split
  · rfl
  · split
    · rfl
    · split
      · exact State.modFlag_cores _ _ _
      · rw [State.modFlag_cores]
        split
        · exact State.flagRace_cores _ _
        · rfl

@[simp] theorem State.bridgeSet_cores (s : State) (ctx b : Nat) : (s.bridgeSet ctx b).cores = s.cores := by
  unfold State.bridgeSet
  split
  · split <;> rfl
  · rfl

@[simp] theorem State.flyNulls_cores (s : State) (r c st : Nat) (land : Nat → Nat) (i n : Nat) :
    (s.flyNulls r c st land i n).cores = s.cores := by
  induction n generalizing s i with
  | zero => rfl
  | succ n ih => exact ih _ _

@[simp] theorem State.endRunExit_cores (s : State) (c : Nat) (st : Byte) : (s.endRunExit c st).cores = s.cores := by
  unfold State.endRunExit
  split <;> simp

@[simp] theorem State.afterHalt_cores (s : State) (c : Nat) : (s.afterHalt c).cores = s.cores := by
  unfold State.afterHalt
  dsimp only
  split <;> simp

@[simp] theorem State.endDueOf_cores (s : State) (c : Nat) : (s.endDueOf c).cores = s.cores := by
  unfold State.endDueOf State.endRunDue
  split <;> simp

@[simp] theorem State.await_cores (s : State) (c : Nat) (g : Nat × Nat × Nat) : (s.await c g).cores = s.cores := by
  have h := State.await_withCores s g s.cores s.ellSaved (c := c) rfl
  rw [h]

/-! Open ells -/

/-- The ells of the cores. -/
def State.ells (s : State) (d : Nat) : Option EllSt := (s.core d).ell

/-- A change of the state that leaves the cores as they are. -/
theorem State.ells_of_cores {s t : State} (h : t.cores = s.cores) : t.ells = s.ells := by
  funext d
  rw [State.ells, State.core, h, State.ells, State.core]

theorem State.modCore_ells {f : Core → Core} (hf : ∀ k, (f k).ell = k.ell) (s : State) (c : Nat) :
    (s.modCore c f).ells = s.ells := by
  funext d
  by_cases hd : d = c
  · rw [State.ells, State.ells, hd, State.core_modCore_self, hf]
  · rw [State.ells, State.ells, State.core_modCore_ne _ _ hd]

@[simp] theorem State.sentTo_ells (s : State) (c st q : Nat) : (s.sentTo c st q).ells = s.ells :=
  State.modCore_ells (fun k => by split <;> rfl) s c

@[simp] theorem State.flyStream_ells (s : State) (r c : Nat) (g : Grain) (land : Nat → Nat) (t q : Nat) (bad : BitVec 8) :
    (s.flyStream r c g land t q bad).ells = s.ells := by
  unfold State.flyStream
  dsimp only
  split
  · rfl
  · rw [State.sentTo_ells]
    exact State.ells_of_cores (State.flyNulls_cores ..)

@[simp] theorem State.coreLoop_ells (s : State) (r src t : Nat) (bad : BitVec 8) (g : Grain) :
    (s.coreLoop r src t bad g).ells = s.ells := by
  unfold State.coreLoop
  split
  · rfl
  · exact State.sentTo_ells ..

@[simp] theorem State.sendSync_ells (s : State) (r src t dmod entry : Nat) :
    (s.sendSync r src t dmod entry).ells = s.ells := by
  unfold State.sendSync State.sendScheduled
  split
  · rfl
  · dsimp only
    split
    · exact State.coreLoop_ells ..
    · split
      · rfl
      · split
        · rfl
        · exact State.flyStream_ells ..

@[simp] theorem State.flagSignal_ells (s : State) (c i : Nat) (vid : BitVec 16) (val : Bool) :
    (s.flagSignal c i vid val).ells = s.ells := by
  have hdone : ∀ u, (s.modCore c (fun k => k.syncDoneAt u)).ells = s.ells := fun u => State.modCore_ells (by intro k; rfl) s c
  have htake : ∀ m u, (s.modCore c (fun k =>
      { k.syncDoneAt u with eng := { (k.syncDoneAt u).eng with syncSlots := kset k.eng.syncSlots m u } })).ells = s.ells :=
    fun m u => State.modCore_ells (by intro k; rfl) s c
  unfold State.flagSignal
  dsimp only
  split
  · rfl
  · split
    · rfl
    · split
      · split
        · exact (State.ells_of_cores (State.flagOp_cores ..)).trans (hdone _)
        · exact hdone _
      · exact (State.sendSync_ells ..).trans (htake _ _)
      · split
        · exact (State.sendSync_ells ..).trans (htake _ _)
        · exact htake _ _
      · split
        · exact (State.ells_of_cores (State.bridgeSet_cores ..)).trans (hdone _)
        · exact hdone _

/-- A write that lands does not change the ell. -/
theorem Core.landed_ell (k : Core) : k.landed.ell = k.ell :=
  foldl_keeps Core.ell (fun k w => by rw [Core.apply_eq]) k.pendW { k with pendW := [] }

theorem Core.recordPending_ell (k : Core) : k.recordPending.ell = k.ell := by
  unfold Core.recordPending
  split
  · rfl
  · exact k.landed_ell

/-- A core at which a cause arises in cycle t (R158). -/
def Core.raised (k : Core) (code : Byte) (info : Word) (t : Nat) : Core :=
  let k := { k with asyncQ := causeInsert { code := code, info := info, cyc := t } k.asyncQ }
  if k.halted then k.recordPending else k

theorem Core.raised_ell (k : Core) (code : Byte) (info : Word) (t : Nat) : (k.raised code info t).ell = k.ell := by
  unfold Core.raised
  dsimp only
  split
  · exact Core.recordPending_ell _
  · rfl

theorem State.raiseAsyncAt_cores (s : State) (c : Nat) (code : Byte) (info : Word) (t : Nat) :
    (s.raiseAsyncAt c code info t).cores = (s.modCore c (fun k => k.raised code info t)).cores := by
  have hhalt : ∀ u : State, (if (u.core c).halted then u.afterHalt c else u).cores = u.cores := by
    intro u
    split
    · exact State.afterHalt_cores u c
    · rfl
  unfold State.raiseAsyncAt
  dsimp only
  split
  · exact (State.endDueOf_cores _ c).trans (hhalt _)
  · exact hhalt _

@[simp] theorem State.raiseAsyncAt_ells (s : State) (c : Nat) (code : Byte) (info : Word) (t : Nat) :
    (s.raiseAsyncAt c code info t).ells = s.ells :=
  (State.ells_of_cores (State.raiseAsyncAt_cores ..)).trans (State.modCore_ells (fun k => k.raised_ell code info t) s c)

/-- A slot leaves its core's ell open (R133). -/
def KeepsOpen (c : Nat) (f : State → State) : Prop :=
  ∀ s : State, (s.core c).ell.isSome = true → ((f s).core c).ell.isSome = true

theorem KeepsOpen.of_ells {c : Nat} {f : State → State} (h : ∀ s, (f s).ells = s.ells) : KeepsOpen c f :=
  fun s hs => (congrArg Option.isSome (congrFun (h s) c)).trans hs

theorem KeepsOpen.modCore {c : Nat} {f : Core → Core} (h : ∀ k, (f k).ell.isSome = k.ell.isSome) :
    KeepsOpen c (fun s => s.modCore c f) :=
  fun s hs => by rw [State.core_modCore_self, h]; exact hs

theorem Core.modEll_isSome (k : Core) (f : EllSt → EllSt) : (k.modEll f).ell.isSome = k.ell.isSome := Option.isSome_map

/-! Slots -/

/-- A command that is one slot of core c: its number, its parcels, what fills its queue, and its place in the ell. -/
def IsSlot (c n par : Nat) (full : Core → Bool) (e : EllEnd) (g : State → Out) : Prop :=
  ∃ chk f, (∀ s, g s = s.slotP c n par full e chk f) ∧ KeepsOpen c f

variable {c : Nat} {e : EllEnd}

/-- A slot whose effect is on its core alone. -/
theorem IsSlot.core (c n par : Nat) (full : Core → Bool) (e : EllEnd) (chk : State → Option Cause) {f : Core → Core}
    (h : ∀ k, (f k).ell.isSome = k.ell.isSome) :
    IsSlot c n par full e (fun s => s.slotP c n par full e chk (fun s => s.modCore c f)) :=
  ⟨chk, _, fun _ => rfl, .modCore h⟩

theorem IsSlot.slot (c n par : Nat) (full : Core → Bool) (e : EllEnd) {f : Core → Core}
    (h : ∀ k, (f k).ell.isSome = k.ell.isSome) :
    IsSlot c n par full e (fun s => s.slot c n par full e (fun s => s.modCore c f)) :=
  ⟨fun _ => none, _, fun _ => rfl, .modCore h⟩

theorem State.scalarOp_isSlot (c : Nat) (e : EllEnd) (rd : BitVec 5) (lat : Nat) (v : Core → Word) :
    IsSlot c 0 2 noQueue e (fun s => s.scalarOp c e rd lat v) :=
  ⟨fun _ => none, _, fun _ => rfl, .modCore fun _ => rfl⟩

theorem State.scalarOpIf_isSlot (c : Nat) (e : EllEnd) (bad : Bool) (rd : BitVec 5) (lat : Nat) (v : Core → Word) :
    IsSlot c 0 2 noQueue e (fun s => s.scalarOpIf c e bad rd lat v) :=
  .core _ _ _ _ _ _ fun _ => rfl

theorem State.loadOp_isSlot (c : Nat) (e : EllEnd) (rd ra : BitVec 5) (imm : BitVec 16) (n : Nat) :
    IsSlot c 0 2 noQueue e (fun s => s.loadOp c e rd ra imm n) := by
  refine .core _ _ _ _ _ _ fun k => ?_
  dsimp only
  split
  · exact Core.modEll_isSome _ _
  · rfl

theorem State.storeOp_isSlot (c : Nat) (e : EllEnd) (rd ra : BitVec 5) (imm : BitVec 16) (n : Nat) :
    IsSlot c 0 2 noQueue e (fun s => s.storeOp c e rd ra imm n) :=
  .core _ _ _ _ _ _ fun _ => rfl

theorem State.branchOp_isSlot (c : Nat) (e : EllEnd) (cond : Core → Bool) (off : BitVec 16) :
    IsSlot c 0 2 noQueue e (fun s => s.branchOp c e cond off) := by
  refine .core _ _ _ _ _ _ fun k => ?_
  split
  · exact Core.modEll_isSome _ _
  · rfl

theorem State.jumpOp_isSlot (c : Nat) (e : EllEnd) (rd : BitVec 5) (t : Core → Nat) :
    IsSlot c 0 2 noQueue e (fun s => s.jumpOp c e rd t) :=
  .core _ _ _ _ _ _ fun _ => (Core.modEll_isSome _ _).trans (Core.modEll_isSome _ _)

theorem execLoop_isSlot (c : Nat) (e : EllEnd) (lv ra : BitVec 5) (imm : BitVec 16) :
    IsSlot c 0 2 noQueue e (execLoop c e lv ra imm) := by
  refine .core _ _ _ _ _ _ fun k => ?_
  split <;> exact Core.modEll_isSome _ _

theorem execCrr_isSlot (c : Nat) (e : EllEnd) (rd : BitVec 5) (imm : BitVec 16) :
    IsSlot c 0 2 noQueue e (execCrr c e rd imm) := by
  refine ⟨_, _, fun _ => rfl, .of_ells fun s => State.modCore_ells (fun k => ?_) s c⟩
  dsimp only
  split <;> rfl

theorem State.ctlOp_isSlot (c : Nat) (e : EllEnd) (imm : BitVec 16) (t : Core → Target) :
    IsSlot c 0 2 noQueue e (fun s => s.ctlOp c e imm t) :=
  .core _ _ _ _ _ _ fun _ => rfl

theorem execTpw_isSlot (c : Nat) (e : EllEnd) (rd ra rb : BitVec 5) :
    IsSlot c 0 2 noQueue e (execTpw c e rd ra rb) :=
  .core _ _ _ _ _ _ fun _ => rfl

/-- TRAP, ERET and HALT note in the ell what its end does. -/
theorem State.slotEll_isSlot (c : Nat) (e : EllEnd) (f : EllSt → EllSt) :
    IsSlot c 0 2 noQueue e (fun s => s.slot c 0 2 noQueue e (fun s => s.modCore c (fun k => k.modEll f))) :=
  .slot _ _ _ _ _ fun _ => Core.modEll_isSome _ _

theorem State.vecSlot_isSlot (c : Nat) (e : EllEnd) (bad : Bool) (lat : Nat) {f : Core → Core}
    (h : ∀ k, (f k).ell.isSome = k.ell.isSome) : IsSlot c 1 3 noQueue e (fun s => s.vecSlot c e bad lat f) :=
  .core _ _ _ _ _ _ h

theorem State.vecOp_isSlot (c : Nat) (e : EllEnd) (bad : Bool) (lat : Nat) (vd : BitVec 5) (g : Core → VReg) :
    IsSlot c 1 3 noQueue e (fun s => s.vecOp c e bad lat vd g) :=
  State.vecSlot_isSlot _ _ _ _ fun _ => rfl

theorem Core.bankSample_isSome (k : Core) (b : Nat) : (k.bankSample b).ell.isSome = k.ell.isSome := by
  show ((k.bankGo k.scyc k.bankQ).1.ellViolations (k.bankGo k.scyc k.bankQ).2).ell.isSome = _
  rw [Core.bankGo_eq]
  exact Core.modEll_isSome _ _

theorem State.sampleSlot_isSlot (c : Nat) (e : EllEnd) (bad : Bool) (lat b : Nat) {f : Core → Core}
    (h : ∀ k, (f k).ell.isSome = k.ell.isSome) : IsSlot c 1 3 noQueue e (fun s => s.sampleSlot c e bad lat b f) := by
  refine ⟨_, _, fun _ => rfl, fun s hs => ?_⟩
  split
  · rw [State.core_modCore_self, Core.modEll_isSome]
    exact (congrArg Option.isSome (congrFun (State.ells_of_cores (State.await_cores ..)) c)).trans hs
  · rw [State.core_modCore_self]
    exact (h _).trans hs

theorem Core.nstatAt_isSome (k : Core) (t : Nat) (v : BitVec 3) : (k.nstatAt t v).ell.isSome = k.ell.isSome := by
  rw [show k.nstatAt t v = _ from Core.nstatAt_ell k k.ell t v]

theorem execVacvt_isSlot (c : Nat) (e : EllEnd) (f : BitVec 4) (vd : BitVec 5) (bank : BitVec 2) (sat clr : Bool)
    (part : BitVec 3) : IsSlot c 1 3 noQueue e (execVacvt c e f vd bank sat clr part) := by
  refine State.sampleSlot_isSlot _ _ _ _ _ fun k => Eq.trans ?_ (k.bankSample_isSome bank.toNat)
  have hwrite : ∀ (z : Core) (y : Core), y.ell = z.ell → ∀ t v,
      (if clr then (y.nstatAt t v).bankAt bank.toNat (y.nstatAt t v).scyc .clearKeep else y.nstatAt t v).ell.isSome =
        z.ell.isSome := by
    intro z y hy t v
    cases clr
    · exact (Core.nstatAt_isSome y t v).trans (congrArg _ hy)
    · exact (Core.nstatAt_isSome y t v).trans (congrArg _ hy)
  refine hwrite _ _ ?_ _ _
  split <;> rfl

theorem execVrq_isSlot (c : Nat) (e : EllEnd) (vd : BitVec 5) : IsSlot c 1 3 noQueue e (execVrq c e vd) := by
  refine State.vecSlot_isSlot _ _ _ _ fun k => ?_
  split
  · exact Core.modEll_isSome _ _
  · rfl

theorem State.loadSlot_isSlot (c : Nat) (e : EllEnd) (f : Core → EngOp) :
    IsSlot c 3 3 loadFull e (fun s => s.loadSlot c e f) :=
  ⟨fun _ => none, _, fun _ => rfl, .modCore fun _ => rfl⟩

theorem State.storeSlot_isSlot (c : Nat) (e : EllEnd) (f : Core → EngOp) :
    IsSlot c 4 3 storeFull e (fun s => s.storeSlot c e f) :=
  ⟨fun _ => none, _, fun _ => rfl, .modCore fun _ => rfl⟩

theorem execTile_isSlot (c : Nat) (e : EllEnd) (tp : BitVec 4) (sh th oh : BitVec 8) (nreg : BitVec 5)
    (start final outv : Bool) : IsSlot c 2 3 matFull e (execTile c e tp sh th oh nreg start final outv) := by
  refine .core _ _ _ _ _ _ fun k => ?_
  dsimp only
  split <;> rfl

/-- A slot that names a flag or a barrier (08 R229). -/
theorem State.syncSlot_isSlot (c : Nat) (e : EllEnd) (barr : Bool) (vid : BitVec 16) {f : State → State}
    (h : KeepsOpen c f) : IsSlot c 5 2 noQueue e (fun s => s.syncSlot c e barr vid f) := by
  refine ⟨fun _ => none, _, fun _ => rfl, fun s hs => ?_⟩
  split
  · split
    · exact (congrArg Option.isSome (congrFun (State.raiseAsyncAt_ells ..) c)).trans hs
    · rw [State.core_modCore_self, Core.modEll_isSome]
      exact hs
  · exact h s hs

theorem execFwait_isSlot (c : Nat) (e : EllEnd) (vid : BitVec 16) (val autoclr : Bool) :
    IsSlot c 5 2 noQueue e (execFwait c e vid val autoclr) := by
  refine State.syncSlot_isSlot _ _ _ _ (.of_ells fun s => ?_)
  split
  · rfl
  · split
    · rfl
    · exact State.modCore_ells (by intro k; rfl) s c

theorem execBarr_isSlot (c : Nat) (e : EllEnd) (vid : BitVec 16) (nowait : Bool) :
    IsSlot c 5 2 noQueue e (execBarr c e vid nowait) := by
  refine State.syncSlot_isSlot _ _ _ _ (.of_ells fun s => ?_)
  split
  · rfl
  · split
    · rfl
    · exact (State.modCore_ells (by intro k; rfl) _ c).trans (State.ells_of_cores (by simp))

theorem execFtest_isSlot (c : Nat) (e : EllEnd) (vid : BitVec 16) (rd : BitVec 5) :
    IsSlot c 5 2 noQueue e (execFtest c e vid rd) :=
  State.syncSlot_isSlot _ _ _ _ (.of_ells fun s => State.modCore_ells (by intro k; rfl) s c)

theorem execEvent_isSlot (c : Nat) (e : EllEnd) (code : BitVec 16) : IsSlot c 5 2 noQueue e (execEvent c e code) := by
  refine ⟨fun _ => none, _, fun _ => rfl, .of_ells fun s => ?_⟩
  dsimp only
  split
  · exact (State.ells_of_cores (State.postEvent_cores ..)).trans (State.modCore_ells (by intro k; rfl) s c)
  · exact State.modCore_ells (by intro k; rfl) s c

end Sys2Proof.Machine

namespace Sys2Proof.Claims

open Sys2Proof.Machine

/-- The parcels of the word of slot n: two for the scalar and the sync slot, else three (05 R139). -/
def slotSize (n : Nat) : Nat := if n = 0 ∨ n = 5 then 2 else 3

/-- What fills the queue that a slot command needs; one that needs none never waits (05 R134). -/
def slotQueue : Instr → Core → Bool
  | .tile .. | .sload .. | .swap .. | .mstream .. => matFull
  | .ldv .. | .lds .. | .ldb .. => loadFull
  | .stv .. | .sts .. | .stb .. => storeFull
  | _ => noQueue

/-- Every slot command is a slot of its core. -/
theorem exec_isSlot {i : Instr} {c n : Nat} {e : EllEnd} (h : slotOf i = some (c, n, e)) :
    IsSlot c n (slotSize n) (slotQueue i) e (exec i) := by
  show IsSlot _ _ _ _ _ (fun s => exec i s)
  cases i with
  | add | sub | and | or | xor | shl | shr | sra | slt | sltu | mul | mulh | mulhu | min | max | addi | andi | ori | xori
  | lui =>
    cases h
    exact State.scalarOp_isSlot ..
  | shli | shri | srai | lidx =>
    cases h
    exact State.scalarOpIf_isSlot ..
  | lw | lbu =>
    cases h
    exact State.loadOp_isSlot ..
  | sw | sb =>
    cases h
    exact State.storeOp_isSlot ..
  | beq | bne | blt | bge | bltu | bgeu =>
    cases h
    simp only [exec]
    exact State.branchOp_isSlot ..
  | jal | jalr =>
    cases h
    simp only [exec]
    exact State.jumpOp_isSlot ..
  | loop =>
    cases h
    exact execLoop_isSlot ..
  | crr =>
    cases h
    exact execCrr_isSlot ..
  | crw | crs | crc =>
    cases h
    exact State.ctlOp_isSlot ..
  | tpw =>
    cases h
    exact execTpw_isSlot ..
  | trap | eret | halt =>
    cases h
    exact State.slotEll_isSlot ..
  | vadd | vsub | vmul | vfma | vdiv | vmin | vmax | vcmp | vsel | vand | vor | vxor | vmov | vsplat | viota | viadd
  | vrecip | vsqrt | vrsqrt | vexp2 | vlog2 | vtanh | vsigm | verf | vsinp | vcosp | vpack | vunpk | vrmax | vrmin | vramax =>
    cases h
    simp only [exec]
    exact State.vecOp_isSlot ..
  | vphase | vrot | vmxq | vaclr | vacc | vrsum =>
    cases h
    simp only [exec]
    refine State.vecSlot_isSlot _ _ _ _ fun k => ?_
    rfl
  | vcvt =>
    cases h
    refine State.vecSlot_isSlot _ _ _ _ fun k => ?_
    split <;> rfl
  | vacsum c' e' bank =>
    cases h
    simp only [exec]
    refine State.sampleSlot_isSlot _ _ _ _ _ fun k => ?_
    exact Core.bankSample_isSome k bank.toNat
  | vacvt =>
    cases h
    exact execVacvt_isSlot ..
  | vrq =>
    cases h
    exact execVrq_isSlot ..
  | tile =>
    cases h
    exact execTile_isSlot ..
  | sload | mstream | dwr =>
    cases h
    refine .core _ _ _ _ _ _ fun k => ?_
    rfl
  | swap | dadd | digest | fence =>
    cases h
    refine .slot _ _ _ _ _ fun k => ?_
    rfl
  | ldv | lds | ldb =>
    cases h
    exact State.loadSlot_isSlot ..
  | stv | sts | stb =>
    cases h
    exact State.storeSlot_isSlot ..
  | fset | fclr =>
    cases h
    exact State.syncSlot_isSlot _ _ _ _ (.of_ells (by intro s; exact State.flagSignal_ells ..))
  | fwait =>
    cases h
    exact execFwait_isSlot ..
  | barr =>
    cases h
    exact execBarr_isSlot ..
  | ftest =>
    cases h
    exact execFtest_isSlot ..
  | event =>
    cases h
    exact execEvent_isSlot ..
  | _ => cases h

end Sys2Proof.Claims

namespace Sys2Proof.Machine

variable {s : State} {c n par : Nat} {full : Core → Bool} {e : EllEnd} {chk : State → Option Cause} {f : State → State}

/-! What a slot answers -/

theorem State.slotP_noCore (h : s.hasCore c = false) : s.slotP c n par full e chk f = .fault .noSuchUnit := by
  simp [State.slotP, State.gate, h]

theorem State.slotP_outOfOrder {l : EllSt} (h : s.hasCore c = true) (hl : (s.core c).ell = some l)
    (hn : 2 ^ n ≤ l.slots.toNat) : s.slotP c n par full e chk f = .fault .slotOrder := by
  simp [State.slotP, State.gate, h, hl, hn]

/-- A slot that comes in order goes on with its core's ell open, whether or not the ell issues. -/
theorem State.gate_inOrder (h : s.hasCore c = true) (hn : ∀ l, (s.core c).ell = some l → l.slots.toNat < 2 ^ n) :
    ∃ t, (t.core c).ell.isSome = true ∧ (s.gate c n par full = .go t ∨ s.gate c n par full = .void t) := by
  have hpick : ∀ t : State, (t.core c).ell.isSome = true → ∃ u, (u.core c).ell.isSome = true ∧
      ((if (t.core c).ellOpen then Gate.go t else .void t) = .go u ∨
        (if (t.core c).ellOpen then Gate.go t else .void t) = .void u) := by
    intro t ht
    refine ⟨t, ht, ?_⟩
    split
    · exact .inl rfl
    · exact .inr rfl
  simp only [State.gate, h, Bool.not_true, Bool.false_eq_true, if_false]
  split
  · rename_i l hl
    rw [if_neg (Nat.not_le.2 (hn l hl))]
    exact hpick _ (by rw [State.core_setCore]; rfl)
  · refine hpick _ ?_
    show (kget Core.reset (kset _ _ _) _).ell.isSome = true
    rw [kget_kset_self]
    rfl

/-- Such a slot answers a next state, and leaves the ell open where another slot is to follow. -/
theorem State.slotP_inOrder (hf : KeepsOpen c f) (h : s.hasCore c = true)
    (hn : ∀ l, (s.core c).ell = some l → l.slots.toNat < 2 ^ n) :
    ∃ t, s.slotP c n par full e chk f = .next t ∧ (e = .more → (t.core c).ell.isSome = true) := by
  obtain ⟨t, ht, hgo | hvoid⟩ := State.gate_inOrder (par := par) (full := full) h hn
  · simp only [State.slotP, hgo]
    split
    · refine ⟨_, rfl, fun he => ?_⟩
      rw [he, State.endSlot, State.core_modCore_self, Core.modEll_isSome]
      exact ht
    · refine ⟨_, rfl, fun he => ?_⟩
      rw [he, State.endSlot]
      split
      · exact hf t ht
      · exact ht
  · simp only [State.slotP, hvoid]
    exact ⟨_, rfl, fun he => by rw [he]; exact ht⟩

/-! What keeps an ell from issuing -/

/-- The module stalled, no active run, a halt, or a hold with no cause that would end it (R134, R143, R162). -/
theorem State.openBlock_held (par : Nat) (full : Core → Bool)
    (h : s.stalled = true ∨ s.issuing c = false ∨ ((s.core c).asyncQ = [] ∧ (s.core c).hold ≠ .free)) :
    s.openBlock c par full = some .held := by
  unfold State.openBlock
  dsimp only
  obtain h | h | ⟨hq, hh⟩ := h
  · rw [if_pos (by simp [h])]
  · rw [if_pos (by simp [h])]
  · split
    · rfl
    · rw [if_neg (by simp [Core.dueCause, hq]), if_pos (by simp [hh])]

/-- The queue is looked at last (R134). -/
theorem State.openBlock_eq (s : State) (c par : Nat) (full : Core → Bool) :
    s.openBlock c par full = (s.openBlock c par noQueue).or (if full (s.core c) then some .full else none) := by
  unfold State.openBlock
  dsimp only
  split
  · rfl
  · split
    · rfl
    · split
      · rfl
      · split
        · rfl
        · split <;> rfl

/-- An ell that would issue but for its queue. -/
theorem State.openBlock_full (h : s.openBlock c par noQueue = none) (hfull : full (s.core c) = true) :
    s.openBlock c par full = some .full := by
  rw [State.openBlock_eq, h, hfull]
  rfl

end Sys2Proof.Machine

namespace Sys2Proof.Claims

open Sys2Proof.Machine

/-- Settles O5: every slot command is a slot (`exec_isSlot`), and a slot that comes in order answers. -/
theorem slotsComplete : Obligations.SlotsComplete := by
  unfold Obligations.SlotsComplete
  intro s i c n e hi
  obtain ⟨chk, f, hx, hf⟩ := exec_isSlot hi
  rw [hx]
  exact ⟨State.slotP_noCore, fun l hc hl hn => State.slotP_outOfOrder hc hl hn, fun hc hn => State.slotP_inOrder hf hc hn⟩

/-- Settles O6: each cause of holding keeps the ell from issuing whatever the slot, and the core is put back as it was. -/
theorem heldCoreIssuesNothing : Obligations.HeldCoreIssuesNothing := by
  unfold Obligations.HeldCoreIssuesNothing
  intro s i c n p hi hc he hs hheld
  obtain ⟨chk, f, hx, -⟩ := exec_isSlot hi
  rw [hx]
  exact State.slotP_held hc he hs (State.openBlock_held _ _ hheld)

/-- A slot command of a queue other than DWR and DADD, and when that queue is full. -/
theorem slotQueue_full {i : Instr} {c n : Nat} {e : EllEnd} {k : Core} (hi : slotOf i = some (c, n, e))
    (hdwr : ∀ h rs w, i ≠ .dwr c e h rs w) (hdadd : ∀ h rs, i ≠ .dadd c e h rs)
    (hfull : (n = 2 ∧ 2 ≤ k.arr.queue.length) ∨ (n = 3 ∧ 8 ≤ k.eng.loadQ.length) ∨ (n = 4 ∧ 8 ≤ k.eng.storeQ.length)) :
    slotQueue i k = true ∧ slotSize n = 3 := by
  obtain ⟨rfl, hq⟩ | ⟨rfl, hq⟩ | ⟨rfl, hq⟩ := hfull
  · cases i with
    | tile | sload | swap | mstream => exact ⟨decide_eq_true hq, rfl⟩
    | _ => cases hi
  · cases i with
    | ldv | lds | ldb => exact ⟨decide_eq_true hq, rfl⟩
    | dwr =>
      cases hi
      exact absurd rfl (hdwr _ _ _)
    | dadd =>
      cases hi
      exact absurd rfl (hdadd _ _)
    | _ => cases hi
  · cases i with
    | stv | sts | stb => exact ⟨decide_eq_true hq, rfl⟩
    | _ => cases hi

/-- Settles O8: nothing but the slot's queue keeps the ell from issuing. -/
theorem fullQueueHolds : Obligations.FullQueueHolds := by
  unfold Obligations.FullQueueHolds
  intro s i c n p hi hready hdwr hdadd hfull
  obtain ⟨hc, he, hopen, hs⟩ := hready
  obtain ⟨hq, hsize⟩ := slotQueue_full hi hdwr hdadd hfull
  obtain ⟨chk, f, hx, -⟩ := exec_isSlot hi
  rw [hx, hsize]
  exact State.slotP_full hc he hs (State.openBlock_full hopen hq)

end Sys2Proof.Claims
end

section
/-!
The scalar slot (05 R144, R147, R155): results written to a register after their latency.
-/

namespace Sys2Proof.Machine

/-! Words -/

theorem bits_zero {w : Nat} (v : BitVec w) (n : Nat) : bits v 0 n = v.toNat % 2 ^ n := by simp [bits]

/-- Fields above bit n are zero exactly where the number is below 2^n. -/
theorem bits_high_eq_zero {w n m : Nat} (v : BitVec w) (h : w = n + m) : bits v n m = 0 ↔ v.toNat < 2 ^ n := by
  have hv : v.toNat / 2 ^ n < 2 ^ m := by
    rw [Nat.div_lt_iff_lt_mul (Nat.two_pow_pos n), ← Nat.pow_add, Nat.add_comm, ← h]
    exact v.isLt
  rw [bits, Nat.mod_eq_of_lt hv, Nat.div_eq_zero_iff]
  simp

theorem bits_zero_of_lt {w n : Nat} {v : BitVec w} (h : v.toNat < 2 ^ n) : bits v 0 n = v.toNat := by
  rw [bits_zero, Nat.mod_eq_of_lt h]

/-- The upper half of a signed product, by division or from the 64-bit product. -/
theorem mulh_eq (a b : Word) :
    BitVec.ofInt 32 (a.toInt * b.toInt / 2 ^ 32) = (a.signExtend 64 * b.signExtend 64).extractLsb' 32 32 := by
  have hx : (a.signExtend 64 * b.signExtend 64) = BitVec.ofInt 64 (a.toInt * b.toInt) := by
    rw [BitVec.ofInt_mul]
    rfl
  apply BitVec.eq_of_toNat_eq
  rw [hx, BitVec.extractLsb'_toNat, BitVec.toNat_ofInt, BitVec.toNat_ofInt, Nat.shiftRight_eq_div_pow]
  generalize a.toInt * b.toInt = x
  omega

theorem mulhu_eq (a b : Word) :
    BitVec.ofNat 32 (a.toNat * b.toNat / 2 ^ 32) = (a.setWidth 64 * b.setWidth 64).extractLsb' 32 32 := by
  have hab : a.toNat * b.toNat < 2 ^ 32 * 2 ^ 32 := Nat.mul_lt_mul'' a.isLt b.isLt
  apply BitVec.eq_of_toNat_eq
  simp only [BitVec.extractLsb'_toNat, BitVec.toNat_mul, BitVec.toNat_setWidth, BitVec.toNat_ofNat,
    Nat.shiftRight_eq_div_pow]
  rw [Nat.mod_eq_of_lt (a := a.toNat) (by omega), Nat.mod_eq_of_lt (a := b.toNat) (by omega)]
  omega

theorem mul_eq (a b : Word) : a * b = (a.setWidth 64 * b.setWidth 64).setWidth 32 := by
  apply BitVec.eq_of_toNat_eq
  simp only [BitVec.toNat_mul, BitVec.toNat_setWidth]
  rw [Nat.mod_eq_of_lt (a := a.toNat) (by omega), Nat.mod_eq_of_lt (a := b.toNat) (by omega)]
  omega

theorem slt_eq (a b : Word) : a.slt b = decide (a.toInt < b.toInt) := rfl

theorem min_eq (a b : Word) : (if a.slt b then a else b) = if a.toInt ≤ b.toInt then a else b := by
  rw [slt_eq]
  by_cases h : a.toInt < b.toInt
  · simp [h, Int.le_of_lt h]
  · by_cases he : a.toInt = b.toInt
    · simp [BitVec.eq_of_toInt_eq he]
    · rw [if_neg (by simp [h]), if_neg (by omega)]

theorem max_eq (a b : Word) : (if a.slt b then b else a) = if a.toInt ≤ b.toInt then b else a := by
  rw [slt_eq]
  by_cases h : a.toInt < b.toInt
  · simp [h, Int.le_of_lt h]
  · by_cases he : a.toInt = b.toInt
    · simp [BitVec.eq_of_toInt_eq he]
    · rw [if_neg (by simp [h]), if_neg (by omega)]

theorem zext_shiftLeft (v : BitVec 16) : zext v <<< 16 = v ++ (0 : BitVec 16) := by
  apply BitVec.eq_of_toNat_eq
  have h := v.isLt
  rw [BitVec.toNat_append, zext, BitVec.toNat_shiftLeft, BitVec.toNat_setWidth, Nat.shiftLeft_eq]
  simp [Nat.shiftLeft_eq]
  omega

/-! A lone slot -/

/-- A core with another ell. -/
def Core.withEll (k : Core) (e : Option EllSt) : Core := { k with ell := e }

theorem Core.withEll_self (k : Core) : k.withEll k.ell = k := rfl

theorem Core.fallThrough_withEll (k : Core) (e : Option EllSt) (n post : Nat) :
    (k.withEll e).fallThrough n post = k.fallThrough n post := rfl

theorem State.opened_core_eq (s : State) (c n par : Nat) :
    (s.opened c n par).core c = (s.seen c).withEll (some (EllSt.lone n par)) := State.opened_core s c n par

section
variable {s : State} {c n par lat : Nat} {full : Core → Bool} {p : BitVec 4} {rd : BitVec 5}

/-- A lone slot that changes its core alone and not the ell: the core that the ell sees, so changed, goes on after it. -/
theorem State.slotP_effect {chk : State → Option Cause} {f : Core → Core} {k : Core} (h : s.ready c par full)
    (hc : chk (s.opened c n par) = none) (hf : ∀ e, f ((s.seen c).withEll e) = k.withEll e) :
    s.slotP c n par full (.last p) chk (fun s => s.modCore c f) =
      .next (s.setCore c (k.fallThrough (1 + par) p.toNat)) := by
  rw [State.slotP_ready h rfl hc, State.modCore, State.opened_core_eq, hf, State.endEll_plain h.2.2.2 rfl,
    Core.fallThrough_withEll]

/-- A slot that writes `w` to a scalar register. -/
theorem State.scalarOp_ready {v : Core → Word} {w : Word} (h : s.ready c 2 noQueue)
    (hv : ∀ e, v ((s.seen c).withEll e) = w) :
    s.scalarOp c (.last p) rd lat v =
      .next (s.setCore c (((s.seen c).later lat false (.sreg rd w)).fallThrough 3 p.toNat)) := by
  unfold State.scalarOp State.slot
  refine State.slotP_effect h rfl fun e => ?_
  rw [hv]
  rfl

/-- The same of an operation some of whose encodings are reserved. -/
theorem State.scalarOpIf_ready {bad : Bool} {v : Core → Word} {w : Word} (h : s.ready c 2 noQueue) (hbad : bad = false)
    (hv : ∀ e, v ((s.seen c).withEll e) = w) :
    s.scalarOpIf c (.last p) bad rd lat v =
      .next (s.setCore c (((s.seen c).later lat false (.sreg rd w)).fallThrough 3 p.toNat)) := by
  unfold State.scalarOpIf
  refine State.slotP_effect h (by rw [hbad]; rfl) fun e => ?_
  rw [hv]
  rfl

end

end Sys2Proof.Machine

namespace Sys2Proof.Claims

open Sys2Proof.Machine

/-- The immediate of a shift that R144 does not reserve. -/
theorem shiftImm {imm : BitVec 16} (h : imm.toNat < 32) : (bits imm 5 11 != 0) = false ∧ bits imm 0 5 = imm.toNat :=
  ⟨by simpa using (bits_high_eq_zero imm rfl).2 h, bits_zero_of_lt h⟩

/-- Settles O2: each operation is `scalarOp` of its result, which does not depend on the ell. -/
theorem scalarResults : Obligations.ScalarResults := by
  unfold Obligations.ScalarResults
  intro s i c p rd lat v hi hs
  cases i with
  | add | sub | and | or | xor | addi | andi | ori | xori =>
    cases hi
    exact State.scalarOp_ready hs fun _ => rfl
  | shl | shr | sra =>
    cases hi
    exact State.scalarOp_ready hs fun _ => by rw [bits_zero]; rfl
  | slt | sltu =>
    cases hi
    exact State.scalarOp_ready hs fun _ => by simp only [BitVec.slt, BitVec.ult, decide_eq_true_eq]; rfl
  | mul =>
    cases hi
    exact State.scalarOp_ready hs fun _ => mul_eq ..
  | mulh =>
    cases hi
    exact State.scalarOp_ready hs fun _ => mulh_eq ..
  | mulhu =>
    cases hi
    exact State.scalarOp_ready hs fun _ => mulhu_eq ..
  | min =>
    cases hi
    exact State.scalarOp_ready hs fun _ => min_eq ..
  | max =>
    cases hi
    exact State.scalarOp_ready hs fun _ => max_eq ..
  | shli _ _ _ _ imm | shri _ _ _ _ imm | srai _ _ _ _ imm =>
    by_cases himm : imm.toNat < 32
    · obtain ⟨hbad, hcount⟩ := shiftImm himm
      cases (if_pos himm).symm.trans hi
      exact State.scalarOpIf_ready hs hbad fun _ => by rw [hcount]; rfl
    · cases (if_neg himm).symm.trans hi
  | lui =>
    cases hi
    exact State.scalarOp_ready hs fun _ => zext_shiftLeft _
  | lidx _ _ _ imm =>
    by_cases himm : imm.toNat < 4
    · cases (if_pos himm).symm.trans hi
      refine State.scalarOpIf_ready hs (by simpa using (bits_high_eq_zero imm rfl).2 himm) fun _ => ?_
      rw [bits_zero_of_lt (n := 2) himm]
      exact apply_ite (BitVec.ofNat 32) ..
    · cases (if_neg himm).symm.trans hi
  | _ => cases hi

end Sys2Proof.Claims
end

section
/-!
The end of an ell that issues (05 R138, R147, R148, R155, R159, R162): where issue goes on after an empty ell, a branch, a jump, a
loop, a trap and a halt.
-/

namespace Sys2Proof.Machine

/-! Ells that close -/

@[simp] theorem Core.withEll_ell (k : Core) (e : Option EllSt) : (k.withEll e).ell = e := rfl

/-- An ell that has issued and in which nothing was refused. -/
def EllSt.Sound (e : EllSt) : Prop := e.block = none ∧ e.causes = [] ∧ e.viols = 0 ∧ e.dues = []

variable {s : State} {c n par post : Nat} {full : Core → Bool} {p : BitVec 4} {chk : State → Option Cause}
  {f : Core → Core} {k : Core} {e : EllSt}

/-- A lone slot's ell that closes with core `k'` leaves no trace of what was kept at its opening. -/
theorem State.opened_closed (k k' : Core) (hs : kfind s.ellSaved c = none) :
    { ((s.opened c n par).setCore c k).setCore c k' with
      ellSaved := kdel ((s.opened c n par).setCore c k).ellSaved c } = s.setCore c k' := by
  simp [State.opened, State.setCore, kdel_kset _ _ _ hs]

/-- The end of a lone slot's ell with no HALT and no TRAP in it. -/
theorem State.endEll_opened (hs : kfind s.ellSaved c = none) (hk : k.ell = some e) (he : e.Sound)
    (hh : e.halt = false) (hw : e.swtrap = none) :
    ((s.opened c n par).setCore c k).endEll c post = s.setCore c ((k.noteFetch e.parcels).closeEll e post) := by
  obtain ⟨hb, hc, hv, hd⟩ := he
  rw [State.endEll_issued (State.core_setCore _ _ _) hk hb hc hv hd hh hw]
  exact State.opened_closed _ _ hs

/-- A lone slot that leaves its core as `k` and its ell as `e`. -/
theorem State.slotP_closes (h : s.ready c par full) (hc : chk (s.opened c n par) = none)
    (hf : f ((s.seen c).withEll (some (EllSt.lone n par))) = k) (hk : k.ell = some e) (he : e.Sound)
    (hh : e.halt = false) (hw : e.swtrap = none) :
    s.slotP c n par full (.last p) chk (fun s => s.modCore c f) =
      .next (s.setCore c ((k.noteFetch e.parcels).closeEll e p.toNat)) := by
  rw [State.slotP_ready h rfl hc, State.modCore, State.opened_core_eq, hf, State.endEll_opened h.2.2.2 hk he hh hw]

/-- A lone slot that takes a transfer to `t` (R148, R155). -/
theorem State.slotP_transfer {t : Nat} (h : s.ready c par full) (hc : chk (s.opened c n par) = none)
    (hf : f ((s.seen c).withEll (some (EllSt.lone n par))) =
      k.withEll (some { EllSt.lone n par with target := some t, penalty := 3 })) :
    s.slotP c n par full (.last p) chk (fun s => s.modCore c f) =
      .next (s.setCore c (k.branched (1 + par) t p.toNat)) :=
  State.slotP_closes h hc hf rfl ⟨rfl, rfl, rfl, rfl⟩ rfl rfl

/-- A lone slot that takes a transfer to `t` and links to the next ell (R144). -/
theorem State.slotP_link {t : Nat} {rd : BitVec 5} (h : s.ready c par full) (hc : chk (s.opened c n par) = none)
    (hf : f ((s.seen c).withEll (some (EllSt.lone n par))) =
      k.withEll (some { EllSt.lone n par with target := some t, penalty := 3, link := some rd })) :
    s.slotP c n par full (.last p) chk (fun s => s.modCore c f) =
      .next (s.setCore c
        ((k.later 1 false (.sreg rd (BitVec.ofNat 32 (k.pc + (1 + par))))).branched (1 + par) t p.toNat)) :=
  State.slotP_closes h hc hf rfl ⟨rfl, rfl, rfl, rfl⟩ rfl rfl

/-- A lone slot that starts loop level `l` from the next ell on (R147). -/
theorem State.slotP_loop {l count last : Nat} (h : s.ready c par full) (hc : chk (s.opened c n par) = none)
    (hf : f ((s.seen c).withEll (some (EllSt.lone n par))) =
      k.withEll (some { EllSt.lone n par with loop := some (l, count, last) })) :
    s.slotP c n par full (.last p) chk (fun s => s.modCore c f) =
      .next (s.setCore c { k.fallThrough (1 + par) p.toNat with
        loops := (k.fallThrough (1 + par) p.toNat).loops.set l
          { active := true, index := 0, count := count, first := k.pc + (1 + par), last := last } }) :=
  State.slotP_closes h hc hf rfl ⟨rfl, rfl, rfl, rfl⟩ rfl rfl

/-- A lone slot that notes in the ell what the ell's end does. -/
theorem State.slotEll_ready {g : EllSt → EllSt} (h : s.ready c par full) :
    s.slot c n par full (.last p) (fun s => s.modCore c (fun k => k.modEll g)) =
      .next (((s.opened c n par).setCore c ((s.seen c).withEll (some (g (EllSt.lone n par))))).endEll c p.toNat) := by
  unfold State.slot
  rw [State.slotP_ready h rfl rfl, State.modCore, State.opened_core]
  rfl

/-- The end of a lone slot's ell in which there is a HALT (R162). -/
theorem State.endEll_halt (hs : kfind s.ellSaved c = none) (hk : k.ell = some e) (he : e.Sound) (hh : e.halt = true) :
    ((s.opened c n par).setCore c k).endEll c post =
      (s.setCore c ((k.noteFetch e.parcels).closeEll e post)).afterHalt c := by
  obtain ⟨hb, hc, hv, hd⟩ := he
  rw [← State.opened_closed k _ hs (n := n) (par := par)]
  simp only [State.endEll, State.core_setCore, hk, hb, hc, hv, hd, hh, State.violations, State.uncorrectables, if_true]

/-- The end of a lone slot's ell in which there is a TRAP, where no handler runs (R159). -/
theorem State.endEll_trap {info : Word} {k' : Core} (hs : kfind s.ellSaved c = none) (hk : k.ell = some e) (he : e.Sound)
    (hh : e.halt = false) (hw : e.swtrap = some info) (hk' : (k.noteFetch e.parcels).closeEll e post = k')
    (hin : k'.inHandler = false) :
    ((s.opened c n par).setCore c k).endEll c post =
      (s.setCore c { k' with scyc := k.scyc }).takeTrap c 0x06 false info k'.pc := by
  obtain ⟨hb, hc, hv, hd⟩ := he
  have hx : (s.setCore c k').modCore c (fun x => { x with scyc := k.scyc }) = s.setCore c { k' with scyc := k.scyc } := by
    rw [State.modCore, State.core_setCore, State.setCore_setCore]
  rw [← hx, ← State.opened_closed k k' hs (n := n) (par := par)]
  simp only [State.endEll, State.core_setCore, hk, hb, hc, hv, hd, hh, hw, hk', State.violations, State.uncorrectables,
    Bool.false_eq_true, if_false]
  rw [if_neg (by rw [hin]; exact Bool.false_ne_true)]

/-- With no cause pending a core that halts records nothing (R162). -/
theorem Core.recordPending_none (h : k.asyncQ = []) : k.recordPending = k := by
  rw [Core.recordPending, h]

/-! What the writes then due leave of a core (R135) -/

@[simp] theorem State.seen_inHandler (s : State) (c : Nat) : (s.seen c).inHandler = (s.core c).inHandler := by
  rw [State.seen, Core.retire, Core.retireList_eq]

@[simp] theorem State.seen_frozen (s : State) (c : Nat) : (s.seen c).frozen = (s.core c).frozen := by
  rw [State.seen, Core.retire, Core.retireList_eq]

@[simp] theorem State.seen_hold (s : State) (c : Nat) : (s.seen c).hold = (s.core c).hold := by
  rw [State.seen, Core.retire, Core.retireList_eq]

@[simp] theorem State.seen_asyncQ (s : State) (c : Nat) : (s.seen c).asyncQ = (s.core c).asyncQ := by
  rw [State.seen, Core.retire, Core.retireList_eq]

/-- Nothing holds a core that is ready (R134). -/
theorem State.ready_hold (h : s.ready c par full) : (s.core c).hold = .free := by
  obtain ⟨-, -, hopen, -⟩ := h
  by_contra hh
  unfold State.openBlock at hopen
  simp only [bne_iff_ne.2 hh, Bool.true_or, if_true] at hopen
  split at hopen
  · cases hopen
  · split at hopen <;> cases hopen

/-! Transfers -/

theorem trapInfo_detail (d : Nat) : trapInfo 0 0 d = BitVec.ofNat 32 (65536 * (d % 65536)) := by
  simp [trapInfo]

/-- The level whose body ends at this ell. -/
theorem Core.endingLevel_some {l : Nat} (h : k.endingLevel = some l) :
    l < 4 ∧ (k.loops.getD l LoopLevel.idle).active = true ∧ (k.loops.getD l LoopLevel.idle).last = k.pc := by
  have hl := List.find?_some h
  have hm := List.mem_of_find?_eq_some h
  simp only [Bool.and_eq_true, beq_iff_eq] at hl
  exact ⟨List.mem_range.1 hm, hl⟩

theorem Core.endingLevel_none :
    k.endingLevel = none ↔ ∀ l, l < 4 → ¬ ((k.loops.getD l LoopLevel.idle).active = true ∧
      (k.loops.getD l LoopLevel.idle).last = k.pc) := by
  simp [Core.endingLevel, List.find?_eq_none]

/-- A transfer to no ell start (R145). -/
theorem Core.jumpCause_badTarget {t : Nat} (h : k.starts.contains t = false) :
    k.jumpCause t = some { code := 0x02, info := BitVec.ofNat 32 (65536 * (t % 65536)) } := by
  rw [← trapInfo_detail]
  exact if_pos (by rw [h]; rfl)

/-- A transfer that is taken: its handler's, or from an ell where no body ends (R148). -/
theorem Core.jumpCause_none {t : Nat} (h : k.starts.contains t = true)
    (hend : k.inHandler = true ∨ k.endingLevel = none) : k.jumpCause t = none := by
  rw [Core.jumpCause, h]
  obtain hin | hend := hend
  · simp [hin]
  · simp [hend]

/-- A transfer from the end of a body (R148). -/
theorem Core.jumpCause_nest {t : Nat} (h : k.starts.contains t = true) (hin : k.inHandler = false)
    (hend : k.endingLevel ≠ none) : ∃ l, l < 4 ∧ (k.loops.getD l LoopLevel.idle).active = true ∧
      (k.loops.getD l LoopLevel.idle).last = k.pc ∧
      k.jumpCause t = some { code := 0x04, info := BitVec.ofNat 32 (65536 * l) } := by
  obtain ⟨l, hl⟩ := Option.ne_none_iff_exists'.1 hend
  obtain ⟨h4, hact, hlast⟩ := Core.endingLevel_some hl
  refine ⟨l, h4, hact, hlast, ?_⟩
  rw [Core.jumpCause, h, hl, hin, ← Nat.mod_eq_of_lt (show l < 65536 by omega), ← trapInfo_detail,
    Nat.mod_eq_of_lt (show l < 65536 by omega)]
  rfl

/-! Loops -/

/-- A LOOP nests where no handler runs, its level is inactive, its end comes after it, and every level below is active with
an end no earlier (R147). -/
theorem Core.loopBad_eq_false (l : Nat) (imm : BitVec 16) : k.loopBad l imm = false ↔
    k.inHandler = false ∧ (k.loops.getD l LoopLevel.idle).active = false ∧ imm ≠ 0 ∧
      ∀ x, x ∈ k.loops.take l → x.active = true ∧ k.pc + imm.toNat ≤ x.last := by
  have hlast : k.loopLast imm = k.pc + imm.toNat := rfl
  rw [← hlast]
  simp [Core.loopBad, and_assoc]

/-- The fields of the level operand of a LOOP that R144 does not reserve. -/
theorem loopLevel_fields {lv : BitVec 5} (h : lv.toNat < 4) : bits lv 0 2 = lv.toNat ∧ bits lv 2 3 = 0 :=
  ⟨bits_zero_of_lt h, (bits_high_eq_zero lv rfl).2 h⟩

variable {lv ra : BitVec 5} {imm : BitVec 16}

theorem Core.loopCause_nest (hlv : lv.toNat < 4) (h : k.loopBad lv.toNat imm = true) :
    k.loopCause lv ra imm = some { code := 0x04, info := BitVec.ofNat 32 (65536 * lv.toNat) } := by
  obtain ⟨h2, h3⟩ := loopLevel_fields hlv
  have hinfo : trapInfo 0 0 lv.toNat = BitVec.ofNat 32 (65536 * lv.toNat) := by
    rw [trapInfo_detail, Nat.mod_eq_of_lt (show lv.toNat < 65536 by omega)]
  simp [Core.loopCause, h2, h3, h, hinfo]

theorem Core.loopCause_fits (hlv : lv.toNat < 4) (h : k.loopBad lv.toNat imm = false) :
    k.loopCause lv ra imm =
      if k.s ra = 0 ∧ k.starts.contains (k.pc + imm.toNat) = false then
        some { code := 0x02, info := BitVec.ofNat 32 (65536 * ((k.pc + imm.toNat) % 65536)) }
      else none := by
  obtain ⟨h2, h3⟩ := loopLevel_fields hlv
  simp only [Core.loopCause, h2, h3, h, trapInfo_detail, Core.loopLast]
  simp

end Sys2Proof.Machine

namespace Sys2Proof.Claims

open Sys2Proof.Machine

/-- Settles O7: an empty ell is a header alone, and closes as one of no slot. -/
theorem emptyEll : Obligations.EmptyEll := by
  unfold Obligations.EmptyEll
  intro s c idle hready
  obtain ⟨hc, he, hopen, hs⟩ := hready
  have hx : exec (.emptyEll c idle) s = .next ((s.openEll c 0 0 noQueue).endEll c idle.toNat) := by
    simp [exec, execEmptyEll, hc, he]
  have hk : (s.openEll c 0 0 noQueue).core c = (s.seen c).withEll (some EllSt.new) := by
    rw [State.openEll, hopen]
    exact State.core_setCore ..
  rw [hx, State.endEll_issued hk rfl rfl rfl rfl rfl rfl rfl]
  simp only [State.openEll, State.setCore, kset_kset, kdel_kset _ _ _ hs]
  rfl

theorem noBodyEnds_iff (k : Core) : noBodyEnds k ↔ k.endingLevel = none := Core.endingLevel_none.symm

theorem target_eq (k : Core) (off : Int) : target k off = k.rel off := rfl

/-- Each conditional branch is `branchOp` of its condition, which does not depend on the ell. -/
theorem exec_branch {i : Instr} {c : Nat} {e : EllEnd} {cond : Core → Prop} {off : BitVec 16}
    (h : branch i = some (c, e, cond, off)) :
    ∃ b, (∀ s, exec i s = s.branchOp c e b off) ∧ ∀ (k : Core) (l : Option EllSt), b (k.withEll l) = true ↔ cond k := by
  cases i with
  | beq _ _ ra rb =>
    cases h
    exact ⟨fun k => k.s ra == k.s rb, fun _ => rfl, fun k _ => beq_iff_eq⟩
  | bne _ _ ra rb =>
    cases h
    exact ⟨fun k => k.s ra != k.s rb, fun _ => rfl, fun k _ => bne_iff_ne⟩
  | blt _ _ ra rb =>
    cases h
    exact ⟨fun k => (k.s ra).slt (k.s rb), fun _ => rfl, fun k _ => BitVec.slt_iff_toInt_lt⟩
  | bge _ _ ra rb =>
    cases h
    refine ⟨fun k => !(k.s ra).slt (k.s rb), fun _ => rfl, fun k _ => ?_⟩
    rw [Bool.not_eq_true', ← Bool.not_eq_true, BitVec.slt_iff_toInt_lt, Int.not_lt]
    rfl
  | bltu _ _ ra rb =>
    cases h
    exact ⟨fun k => (k.s ra).ult (k.s rb), fun _ => rfl, fun k _ => BitVec.ult_iff_lt⟩
  | bgeu _ _ ra rb =>
    cases h
    refine ⟨fun k => !(k.s ra).ult (k.s rb), fun _ => rfl, fun k _ => ?_⟩
    rw [Bool.not_eq_true', ← Bool.not_eq_true, BitVec.ult_iff_lt, BitVec.not_lt]
    rfl
  | _ => cases h

/-- Settles O16: a branch not taken leaves its core as it is, and the cause of one taken is that of its target. -/
theorem branches : Obligations.Branches := by
  unfold Obligations.Branches
  intro s i c p cond off hi hs
  obtain ⟨b, hx, hb⟩ := exec_branch hi
  have hcause : cond (s.seen c) →
      (if b ((s.opened c 0 2).core c) then ((s.opened c 0 2).core c).jumpCause (((s.opened c 0 2).core c).rel off.toInt)
        else none) = (s.seen c).jumpCause (target (s.seen c) off.toInt) := fun h => by
    rw [State.opened_core_eq]
    exact if_pos ((hb _ _).2 h)
  simp only [hx, noBodyEnds_iff]
  refine ⟨fun h => ?_, fun h hstart hend => ?_, fun h hstart => ?_, fun h hstart hin hend => ?_⟩
  · have hb' : ∀ l, b ((s.seen c).withEll l) = false := fun l => Bool.eq_false_iff.2 (mt (hb _ l).1 h)
    refine State.slotP_effect hs ?_ fun e => ?_
    · rw [State.opened_core_eq, hb']
      rfl
    · rw [hb']
      rfl
  · refine State.slotP_transfer hs ((hcause h).trans (Core.jumpCause_none hstart hend)) ?_
    exact if_pos ((hb _ _).2 h)
  · exact State.slotP_cause hs ((hcause h).trans (Core.jumpCause_badTarget hstart))
  · obtain ⟨l, h4, hact, hlast, hnest⟩ := Core.jumpCause_nest (t := target (s.seen c) off.toInt) hstart hin hend
    exact ⟨l, h4, hact, hlast, State.slotP_cause hs ((hcause h).trans hnest)⟩

/-- Each jump is `jumpOp` of its target, which does not depend on the ell. -/
theorem exec_jump {i : Instr} {c : Nat} {e : EllEnd} {rd : BitVec 5} {tgt : Core → Nat}
    (h : jumpOf i = some (c, e, rd, tgt)) :
    (∀ s, exec i s = s.jumpOp c e rd tgt) ∧ ∀ (k : Core) (l : Option EllSt), tgt (k.withEll l) = tgt k := by
  cases i with
  | jal | jalr =>
    cases h
    exact ⟨fun _ => rfl, fun _ _ => rfl⟩
  | _ => cases h

/-- Settles O17: the cause of a jump is that of its target, and the ell that closes writes the link. -/
theorem jumps : Obligations.Jumps := by
  unfold Obligations.Jumps
  intro s i c p rd tgt hi hs
  obtain ⟨hx, ht⟩ := exec_jump hi
  have hcause : ((s.opened c 0 2).core c).jumpCause (tgt ((s.opened c 0 2).core c)) =
      (s.seen c).jumpCause (tgt (s.seen c)) := by
    rw [State.opened_core_eq, ht]
    rfl
  simp only [hx, noBodyEnds_iff]
  refine ⟨fun hstart hend => ?_, fun hstart => ?_, fun hstart hin hend => ?_⟩
  · refine State.slotP_link hs (hcause.trans (Core.jumpCause_none hstart hend)) ?_
    rw [ht]
    rfl
  · exact State.slotP_cause hs (hcause.trans (Core.jumpCause_badTarget hstart))
  · obtain ⟨l, h4, hact, hlast, hnest⟩ := Core.jumpCause_nest (t := tgt (s.seen c)) hstart hin hend
    exact ⟨l, h4, hact, hlast, State.slotP_cause hs (hcause.trans hnest)⟩

/-- Settles O12: TRAP notes its cause in the ell and ERET the return, and the end of the ell takes them. -/
theorem trapAndReturn : Obligations.TrapAndReturn := by
  unfold Obligations.TrapAndReturn
  intro s c p imm hs
  refine ⟨fun hin => ?_, fun ls h hfrozen => ?_⟩
  · have hinfo : trapInfo 0 0 imm.toNat = BitVec.ofNat 32 (65536 * imm.toNat) := by
      rw [trapInfo_detail, Nat.mod_eq_of_lt imm.isLt]
    refine (State.slotEll_ready hs).trans (congrArg _ ?_)
    rw [← hinfo]
    refine State.endEll_trap hs.2.2.2 rfl ?_ rfl rfl rfl ((s.seen_inHandler c).trans hin)
    exact ⟨rfl, rfl, rfl, rfl⟩
  · have hclose : ((s.seen c).noteFetch 3).returnTrap p.toNat = { (s.seen c).noteFetch 3 with
        loops := ls, hold := h, frozen := none, inHandler := false, ell := none, pc := (s.seen c).ctl.trapPc.toNat
        scyc := max ((s.seen c).scyc + 3) ((s.seen c).scyc + 1 + p.toNat) } := by
      have hhold : ((s.seen c).noteFetch 3).hold = .free := (s.seen_hold c).trans (State.ready_hold hs)
      have hf : ((s.seen c).noteFetch 3).frozen = some (ls, h) := (s.seen_frozen c).trans hfrozen
      rw [Core.returnTrap, hhold, hf]
      rfl
    refine (State.slotEll_ready hs).trans (congrArg _ ?_)
    rw [← hclose]
    exact State.endEll_opened (e := { EllSt.lone 0 2 with eret := true }) hs.2.2.2 rfl ⟨rfl, rfl, rfl, rfl⟩ rfl rfl

/-- Settles O13: with no cause pending nothing is recorded, and the rest is what a halt does to the run. -/
theorem haltStopsIssue : Obligations.HaltStopsIssue := by
  unfold Obligations.HaltStopsIssue
  intro s c p hs hq
  refine (State.slotEll_ready hs).trans (congrArg _ ?_)
  refine (State.endEll_halt hs.2.2.2 rfl ?_ rfl).trans ?_
  · exact ⟨rfl, rfl, rfl, rfl⟩
  · have hq' : (s.seen c).asyncQ = [] := (s.seen_asyncQ c).trans hq
    have hclose : ((s.seen c).noteFetch 3).closeEll { EllSt.lone 0 2 with halt := true } p.toNat =
        { (s.seen c).noteFetch 3 with
          pc := (s.seen c).pc + 3, scyc := (s.seen c).scyc + 1 + p.toNat, ell := none, halted := true } :=
      Core.recordPending_none hq'
    have hx := congrArg (fun k => (s.setCore c k).afterHalt c) hclose
    refine hx.trans ?_
    dsimp only
    rw [State.afterHalt, State.core_setCore]
    simp

/-- Settles O18: the conditions of the statement are those of `loopBad`, and the three ways on are a started level, a transfer
past the body and BAD_TARGET. -/
theorem loops : Obligations.Loops := by
  unfold Obligations.Loops
  intro s c p lv ra imm hs hlv
  dsimp only
  rw [← Core.loopBad_eq_false]
  have hcause : ((s.opened c 0 2).core c).loopCause lv ra imm = (s.seen c).loopCause lv ra imm := by
    rw [State.opened_core_eq]
    rfl
  have hlevel : bits lv 0 2 = lv.toNat := (loopLevel_fields hlv).1
  refine ⟨fun hfits _ => ⟨fun hra => ?_, fun hra hstart => ?_, fun hra hstart => ?_⟩, fun hbad => ?_⟩
  · refine State.slotP_loop hs (hcause.trans ?_) ?_
    · rw [Core.loopCause_fits hlv hfits, if_neg (fun h => hra h.1)]
    · rw [hlevel]
      exact if_neg (show ¬ ((s.seen c).s ra == 0) = true by simpa using hra)
  · refine State.slotP_transfer hs (hcause.trans ?_) ?_
    · rw [Core.loopCause_fits hlv hfits, hstart]
      exact if_neg (by simp)
    · exact if_pos (show ((s.seen c).s ra == 0) = true by simpa using hra)
  · refine State.slotP_cause hs (hcause.trans ?_)
    rw [Core.loopCause_fits hlv hfits, if_pos ⟨hra, hstart⟩]
  · exact State.slotP_cause hs (hcause.trans (Core.loopCause_nest hlv (by simpa using hbad)))

end Sys2Proof.Claims
end

section
/-!
The ends of loop bodies (05 R147): the levels that end at an ell are tested innermost first.
-/

namespace Sys2Proof.Machine

/-- The body of the level ends at the ell at `h`, with iterations left. -/
def LoopLevel.GoesOn (h : Nat) (y : LoopLevel) : Prop := (y.active = true ∧ y.last = h) ∧ y.index + 1 < y.count

/-- The level after the ell at `h`, where that is the end of its last iteration. -/
def LoopLevel.leftAt (h : Nat) (y : LoopLevel) : LoopLevel :=
  if y.active = true ∧ y.last = h then { y with active := false } else y

/-- The level in its next iteration. -/
def LoopLevel.next (y : LoopLevel) : LoopLevel := { y with index := y.index + 1 }

section
variable {ls : List LoopLevel} {h seq l n : Nat} {x : LoopLevel}

theorem loopsAtEnd_next (hx : ls[n]? = some x) (hg : x.GoesOn h) :
    loopsAtEnd ls h seq (n + 1) = (ls.set n x.next, x.first) := by
  obtain ⟨⟨hact, hlast⟩, hcount⟩ := hg
  simp [loopsAtEnd, hx, hact, hlast, hcount, LoopLevel.next]

theorem loopsAtEnd_left (hx : ls[n]? = some x) (hg : ¬ x.GoesOn h) :
    loopsAtEnd ls h seq (n + 1) = loopsAtEnd (ls.set n (x.leftAt h)) h seq n := by
  by_cases hend : x.active = true ∧ x.last = h
  · have hcount : ¬ x.index + 1 < x.count := fun hlt => hg ⟨hend, hlt⟩
    simp [loopsAtEnd, hx, hend, hcount, LoopLevel.leftAt]
  · have hself : ls.set n x = ls := by
      obtain ⟨hn, rfl⟩ := List.getElem?_eq_some_iff.1 hx
      exact List.set_getElem_self hn
    simp [loopsAtEnd, hx, hend, LoopLevel.leftAt, hself]

/-- A level that is changed first may as well be changed by the map. -/
theorem mapIdx_set {f g : Nat → LoopLevel → LoopLevel} {y v : LoopLevel} (hy : ls[n]? = some y) (hn : f n v = g n y)
    (hne : ∀ j z, j ≠ n → ls[j]? = some z → f j z = g j z) : (ls.set n v).mapIdx f = ls.mapIdx g := by
  obtain ⟨hlen, rfl⟩ := List.getElem?_eq_some_iff.1 hy
  apply List.ext_getElem (by simp)
  intro j _ _
  simp only [List.getElem_mapIdx, List.getElem_set]
  by_cases hj : n = j
  · subst hj
    simp [hn]
  · simp [hj, hne j _ (Ne.symm hj) (List.getElem?_eq_getElem _)]

theorem mapIdx_self (ls : List LoopLevel) : ls.mapIdx (fun _ y => y) = ls := by
  apply List.ext_getElem <;> simp

theorem LoopLevel.leftAt_not_goesOn {y : LoopLevel} (hg : ¬ y.GoesOn h) : ¬ (y.leftAt h).GoesOn h := by
  unfold LoopLevel.leftAt
  split
  · exact fun ⟨⟨hact, _⟩, _⟩ => Bool.false_ne_true hact
  · exact hg

/-- Only the level at n is changed. -/
theorem mapIdx_eq_set {g : Nat → LoopLevel → LoopLevel} {y : LoopLevel} (hy : ls[n]? = some y)
    (hne : ∀ j z, j ≠ n → ls[j]? = some z → g j z = z) : ls.mapIdx g = ls.set n (g n y) :=
  (mapIdx_set (f := fun _ z => z) hy rfl fun j z hj hz => (hne j z hj hz).symm).symm.trans (mapIdx_self _)

/-- Leaving a level that does not go on makes none go on. -/
theorem not_goesOn_set {P : Nat → Prop} (hlast : ∀ j y, P j → ls[j]? = some y → ¬ y.GoesOn h) (hx : ¬ x.GoesOn h) :
    ∀ j y, P j → (ls.set n (x.leftAt h))[j]? = some y → ¬ y.GoesOn h := by
  intro j y hj hy
  rw [List.getElem?_set] at hy
  split at hy
  · split at hy
    · cases hy
      exact LoopLevel.leftAt_not_goesOn hx
    · cases hy
  · exact hlast j y hj hy

/-- With a level below `n` that goes on and none above it: those above that end here are left. -/
theorem loopsAtEnd_goesOn (hn : n ≤ ls.length) (hl : l < n) (hx : ls[l]? = some x) (hg : x.GoesOn h)
    (hlast : ∀ j y, l < j → ls[j]? = some y → ¬ y.GoesOn h) :
    loopsAtEnd ls h seq n =
      (ls.mapIdx (fun j y => if j = l then y.next else if l < j ∧ j < n then y.leftAt h else y), x.first) := by
  induction n generalizing ls with
  | zero => exact absurd hl (Nat.not_lt_zero _)
  | succ n ih =>
    by_cases hln : l = n
    · subst hln
      rw [loopsAtEnd_next hx hg, ← mapIdx_self (ls.set l x.next), mapIdx_set hx]
      · rw [if_pos rfl]
      · intro j z hj _
        rw [if_neg hj, if_neg (by omega)]
    · have hy : ls[n]? = some ls[n] := List.getElem?_eq_getElem hn
      have hleft := hlast n _ (by omega) hy
      rw [loopsAtEnd_left hy hleft, ih (by simp; omega) (by omega) _ (not_goesOn_set hlast hleft), mapIdx_set hy]
      · rw [if_neg (Ne.symm hln), if_neg (by omega), if_neg (Ne.symm hln), if_pos (by omega)]
      · intro j z hj _
        have hj' : (l < j ∧ j < n + 1) = (l < j ∧ j < n) := by simp; omega
        simp only [hj']
      · rwa [List.getElem?_set_ne (Ne.symm hln)]

/-- With no level that goes on, all that end here are left. -/
theorem loopsAtEnd_leave (hn : n ≤ ls.length) (hlast : ∀ (j : Nat) (y : LoopLevel), True → ls[j]? = some y → ¬ y.GoesOn h) :
    loopsAtEnd ls h seq n = (ls.mapIdx (fun j y => if j < n then y.leftAt h else y), seq) := by
  induction n generalizing ls with
  | zero => simp [loopsAtEnd, mapIdx_self]
  | succ n ih =>
    have hy : ls[n]? = some ls[n] := List.getElem?_eq_getElem hn
    have hleft := hlast n _ trivial hy
    rw [loopsAtEnd_left hy hleft, ih (by simp; omega) (not_goesOn_set hlast hleft), mapIdx_set hy]
    · rw [if_neg (by omega), if_pos (by omega)]
    · intro j z hj _
      have hj' : (j < n + 1) = (j < n) := by simp; omega
      simp only [hj']

end

/-- Where issue goes on after an ell of a core that runs no handler. -/
theorem Core.fallThrough_loops {k : Core} {ls : List LoopLevel} {t n post : Nat} (hin : k.inHandler = false)
    (h : loopsAtEnd k.loops k.pc (k.pc + n) 4 = (ls, t)) :
    k.fallThrough n post =
      { k.noteFetch n with loops := ls, pc := t, scyc := k.scyc + 1 + post, ell := none } := by
  have hx : (if (k.noteFetch n).inHandler then (k.loops, k.pc + n) else loopsAtEnd k.loops k.pc (k.pc + n) 4) = (ls, t) := by
    rw [← h]
    exact if_neg (by rw [show (k.noteFetch n).inHandler = false from hin]; exact Bool.false_ne_true)
  exact congrArg (fun p : List LoopLevel × Nat =>
    { k.noteFetch n with loops := p.1, pc := p.2, scyc := k.scyc + 1 + post, ell := none }) hx

/-- The body of several levels ends here, and level `l` is the innermost with iterations left. -/
theorem Core.fallThrough_goesOn {k : Core} {l n post : Nat} {x : LoopLevel} (hin : k.inHandler = false)
    (hlen : k.loops.length = 4) (hx : k.loops[l]? = some x) (hg : x.GoesOn k.pc)
    (hlast : ∀ j y, l < j → k.loops[j]? = some y → ¬ y.GoesOn k.pc) :
    k.fallThrough n post = { k.noteFetch n with
      loops := k.loops.mapIdx (fun j y =>
        if j = l then { y with index := y.index + 1 }
        else if l < j ∧ y.active = true ∧ y.last = k.pc then { y with active := false } else y)
      pc := x.first, scyc := k.scyc + 1 + post, ell := none } := by
  have hl : l < k.loops.length := (List.getElem?_eq_some_iff.1 hx).1
  refine Core.fallThrough_loops hin ?_
  rw [loopsAtEnd_goesOn (by omega) (by omega) hx hg hlast]
  congr 1
  apply List.ext_getElem (by simp)
  intro j hj _
  have hj4 : j < 4 := by simpa [hlen] using hj
  by_cases hlj : l < j
  · simp [hj4, hlj, LoopLevel.leftAt, LoopLevel.next]
  · simp [hlj, LoopLevel.next]

/-- No level that ends here has iterations left. -/
theorem Core.fallThrough_leave {k : Core} {n post : Nat} (hin : k.inHandler = false)
    (hlen : k.loops.length = 4) (hlast : ∀ y, y ∈ k.loops → ¬ y.GoesOn k.pc) :
    k.fallThrough n post = { k.noteFetch n with
      loops := k.loops.map (fun y => if y.active = true ∧ y.last = k.pc then { y with active := false } else y)
      pc := k.pc + n, scyc := k.scyc + 1 + post, ell := none } := by
  refine Core.fallThrough_loops hin ?_
  rw [loopsAtEnd_leave (by omega) fun j y _ hy => hlast y (List.mem_of_getElem? hy)]
  congr 1
  apply List.ext_getElem (by simp)
  intro j hj _
  have hj4 : j < 4 := by simpa [hlen] using hj
  simp [hj4, LoopLevel.leftAt]

end Sys2Proof.Machine

namespace Sys2Proof.Claims

open Sys2Proof.Machine

/-- Settles O19: the levels are tested from the innermost down to one that goes on. -/
theorem loopEnds : Obligations.LoopEnds := by
  unfold Obligations.LoopEnds
  refine ⟨fun k l n post x hin hlen hx hact hlast hother => ?_, fun k n post hin hlen => ⟨fun l x hx hg hlast => ?_, fun h => ?_⟩⟩
  · by_cases hcount : x.index + 1 < x.count
    · rw [Core.fallThrough_goesOn hin hlen hx ⟨⟨hact, hlast⟩, hcount⟩ fun j y hj hy hg => hother j y hy (by omega) hg.1,
        mapIdx_eq_set hx]
      · simp [hcount]
      · intro j z hj hz
        rw [if_neg hj, if_neg fun h => hother j z hz hj h.2]
    · have hmap : k.loops.map (fun y => if y.active = true ∧ y.last = k.pc then { y with active := false } else y) =
          k.loops.mapIdx (fun _ y => if y.active = true ∧ y.last = k.pc then { y with active := false } else y) :=
        List.ext_getElem (by simp) (by simp)
      rw [Core.fallThrough_leave hin hlen, hmap, mapIdx_eq_set hx]
      · simp [hcount, hact, hlast]
      · intro j z hj hz
        rw [if_neg (hother j z hz hj)]
      · intro y hy hg
        obtain ⟨j, hj⟩ := List.mem_iff_getElem?.1 hy
        by_cases hjl : j = l
        · rw [hjl, hx] at hj
          cases hj
          exact hcount hg.2
        · exact hother j y hj hjl hg.1
  · exact Core.fallThrough_goesOn hin hlen hx hg hlast
  · exact Core.fallThrough_leave hin hlen h

end Sys2Proof.Claims
end

section
/-!
Traps (05 R158 to R162): entry to a handler, and the halt where there is none.
-/

namespace Sys2Proof.Machine

/-! What the writes then due leave of a core -/

@[simp] theorem Core.retire_scyc (k : Core) (i : Nat) : (k.retire i).scyc = k.scyc := by
  rw [Core.retire, Core.retireList_eq]

@[simp] theorem Core.retire_inHandler (k : Core) (i : Nat) : (k.retire i).inHandler = k.inHandler := by
  rw [Core.retire, Core.retireList_eq]

@[simp] theorem Core.retire_pc (k : Core) (i : Nat) : (k.retire i).pc = k.pc := by
  rw [Core.retire, Core.retireList_eq]

@[simp] theorem Core.retire_hold (k : Core) (i : Nat) : (k.retire i).hold = k.hold := by
  rw [Core.retire, Core.retireList_eq]

@[simp] theorem Core.retire_asyncQ (k : Core) (i : Nat) : (k.retire i).asyncQ = k.asyncQ := by
  rw [Core.retire, Core.retireList_eq]

/-- A core whose handler is entered for a cause (R159). -/
def Core.entered (k : Core) (code : Byte) (async : Bool) (info : Word) (retPc : Nat) : Core :=
  { k with
    ctl := { k.ctl with
      trapCause := BitVec.ofNat 32 (code.toNat + 256 * b2n async), trapInfo := info, trapPc := BitVec.ofNat 32 retPc }
    frozen := some (k.loops, k.hold), hold := .free, waitQ := false, inHandler := true, ell := none
    pc := k.ctl.trapVec.toNat, scyc := k.scyc + 7 }

variable {s : State} {c : Nat} {k : Core}

/-- A trap with a handler to take it. -/
theorem State.takeTrap_entered {code : Byte} {async : Bool} {info : Word} {retPc : Nat}
    (hk : (s.core c).retire (s.core c).scyc = k) (hvec : k.ctl.trapVec.toNat < 65536)
    (hstart : k.starts.contains k.ctl.trapVec.toNat = true) :
    s.takeTrap c code async info retPc = s.setCore c (k.entered code async info retPc) := by
  unfold State.takeTrap
  simp only [hk]
  rw [if_neg (by rw [Nat.not_le]; exact hvec), if_neg (by rw [hstart]; exact Bool.false_ne_true)]
  rfl

theorem State.precise_entered {x : Cause}
    (hk : (s.core c).retire (s.core c).scyc = k) (hvec : k.ctl.trapVec.toNat < 65536)
    (hstart : k.starts.contains k.ctl.trapVec.toNat = true) (hin : k.inHandler = false) :
    s.precise c x = s.setCore c (k.entered x.code false x.info k.pc) := by
  have hin' : (s.core c).inHandler = false := by rw [← hin, ← hk, Core.retire_inHandler]
  have hpc : (s.core c).pc = k.pc := by rw [← hk, Core.retire_pc]
  rw [State.precise, if_neg (by rw [hin']; exact Bool.false_ne_true), hpc, State.takeTrap_entered hk hvec hstart]

/-- The lowest cause that is pending in cycle t: those before it in the queue are not pending yet. -/
theorem Core.dueCause_eq {x : Cause} {ys xs : List Cause} {t : Nat} (hq : k.asyncQ = ys ++ x :: xs)
    (hys : ∀ y, y ∈ ys → t < y.cyc) (hx : x.cyc ≤ t) : k.dueCause t = some x := by
  rw [Core.dueCause, hq, List.find?_append, List.find?_eq_none.2 fun y hy => by simpa using hys y hy]
  simp [hx]

/-- What BROKEN_OBJECT leaves of a hold: it ends a FWAIT or a BARR for good (08 R229). -/
def Hold.unwaited : Hold → Hold
  | .fence m i => .fence m i
  | _ => .free

/-- The writes then due have nothing to do with the causes and the hold. -/
theorem Core.apply_withCauses (k : Core) (q : List Cause) (h : Hold) (t : Target) :
    ({ k with asyncQ := q, hold := h } : Core).apply t = { k.apply t with asyncQ := q, hold := h } := by
  cases t with
  | sreg r v =>
    simp only [Core.apply, Core.setS]
    split <;> rfl
  | _ => rfl

theorem Core.retireList_withCauses (ws : List PendWrite) (k : Core) (q : List Cause) (h : Hold) (i : Nat) :
    ({ k with asyncQ := q, hold := h } : Core).retireList i ws = { k.retireList i ws with asyncQ := q, hold := h } := by
  induction ws generalizing k with
  | nil => rfl
  | cons w ws ih =>
    simp only [Core.retireList]
    split
    · rw [Core.apply_withCauses, ih]
    · rfl

/-- The causes that are left once the lowest pending one has been taken. -/
theorem erase_due {x : Cause} {ys xs : List Cause} {t : Nat} (hys : ∀ y, y ∈ ys → t < y.cyc) (hx : x.cyc ≤ t) :
    (ys ++ x :: xs).erase x = ys ++ xs := by
  rw [List.erase_append_right _ fun hmem => Nat.not_lt.2 hx (hys x hmem), List.erase_cons_head]

theorem State.takeAsync_entered {x : Cause} {ys xs : List Cause} {h : Hold}
    (hk : (s.core c).retire (s.core c).scyc = k) (hvec : k.ctl.trapVec.toNat < 65536)
    (hstart : k.starts.contains k.ctl.trapVec.toNat = true) (hq : (s.core c).asyncQ = ys ++ x :: xs)
    (hys : ∀ y, y ∈ ys → (s.core c).scyc < y.cyc) (hx : x.cyc ≤ (s.core c).scyc)
    (hh : (if x.code = 0x09 then k.hold.unwaited else k.hold) = h) :
    s.takeAsync c = s.setCore c ({ k with asyncQ := ys ++ xs, hold := h }.entered x.code true x.info k.pc) := by
  have hhold : (s.core c).hold = k.hold := by rw [← hk, Core.retire_hold]
  have hpc : (s.core c).pc = k.pc := by rw [← hk, Core.retire_pc]
  have hk' : ({ s.core c with asyncQ := ys ++ xs, hold := h } : Core).retire (s.core c).scyc =
      { k with asyncQ := ys ++ xs, hold := h } := by
    rw [← hk]
    exact Core.retireList_withCauses ..
  have htake : s.takeAsync c =
      (s.setCore c { s.core c with asyncQ := ys ++ xs, hold := h }).takeTrap c x.code true x.info k.pc := by
    simp only [State.takeAsync, Core.dueCause_eq hq hys hx]
    rw [hq, erase_due hys hx, hpc, ← hh, ← hhold]
    rfl
  rw [htake, State.takeTrap_entered (k := { k with asyncQ := ys ++ xs, hold := h }) (by rw [State.core_setCore]; exact hk') hvec hstart,
    State.setCore_setCore]

theorem Core.landed_asyncQ (k : Core) : k.landed.asyncQ = k.asyncQ :=
  foldl_keeps Core.asyncQ (fun k w => by rw [Core.apply_eq]) k.pendW { k with pendW := [] }

/-- A core that halts on a fault, where no other cause is pending (R161). -/
theorem State.haltFault_core {codes : List Byte} {st : Byte} (hq : (s.core c).asyncQ = []) :
    (s.haltFault c codes st).core c = { (s.core c).landed with
      ctl := { (s.core c).landed.ctl with exitst := st }, fatalRec := some codes, halted := true, ell := none
      hold := .free } := by
  unfold State.haltFault
  rw [State.core, State.afterHalt_cores]
  refine (State.core_modCore_self ..).trans (Core.recordPending_none ?_)
  exact (Core.landed_asyncQ _).trans hq

/-- A precise cause that no handler takes (R161). -/
theorem State.precise_noHandler (x : Cause)
    (h : (s.core c).inHandler = true ∨ 65536 ≤ ((s.core c).retire (s.core c).scyc).ctl.trapVec.toNat) :
    s.precise c x = s.haltFault c [x.code] (if x.code = 0x09 ∧ (s.core c).inHandler = false then 0x08 else 0x06) := by
  by_cases hin : (s.core c).inHandler = true
  · simp [State.precise, hin]
  · have hvec : ((s.core c).retire (s.core c).scyc).ctl.trapVec.toNat ≥ imemSize / 2 := h.resolve_left hin
    rw [State.precise, if_neg hin, State.takeTrap]
    simp only [hvec, if_true]
    simp [hin]

end Sys2Proof.Machine

namespace Sys2Proof.Claims

open Sys2Proof.Machine

/-- Settles O10: a precise and an asynchronous cause both enter the handler, the latter out of the queue and without the hold that
BROKEN_OBJECT ends. -/
theorem trapEntry : Obligations.TrapEntry := by
  unfold Obligations.TrapEntry
  intro s c x ys xs k entered hvec hstart
  refine ⟨fun hin => State.precise_entered rfl hvec hstart hin, fun hq hys hx => ⟨fun hcode => ?_, fun hcode => ?_⟩⟩
  · exact State.takeAsync_entered rfl hvec hstart hq hys hx (if_neg hcode)
  · exact State.takeAsync_entered rfl hvec hstart hq hys hx (if_pos hcode)

/-- Settles O11: with no handler to take it a precise cause is a fault on which the core halts. -/
theorem noHandlerHalts : Obligations.NoHandlerHalts := by
  unfold Obligations.NoHandlerHalts
  intro s c x k hq h
  rw [State.precise_noHandler x h, State.haltFault_core hq]
  exact ⟨rfl, rfl, rfl, rfl⟩

end Sys2Proof.Claims
end

section
/-!
Loads and stores of data memory (05 R145, R155; 07 R185 to R187).
-/

namespace Sys2Proof.Machine

/-! Bytes -/

theorem memReads_eq (m : Mem) (a n : Nat) : memReads m a n = (List.range n).map (fun j => memRead m (a + j)) := by
  induction n generalizing a with
  | zero => rfl
  | succ n ih =>
    rw [memReads, ih, List.range_succ_eq_map, List.map_cons, List.map_map]
    refine congrArg _ (List.map_congr_left fun j _ => ?_)
    rw [Nat.add_right_comm, Nat.add_assoc]
    rfl

theorem leBytes_length (n v : Nat) : (leBytes n v).length = n := by
  induction n generalizing v with
  | zero => rfl
  | succ n ih => rw [leBytes, List.length_cons, ih]

/-- Byte i of a number. -/
theorem leBytes_getD {n i : Nat} (v : Nat) (h : i < n) : (leBytes n v).getD i 0 = BitVec.ofNat 8 (v / 256 ^ i) := by
  induction n generalizing i v with
  | zero => exact absurd h (Nat.not_lt_zero _)
  | succ n ih =>
    cases i with
    | zero => simp [leBytes]
    | succ i =>
      rw [leBytes, List.getD_cons_succ, ih _ (Nat.lt_of_succ_lt_succ h), Nat.div_div_eq_div_mul, Nat.pow_succ']

/-- What a memory holds once the bytes of a number have been written. -/
theorem memRead_store {m : Mem} (a n v x : Nat) (h : m.wf = true) :
    memRead (memWrites m a (leBytes n v)) x =
      if a ≤ x ∧ x < a + n then BitVec.ofNat 8 (v / 256 ^ (x - a)) else memRead m x := by
  split
  case isTrue hx =>
    obtain ⟨i, rfl⟩ := Nat.exists_eq_add_of_le hx.1
    have hi : i < n := by omega
    rw [memRead_memWrites_in _ _ _ _ h (by rwa [leBytes_length]), leBytes_getD _ hi, Nat.add_sub_cancel_left]
  case isFalse hx =>
    exact memRead_memWrites_out _ _ _ _ h (by rw [leBytes_length]; omega)

/-! Loads and stores -/

@[simp] theorem State.seen_dmem (s : State) (c : Nat) : (s.seen c).dmem = (s.core c).dmem := by
  rw [State.seen, Core.retire, Core.retireList_eq]

theorem dmemCause_none {a n : Nat} (h : a + n ≤ 32768) (ha : a % n = 0) : dmemCause a n = none := by
  rw [dmemCause, if_neg (by simp [dmemSize, h, ha])]

theorem dmemCause_some {a n : Nat} (h : 32768 < a + n ∨ a % n ≠ 0) :
    dmemCause a n = some { code := 0x03, info := BitVec.ofNat 32 (65536 * (a % 65536)) } := by
  rw [dmemCause, if_pos (by simpa [dmemSize] using h), trapInfo_detail]

/-- The marks that a store within one code word leaves: a word that it meets is written in part (R186). -/
theorem Core.mem_freshen {k : Core} {a n : Nat} (hn : n < 8) (y : EccMark) : y ∈ (k.freshen .dmem a n).ecc ↔
    y ∈ k.ecc ∧ (y.mem ≠ .dmem ∨ y.due = true ∨ a + n ≤ 8 * y.word ∨ 8 * y.word + 8 ≤ a) := by
  rw [Core.freshen, List.mem_filter]
  refine and_congr_right fun _ => ?_
  cases hd : y.due
  · simp
  · simp
    omega

variable {s : State} {c n par post : Nat} {k : Core} {p : BitVec 4} {rd ra : BitVec 5} {imm : BitVec 16}

/-- The end of a lone slot's ell that read uncorrectable words: each is raised once the ell has closed. -/
theorem State.endEll_dues {ds : List (Nat × MemKind × Nat)} (hs : kfind s.ellSaved c = none) :
    ((s.opened c n par).setCore c (k.withEll (some { EllSt.lone n par with dues := ds }))).endEll c post =
      (s.setCore c (k.fallThrough (1 + par) post)).uncorrectables c ds := by
  rw [← State.opened_closed (k.withEll (some { EllSt.lone n par with dues := ds })) _ hs (n := n) (par := par)]
  simp only [State.endEll, State.core_setCore, Core.withEll_ell]
  rfl

end Sys2Proof.Machine

namespace Sys2Proof.Claims

open Sys2Proof.Machine

theorem exec_dataLoad {i : Instr} {c n : Nat} {e : EllEnd} {rd ra : BitVec 5} {imm : BitVec 16}
    (h : dataLoad i = some (c, e, rd, ra, imm, n)) : ∀ s, exec i s = s.loadOp c e rd ra imm n := by
  cases i with
  | lw | lbu =>
    cases h
    exact fun _ => rfl
  | _ => cases h

theorem exec_dataStore {i : Instr} {c n : Nat} {e : EllEnd} {rd ra : BitVec 5} {imm : BitVec 16}
    (h : dataStore i = some (c, e, rd, ra, imm, n)) : n < 8 ∧ ∀ s, exec i s = s.storeOp c e rd ra imm n := by
  cases i with
  | sw | sb =>
    cases h
    exact ⟨by decide, fun _ => rfl⟩
  | _ => cases h

/-- Settles O14: a load without an uncorrectable word writes what it read, and one with such a word raises it. -/
theorem dataLoads : Obligations.DataLoads := by
  unfold Obligations.DataLoads
  intro s i c n p rd ra imm hi hs k a hrange halign
  have hcause : dmemCause (((s.opened c 0 2).core c).dataAddr ra imm) n = none := by
    rw [State.opened_core_eq]
    exact dmemCause_none hrange halign
  rw [exec_dataLoad hi, ← memReads_eq]
  refine ⟨fun hdue => ?_, fun hdue => ?_⟩
  · refine State.slotP_effect hs hcause fun e => ?_
    exact if_neg (Bool.eq_false_iff.1 hdue)
  · refine (State.slotP_ready hs rfl hcause).trans (congrArg _ ?_)
    rw [State.modCore, State.opened_core_eq]
    refine (congrArg (fun k => ((s.opened c 0 2).setCore c k).endEll c p.toNat) (if_pos hdue)).trans ?_
    exact State.endEll_dues hs.2.2.2

/-- Settles O15. -/
theorem dataStores : Obligations.DataStores := by
  unfold Obligations.DataStores
  refine ⟨fun s i c n p rd ra imm hi hs hwf => ?_, fun s i c n p rd ra imm hi hs => ?_⟩
  · intro k a hrange halign
    obtain ⟨hn, hx⟩ := exec_dataStore hi
    have hcause : dmemCause (((s.opened c 0 2).core c).dataAddr ra imm) n = none := by
      rw [State.opened_core_eq]
      exact dmemCause_none hrange halign
    have hwf' : Mem.wf k.dmem = true := by rw [← hwf, ← State.seen_dmem]
    refine ⟨memWrites k.dmem a (leBytes n (k.s rd).toNat), (k.freshen .dmem a n).ecc, ?_, memWrites_wf _ _ _ hwf', fun x => ?_,
      Core.mem_freshen hn⟩
    · rw [hx]
      refine State.slotP_effect hs hcause fun e => ?_
      rfl
    · exact memRead_store a n _ x hwf'
  · intro a hbad
    have hcause : dmemCause (((s.opened c 0 2).core c).dataAddr ra imm) n =
        some { code := 0x03, info := BitVec.ofNat 32 (65536 * (a % 65536)) } := by
      rw [State.opened_core_eq]
      exact dmemCause_some hbad
    obtain hi | hi := hi
    · rw [exec_dataLoad hi]
      exact State.slotP_cause hs hcause
    · rw [(exec_dataStore hi).2]
      exact State.slotP_cause hs hcause

end Sys2Proof.Claims
end

section
/-!
Control registers and tile-parameter entries (05 R146, R155, R156).
-/

namespace Sys2Proof.Machine

variable {s : State} {c n par : Nat} {full : Core → Bool} {p : BitVec 4} {chk : State → Option Cause}
  {f : State → State} {k : Core} {ra rb rd : BitVec 5} {imm : BitVec 16}

/-- A lone slot that leaves the opened state with core `k`. -/
theorem State.slotP_leaves (h : s.ready c par full) (hc : chk (s.opened c n par) = none)
    (hf : f (s.opened c n par) = (s.opened c n par).setCore c (k.withEll (some (EllSt.lone n par)))) :
    s.slotP c n par full (.last p) chk f = .next (s.setCore c (k.fallThrough (1 + par) p.toNat)) := by
  rw [State.slotP_ready h rfl hc, hf, State.endEll_plain h.2.2.2 rfl, Core.fallThrough_withEll]

theorem badCtl_eq_false (h : imm.toNat ≤ 0x0C) : badCtl imm = false := by
  simpa [badCtl] using h

/-- A write of a listed control register is scheduled for issue + 2. -/
theorem State.ctlOp_ready {t : Core → Target} (h : s.ready c 2 noQueue) (hi : imm.toNat ≤ 0x0C)
    (ht : ∀ e, t ((s.seen c).withEll e) = t (s.seen c)) :
    s.ctlOp c (.last p) imm t =
      .next (s.setCore c (((s.seen c).later 2 false (t (s.seen c))).fallThrough 3 p.toNat)) := by
  unfold State.ctlOp
  refine State.slotP_effect h (by rw [badCtl_eq_false hi]; rfl) fun e => ?_
  rw [ht]
  rfl

/-! Read-only registers -/

theorem CtlRegs.write_readOnly (g : CtlRegs) (v : Word) (h4 : 0x04 ≤ n) (h6 : n ≠ 0x06) (h7 : n ≠ 0x07) :
    g.write n v = g := by
  unfold CtlRegs.write
  split
  iterate 6 omega
  rfl

theorem CtlRegs.setBits_readOnly (g : CtlRegs) (v : Word) (h4 : 0x04 ≤ n) (h6 : n ≠ 0x06) (h7 : n ≠ 0x07) :
    g.setBits n v = g := by
  rw [CtlRegs.setBits, if_neg (by omega), CtlRegs.write_readOnly g _ h4 h6 h7]

theorem CtlRegs.clearBits_readOnly (g : CtlRegs) (v : Word) (h4 : 0x04 ≤ n) (h6 : n ≠ 0x06) (h7 : n ≠ 0x07) :
    g.clearBits n v = g := by
  rw [CtlRegs.clearBits, if_neg (by omega), CtlRegs.write_readOnly g _ h4 h6 h7]

theorem CtlRegs.setBits_exitst (g : CtlRegs) (v : Word) : (g.setBits 0x01 v).exitst = g.exitst ||| v.setWidth 8 := by
  show (g.exitst.setWidth 32 ||| v).setWidth 8 = _
  rw [BitVec.setWidth_or, BitVec.setWidth_setWidth_of_le _ (by decide), BitVec.setWidth_eq]

/-! Tile-parameter entries -/

theorem bitOf_four_eq_false (h : rd.toNat < 16) : bitOf rd 4 = false :=
  Nat.testBit_lt_two_pow h

theorem append_words (a b : Word) : b ++ a = BitVec.ofNat 64 (b.toNat * 2 ^ 32 + a.toNat) := by
  apply BitVec.eq_of_toNat_eq
  rw [BitVec.toNat_append, BitVec.toNat_ofNat, Nat.shiftLeft_eq, ← Nat.mul_comm (2 ^ 32),
    ← Nat.two_pow_add_eq_or_of_lt a.isLt, Nat.mod_eq_of_lt]
  omega

end Sys2Proof.Machine

namespace Sys2Proof.Claims

open Sys2Proof.Machine

/-- Settles O20: the value sampled is read off register by register, and each write is scheduled as the ell's only effect. -/
theorem controlRegisters : Obligations.ControlRegisters := by
  unfold Obligations.ControlRegisters
  refine ⟨fun s c p rd ra rb imm hs => ?_, fun g v => ?_⟩
  · intro k v
    refine ⟨fun hi => ⟨?_, ?_, ?_, ?_⟩, fun hrd => ?_⟩
    · have hv : (s.opened c 0 2).ctlRead c imm.toNat = v := by
        have hk : (s.opened c 0 2).core c = k.withEll (some (EllSt.lone 0 2)) := State.opened_core_eq ..
        have hid : (s.opened c 0 2).moduleId = s.moduleId := rfl
        simp only [State.ctlRead, hk, hid, v]
        generalize imm.toNat = m at hi
        interval_cases m <;> rfl
      refine State.slotP_leaves hs (by rw [badCtl_eq_false hi]; rfl) ?_
      rw [hv]
      by_cases h8 : imm = 0x08
      · subst h8
        rw [State.modCore, State.opened_core_eq]
        rfl
      · have h8' : ¬ imm.toNat = 0x08 := fun h => h8 (BitVec.eq_of_toNat_eq h)
        rw [State.modCore, State.opened_core_eq]
        simp only [if_neg h8, if_neg h8']
        rfl
    · exact State.ctlOp_ready hs hi fun _ => rfl
    · exact State.ctlOp_ready hs hi fun _ => rfl
    · exact State.ctlOp_ready hs hi fun _ => rfl
    · refine State.slotP_effect hs (by rw [bitOf_four_eq_false hrd]; rfl) fun e => ?_
      rw [bits_zero_of_lt (n := 4) hrd, ← append_words]
      rfl
  · exact ⟨fun n h4 h6 h7 => ⟨g.write_readOnly v h4 h6 h7, g.setBits_readOnly v h4 h6 h7, g.clearBits_readOnly v h4 h6 h7⟩,
      rfl, rfl, rfl, g.setBits_exitst v, rfl, rfl, rfl, rfl, rfl, rfl⟩

end Sys2Proof.Claims
end

section
/-!
Reserved encodings (05 R144, R146, R152, R158; 06 R172, R179): ILLEGAL of the slot, and the ell does not issue.
-/

namespace Sys2Proof.Machine

/-- ILLEGAL of slot n of a ready core, whose word is the only one of its ell. -/
def State.Illegal (s : State) (c n : Nat) (o : Out) : Prop :=
  o = .next ((s.setCore c ((s.core c).noteFetch (if n = 0 then 3 else 4))).precise c
    { code := 0x01, info := BitVec.ofNat 32 n })

variable {s : State} {c n par : Nat} {full : Core → Bool} {p : BitVec 4}

theorem State.slotP_illegal {chk : State → Option Cause} {f : State → State} (h : s.ready c par full)
    (hc : chk (s.opened c n par) = some (illegal n)) (hn : n < 8 := by decide)
    (hpar : (if n = 0 then 3 else 4) = 1 + par := by rfl) : s.Illegal c n (s.slotP c n par full (.last p) chk f) := by
  have hcode : illegal n = { code := 0x01, info := BitVec.ofNat 32 n } := by
    simp [illegal, trapInfo, Nat.mod_eq_of_lt hn]
  rw [State.Illegal, hpar, ← hcode]
  exact State.slotP_cause h hc

theorem State.scalarOpIf_illegal {bad : Bool} {rd : BitVec 5} {lat : Nat} {v : Core → Word} (h : s.ready c 2 noQueue)
    (hbad : bad = true) : s.Illegal c 0 (s.scalarOpIf c (.last p) bad rd lat v) :=
  State.slotP_illegal h (by rw [hbad]; rfl)

theorem State.ctlOp_illegal {imm : BitVec 16} {t : Core → Target} (h : s.ready c 2 noQueue)
    (hbad : badCtl imm = true) : s.Illegal c 0 (s.ctlOp c (.last p) imm t) :=
  State.slotP_illegal h (by rw [hbad]; rfl)

/-- A ready core is ready for a slot of a queue with room. -/
theorem State.ready_queue (h : s.ready c par noQueue) (hfull : full (s.core c) = false) : s.ready c par full := by
  obtain ⟨hc, he, hopen, hs⟩ := h
  refine ⟨hc, he, ?_, hs⟩
  rw [State.openBlock_eq, hopen, hfull]
  rfl

theorem bitOf_four_eq_true {r : BitVec 5} (h : 16 ≤ r.toNat) : bitOf r 4 = true := by
  rw [bitOf, ← BitVec.testBit_toNat]
  exact Nat.testBit_of_two_pow_le_and_two_pow_add_one_gt h r.isLt

/-! Operand fields of the vector slot -/

theorem fmtDC_isNone : ∀ f : BitVec 4, (fmtDC f).isNone = !Claims.fmtD f := by decide

theorem fmtDU_isNone : ∀ f : BitVec 4, (fmtDU f).isNone = !Claims.fmtU f := by decide

theorem evenReg_eq : ∀ r : BitVec 5, evenReg r = Claims.even r := by decide

theorem isMx_eq : ∀ f : BitVec 4, isMx f.toNat = Claims.mxCode f.toNat := by decide

/-- Parts of a narrow format. -/
theorem narrowPart_bad : ∀ (f : BitVec 4) (part : BitVec 3),
    ((narrow f.toNat).isNone || !partOk ((narrow f.toNat).getD .bf16).width part.toNat) =
      !(Claims.narrowCode f.toNat && Claims.partFits f.toNat part) := by
  decide

/-- Parts of an MX format. -/
theorem mxPart_bad : ∀ (f : BitVec 4) (part : BitVec 3) (x : Bool),
    (!isMx f.toNat || x || !partOk ((fmtOf f.toNat).getD .e4m3).width part.toNat) =
      (!Claims.mxCode f.toNat || x || !Claims.partFits f.toNat part) := by
  decide

/-- Parts of a VACVT, which writes a whole register in its wide formats. -/
theorem vacvtPart_bad : ∀ (f : BitVec 4) (part : BitVec 3),
    (if (fmtDU f).isSome then part.toNat != 0
      else (narrow f.toNat).isNone ||
        !partOk (if (fmtDU f).isSome then (fmtDU f).getD .f32 else (narrow f.toNat).getD .bf16).width part.toNat) =
      !((Claims.fmtU f && part.toNat == 0) ||
        (!Claims.fmtU f && Claims.narrowCode f.toNat && Claims.partFits f.toNat part)) := by
  decide

end Sys2Proof.Machine

namespace Sys2Proof.Claims

open Sys2Proof.Machine

/-- A vector operation whose encoding R179 reserves has ILLEGAL as its cause. -/
theorem exec_vecReserved {i : Instr} {c : Nat} {p : BitVec 4} {s : State} {allowed : Bool}
    (h : vecAllows i = some (c, .last p, allowed)) (hallow : allowed = false) (hs : s.ready c 3 noQueue) : s.Illegal c 1 (exec i s) := by
  have hvec : ∀ {bad : Bool} {lat : Nat} {f : Core → Core}, bad = true → s.Illegal c 1 (s.vecSlot c (.last p) bad lat f) :=
    fun hbad => State.slotP_illegal hs (by rw [hbad]; rfl)
  have hop : ∀ {bad : Bool} {lat : Nat} {vd : BitVec 5} {f : Core → VReg}, bad = true →
      s.Illegal c 1 (s.vecOp c (.last p) bad lat vd f) := hvec
  have hsample : ∀ {bad : Bool} {lat b : Nat} {f : Core → Core}, bad = true →
      s.Illegal c 1 (s.sampleSlot c (.last p) bad lat b f) := fun hbad => State.slotP_illegal hs (by rw [hbad]; rfl)
  cases i with
  | vadd | vsub | vmul | vfma | vdiv | vmin | vmax | vsel | vrecip | vsqrt | vrsqrt | vexp2 | vlog2 | vtanh | vsigm | verf
  | vrmax | vrmin | vramax =>
    cases h
    exact hop (by rw [fmtDC_isNone, hallow]; rfl)
  | vacc | vrsum =>
    cases h
    exact hvec (by rw [fmtDC_isNone, hallow]; rfl)
  | vcmp =>
    cases h
    refine hop (Eq.trans ?_ (congrArg not hallow))
    rw [fmtDC_isNone, Bool.not_and, bne, Bool.not_not]
  | vsinp | vcosp =>
    cases h
    refine hop (Eq.trans ?_ (congrArg not hallow))
    rw [fmtDU_isNone, evenReg_eq, Bool.not_and]
  | vphase =>
    cases h
    refine hvec (Eq.trans ?_ (congrArg not hallow))
    rw [evenReg_eq, evenReg_eq, Bool.not_and]
  | vrot =>
    cases h
    refine hvec (Eq.trans ?_ (congrArg not hallow))
    rw [fmtDU_isNone, evenReg_eq, evenReg_eq, Bool.not_and, Bool.not_and]
  | vcvt =>
    cases h
    exact hvec ((narrowPart_bad ..).trans (congrArg not hallow))
  | vmxq =>
    cases h
    refine hvec (Eq.trans ?_ (congrArg not hallow))
    rw [mxPart_bad, evenReg_eq, Bool.not_and, Bool.not_and]
  | vacvt =>
    cases h
    exact hsample ((vacvtPart_bad ..).trans (congrArg not hallow))
  | _ => cases h

/-- The same as the table of reserved encodings reads it off `vecAllows`. -/
theorem exec_vecTable {i : Instr} {c n : Nat} {p : BitVec 4} {s : State}
    (h : (match vecAllows i with
      | some (c, e, allowed) => if allowed then none else some (c, 1, e)
      | none => none) = some (c, n, EllEnd.last p)) (hs : s.ready c (if n = 0 then 2 else 3) noQueue) :
    s.Illegal c n (exec i s) := by
  split at h
  case h_1 hallow =>
    obtain ⟨hbad, h⟩ := Option.ite_none_left_eq_some.1 h
    cases h
    exact exec_vecReserved hallow (Bool.eq_false_iff.2 hbad) hs
  case h_2 => cases h

/-- Settles O9: each reserved encoding is one for which its slot's check answers ILLEGAL. -/
theorem reservedEncodingsTrap : Obligations.ReservedEncodingsTrap := by
  unfold Obligations.ReservedEncodingsTrap
  intro s i c n p hi hs hroom
  show s.Illegal c n (exec i s)
  cases i with
  | shli _ _ _ _ imm | shri _ _ _ _ imm | srai _ _ _ _ imm =>
    obtain ⟨himm, hi⟩ := Option.ite_none_right_eq_some.1 hi
    cases hi
    exact State.scalarOpIf_illegal hs (by simpa using (bits_high_eq_zero imm rfl).not.2 (Nat.not_lt.2 himm))
  | lidx _ _ _ imm =>
    obtain ⟨himm, hi⟩ := Option.ite_none_right_eq_some.1 hi
    cases hi
    exact State.scalarOpIf_illegal hs (by simpa using (bits_high_eq_zero imm rfl).not.2 (Nat.not_lt.2 himm))
  | loop _ _ lv ra imm =>
    obtain ⟨hlv, hi⟩ := Option.ite_none_right_eq_some.1 hi
    cases hi
    refine State.slotP_illegal hs (if_pos ?_)
    simpa using (bits_high_eq_zero (n := 2) lv rfl).not.2 (Nat.not_lt.2 hlv)
  | crr _ _ _ imm =>
    obtain ⟨himm, hi⟩ := Option.ite_none_right_eq_some.1 hi
    cases hi
    exact State.slotP_illegal hs (if_pos (decide_eq_true himm))
  | crw _ _ _ imm | crs _ _ _ imm | crc _ _ _ imm =>
    obtain ⟨himm, hi⟩ := Option.ite_none_right_eq_some.1 hi
    cases hi
    exact State.ctlOp_illegal hs (decide_eq_true himm)
  | tpw _ _ rd =>
    obtain ⟨hrd, hi⟩ := Option.ite_none_right_eq_some.1 hi
    cases hi
    exact State.slotP_illegal hs (if_pos (bitOf_four_eq_true hrd))
  | sload _ _ _ _ m =>
    obtain ⟨hm, hi⟩ := Option.ite_none_right_eq_some.1 hi
    cases hi
    refine State.slotP_illegal (State.ready_queue hs ?_) (if_pos ?_)
    · simpa [matFull] using hroom rfl
    · rw [bitOf, ← BitVec.testBit_toNat, Nat.testBit_zero, hm]
      rfl
  | dwr _ _ _ _ w =>
    obtain ⟨hw, hi⟩ := Option.ite_none_right_eq_some.1 hi
    cases hi
    exact State.slotP_illegal hs (if_pos hw)
  | _ =>
    exact exec_vecTable hi hs

end Sys2Proof.Claims
end

section
/-!
The vector slot (06 R177, R179; 05 R155): operations that write every element of one register.
-/

namespace Sys2Proof.Machine

/-! Elements -/

theorem bits_lt {w : Nat} (v : BitVec w) (lo n : Nat) : bits v lo n < 2 ^ n := Nat.mod_lt _ (Nat.two_pow_pos n)

theorem VReg.el_lt (v : VReg) (w j : Nat) : VReg.el v w j < 2 ^ w := bits_lt _ _ _

theorem VReg.el_mod (v : VReg) (w j : Nat) : VReg.el v w j % 2 ^ w = VReg.el v w j := Nat.mod_eq_of_lt (VReg.el_lt v w j)

theorem VReg.el_testBit (v : VReg) (w j i : Nat) :
    (VReg.el v w j).testBit i = (decide (i < w) && v.toNat.testBit (w * j + i)) := by
  rw [VReg.el, bits, Nat.testBit_mod_two_pow, Nat.testBit_div_two_pow, Nat.add_comm i]

theorem VReg.el_and (a b : VReg) (w j : Nat) : VReg.el (a &&& b) w j = (VReg.el a w j &&& VReg.el b w j) % 2 ^ w := by
  apply Nat.eq_of_testBit_eq
  intro i
  simp only [VReg.el_testBit, Nat.testBit_mod_two_pow, Nat.testBit_and, BitVec.toNat_and]
  cases decide (i < w) <;> simp

theorem VReg.el_or (a b : VReg) (w j : Nat) : VReg.el (a ||| b) w j = (VReg.el a w j ||| VReg.el b w j) % 2 ^ w := by
  apply Nat.eq_of_testBit_eq
  intro i
  simp only [VReg.el_testBit, Nat.testBit_mod_two_pow, Nat.testBit_or, BitVec.toNat_or]
  cases decide (i < w) <;> simp

theorem VReg.el_xor (a b : VReg) (w j : Nat) : VReg.el (a ^^^ b) w j = (VReg.el a w j ^^^ VReg.el b w j) % 2 ^ w := by
  apply Nat.eq_of_testBit_eq
  intro i
  simp only [VReg.el_testBit, Nat.testBit_mod_two_pow, Nat.testBit_xor, BitVec.toNat_xor]
  cases decide (i < w) <;> simp

/-- Element j of a register made of all its elements. -/
theorem VReg.el_vOf_all {w j : Nat} {xs : List Nat} {x : Nat} (hj : j < 2048 / w) (hx : xs.getD j 0 = x) :
    VReg.el (vOf w xs) w j = x % 2 ^ w := by
  have hw : w * (j + 1) ≤ 2048 := (Nat.mul_le_mul_left w hj).trans (Nat.mul_div_le 2048 w)
  rw [VReg.el_vOf _ (by rw [← Nat.mul_succ]; exact hw), hx]

theorem getD_map_range {n j : Nat} (g : Nat → Nat) (hj : j < n) : ((List.range n).map g).getD j 0 = g j := by
  simp [List.getD, hj]

theorem getD_replicate {n j : Nat} (x : Nat) (hj : j < n) : (List.replicate n x).getD j 0 = x := by
  simp [List.getD, hj]

theorem VReg.els_length (v : VReg) (w : Nat) : (VReg.els v w).length = 2048 / w := by
  rw [VReg.els, List.length_map, List.length_range]

/-- Element j of the list of elements. -/
theorem VReg.els_getD {w j : Nat} (v : VReg) (hj : j < 2048 / w) : (VReg.els v w).getD j 0 = VReg.el v w j :=
  getD_map_range _ hj

/-- A register holds at least one element of an operation format. -/
theorem fmtDC_elements {f : BitVec 4} {m : Fmt} (hm : fmtDC f = some m) : 0 < 2048 / m.width := by
  unfold fmtDC at hm
  split at hm
  · cases hm
    decide
  · cases hm
    decide
  · cases hm

/-! Operations -/

variable {s : State} {c lat w : Nat} {p : BitVec 4} {bad : Bool} {f : BitVec 4} {vd va vb vc : BitVec 5}

theorem evenReg_true {r : BitVec 5} (h : r.toNat % 2 = 0) : evenReg r = true := by
  rw [evenReg_eq, Claims.even, h]
  rfl

/-- What a lone vector operation answers that writes elements `y` of width w to register vd. -/
def State.WritesEls (s : State) (c : Nat) (o : Out) (p : BitVec 4) (vd : BitVec 5) (lat w : Nat) (y : Nat → Nat) : Prop :=
  ∃ v : VReg, (∀ j, j < 2048 / w → VReg.el v w j = y j % 2 ^ w) ∧
    o = .next (s.setCore c ((((s.seen c).later lat false (.vreg vd vAll v)).vBusy lat).fallThrough 4 p.toNat))

theorem State.vecOp_writes {v : Core → VReg} {y : Nat → Nat} (h : s.ready c 3 noQueue) (hbad : bad = false)
    (hv : ∀ e, v ((s.seen c).withEll e) = v (s.seen c))
    (hy : ∀ j, j < 2048 / w → VReg.el (v (s.seen c)) w j = y j % 2 ^ w) :
    s.WritesEls c (s.vecOp c (.last p) bad lat vd v) p vd lat w y := by
  refine ⟨v (s.seen c), hy, ?_⟩
  unfold State.vecOp State.vecSlot
  refine State.slotP_effect h (by rw [hbad]; rfl) fun e => ?_
  dsimp only
  rw [hv]
  rfl

/-- The same of a register made of its elements. -/
theorem State.vecOp_els {v : Core → VReg} {y : Nat → Nat} {xs : List Nat} (h : s.ready c 3 noQueue) (hbad : bad = false)
    (hv : ∀ e, v ((s.seen c).withEll e) = v (s.seen c)) (hxs : v (s.seen c) = vOf w xs)
    (hy : ∀ j, j < 2048 / w → xs.getD j 0 = y j) :
    s.WritesEls c (s.vecOp c (.last p) bad lat vd v) p vd lat w y :=
  State.vecOp_writes h hbad hv fun j hj => by rw [hxs, VReg.el_vOf_all hj (hy j hj)]

variable {m : Fmt} (hm : fmtDC f = some m)
include hm

theorem State.vecEl_els {lat : Fmt → Nat} {g : Fmt → Nat → Nat → Nat → Nat} (h : s.ready c 3 noQueue) :
    s.WritesEls c (s.vecEl c (.last p) f lat vd va vb vc g) p vd (lat m) m.width (fun j =>
      g m (VReg.el ((s.seen c).v va) m.width j) (VReg.el ((s.seen c).v vb) m.width j)
        (VReg.el ((s.seen c).v vc) m.width j)) := by
  unfold State.vecEl
  rw [hm]
  exact State.vecOp_els h rfl (fun e => rfl) rfl fun j hj => getD_map_range _ hj

theorem State.vecFn_els {g : Fmt → Nat → Nat} (h : s.ready c 3 noQueue) :
    s.WritesEls c (s.vecFn c (.last p) f lat vd va g) p vd lat m.width (fun j =>
      g m (VReg.el ((s.seen c).v va) m.width j)) :=
  State.vecEl_els hm h

theorem State.vecReduce_els {g : Fmt → Nat → Nat → Nat} (h : s.ready c 3 noQueue) :
    s.WritesEls c (s.vecReduce c (.last p) f vd va g) p vd 6 m.width (fun _ =>
      (VReg.els ((s.seen c).v va) m.width).foldl (g m)
        (g m (VReg.el ((s.seen c).v va) m.width 0) (VReg.el ((s.seen c).v va) m.width 0))) := by
  unfold State.vecReduce
  rw [hm]
  dsimp only
  have h0 : (VReg.els ((s.seen c).v va) m.width).getD 0 0 = VReg.el ((s.seen c).v va) m.width 0 :=
    VReg.els_getD _ (fmtDC_elements hm)
  rw [← h0]
  exact State.vecOp_els h rfl (fun e => rfl) rfl fun j hj => getD_replicate _ hj

omit hm in
theorem State.vecPhase_els {g : Fmt → Nat → Nat} (hm : fmtDU f = some m) (hva : va.toNat % 2 = 0) (h : s.ready c 3 noQueue) :
    s.WritesEls c (s.vecPhaseFn c (.last p) f vd va g) p vd 16 32 (fun j =>
      g m (VReg.el ((s.seen c).v va) 32 j + 2 ^ 32 * VReg.el ((s.seen c).v (va + 1)) 32 j)) := by
  unfold State.vecPhaseFn
  rw [hm]
  dsimp only
  refine State.vecOp_els h ?_ (fun e => rfl) rfl fun j hj => ?_
  · rw [evenReg_true hva]
    rfl
  · rw [Core.pairEls, List.map_map, getD_map_range _ (by omega)]
    rfl

end Sys2Proof.Machine

namespace Sys2Proof.Claims

open Sys2Proof.Machine

/-- Settles O22: each operation is a `vecOp` of a register made of the elements of the table, or a bitwise one. -/
theorem vectorResults : Obligations.VectorResults := by
  unfold Obligations.VectorResults
  intro s i c p vd lat w g hi hs
  show s.WritesEls c (exec i s) p vd lat w (g (s.seen c))
  cases i with
  | vadd | vsub | vmul | vfma | vdiv | vmin | vmax | vsel =>
    obtain ⟨m, hm, hi⟩ := Option.map_eq_some_iff.1 hi
    cases hi
    simp only [exec]
    exact State.vecEl_els hm hs
  | vrecip | vsqrt | vrsqrt | vexp2 | vlog2 | vtanh | vsigm | verf =>
    obtain ⟨m, hm, hi⟩ := Option.map_eq_some_iff.1 hi
    cases hi
    simp only [exec]
    exact State.vecFn_els hm hs
  | vcmp =>
    obtain ⟨hcond, hi⟩ := Option.ite_none_left_eq_some.1 hi
    obtain ⟨m, hm, hi⟩ := Option.map_eq_some_iff.1 hi
    cases hi
    simp only [exec, execVcmp, hm]
    exact State.vecOp_els hs (by simpa using hcond) (fun e => rfl) rfl fun j hj => getD_map_range _ hj
  | vand =>
    cases hi
    simp only [exec]
    exact State.vecOp_writes hs rfl (fun e => rfl) fun j _ => VReg.el_and ..
  | vor =>
    cases hi
    simp only [exec]
    exact State.vecOp_writes hs rfl (fun e => rfl) fun j _ => VReg.el_or ..
  | vxor =>
    cases hi
    simp only [exec]
    exact State.vecOp_writes hs rfl (fun e => rfl) fun j _ => VReg.el_xor ..
  | vmov =>
    cases hi
    simp only [exec]
    exact State.vecOp_writes hs rfl (fun e => rfl) fun j _ => (VReg.el_mod ..).symm
  | vsplat =>
    cases hi
    simp only [exec]
    exact State.vecOp_els hs rfl (fun e => rfl) rfl fun j hj => getD_replicate _ (by omega)
  | viota | viadd | vunpk =>
    cases hi
    simp only [exec]
    exact State.vecOp_els hs rfl (fun e => rfl) rfl fun j hj => getD_map_range _ (by omega)
  | vrmax | vrmin =>
    obtain ⟨m, hm, hi⟩ := Option.map_eq_some_iff.1 hi
    cases hi
    simp only [exec]
    exact State.vecReduce_els hm hs
  | vramax _ _ _ _ va =>
    obtain ⟨m, hm, hi⟩ := Option.map_eq_some_iff.1 hi
    cases hi
    simp only [exec, execVramax, hm]
    have h0 : (VReg.els ((s.seen c).v va) m.width).getD 0 0 = VReg.el ((s.seen c).v va) m.width 0 :=
      VReg.els_getD _ (fmtDC_elements hm)
    rw [← h0]
    exact State.vecOp_els hs rfl (fun e => rfl) rfl fun j hj => getD_replicate _ (by omega)
  | vsinp | vcosp =>
    obtain ⟨hva, hi⟩ := Option.ite_none_left_eq_some.1 hi
    obtain ⟨m, hm, hi⟩ := Option.map_eq_some_iff.1 hi
    cases hi
    simp only [exec]
    exact State.vecPhase_els hm (by omega) hs
  | vcvt c' e vd' va other sat part dir =>
    cases dir with
    | false => cases hi
    | true =>
      obtain ⟨hpart, hi⟩ := Option.ite_none_right_eq_some.1 hi
      obtain ⟨m, hm, hi⟩ := Option.map_eq_some_iff.1 hi
      cases hi
      simp only [exec]
      unfold execVcvt
      rw [hm] at hpart ⊢
      refine State.vecOp_els (v := fun k => vOf 32 ((List.range 64).map (fun j =>
        roundVal .f32 false (decodeEl m (VReg.el (k.v va) m.width (64 * part.toNat + j)))))) hs ?_ (fun e => rfl) rfl
        fun j hj => getD_map_range _ (by omega)
      exact congrArg not hpart
  | vpack =>
    cases hi
    simp only [exec]
    refine State.vecOp_els hs rfl (fun e => rfl) rfl fun j hj => ?_
    by_cases h64 : j < 64
    · rw [List.getD_append _ _ _ _ (by rwa [VReg.els_length]), VReg.els_getD _ (by omega), if_pos h64]
    · rw [List.getD_append_right _ _ _ _ (by rw [VReg.els_length]; omega), VReg.els_length, if_neg h64,
        VReg.els_getD _ (by omega)]
  | _ => cases hi

end Sys2Proof.Claims
end

section
/-!
The vector slot (06 R177, R179): operations that write a pair of registers or a part of one.
-/

namespace Sys2Proof.Machine

variable {s : State} {c lat : Nat} {p : BitVec 4} {bad : Bool}

/-- A lone vector operation that changes its core alone. -/
theorem State.vecSlot_ready {f : Core → Core} {k : Core} (h : s.ready c 3 noQueue) (hbad : bad = false)
    (hf : ∀ e, f ((s.seen c).withEll e) = k.withEll e) :
    s.vecSlot c (.last p) bad lat f = .next (s.setCore c ((k.vBusy lat).fallThrough 4 p.toNat)) := by
  unfold State.vecSlot
  refine State.slotP_effect h (by rw [hbad]; rfl) fun e => ?_
  rw [hf]
  rfl

/-- 64-bit values, low and high halves in two registers of lanes. -/
theorem VReg.el_halves {j : Nat} (g : Nat → Nat) (hj : j < 64) (hg : g j < 2 ^ 64) :
    VReg.el (vOf 32 ((List.range 64).map g)) 32 j +
      2 ^ 32 * VReg.el (vOf 32 (((List.range 64).map g).map (fun x => x / 2 ^ 32))) 32 j = g j := by
  rw [List.map_map, VReg.el_vOf_all (by omega) (getD_map_range _ hj), VReg.el_vOf_all (by omega) (getD_map_range _ hj)]
  simp only [Function.comp]
  omega

theorem Core.pairEls_getD {k : Core} {r : BitVec 5} {j : Nat} (hj : j < 64) :
    (k.pairEls r).getD j 0 = VReg.el (k.v r) 32 j + 2 ^ 32 * VReg.el (k.v (r + 1)) 32 j :=
  getD_map_range _ hj

/-- The bits of the two scale bytes of part q. -/
theorem scaleMask_getLsbD {q i : Nat} (h : i < 2048) :
    (BitVec.ofNat 2048 (0xFFFF * 2 ^ (16 * q))).getLsbD i = decide (16 * q ≤ i ∧ i < 16 * (q + 1)) := by
  have hmask : (0xFFFF : Nat) = 2 ^ 16 - 1 := rfl
  rw [BitVec.getLsbD_ofNat, hmask, Nat.testBit_mul_two_pow, Nat.testBit_two_pow_sub_one]
  by_cases hlo : 16 * q ≤ i
  · simp only [h, hlo, decide_true, true_and, Bool.true_and]
    exact decide_eq_decide.2 (by omega)
  · simp [hlo]

/-- Element j of part q lies within a register that holds the part. -/
theorem part_fits {w q j : Nat} (h : 64 * w * (q + 1) ≤ 2048) (hj : j < 64) : w * (64 * q + j) + w ≤ 2048 := by
  have hle : w * (64 * q + j + 1) ≤ w * (64 * (q + 1)) := Nat.mul_le_mul_left w (by omega)
  calc w * (64 * q + j) + w = w * (64 * q + j + 1) := by ring
    _ ≤ w * (64 * (q + 1)) := hle
    _ = 64 * w * (q + 1) := by ring
    _ ≤ 2048 := h

/-- The contributions of the elements of a register, by position. -/
theorem VReg.els_range {α : Type} (v : VReg) (w : Nat) (g : Nat → Nat → α) :
    (List.range (VReg.els v w).length).map (fun i => g i ((VReg.els v w).getD i 0)) =
      (List.range (2048 / w)).map (fun i => g i (VReg.el v w i)) := by
  rw [VReg.els_length]
  exact List.map_congr_left fun i hi => by rw [VReg.els_getD _ (List.mem_range.1 hi)]

/-- A VACSUM in a lone slot: the sample notes the violations that it met in the ell. -/
theorem Core.vacsum_lone (k : Core) (n par b : Nat) :
    (let z := ({ k with ell := some (EllSt.lone n par) } : Core).bankSample b;
      z.bankAt b (z.scyc + 9) (.vacsumWrite (laneSum (z.bankLanes b)))) =
      { (k.sampled b).bankAt b (k.scyc + 9) (.vacsumWrite (laneSum ((k.sampled b).bankLanes b))) with
        ell := some { EllSt.lone n par with viols := (k.bankGo k.scyc k.bankQ).2 } } := by
  rw [Core.bankSample_lone, ← Core.sampled_scyc k b]
  rfl

end Sys2Proof.Machine

namespace Sys2Proof.Claims

open Sys2Proof.Machine

/-- Settles O23: the elements of what each operation writes are read off the registers and parts that it makes. -/
theorem vectorParts : Obligations.VectorParts := by
  unfold Obligations.VectorParts
  intro s c p f vd va vb vc sp sj other sat part hs k pair
  refine ⟨fun hvd hva => ?_, fun m hm hvd hvc => ?_, fun m hm hpart => ?_, fun m hmx hm hvd hpart => ?_⟩
  · refine ⟨_, _, fun j hj => (VReg.el_halves (fun j => ((k.s sp).toNat + j * (k.s sj).toNat) % 2 ^ 22 *
      (k.pairEls va).getD j 0 % 2 ^ 64) hj (Nat.mod_lt _ (by decide))).trans ?_, ?_⟩
    · rw [Core.pairEls_getD hj]
    · refine State.vecSlot_ready hs (by rw [evenReg_true hvd, evenReg_true hva]; rfl) fun e => ?_
      rfl
  · let r := (List.range 64).map (fun j =>
      rotate m (VReg.el (k.v va) 32 j % 2 ^ m.width) (VReg.el (k.v vb) 32 j % 2 ^ m.width) ((k.pairEls vc).getD j 0))
    refine ⟨vOf 32 (r.map (fun x => x.1)), vOf 32 (r.map (fun x => x.2)), fun j hj => ⟨?_, ?_⟩, ?_⟩
    · rw [List.map_map, VReg.el_vOf_all (by omega) (getD_map_range _ hj)]
      simp only [Function.comp, Core.pairEls_getD hj]
      rfl
    · rw [List.map_map, VReg.el_vOf_all (by omega) (getD_map_range _ hj)]
      simp only [Function.comp, Core.pairEls_getD hj]
      rfl
    · simp only [exec, execVrot, hm]
      refine State.vecSlot_ready hs (by rw [evenReg_true hvd, evenReg_true hvc]; rfl) fun e => ?_
      rfl
  · let xs := (List.range 64).map (fun j => roundVal m sat (decodeEl .f32 (VReg.el (k.v va) 32 j)))
    refine ⟨partMask m.width part.toNat, partOf m.width part.toNat xs, fun i hi => partMask_getLsbD hi, fun j hj => ?_, ?_⟩
    · rw [VReg.el_partOf xs (part_fits hpart hj), getD_map_range _ hj]
    · simp only [exec, execVcvt, hm]
      refine State.vecSlot_ready hs (congrArg not (decide_eq_true hpart)) fun e => ?_
      rfl
  · intro xs a b
    have hels : ∀ e, (VReg.els (((s.seen c).withEll e).v va) 32).map (decodeEl .f32) = xs := fun _ => List.map_map
    refine ⟨partMask m.width part.toNat, partOf m.width part.toNat (a.2 ++ b.2), BitVec.ofNat 2048 (0xFFFF * 2 ^ (16 * part.toNat)),
      BitVec.ofNat 2048 ((a.1 + 256 * b.1) * 2 ^ (16 * part.toNat)), fun i hi => partMask_getLsbD hi,
      fun j hj => VReg.el_partOf _ (part_fits hpart hj), fun i hi => scaleMask_getLsbD hi, ?_, ?_⟩
    · have hp := part.isLt
      rw [bits_ofNat _ (by omega), Nat.mul_div_cancel _ (Nat.two_pow_pos _)]
    · simp only [exec, execVmxq, hm]
      refine State.vecSlot_ready hs ?_ fun e => ?_
      · rw [hmx, evenReg_true hvd]
        exact congrArg not (decide_eq_true hpart)
      · simp only [hels]
        rfl

/-- Settles O24: VACSUM is a sample of its bank, VRQ on an empty queue notes a violation in its ell, and each of the others has
its effect on the core alone. -/
theorem bankOperations : Obligations.BankOperations := by
  unfold Obligations.BankOperations
  intro s c p f va vd bank lane wbase hs k b
  refine ⟨?_, fun m hm => ⟨?_, ?_⟩, ⟨fun hl => ?_, fun g hl => ?_⟩, fun hq => ?_, fun x xs hq => ?_⟩
  · refine State.vecSlot_ready hs rfl fun e => ?_
    rfl
  · rw [← VReg.els_range (k.v va) m.width (fun i x => (i % 64, valContrib (decodeEl m x)))]
    simp only [exec, execVacc, hm]
    refine State.vecSlot_ready hs rfl fun e => ?_
    rfl
  · have hels : (List.range (2048 / m.width)).map (fun i => (lane.toNat, valContrib (decodeEl m (VReg.el (k.v va) m.width i)))) =
        (VReg.els (k.v va) m.width).map (fun x => (lane.toNat, valContrib (decodeEl m x))) := by
      rw [VReg.els, List.map_map]
      rfl
    rw [hels]
    simp only [exec, execVrsum, hm]
    refine State.vecSlot_ready hs rfl fun e => ?_
    rfl
  · simp only [exec, execVacsum]
    exact State.sampleSlot_issued hs rfl hl (Core.vacsum_lone _ _ _ _)
  · simp only [exec, execVacsum]
    exact State.sampleSlot_late hs rfl hl
  · have hviols : ((s.opened c 1 3).setCore c { (k.later 4 false (.vreg vd vAll 0)).vBusy 4 with
        ell := some { EllSt.lone 1 3 with viols := 1 } }).endEll c p.toNat = _ := State.endEll_viols hs.2.2.2
    simp only [exec, execVrq, State.vecSlot]
    rw [State.slotP_ready hs rfl rfl, State.modCore, State.opened_core_eq]
    simp only [show ((s.seen c).withEll (some (EllSt.lone 1 3))).arr.resultQ = [] from hq]
    exact congrArg _ hviols
  · simp only [exec, execVrq]
    refine State.vecSlot_ready hs rfl fun e => ?_
    simp only [show ((s.seen c).withEll e).arr.resultQ = x :: xs from hq]
    rfl

end Sys2Proof.Claims
end

section
/-!
The matrix slot (05 R149, R151 to R153; 06 R168): operations that enter the command queue, and TP_INVALID.
-/

namespace Sys2Proof.Machine

variable {k : Core} {tp : BitVec 4} {outv : Bool} {cs : Nat}

theorem Core.tpCause_none (h : Claims.entryServes k (tp, outv, cs)) : k.tpCause tp outv cs = none := by
  obtain ⟨q, hq, hraw, hcs⟩ := h
  rw [Core.tpCause, hq]
  exact if_neg (by simpa [Nat.not_lt.2 hcs] using hraw)

theorem Core.tpCause_some (h : ¬ Claims.entryServes k (tp, outv, cs)) :
    k.tpCause tp outv cs = some { code := 0x05, info := BitVec.ofNat 32 (2 + 65536 * tp.toNat) } := by
  have hinfo : trapInfo 2 0 tp.toNat = BitVec.ofNat 32 (2 + 65536 * tp.toNat) := by
    have htp := tp.isLt
    rw [trapInfo, Nat.mod_eq_of_lt (show tp.toNat < 65536 by omega)]
  unfold Core.tpCause
  rw [hinfo]
  split
  case h_1 q hq =>
    refine if_pos ?_
    by_contra hno
    refine h ⟨q, hq, ?_⟩
    simpa [not_or] using hno
  case h_2 => rfl

end Sys2Proof.Machine

namespace Sys2Proof

open Sys2Proof.Machine Sys2Proof.Claims

/-- Settles O30: the check of each operation is that its entry serves it, and its effect is the entry in the queue. -/
theorem matrixIssue : Obligations.MatrixIssue := by
  unfold Obligations.MatrixIssue
  intro s i c p x f hi hs
  have hcause : ∀ tp outv cs, ((s.opened c 2 3).core c).tpCause tp outv cs = (s.seen c).tpCause tp outv cs := fun _ _ _ => by
    rw [State.opened_core_eq]
    rfl
  cases i with
  | tile _ _ tp sh th oh n start final outv =>
    cases hi
    refine ⟨fun hserves => ?_, fun y hy hnot => ?_⟩
    · have hnone := (hcause tp outv 0).trans (Core.tpCause_none (hserves _ rfl))
      by_cases hn : ((s.seen c).s n).toNat = 0
      · rw [if_pos ⟨rfl, hn⟩]
        refine State.slotP_effect hs hnone fun e => ?_
        exact if_pos hn
      · rw [if_neg fun h => hn h.2]
        refine State.slotP_effect hs hnone fun e => ?_
        exact if_neg hn
    · cases hy
      exact State.slotP_cause hs ((hcause ..).trans (Core.tpCause_some hnot))
  | mstream =>
    cases hi
    refine ⟨fun hserves => ?_, fun y hy hnot => ?_⟩
    · refine State.slotP_effect hs ((hcause ..).trans (Core.tpCause_none (hserves _ rfl))) fun e => ?_
      rfl
    · cases hy
      exact State.slotP_cause hs ((hcause ..).trans (Core.tpCause_some hnot))
  | sload _ _ _ _ m =>
    obtain ⟨hm, hi⟩ := Option.ite_none_left_eq_some.1 hi
    cases hi
    have hcause' : ∀ tp cs, (if bitOf m 0 then some (illegal 2) else ((s.opened c 2 3).core c).tpCause tp false cs) =
        (s.seen c).tpCause tp false cs := fun _ _ => by
      rw [hcause, if_neg]
      rw [bitOf, ← BitVec.testBit_toNat, Nat.testBit_zero]
      simpa using hm
    refine ⟨fun hserves => ?_, fun y hy hnot => ?_⟩
    · refine State.slotP_effect hs ((hcause' ..).trans (Core.tpCause_none (hserves _ rfl))) fun e => ?_
      rfl
    · cases hy
      exact State.slotP_cause hs ((hcause' ..).trans (Core.tpCause_some hnot))
  | swap =>
    cases hi
    refine ⟨fun _ => ?_, fun y hy => absurd hy (by simp)⟩
    refine State.slotP_effect (chk := fun _ => none) hs rfl fun e => ?_
    rfl
  | _ => cases hi

end Sys2Proof
end

section
/-!
DIGEST, FENCE and EVENT (05 R154; 02 R59; 13 R364), and the events that follow them: the release of a fence, the handover of a
digest and the taking of a pending cause (05 R159, R160; 08 R222).
-/

namespace Sys2Proof.Machine

/-! Entries for the host are no matter of the cores -/

/-- A state with other cores and other saved cores. -/
def State.withCores (s : State) (cs es : KMap Core) : State := { s with cores := cs, ellSaved := es }

section
variable (s : State) (cs es : KMap Core) (f : Nat)

theorem State.eventEntry_withCores (bs : List Byte) :
    (s.withCores cs es).eventEntry f bs = (s.eventEntry f bs).withCores cs es := by
  have hx : (s.withCores cs es).ctx f = s.ctx f := rfl
  simp only [State.eventEntry, hx]
  split <;> rfl

theorem State.modCtx_withCores (g : Ctx → Ctx) : (s.withCores cs es).modCtx f g = (s.modCtx f g).withCores cs es := rfl

theorem State.postEvent_withCores (type status core job detail : Nat) :
    (s.withCores cs es).postEvent f type status core job detail =
      (s.postEvent f type status core job detail).withCores cs es := by
  have hx : (s.withCores cs es).ctx f = s.ctx f := rfl
  have hid : ∀ u : State, (u.withCores cs es).moduleId = u.moduleId := fun _ => rfl
  have hcount : ∀ u : State, (u.withCores cs es).chn = u.chn := fun _ => rfl
  simp only [State.postEvent, hx]
  split
  · exact State.eventEntry_withCores ..
  · rw [State.eventEntry_withCores, State.modCtx_withCores, State.eventEntry_withCores, hid, hid, hcount, hcount]

end

variable {s : State} {c n par : Nat} {full : Core → Bool} {p : BitVec 4} {chk : State → Option Cause} {f : State → State}
  {k : Core}

/-- A lone slot that leaves its core as `k` and the rest of the state, which is no matter of the cores, as in `t`. -/
theorem State.slotP_andRest {t : State} (h : s.ready c par full) (hc : chk (s.opened c n par) = none)
    (hcores : t.cores = s.cores) (hsaved : t.ellSaved = s.ellSaved)
    (hf : f (s.opened c n par) =
      t.withCores (kset s.cores c (k.withEll (some (EllSt.lone n par)))) (kset s.ellSaved c (s.core c))) :
    s.slotP c n par full (.last p) chk f = .next (t.setCore c (k.fallThrough (1 + par) p.toNat)) := by
  have hk : (f (s.opened c n par)).core c = k.withEll (some (EllSt.lone n par)) := by
    rw [hf]
    exact kget_kset_self ..
  rw [State.slotP_ready h rfl hc, State.endEll_issued hk rfl rfl rfl rfl rfl rfl rfl, hf]
  simp only [State.setCore, State.withCores, kset_kset, kdel_kset _ _ _ h.2.2.2, hcores]
  rw [← hsaved]
  rfl

theorem State.SameButHost.ellSaved {t : State} (h : s.SameButHost t) : t.ellSaved = s.ellSaved := by
  rw [show t = _ from h]

theorem State.runOf_withCores {cs es : KMap Core} (h : (kget Core.reset cs c).run = (s.core c).run) :
    (s.withCores cs es).runOf c = s.runOf c := by
  have hc : (s.withCores cs es).core c = kget Core.reset cs c := rfl
  have hrun : (s.withCores cs es).run? = s.run? := rfl
  rw [State.runOf, State.runOf, hc, h, hrun]

/-- An EVENT in the opened state of its ell (13 R364). -/
theorem State.postOpened {code r : Nat} {x : Run} (hrun : s.runOf c = some (r, x)) :
    (let u := (s.opened c n par).modCore c (fun k => k.syncDoneAt k.scyc);
      match u.runOf c with
      | some (_, x) => u.postEvent x.ctx 0x01 0 c x.job.toNat code
      | none => u) =
      (s.postEvent x.ctx 0x01 0 c x.job.toNat code).withCores
        (kset s.cores c (((s.seen c).syncDoneAt (s.seen c).scyc).withEll (some (EllSt.lone n par))))
        (kset s.ellSaved c (s.core c)) := by
  have hu : (s.opened c n par).modCore c (fun k => k.syncDoneAt k.scyc) =
      s.withCores (kset s.cores c (((s.seen c).syncDoneAt (s.seen c).scyc).withEll (some (EllSt.lone n par))))
        (kset s.ellSaved c (s.core c)) := by
    rw [State.modCore, State.opened_core_eq]
    simp only [State.opened, State.setCore, kset_kset]
    rfl
  have hr : (s.withCores (kset s.cores c (((s.seen c).syncDoneAt (s.seen c).scyc).withEll (some (EllSt.lone n par))))
      (kset s.ellSaved c (s.core c))).runOf c = some (r, x) := by
    rw [State.runOf_withCores, hrun]
    rw [kget_kset_self]
    exact State.seen_run s c
  rw [hu]
  simp only [hr, State.postEvent_withCores]

/-! Fences -/

theorem Core.anyHold_held (h : k.hold ≠ .free) : k.anyHold = k.hold := by
  rw [Core.anyHold, if_pos (bne_iff_ne.2 h)]

theorem Core.endHold_held {q : Hold → Bool} {t : Nat} (h : k.hold ≠ .free) (hq : q k.hold = true) :
    k.endHold q t = { k with hold := .free, scyc := max k.scyc t } := by
  rw [Core.endHold, if_pos (by rw [bne_iff_ne.2 h, hq]; rfl)]

/-! Pending causes -/

/-- The least cycle of causes, from one that is no earlier. -/
theorem foldl_least {y : Nat} : ∀ {q : List Cause} {m : Nat}, y ≤ m → (∀ z, z ∈ q → y ≤ z.cyc) →
    (y = m ∨ ∃ z, z ∈ q ∧ z.cyc = y) →
    q.foldl (fun (m : Option Nat) (x : Cause) => some (match m with | none => x.cyc | some t => min t x.cyc)) (some m) = some y := by
  intro q
  induction q with
  | nil =>
    intro m _ _ hmem
    obtain rfl | ⟨z, hz, -⟩ := hmem
    · rfl
    · exact absurd hz List.not_mem_nil
  | cons x xs ih =>
    intro m hm hz hmem
    have hx := hz x List.mem_cons_self
    refine ih (le_min hm hx) (fun z h => hz z (List.mem_cons_of_mem _ h)) ?_
    obtain rfl | ⟨z, hmem, rfl⟩ := hmem
    · exact .inl (min_eq_left hx).symm
    · obtain rfl | hmem := List.mem_cons.1 hmem
      · exact .inl (min_eq_right hm).symm
      · exact .inr ⟨z, hmem, rfl⟩

/-- The first cycle in which a cause is pending. -/
theorem Core.causeCycle_eq {y : Cause} (hy : y ∈ k.asyncQ) (hleast : ∀ z, z ∈ k.asyncQ → y.cyc ≤ z.cyc) :
    k.causeCycle = some y.cyc := by
  rw [Core.causeCycle]
  cases hq : k.asyncQ with
  | nil =>
    rw [hq] at hy
    exact absurd hy List.not_mem_nil
  | cons x xs =>
    rw [hq] at hy hleast
    refine foldl_least (hleast x List.mem_cons_self) (fun z hz => hleast z (List.mem_cons_of_mem _ hz)) ?_
    obtain rfl | hmem := List.mem_cons.1 hy
    · exact .inl rfl
    · exact .inr ⟨y, hmem, rfl⟩

theorem State.arrayAt_noJobs (hj : (s.core c).arr.jobs = []) (t : Nat) : s.arrayAt c t = s :=
  State.advance_noJobs hj ..

end Sys2Proof.Machine

namespace Sys2Proof.Claims

open Sys2Proof.Machine

/-- Settles O39: the three slots change their core alone, but for the entry of an EVENT, and each event is read off its command. -/
theorem syncSlotOthers : Obligations.SyncSlotOthers := by
  unfold Obligations.SyncSlotOthers
  intro s c r post mask code x
  refine ⟨fun hs => ⟨?_, ?_, fun hrun => ?_⟩, fun hc he => ⟨fun i hhold => ⟨fun hdone => ?_, fun hdone => ?_⟩,
    fun hrun hx hlt hpend => ?_, fun hin hhalt hrunning hrun hjobs => ?_⟩⟩
  · refine State.slotP_effect (chk := fun _ => none) hs rfl fun e => ?_
    rfl
  · refine State.slotP_effect (chk := fun _ => none) hs rfl fun e => ?_
    rfl
  · have ht := State.postEvent_same s x.ctx 0x01 0 c x.job.toNat code.toNat
    refine ⟨_, ?_, State.core_setCore .., (State.setCore_runs ..).trans ht.runs, State.setCore_ctxs .., State.setCore_hostMem ..⟩
    unfold exec execEvent State.slot
    exact State.slotP_andRest hs rfl ht.cores ht.ellSaved (State.postOpened hrun)
  · have hne : (s.core c).hold ≠ .free := by rw [hhold]; simp
    simp only [exec, execFenceRelease, State.coreEvent_idle hc he, Core.anyHold_held hne, hhold, hdone, if_true]
    rw [State.modCore, Core.endHold_held hne (by rw [hhold]; exact beq_self_eq_true _)]
  · have hne : (s.core c).hold ≠ .free := by rw [hhold]; simp
    simp only [exec, execFenceRelease, State.coreEvent_idle hc he, Core.anyHold_held hne, hhold, hdone]
    rfl
  · simp only [exec, execDigestHandover, State.coreEvent_idle hc he]
    rw [if_neg (by simp [hpend, Nat.not_le.2 hlt])]
    simp only [hrun, State.modCore]
    exact congrArg Host.Outcome.next (State.modRun_eq (s := s.setCore c _) hx _)
  · have hwaits : (s.core c).waits = true ↔ (s.core c).hold ≠ .free ∨ (s.core c).waitQ = true := by
      rw [Core.waits, Bool.or_eq_true, bne_iff_ne]
    have hgo : ¬ ((s.core c).inHandler || (s.core c).halted || !s.running c) = true := by simp [hin, hhalt, hrunning]
    refine ⟨fun hq => ?_, fun y hy hleast hnow => ?_⟩
    · have hnone : (s.core c).causeCycle = none := by rw [Core.causeCycle, hq]; rfl
      simp only [exec, execTrapEntry, State.coreEvent_idle hc he, State.arrayAt_noJobs hjobs, hnone]
      exact if_neg hgo
    · conv_lhs =>
        simp only [exec, execTrapEntry, State.coreEvent_idle hc he, State.arrayAt_noJobs hjobs,
          Core.causeCycle_eq hy hleast, hwaits, hrun]
      rw [if_neg hgo, if_neg (Nat.not_lt.2 hnow)]
      rfl

end Sys2Proof.Claims
end

section
/-!
The canonical form of the memories, field by field (07 R208; 14 R387): what a state, a core, a run and a hogshead die must meet, and
the one rule for each field that holds memory. The lemmas `….MemOk.f` say that `f` keeps the form; they are written as chains, so that
the proof about a function reads as its definition does.
-/

namespace Sys2Proof.Machine

/-! The predicates -/

/-- A memory is in canonical form. -/
def Mem.Ok (m : Mem) : Prop := m.wf = true

/-- The memories of a core are in canonical form. -/
def Core.MemOk (k : Core) : Prop := k.memOk = true

/-- The memory of a hogshead die is in canonical form. -/
def Hogshead.MemOk (d : Hogshead) : Prop := Mem.Ok d.mem

/-- The memories that a saved run keeps are in canonical form. -/
def Run.MemOk (x : Run) : Prop := x.memOk = true

/-- The staging stores of the ingest are in canonical form. -/
def Ing.MemOk (g : Ing) : Prop := Mem.Ok g.stageKey ∧ Mem.Ok g.revStage

/-- The memories of the module are in canonical form. -/
def State.MemOk (s : State) : Prop := s.memOk = true

/-- So they are in the state that an outcome answers. -/
def Out.MemOk (o : Out) : Prop := ∀ t, o = .next t → t.MemOk

/-- Every core of a map has its memories in canonical form. -/
def CoresOk (m : KMap Core) : Prop := m.all (fun p => p.2.memOk) = true

/-- Every run of a map has. -/
def RunsOk (m : KMap Run) : Prop := m.all (fun p => p.2.memOk) = true

/-- Every hogshead die of a map has. -/
def DiesOk (m : KMap Hogshead) : Prop := m.all (fun p => p.2.mem.wf) = true

section
variable {s : State} {k : Core} {x : Run} {d : Hogshead} {o : Out} {m : Mem}

/-! A memory -/

theorem Mem.ok_nil : Mem.Ok [] := rfl

theorem Mem.Ok.writes {a : Nat} {bs : List Byte} (h : Mem.Ok m) : Mem.Ok (memWrites m a bs) := memWrites_wf bs m a h

theorem Mem.Ok.clear {a n : Nat} (h : Mem.Ok m) : Mem.Ok (memClear m a n) := memClear_wf m a n h

theorem Mem.Ok.filter {q : Host.Cell → Bool} (h : Mem.Ok m) : Mem.Ok (m.filter q) := filter_wfFrom q m 0 h

/-! A core -/

theorem Core.memOk_iff : k.MemOk ↔ (Mem.Ok k.imem ∧ Mem.Ok k.dmem) ∧ Mem.Ok k.spad ∧ Mem.Ok k.strat := by
  simp only [Core.MemOk, Core.memOk, Mem.Ok, Bool.and_eq_true, and_assoc]

theorem Core.MemOk.imem (h : k.MemOk) : Mem.Ok k.imem := (Core.memOk_iff.1 h).1.1

theorem Core.MemOk.dmem (h : k.MemOk) : Mem.Ok k.dmem := (Core.memOk_iff.1 h).1.2

theorem Core.MemOk.spad (h : k.MemOk) : Mem.Ok k.spad := (Core.memOk_iff.1 h).2.1

theorem Core.MemOk.strat (h : k.MemOk) : Mem.Ok k.strat := (Core.memOk_iff.1 h).2.2

theorem Core.MemOk.withDmem {m : Mem} (h : k.MemOk) (hm : Mem.Ok m) : Core.MemOk { k with dmem := m } :=
  Core.memOk_iff.2 ⟨⟨h.imem, hm⟩, h.spad, h.strat⟩

theorem Core.MemOk.withSpad {m : Mem} (h : k.MemOk) (hm : Mem.Ok m) : Core.MemOk { k with spad := m } :=
  Core.memOk_iff.2 ⟨⟨h.imem, h.dmem⟩, hm, h.strat⟩

theorem Core.MemOk.withStrat {m : Mem} (h : k.MemOk) (hm : Mem.Ok m) : Core.MemOk { k with strat := m } :=
  Core.memOk_iff.2 ⟨⟨h.imem, h.dmem⟩, h.spad, hm⟩

/-- A rule for a field that holds none of the memories, which keeps its new value from being evaluated. -/
theorem Core.MemOk.withEccRegs {b : EccRegs} (h : k.MemOk) : Core.MemOk { k with eccRegs := b } := h

theorem Core.memOk_reset : Core.reset.MemOk := rfl

/-! A hogshead die, a run and the ingest -/

theorem Hogshead.memOk_reset : Hogshead.reset.MemOk := rfl

theorem Run.MemOk.saved {p : Preempt} (h : x.MemOk) (hp : x.preempt = some p) : CoresOk p.cores := by
  simp only [Run.MemOk, Run.memOk, hp] at h
  exact h

theorem Run.memOk_of_saved {p : Preempt} (hp : x.preempt = some p) (hc : CoresOk p.cores) : x.MemOk := by
  simp only [Run.MemOk, Run.memOk, hp]
  exact hc

theorem Run.memOk_of_none (hp : x.preempt = none) : x.MemOk := by
  simp only [Run.MemOk, Run.memOk, hp]

theorem Ing.memOk_reset : Ing.reset.MemOk := ⟨rfl, rfl⟩

/-! The maps -/

section
variable {cs : KMap Core} {rs : KMap Run} {ds : KMap Hogshead}

theorem CoresOk.nil : CoresOk [] := rfl

theorem CoresOk.set {c : Nat} (h : CoresOk cs) (hk : k.MemOk) : CoresOk (kset cs c k) := all_kset cs c k h hk

theorem CoresOk.get {c : Nat} (h : CoresOk cs) : (kget Core.reset cs c).MemOk :=
  all_kget (q := Core.memOk) (fun _ => rfl) cs Core.reset c h Core.memOk_reset

theorem CoresOk.map {f : Nat → Core → Core} (h : CoresOk cs) (hf : ∀ c k, k.MemOk → (f c k).MemOk) : CoresOk (kmap f cs) :=
  all_kmap f cs h hf

theorem CoresOk.del {c : Nat} (h : CoresOk cs) : CoresOk (kdel cs c) := all_kdel cs c h

theorem CoresOk.mem {p : Nat × Core} (h : CoresOk cs) (hp : p ∈ cs) : p.2.MemOk := List.all_eq_true.1 h p hp

theorem CoresOk.filter {q : Nat × Core → Bool} (h : CoresOk cs) : CoresOk (cs.filter q) :=
  List.all_eq_true.2 fun p hp => List.all_eq_true.1 h p (List.mem_filter.1 hp).1

theorem RunsOk.set {r : Nat} (h : RunsOk rs) (hx : x.MemOk) : RunsOk (kset rs r x) := all_kset rs r x h hx

theorem RunsOk.map {f : Nat → Run → Run} (h : RunsOk rs) (hf : ∀ r x, x.MemOk → (f r x).MemOk) : RunsOk (kmap f rs) :=
  all_kmap f rs h hf

theorem RunsOk.del {r : Nat} (h : RunsOk rs) : RunsOk (kdel rs r) := all_kdel rs r h

theorem RunsOk.mem {p : Nat × Run} (h : RunsOk rs) (hp : p ∈ rs) : p.2.MemOk := List.all_eq_true.1 h p hp

theorem DiesOk.set {n : Nat} (h : DiesOk ds) (hd : d.MemOk) : DiesOk (kset ds n d) := all_kset ds n d h hd

theorem DiesOk.get {n : Nat} (h : DiesOk ds) : (kget Hogshead.reset ds n).MemOk :=
  all_kget (p := fun (e : Nat × Hogshead) => e.2.mem.wf) (q := fun d => d.mem.wf) (fun _ => rfl) ds Hogshead.reset n h rfl

theorem DiesOk.map {f : Nat → Hogshead → Hogshead} (h : DiesOk ds) (hf : ∀ n d, d.MemOk → (f n d).MemOk) : DiesOk (kmap f ds) :=
  all_kmap f ds h hf

end

/-- What a map of runs finds is one of its runs. -/
theorem kfind_mem {α : Type} {m : KMap α} {i : Nat} {v : α} (h : kfind m i = some v) : (i, v) ∈ m := by
  induction m with
  | nil => cases h
  | cons p m ih =>
    obtain ⟨j, w⟩ := p
    simp only [kfind] at h
    split at h
    · next e => cases h; cases e; exact List.mem_cons_self ..
    · exact List.mem_cons_of_mem _ (ih h)

/-! A state -/

theorem State.memOk_iff :
    s.MemOk ↔ (CoresOk s.cores ∧ CoresOk s.ellSaved) ∧ (DiesOk s.hg ∧ RunsOk s.runs) ∧ Mem.Ok s.hostMem ∧
      s.ing.MemOk := by
  simp only [State.MemOk, Ing.MemOk, State.memOk, Mem.Ok, CoresOk, DiesOk, RunsOk, Bool.and_eq_true, and_assoc]

namespace State.MemOk

theorem cores (h : s.MemOk) : CoresOk s.cores := (State.memOk_iff.1 h).1.1

theorem ellSaved (h : s.MemOk) : CoresOk s.ellSaved := (State.memOk_iff.1 h).1.2

theorem hg (h : s.MemOk) : DiesOk s.hg := (State.memOk_iff.1 h).2.1.1

theorem runs (h : s.MemOk) : RunsOk s.runs := (State.memOk_iff.1 h).2.1.2

theorem hostMem (h : s.MemOk) : Mem.Ok s.hostMem := (State.memOk_iff.1 h).2.2.1

theorem ing (h : s.MemOk) : s.ing.MemOk := (State.memOk_iff.1 h).2.2.2

theorem withCores {cs : KMap Core} (h : s.MemOk) (hc : CoresOk cs) : State.MemOk { s with cores := cs } :=
  State.memOk_iff.2 ⟨⟨hc, h.ellSaved⟩, ⟨h.hg, h.runs⟩, h.hostMem, h.ing⟩

theorem withEllSaved {cs : KMap Core} (h : s.MemOk) (hc : CoresOk cs) : State.MemOk { s with ellSaved := cs } :=
  State.memOk_iff.2 ⟨⟨h.cores, hc⟩, ⟨h.hg, h.runs⟩, h.hostMem, h.ing⟩

theorem withHg {ds : KMap Hogshead} (h : s.MemOk) (hd : DiesOk ds) : State.MemOk { s with hg := ds } :=
  State.memOk_iff.2 ⟨⟨h.cores, h.ellSaved⟩, ⟨hd, h.runs⟩, h.hostMem, h.ing⟩

theorem withRuns {rs : KMap Run} (h : s.MemOk) (hr : RunsOk rs) : State.MemOk { s with runs := rs } :=
  State.memOk_iff.2 ⟨⟨h.cores, h.ellSaved⟩, ⟨h.hg, hr⟩, h.hostMem, h.ing⟩

theorem withHostMem {m : Mem} (h : s.MemOk) (hm : Mem.Ok m) : State.MemOk { s with hostMem := m } :=
  State.memOk_iff.2 ⟨⟨h.cores, h.ellSaved⟩, ⟨h.hg, h.runs⟩, hm, h.ing⟩

theorem withIng {g : Ing} (h : s.MemOk) (hg : g.MemOk) : State.MemOk { s with ing := g } :=
  State.memOk_iff.2 ⟨⟨h.cores, h.ellSaved⟩, ⟨h.hg, h.runs⟩, h.hostMem, hg⟩

/-! Fields that hold none of the memories. Their rules keep a costly value from being evaluated where only such a field changes. -/

theorem withHub {b : Hub} (h : s.MemOk) : State.MemOk { s with hub := b } := h

theorem withStalls {l : KMap (Nat × Nat)} (h : s.MemOk) : State.MemOk { s with stalls := l } := h

theorem withChn {b : Chn} (h : s.MemOk) : State.MemOk { s with chn := b } := h

theorem withBusOut {v : Option Word} (h : s.MemOk) : State.MemOk { s with busOut := v } := h

theorem withBusOutDet {v : Option Word} {b : Det} (h : s.MemOk) : State.MemOk { s with busOut := v, det := b } := h

theorem withDet {b : Det} (h : s.MemOk) : State.MemOk { s with det := b } := h

theorem withPwr {b : Pwr} (h : s.MemOk) : State.MemOk { s with pwr := b } := h

theorem withEvc {b : Evc} (h : s.MemOk) : State.MemOk { s with evc := b } := h

/-! What a state with the form holds, and the rule of each setter -/

theorem core {c : Nat} (h : s.MemOk) : (s.core c).MemOk := h.cores.get

theorem setCore {c : Nat} (h : s.MemOk) (hk : k.MemOk) : (s.setCore c k).MemOk := h.withCores (h.cores.set hk)

theorem modCore {c : Nat} {f : Core → Core} (h : s.MemOk) (hf : ∀ k, k.MemOk → (f k).MemOk) : (s.modCore c f).MemOk :=
  h.setCore (hf _ h.core)

theorem run? {r : Nat} (h : s.MemOk) (hx : s.run? r = some x) : x.MemOk := h.runs.mem (kfind_mem hx)

theorem setRun {r : Nat} (h : s.MemOk) (hx : x.MemOk) : (s.setRun r x).MemOk := h.withRuns (h.runs.set hx)

theorem modRun {r : Nat} {g : Run → Run} (h : s.MemOk) (hg : ∀ x, x.MemOk → (g x).MemOk) : (s.modRun r g).MemOk := by
  unfold State.modRun
  split
  next hx => exact h.setRun (hg _ (h.run? hx))
  next => exact h

theorem saved {c : Nat} (h : s.MemOk) (hk : kfind s.ellSaved c = some k) : k.MemOk := h.ellSaved.mem (kfind_mem hk)

theorem hog {n : Nat} (h : s.MemOk) : (s.hog n).MemOk := h.hg.get

theorem modHog {n : Nat} {f : Hogshead → Hogshead} (h : s.MemOk) (hf : ∀ d, d.MemOk → (f d).MemOk) : (s.modHog n f).MemOk :=
  h.withHg (h.hg.set (hf _ h.hog))

theorem hostWrite {f a : Nat} {relaxed : Bool} {bs : List Byte} (h : s.MemOk) : (s.hostWrite f relaxed a bs).MemOk :=
  h.withHostMem h.hostMem.writes

end State.MemOk

/-- A conditional whose branches have the form. -/
theorem ite_memOk {α : Type} {P : α → Prop} {q : Prop} [Decidable q] {a b : α} (ha : P a) (hb : P b) : P (if q then a else b) := by
  split
  · exact ha
  · exact hb

theorem State.MemOk.ite {q : Prop} [Decidable q] {s t : State} (hs : s.MemOk) (ht : t.MemOk) : (if q then s else t).MemOk :=
  ite_memOk hs ht

theorem Core.MemOk.ite {q : Prop} [Decidable q] {k l : Core} (hk : k.MemOk) (hl : l.MemOk) : (if q then k else l).MemOk :=
  ite_memOk hk hl

theorem Run.MemOk.ite {q : Prop} [Decidable q] {x y : Run} (hx : x.MemOk) (hy : y.MemOk) : (if q then x else y).MemOk :=
  ite_memOk hx hy

theorem Hogshead.MemOk.ite {q : Prop} [Decidable q] {d e : Hogshead} (hd : d.MemOk) (he : e.MemOk) : (if q then d else e).MemOk :=
  ite_memOk hd he

theorem Ing.MemOk.ite {q : Prop} [Decidable q] {g j : Ing} (hg : g.MemOk) (hj : j.MemOk) : (if q then g else j).MemOk :=
  ite_memOk hg hj

theorem Out.MemOk.ite {q : Prop} [Decidable q] {o p : Out} (ho : Out.MemOk o) (hp : Out.MemOk p) :
    Out.MemOk (if q then o else p) :=
  ite_memOk ho hp

/-! An outcome -/

theorem Out.MemOk.next (h : s.MemOk) : Out.MemOk (.next s) := fun _ e => by cases e; exact h

theorem Out.MemOk.fault {r : Fault} : Out.MemOk (.fault r) := fun _ e => by cases e

/-- A fold whose steps keep the form keeps it. -/
theorem foldl_memOk {α β : Type} {P : α → Prop} {f : α → β → α} {l : List β} {a : α} (h : P a) (hf : ∀ a b, P a → P (f a b)) :
    P (l.foldl f a) := by
  induction l generalizing a with
  | nil => exact h
  | cons b l ih => exact ih (hf a b h)

end

end Sys2Proof.Machine
end

section
/-!
The core: registers, traps and the issue of an ell (05 R133 to R162): each function of the
model keeps the memories in canonical form.
-/

namespace Sys2Proof.Machine

variable {s : State} {k : Core} {x : Run} {d : Hogshead} {c t a b n m i r p f st port die off stop : Nat} {e : EllEnd} {v : Word}
  {bs : List Byte} {g : Ing} {code : Byte} {info : Word} {acc : Bool} {q : Payload} {j : Job} {o : MatOp}

namespace State.MemOk

theorem mmio {f : State → State} (h : s.MemOk) (hf : ∀ u : State, u.MemOk → (f u).MemOk) : Out.MemOk (s.mmio f) :=
  .next (.ite (hf _ h) h)

theorem setCtx {x : Ctx} (h : s.MemOk) : (s.setCtx f x).MemOk := h

theorem modCtx {g : Ctx → Ctx} (h : s.MemOk) : (s.modCtx f g).MemOk := h.setCtx

theorem chargeRuns {g : RunCounts → RunCounts} (h : s.MemOk) : (s.chargeRuns g).MemOk :=
  h.withRuns (h.runs.map fun _ _ hx => .ite hx hx)

theorem countStall (h : s.MemOk) : (s.countStall n).MemOk := h.withRuns (h.runs.map fun _ _ hx => .ite hx hx)

theorem stallNow (h : s.MemOk) : (s.stallNow n).MemOk := .countStall h

theorem passBack (h : s.MemOk) : (s.passBack p n).MemOk := h.withRuns (h.runs.map fun _ _ hx => .ite hx (.ite hx hx))

theorem stallPos (h : s.MemOk) : (s.stallPos p n).MemOk := .ite (.countStall h) (.passBack (.countStall h))

theorem stallAt (h : s.MemOk) : (s.stallAt c t n).MemOk := by
  unfold State.stallAt
  split
  · exact h.stallNow
  · exact h.stallPos

theorem stallPasses (h : s.MemOk) : s.stallPasses.MemOk := h.withRuns (h.runs.map fun _ _ hx => .ite hx (.ite hx hx))

theorem cycle (h : s.MemOk) : s.cycle.MemOk := .ite h.stallPasses (.ite h.stallPasses.countStall h)

theorem cycles (h : s.MemOk) : (s.cycles n).MemOk := by
  induction n generalizing s with
  | zero => exact h
  | succ n ih => exact ih h.cycle

theorem countConflict (h : s.MemOk) : s.countConflict.MemOk := .chargeRuns h

theorem countEmerg {beat : Bool} (h : s.MemOk) : (s.countEmerg beat).MemOk := .chargeRuns h

theorem wake (h : s.MemOk) : s.wake.MemOk := .ite h h

theorem newEvent (h : s.MemOk) : (s.newEvent t).MemOk := .ite h.wake h

theorem dmaFailed (h : s.MemOk) : s.dmaFailed.MemOk := h

theorem cqWrite (h : s.MemOk) : (s.cqWrite f bs).MemOk := h.hostWrite.setCtx

theorem postCompletion (h : s.MemOk) : (s.postCompletion f bs).MemOk := .ite h (.ite h.setCtx h.cqWrite)

theorem complete {opcode status : Nat} {cmd : Cmd} {b6 job q16 q24 : Nat} (h : s.MemOk) :
    (s.complete f opcode status cmd b6 job q16 q24).MemOk :=
  .postCompletion (.ite h h)

theorem eventEntry (h : s.MemOk) : (s.eventEntry f bs).MemOk := .ite h.setCtx h.hostWrite.setCtx

theorem postEvent {type status core job detail : Nat} (h : s.MemOk) : (s.postEvent f type status core job detail).MemOk :=
  .eventEntry (.ite h h.eventEntry.modCtx)

theorem postDigest {kind core job mism l cnt : Nat} {d : DWord} (h : s.MemOk) :
    (s.postDigest f kind core job mism l cnt d).MemOk :=
  .ite h (.ite h.setCtx h.hostWrite.setCtx)

theorem violation (h : s.MemOk) : (s.violation c).MemOk := by
  unfold State.violation
  split
  · split
    · exact h.postEvent
    · exact h
  · exact h

theorem endRun {st : Byte} (h : s.MemOk) : (s.endRun r st).MemOk := h.modRun fun _ hx => .ite hx hx

theorem endRunDue (h : s.MemOk) : (s.endRunDue r).MemOk := h.modRun fun _ hx => .ite hx hx

theorem endDueOf (h : s.MemOk) : (s.endDueOf c).MemOk := by
  unfold State.endDueOf
  split
  · exact h.endRunDue
  · exact h

theorem endRunExit {st : Byte} (h : s.MemOk) : (s.endRunExit c st).MemOk := by
  unfold State.endRunExit
  split
  · exact h.modRun fun _ hx => .ite hx hx
  · exact h

end State.MemOk

namespace Core.MemOk

theorem setS {r : BitVec 5} (h : k.MemOk) : (k.setS r v).MemOk := .ite h h

theorem setV {r : BitVec 5} {v : VReg} (h : k.MemOk) : (k.setV r v).MemOk := h

theorem apply {w : Target} (h : k.MemOk) : (k.apply w).MemOk := by
  unfold Core.apply
  dsimp only
  split
  · exact h.setS
  · exact h.setV
  · exact h
  · exact h
  · exact h
  · exact h
  · exact h
  · exact h

theorem retireList {l : List PendWrite} (h : k.MemOk) : (k.retireList i l).MemOk := by
  induction l generalizing k with
  | nil => exact h
  | cons b l ih => exact .ite (ih h.apply) h

theorem retire (h : k.MemOk) : (k.retire i).MemOk := h.retireList

theorem later {lat : Nat} {late : Bool} {t : Target} (h : k.MemOk) : (k.later lat late t).MemOk := h

theorem poison {m : MemKind} (h : k.MemOk) : (k.poison m a).MemOk := h

theorem freshen {m : MemKind} (h : k.MemOk) : (k.freshen m a n).MemOk := h

theorem noteRead {m : MemKind} (h : k.MemOk) : (k.noteRead m a n).MemOk := h

theorem noteFetch {par : Nat} (h : k.MemOk) : (k.noteFetch par).MemOk := h.noteRead.noteRead

theorem noteMerge {m : MemKind} (h : k.MemOk) : (k.noteMerge m a n).MemOk := h

theorem merge {m : MemKind} (h : k.MemOk) : (k.merge m a n).MemOk := h.noteMerge.freshen

theorem landed (h : k.MemOk) : k.landed.MemOk := foldl_memOk h fun _ _ hk => hk.apply

theorem recordPending (h : k.MemOk) : k.recordPending.MemOk := by
  unfold Core.recordPending
  dsimp only
  split
  · exact h
  · exact h.landed

end Core.MemOk

namespace State.MemOk

theorem afterHalt (h : s.MemOk) : (s.afterHalt c).MemOk := .ite h.endRunExit h

theorem haltFault {codes : List Byte} {st : Byte} (h : s.MemOk) : (s.haltFault c codes st).MemOk :=
  .afterHalt (h.modCore fun _ hk => .recordPending hk.landed)

theorem takeTrap {async : Bool} {retPc : Nat} (h : s.MemOk) : (s.takeTrap c code async info retPc).MemOk :=
  .ite h.haltFault (.ite h.haltFault (h.setCore h.core.retire))

theorem undoEll (h : s.MemOk) : (s.undoEll c).MemOk := by
  unfold State.undoEll
  split
  next hk => exact (h.setCore (h.saved hk)).withEllSaved h.ellSaved.del
  next => exact h

theorem precise {x : Cause} (h : s.MemOk) : (s.precise c x).MemOk := .ite h.haltFault h.takeTrap

theorem raiseAsyncAt (h : s.MemOk) : (s.raiseAsyncAt c code info t).MemOk := by
  unfold State.raiseAsyncAt
  extract_lets raised ended
  have hr : raised.MemOk := h.modCore fun _ hk => .ite (.recordPending hk) hk
  have he : ended.MemOk := .ite hr.afterHalt hr
  exact .ite he.endDueOf he

theorem raiseAsync (h : s.MemOk) : (s.raiseAsync c code info).MemOk := h.raiseAsyncAt

theorem uncorrectable {slot : Nat} {m : MemKind} (h : s.MemOk) : (s.uncorrectable c slot m a).MemOk :=
  .raiseAsync (h.modCore fun _ hk => hk)

theorem takeAsync (h : s.MemOk) : (s.takeAsync c).MemOk := by
  unfold State.takeAsync
  dsimp only
  split
  · exact h
  · exact .takeTrap (h.setCore h.core)

theorem openEll {par : Nat} {slots : BitVec 6} {full : Core → Bool} (h : s.MemOk) : (s.openEll c par slots full).MemOk := by
  refine .withEllSaved (.setCore h ?_) (h.ellSaved.set h.core)
  exact h.core.retire

end State.MemOk

namespace Core.MemOk

theorem modEll {f : EllSt → EllSt} (h : k.MemOk) : (k.modEll f).MemOk := h

theorem returnTrap {post : Nat} (h : k.MemOk) : (k.returnTrap post).MemOk := h

theorem closeEll {e : EllSt} {post : Nat} (h : k.MemOk) : (k.closeEll e post).MemOk := by
  unfold Core.closeEll
  extract_lets seq linked
  have hl : linked.MemOk := by
    simp only [linked]
    split
    · exact h.later
    · exact h
  split
  · exact hl.returnTrap
  · split
    · exact .recordPending hl
    · split <;> exact hl

end Core.MemOk

namespace State.MemOk

theorem violations (h : s.MemOk) : (s.violations c n).MemOk := by
  induction n generalizing s with
  | zero => exact h
  | succ n ih => exact ih h.violation

theorem uncorrectables {l : List (Nat × MemKind × Nat)} (h : s.MemOk) : (s.uncorrectables c l).MemOk := by
  induction l generalizing s with
  | nil => exact h
  | cons b l ih => exact ih h.uncorrectable

theorem endEll {post : Nat} (h : s.MemOk) : (s.endEll c post).MemOk := by
  unfold State.endEll
  extract_lets k
  split
  · exact h
  next e _ =>
    have hf : ((s.undoEll c).modCore c (fun k => k.noteFetch e.parcels)).MemOk := h.undoEll.modCore fun _ hk => hk.noteFetch
    split
    · exact h.undoEll
    · exact h.undoEll.modCore fun _ hk => hk
    · exact h.undoEll.takeAsync
    · exact h.undoEll.precise
    · exact hf.uncorrectable
    · exact hf.raiseAsync.takeAsync
    · split
      · exact hf.precise
      · extract_lets k' _ closed done
        have hc : closed.MemOk := (h.setCore h.core.noteFetch.closeEll).withEllSaved h.ellSaved.del
        have hd : done.MemOk := hc.violations.uncorrectables
        clear_value done
        refine .ite hd.afterHalt ?_
        split
        · exact hd
        · exact .ite hd.haltFault (.takeTrap (hd.modCore fun _ hk => hk))

theorem endSlot (h : s.MemOk) : (s.endSlot c e).MemOk := by
  unfold State.endSlot
  split
  · exact h
  · exact h.endEll

/-- The state that a gate hands on has the form. -/
def GateOk : Gate → Prop
  | .go u | .void u => u.MemOk
  | .stop _ => True

theorem gate {par : Nat} {full : Core → Bool} (h : s.MemOk) : GateOk (s.gate c n par full) := by
  unfold State.gate
  dsimp only
  split
  · trivial
  · split
    · split
      · trivial
      · split
        · exact .setCore h h.core
        · exact .setCore h h.core
    · split
      · exact h.openEll
      · exact h.openEll

theorem slotP {par : Nat} {full : Core → Bool} {chk : State → Option Cause} {f : State → State} (h : s.MemOk)
    (hf : ∀ u : State, u.MemOk → (f u).MemOk) : Out.MemOk (s.slotP c n par full e chk f) := by
  have hg := h.gate (c := c) (n := n) (par := par) (full := full)
  unfold State.slotP
  split
  · exact .fault
  next e => rw [e] at hg; exact .next (.endSlot hg)
  next e =>
    rw [e] at hg
    split
    · exact .next (.endSlot (.modCore hg fun _ hk => hk.modEll))
    · exact .next (.endSlot (.ite (hf _ hg) hg))

theorem slot {par : Nat} {full : Core → Bool} {f : State → State} (h : s.MemOk) (hf : ∀ u : State, u.MemOk → (f u).MemOk) :
    Out.MemOk (s.slot c n par full e f) :=
  h.slotP fun _ hu => hf _ hu

theorem coreEvent {f : Core → Out} (h : s.MemOk) (hf : ∀ a : Core, a.MemOk → (f a).MemOk) : Out.MemOk (s.coreEvent c f) :=
  .ite .fault (.ite .fault (hf _ h.core))

end State.MemOk

namespace Core.MemOk

theorem queueFreed (h : k.MemOk) : (k.queueFreed t).MemOk := .ite h h

end Core.MemOk

end Sys2Proof.Machine
end

section
/-!
Grains on their way, the transfers of the engines, the array and the banks (04, 06, 07, 09): each function of the
model keeps the memories in canonical form.
-/

namespace Sys2Proof.Machine

variable {s : State} {k : Core} {x : Run} {d : Hogshead} {c t a b n m i r p f st port die off stop : Nat} {e : EllEnd} {v : Word}
  {bs : List Byte} {g : Ing} {code : Byte} {info : Word} {acc : Bool} {q : Payload} {j : Job} {o : MatOp}

namespace State.MemOk

theorem setPort {x : Port} (h : s.MemOk) : (s.setPort p x).MemOk := h

theorem modPort {f : Port → Port} (h : s.MemOk) : (s.modPort p f).MemOk := h.setPort

theorem transmit {g : Grain} (h : s.MemOk) : (s.transmit port g).MemOk := h

theorem queueOut {out : Nat} {g : Grain} (h : s.MemOk) : (s.queueOut out g).MemOk := h

theorem fly {f : Flight} (h : s.MemOk) : (s.fly f).MemOk := h

theorem sentTo {q : Nat} (h : s.MemOk) : (s.sentTo c st q).MemOk := by
  unfold State.sentTo
  refine h.modCore fun _ hk => ?_
  split <;> exact hk

theorem flyNulls {land : Nat → Nat} (h : s.MemOk) : (s.flyNulls r c st land i n).MemOk := by
  induction n generalizing s i with
  | zero => exact h
  | succ n ih => exact ih h.fly

theorem flyStream {g : Grain} {land : Nat → Nat} {q : Nat} {bad : BitVec 8} (h : s.MemOk) :
    (s.flyStream r c g land t q bad).MemOk := by
  unfold State.flyStream
  dsimp only
  split
  · exact h.fly
  · exact h.flyNulls.fly.sentTo

theorem beEnter {b : BeGrain} (h : s.MemOk) : (s.beEnter b).MemOk := h

theorem noRoute (h : s.MemOk) : s.noRoute.MemOk := h

theorem sendRouted {g : Grain} (h : s.MemOk) : (s.sendRouted g).MemOk := by
  unfold State.sendRouted
  refine .ite (.ite h.queueOut h.transmit) ?_
  split
  · exact h.queueOut
  · exact h.noRoute

theorem forwardResent {g : Grain} (h : s.MemOk) : (s.forwardResent g).MemOk := by
  unfold State.forwardResent
  split
  · exact h.modPort
  · exact h.noRoute

theorem retain {g : Grain} (h : s.MemOk) : (s.retain r port g).MemOk := by
  unfold State.retain
  dsimp only
  split
  · exact h
  next hx => exact h.setRun (h.run? hx :)

theorem waitSlot {src : Nat} {g : Grain} (h : s.MemOk) : (s.waitSlot r src t g).MemOk := h

theorem forwardSlot {e : SlotRec} {g : Grain} (h : s.MemOk) : (s.forwardSlot r e g).MemOk := h

theorem coreLoop {src : Nat} {bad : BitVec 8} {g : Grain} (h : s.MemOk) : (s.coreLoop r src t bad g).MemOk := by
  unfold State.coreLoop
  split
  · exact h.fly
  · exact h.fly.sentTo

theorem sendScheduled {src : Nat} {bad : BitVec 8} {g : Grain} (h : s.MemOk) : (s.sendScheduled r src t bad g).MemOk := by
  unfold State.sendScheduled
  dsimp only
  split
  · exact h
  · exact .ite h.coreLoop (.ite h.waitSlot (.ite h.fly h.flyStream))

theorem sendBest {src : Nat} {bad : BitVec 8} {g : Grain} (h : s.MemOk) : (s.sendBest r src t bad g).MemOk :=
  .ite h.coreLoop h.beEnter

theorem sendRow {src : Nat} {l : List (Grain × BitVec 8)} (h : s.MemOk) : (s.sendRow r src n l).MemOk := by
  induction l generalizing s n with
  | nil => exact h
  | cons b l ih => exact ih (.ite h.sendBest h.sendScheduled)

theorem await {g : Nat × Nat × Nat} (h : s.MemOk) : (s.await c g).MemOk := by
  unfold State.await
  dsimp only
  split
  · exact h
  · exact .ite h h.stallPos

theorem sendSync {src dmod entry : Nat} (h : s.MemOk) : (s.sendSync r src t dmod entry).MemOk := h.sendScheduled

theorem sendHubSync {dmod entry : Nat} (h : s.MemOk) : (s.sendHubSync r t dmod entry).MemOk := h.waitSlot

end State.MemOk

namespace Core.MemOk

theorem spadPut {bad : List Nat} (h : k.MemOk) : (k.spadPut a bs bad).MemOk :=
  foldl_memOk (.merge (h.withSpad h.spad.writes)) fun _ _ hk => hk.poison

theorem settle (h : k.MemOk) : (k.settle t).MemOk := foldl_memOk h fun _ _ hk => hk.spadPut

theorem spadLater {bad : List Nat} {rank : Nat} (h : k.MemOk) : (k.spadLater t a bs bad rank).MemOk := h

theorem access (h : k.MemOk) : (k.access t b).1.MemOk := h

end Core.MemOk

namespace State.MemOk

theorem access (h : s.MemOk) : (s.access c t b).MemOk :=
  .ite (((h.setCore h.core.access).countConflict).stallAt) (h.setCore h.core.access)

end State.MemOk

namespace Core.MemOk

theorem pruneAccs (h : k.MemOk) : (k.pruneAccs t).MemOk := h

theorem addDigest {epoch : Nat} {x : DWord × Nat} (h : k.MemOk) : (k.addDigest epoch x).MemOk := h

end Core.MemOk

namespace Hogshead.MemOk

theorem flush (h : d.MemOk) : d.flush.MemOk := foldl_memOk h fun _ _ h1 => h1.writes

theorem put {rank : Nat} {bad : List Nat} (h : d.MemOk) : (d.put t rank off bs bad).MemOk := h

end Hogshead.MemOk

namespace State.MemOk

theorem hgPhase {read : Bool} (h : s.MemOk) : (s.hgPhase c die off t read).MemOk := by
  unfold State.hgPhase
  dsimp only
  split
  · exact h
  · split
    · exact .countConflict h
    · exact .modHog h fun _ hd => hd
    · exact .stallAt (.countConflict (.modHog h fun _ hd => hd))

theorem hgDue (h : s.MemOk) : (s.hgDue die off).MemOk := h

theorem countReissue (h : s.MemOk) : s.countReissue.MemOk := .chargeRuns h

theorem hgGiveUp (h : s.MemOk) : (s.hgGiveUp c die off).MemOk := .endDueOf h

theorem hgCorrected {l : List Nat} (h : s.MemOk) : (s.hgCorrected die l).MemOk := by
  induction l generalizing s die with
  | nil => exact h
  | cons o l ih =>
    have hm := h.modHog (n := die) (f := fun d => { d with ce := satAdd d.ce 1 }) fun _ hd => hd
    exact ih hm

theorem hgMerged (h : s.MemOk) : (s.hgMerged die off n).MemOk := h.hgCorrected

theorem hgRead (h : s.MemOk) : (s.hgRead c die off n t).1.MemOk := by
  unfold State.hgRead
  dsimp only
  split
  · exact h.hgCorrected
  · exact h.hgCorrected.hgDue.countReissue.stallAt.hgDue.countReissue.stallAt.hgDue.hgGiveUp

theorem hgReadAt (h : s.MemOk) : (s.hgReadAt acc c a n t).1.MemOk := by
  unfold State.hgReadAt
  dsimp only
  split
  · exact .hgRead (.ite (.hgPhase (.hgRead (.ite h.hgPhase h))) (.hgRead (.ite h.hgPhase h)))
  · exact .hgRead (.ite h.hgPhase h)

end State.MemOk

namespace Core.MemOk

theorem noteErrs {view : Core} {m : MemKind} {bad : List Nat} (h : k.MemOk) : (k.noteErrs view m a n bad).MemOk := h

end Core.MemOk

namespace State.MemOk

theorem accessIf (h : s.MemOk) : (s.accessIf acc c t b).MemOk := .ite h.access h

theorem readUnit {w : Way} {reply : Fetched} (h : s.MemOk) : (s.readUnit acc w a n t reply).1.MemOk := by
  unfold State.readUnit
  dsimp only
  split
  · exact h.accessIf.modCore fun _ hk => hk.noteErrs
  · exact h.hgReadAt
  · split
    · exact h
    · exact h.accessIf.modCore fun _ hk => hk.noteErrs

theorem readUnits {w : Way} {reply : Fetched} (h : s.MemOk) : (s.readUnits acc w reply n m a b t).1.MemOk := by
  induction n generalizing s m a b t with
  | zero => exact h
  | succ n ih =>
    rw [State.readUnits]
    dsimp only
    split
    · exact h
    · exact ih h.readUnit

theorem readBytes {w : Way} {reply : Fetched} (h : s.MemOk) : (s.readBytes acc w reply a n t).1.MemOk := h.readUnits

theorem readReport {slot y : Nat} {w : Way} {bad : List Nat} (h : s.MemOk) : (s.readReport c slot y w t bad).MemOk :=
  .ite h (.ite h.endDueOf h.raiseAsyncAt)

theorem putUnits {port : SpadPort} {bad : List Nat} {l : List Byte} (h : s.MemOk) :
    (s.putUnits acc port c bad n m a b l).MemOk := by
  induction n generalizing s m a b l with
  | zero => exact h
  | succ n ih => exact .ite h (ih (h.accessIf.modCore fun _ hk => hk.spadLater))

theorem hogPut {bad : List Nat} (h : s.MemOk) : (s.hogPut acc c t a bs bad).MemOk := by
  unfold State.hogPut
  extract_lets m one first
  have hone {u : State} {a' : Nat} {bs' : List Byte} {bad' : List Nat} (hu : u.MemOk) : (one u a' bs' bad').MemOk :=
    .modHog (.hgMerged (.ite hu.hgPhase hu)) fun _ hd => hd.put
  exact .ite (hone (hone h)) (hone h)

theorem hogUnits {bad : List Nat} {l : List Byte} (h : s.MemOk) : (s.hogUnits acc c bad n m a b l).MemOk := by
  induction n generalizing s m a b l with
  | zero => exact h
  | succ n ih => exact .ite h (ih h.hogPut)

theorem writeBytes {port : SpadPort} {d : Desc} {tl : Nat} {bad : List Nat} (h : s.MemOk) :
    (s.writeBytes acc port c d a tl t bs bad).MemOk := by
  unfold State.writeBytes
  split
  · exact h.putUnits
  · exact h.hogUnits
  · split
    · exact h
    · split
      · exact h
      · exact h.sendRow

end State.MemOk

namespace Core.MemOk

theorem loadDoneAt (h : k.MemOk) : (k.loadDoneAt t).MemOk := h

theorem storeDoneAt (h : k.MemOk) : (k.storeDoneAt t).MemOk := h

theorem takeCredit (h : k.MemOk) : (k.takeCredit p).MemOk := by
  unfold Core.takeCredit
  split <;> exact h

end Core.MemOk

namespace State.MemOk

theorem scaleAccess {unit : Bool} (h : s.MemOk) : (s.scaleAccess c t a n unit).MemOk := foldl_memOk h fun _ _ hu => hu.access

theorem accessAll (h : s.MemOk) : (s.accessAll c t a n).MemOk := foldl_memOk h fun _ _ hu => hu.access

theorem portFetch {y : Nat} (h : s.MemOk) : (s.portFetch c y t a n).1.MemOk :=
  .ite (h.modCore fun _ hk => hk.noteErrs) (.raiseAsyncAt (h.modCore fun _ hk => hk.noteErrs))

theorem stratRead (h : s.MemOk) : (s.stratRead c a n).1.MemOk :=
  .ite (h.modCore fun _ hk => hk.noteErrs) (.endDueOf (h.modCore fun _ hk => hk.noteErrs))

theorem loadRow {p : TileP} {row k0 cs : Nat} {o : Operand} {quiet : Bool} (h : s.MemOk) :
    (s.loadRow c o p row k0 cs t quiet).1.MemOk := by
  unfold State.loadRow
  dsimp only
  split
  · refine foldl_memOk (P := fun (x : State × _) => x.1.MemOk) ?_ fun _ _ hu => hu.portFetch
    split
    · exact h.portFetch
    · exact h.portFetch.accessAll.scaleAccess
  · exact .ite h.portFetch h.portFetch.accessAll

theorem injectRow {o : Operand} {p : TileP} {m0 k0 cs : Nat} {masked : Nat → Bool} {quiet : Bool} (h : s.MemOk) :
    (s.injectRow c o p m0 k0 cs r t masked quiet).MemOk := by
  unfold State.injectRow
  dsimp only
  split
  · exact h
  · exact .ite (h.modCore fun _ hk => hk) (h.loadRow.modCore fun _ hk => hk)

theorem injectRows {o : Operand} {p : TileP} {m0 k0 cs l : Nat} {masked : Nat → Bool} {upto : Nat} (h : s.MemOk) :
    (s.injectRows c o p m0 k0 cs l masked upto n).MemOk := by
  induction n generalizing s with
  | zero => exact h
  | succ n ih => exact ih h.injectRow

theorem subVector {o : Operand} {p : TileP} {ch : Nat} (h : s.MemOk) : (s.subVector c o p n ch t).1.MemOk := by
  unfold State.subVector
  dsimp only
  split
  · split
    · exact h.stratRead.stratRead
    · exact h.portFetch.portFetch
  · split
    · exact h.stratRead
    · exact h.portFetch

theorem streamAccess {o : Operand} {p : TileP} {chs : List Nat} (h : s.MemOk) : (s.streamAccess c o p n t chs).MemOk := by
  unfold State.streamAccess
  refine .ite ?_ ?_
  · exact foldl_memOk h fun _ _ hu => hu.access
  · exact foldl_memOk (foldl_memOk h fun _ _ hu => hu.access) fun _ _ hu => hu.access

theorem enterGroup {p : TileP} {st : SetP} {grp e : Nat} (h : s.MemOk) : (s.enterGroup c o p st grp e).MemOk := by
  unfold State.enterGroup
  extract_lets gq col u0 us u r u' k
  have hu : u.MemOk := .ite h h.streamAccess
  have hr : r.1.MemOk := foldl_memOk (P := fun x : State × _ => x.1.MemOk) hu fun _ _ hv => hv.subVector
  clear_value r
  exact hr.setCore hr.core

theorem runLoad {p : TileP} {upto : Option Nat} (h : s.MemOk) : (s.runLoad c j p upto).1.MemOk := by
  unfold State.runLoad
  dsimp only
  refine .modCore ?_ fun _ hk => hk
  split
  · exact h.injectRow
  · exact h.injectRows

theorem landLoads {w : Nat} (h : s.MemOk) : (s.landLoads c w n).MemOk := by
  induction n generalizing s with
  | zero => exact h
  | succ n ih =>
    rw [State.landLoads]
    dsimp only
    split
    · exact h
    · split
      · exact h
      · exact ih (h.runLoad.modCore fun _ hk => hk)

theorem swapAt {w : Nat} (h : s.MemOk) : (s.swapAt c w).MemOk :=
  .modCore (.ite h.landLoads.violation.stallAt h.landLoads) fun _ hk => hk

theorem runJob {p : TileP} (h : s.MemOk) : (s.runJob c j p).1.MemOk := by
  unfold State.runJob
  dsimp only
  split
  · exact h.modCore fun _ hk => hk
  · split
    · exact h.runLoad
    · exact h.swapAt
    · exact h.enterGroup

theorem advance {col : Bool} (h : s.MemOk) : (s.advance c t col n).MemOk := by
  induction n generalizing s with
  | zero => exact h
  | succ n ih =>
    rw [State.advance]
    dsimp only
    refine .ite h ?_
    split
    · exact h
    · refine .ite h ?_
      split
      · exact h.await
      · exact ih (h.runJob.modCore fun _ hk => hk)

theorem arrayAt (h : s.MemOk) : (s.arrayAt c t).MemOk := h.advance

end State.MemOk

namespace Core.MemOk

theorem bankAt {cyc : Nat} {a : BankAct} (h : k.MemOk) : (k.bankAt b cyc a).MemOk := h

theorem bankGo {l : List BankEff} (h : k.MemOk) : (k.bankGo t l).1.MemOk := by
  induction l generalizing k with
  | nil => exact h
  | cons b l ih =>
    rw [Core.bankGo]
    dsimp only
    split
    · exact ih h
    · exact h

end Core.MemOk

namespace State.MemOk

theorem bankRun (h : s.MemOk) : (s.bankRun c t).MemOk := (h.setCore h.core.bankGo).violations

end State.MemOk

namespace Core.MemOk

theorem bankRead (h : k.MemOk) : (k.bankRead b).MemOk := h

theorem nstatAt {cyc : Nat} {v : BitVec 3} (h : k.MemOk) : (k.nstatAt cyc v).MemOk := .ite h h

theorem ellViolations (h : k.MemOk) : (k.ellViolations n).MemOk := h.modEll

theorem vWrite {lat : Nat} {r : BitVec 5} {mask v : VReg} (h : k.MemOk) : (k.vWrite lat r mask v).MemOk := h.later

theorem vBusy {lat : Nat} (h : k.MemOk) : (k.vBusy lat).MemOk := h

end Core.MemOk

namespace State.MemOk

theorem vecSlot {bad : Bool} {lat : Nat} {f : Core → Core} (h : s.MemOk) (hf : ∀ a : Core, a.MemOk → (f a).MemOk) :
    Out.MemOk (s.vecSlot c e bad lat f) :=
  h.slotP fun _ hu => hu.modCore fun _ hk => .vBusy (hf _ hk)

theorem vecOp {bad : Bool} {lat : Nat} {vd : BitVec 5} {g : Core → VReg} (h : s.MemOk) :
    Out.MemOk (s.vecOp c e bad lat vd g) :=
  h.vecSlot fun _ hk => hk.vWrite

theorem vecEl {f : BitVec 4} {lat : Fmt → Nat} {vd va vb vc : BitVec 5} {g : Fmt → Nat → Nat → Nat → Nat} (h : s.MemOk) :
    Out.MemOk (s.vecEl c e f lat vd va vb vc g) :=
  h.vecOp

theorem vecFn {f : BitVec 4} {lat : Nat} {vd va : BitVec 5} {g : Fmt → Nat → Nat} (h : s.MemOk) :
    Out.MemOk (s.vecFn c e f lat vd va g) :=
  h.vecEl

theorem vecPhaseFn {f : BitVec 4} {vd va : BitVec 5} {g : Fmt → Nat → Nat} (h : s.MemOk) :
    Out.MemOk (s.vecPhaseFn c e f vd va g) :=
  h.vecOp

theorem vecReduce {f : BitVec 4} {vd va : BitVec 5} {g : Fmt → Nat → Nat → Nat} (h : s.MemOk) :
    Out.MemOk (s.vecReduce c e f vd va g) :=
  h.vecOp

end State.MemOk

namespace Core.MemOk

theorem bankSample (h : k.MemOk) : (k.bankSample b).MemOk := h.bankGo.ellViolations.bankRead

end Core.MemOk

namespace State.MemOk

theorem sampleSlot {bad : Bool} {lat : Nat} {f : Core → Core} (h : s.MemOk) (hf : ∀ a : Core, a.MemOk → (f a).MemOk) :
    Out.MemOk (s.sampleSlot c e bad lat b f) := by
  unfold State.sampleSlot
  refine h.slotP fun _ hu => ?_
  split
  · exact hu.await.modCore fun _ hk => hk.modEll
  · exact hu.modCore fun _ hk => .vBusy (hf _ hk)

end State.MemOk

theorem execVacsumBankWrite_memOk {bank : BitVec 2} (h : s.MemOk) : Out.MemOk (execVacsumBankWrite c bank s) := by
  unfold execVacsumBankWrite
  refine h.coreEvent fun _ hk => ?_
  split
  · exact .next h
  · exact .next h.bankRun

theorem execVacvt_memOk {f : BitVec 4} {vd : BitVec 5} {bank : BitVec 2} {sat clr : Bool} {part : BitVec 3} (h : s.MemOk) :
    Out.MemOk (execVacvt c e f vd bank sat clr part s) := by
  refine h.sampleSlot fun k hk => ?_
  extract_lets sampled xs ys written
  have hw : written.MemOk := .nstatAt (.ite hk.bankSample.vWrite hk.bankSample.vWrite)
  exact .ite hw.bankAt hw

theorem execVrq_memOk {vd : BitVec 5} (h : s.MemOk) : Out.MemOk (execVrq c e vd s) := by
  unfold execVrq
  dsimp only
  refine h.vecSlot fun _ hk => ?_
  split
  · exact hk.vWrite.ellViolations
  · exact .vWrite hk

end Sys2Proof.Machine
end

section
/-!
Flags and barriers, ports and links, patrols and scrubs (07, 08, 10): each function of the
model keeps the memories in canonical form.
-/

namespace Sys2Proof.Machine

variable {s : State} {k : Core} {x : Run} {d : Hogshead} {c t a b n m i r p f st port die off stop : Nat} {e : EllEnd} {v : Word}
  {bs : List Byte} {g : Ing} {code : Byte} {info : Word} {acc : Bool} {q : Payload} {j : Job} {o : MatOp}

namespace State.MemOk

theorem modFlag {f : Flag → Flag} (h : s.MemOk) : (s.modFlag p f).MemOk := by
  unfold State.modFlag
  dsimp only
  split <;> exact h

theorem modBarr {f : Barrier → Barrier} (h : s.MemOk) : (s.modBarr p f).MemOk := by
  unfold State.modBarr
  dsimp only
  split <;> exact h

theorem flagRace {f : Flag} (h : s.MemOk) : (s.flagRace f).MemOk := by
  unfold State.flagRace
  dsimp only
  split
  · exact .postEvent h
  · exact h

theorem reportRaces {due : Flag → Bool} (h : s.MemOk) : (s.reportRaces due).MemOk :=
  foldl_memOk h fun _ _ hu => .ite hu.flagRace.modFlag hu

theorem reportPast (h : s.MemOk) : s.reportPast.MemOk := h.reportRaces

theorem flagOp {origin : Option Nat} {rank : Nat × Nat} {val : Bool} (h : s.MemOk) :
    (s.flagOp p origin rank st val).MemOk := by
  unfold State.flagOp
  dsimp only
  split
  · exact h
  · exact .ite h (.ite h.modFlag (.modFlag (.ite h.flagRace h)))

end State.MemOk

namespace Core.MemOk

theorem syncDoneAt (h : k.MemOk) : (k.syncDoneAt t).MemOk := h

end Core.MemOk

namespace State.MemOk

theorem bridgeSet {ctx : Nat} (h : s.MemOk) : (s.bridgeSet ctx b).MemOk := by
  unfold State.bridgeSet
  dsimp only
  split
  · exact .ite h h
  · exact h

theorem flagSignal {vid : BitVec 16} {val : Bool} (h : s.MemOk) : (s.flagSignal c i vid val).MemOk := by
  unfold State.flagSignal
  dsimp only
  split
  · exact h
  · split
    · exact h
    · split
      · split
        · exact .flagOp (h.modCore fun _ hk => hk.syncDoneAt)
        · exact h.modCore fun _ hk => hk.syncDoneAt
      · exact .sendSync (h.modCore fun _ hk => hk)
      · exact .ite (.sendSync (h.modCore fun _ hk => hk)) (h.modCore fun _ hk => hk)
      · exact .ite (.bridgeSet (h.modCore fun _ hk => hk.syncDoneAt)) (h.modCore fun _ hk => hk.syncDoneAt)

theorem overrun {b : Barrier} {core : Nat} (h : s.MemOk) : (s.overrun p b core).MemOk := by
  unfold State.overrun
  dsimp only
  refine .endRun ?_
  split
  · exact .postEvent (.ite h.modBarr h.modBarr)
  · exact .ite h.modBarr h.modBarr

theorem pushArrival {a : Arrival} (h : s.MemOk) : (s.pushArrival p a).MemOk := h.modBarr

theorem pushRelease {a : Release} (h : s.MemOk) : (s.pushRelease p a).MemOk := h.modBarr

theorem arrive {a : Arrival} (h : s.MemOk) : (s.arrive p a).MemOk := by
  unfold State.arrive
  dsimp only
  split
  · exact h
  · refine .ite h (.ite h.overrun (.ite h.modBarr ?_))
    split
    · exact foldl_memOk h.modBarr.modBarr fun _ _ hu => .ite hu.pushRelease hu.sendHubSync
    · refine .ite ?_ ?_
      · exact .ite (.ite h.modBarr.pushArrival h.modBarr.sendHubSync) h.modBarr.pushRelease
      · exact h.modBarr.pushArrival

end State.MemOk

namespace Core.MemOk

theorem endHold {q : Hold → Bool} (h : k.MemOk) : (k.endHold q t).MemOk := by
  unfold Core.endHold
  refine .ite h ?_
  split
  · exact .ite h h
  · exact h

theorem wake {vid : BitVec 16} {par overran : Bool} (h : k.MemOk) : (k.wake vid par overran t).MemOk := by
  unfold Core.wake
  dsimp only
  split
  · exact h
  · exact .ite (.syncDoneAt h) (.endHold (.syncDoneAt h))

end Core.MemOk

namespace State.MemOk

theorem release {a : Release} (h : s.MemOk) : (s.release p a).MemOk := by
  unfold State.release
  dsimp only
  split
  · exact h
  · refine .ite h ?_
    split
    · exact h.modCore fun _ hk => hk.wake
    · refine foldl_memOk h.modBarr fun _ _ hu => ?_
      split <;> exact hu.pushRelease

theorem releasesUntil (h : s.MemOk) : (s.releasesUntil p t n).MemOk := by
  induction n generalizing s with
  | zero => exact h
  | succ n ih =>
    rw [State.releasesUntil]
    split
    · exact h
    · split
      · exact h
      · exact .ite (ih h.modBarr.release) h

theorem syncSlot {barr : Bool} {vid : BitVec 16} {f : State → State} (h : s.MemOk) (hf : ∀ u : State, u.MemOk → (f u).MemOk) :
    Out.MemOk (s.syncSlot c e barr vid f) :=
  h.slot fun _ hu => .ite (.ite hu.raiseAsync (hu.modCore fun _ hk => hk.modEll)) (hf _ hu)

end State.MemOk

theorem execFwait_memOk {vid : BitVec 16} {val autoclr : Bool} (h : s.MemOk) :
    Out.MemOk (execFwait c e vid val autoclr s) := by
  unfold execFwait
  dsimp only
  refine h.syncSlot fun _ hu => ?_
  split
  · exact hu
  · split
    · exact hu
    · exact hu.modCore fun _ hk => hk

theorem execBarr_memOk {vid : BitVec 16} {nowait : Bool} (h : s.MemOk) : Out.MemOk (execBarr c e vid nowait s) := by
  unfold execBarr
  dsimp only
  refine h.syncSlot fun _ hu => ?_
  split
  · exact hu
  · split
    · exact hu
    · exact hu.modBarr.pushArrival.modCore fun _ hk => hk

theorem execEvent_memOk {code : BitVec 16} (h : s.MemOk) : Out.MemOk (execEvent c e code s) := by
  unfold execEvent
  dsimp only
  refine h.slot fun _ hu => ?_
  split
  · exact .postEvent (hu.modCore fun _ hk => hk.syncDoneAt)
  · exact hu.modCore fun _ hk => hk.syncDoneAt

theorem execFwaitWake_memOk (h : s.MemOk) : Out.MemOk (execFwaitWake c s) := by
  unfold execFwaitWake
  dsimp only
  refine h.coreEvent fun _ hk => ?_
  split
  · split
    · exact .next h
    · exact .next (.ite (.flagSignal (h.modCore fun _ hl => hl.endHold)) (h.modCore fun _ hl => hl.endHold))
  · exact .next h

theorem execFenceRelease_memOk (h : s.MemOk) : Out.MemOk (execFenceRelease c s) := by
  unfold execFenceRelease
  refine h.coreEvent fun _ hk => ?_
  split
  · exact .ite (.next (h.modCore fun _ hl => hl.endHold)) (.next h)
  · exact .next h

theorem execFlagViewUpdate_memOk (h : s.MemOk) : Out.MemOk (execFlagViewUpdate p c s) := by
  unfold execFlagViewUpdate
  dsimp only
  split
  · exact .fault
  · split
    · exact .next h
    · exact .next (.ite (h.modFlag.modCore fun _ hk => hk) h.modFlag)

theorem execBarrierArrival_memOk (h : s.MemOk) : Out.MemOk (execBarrierArrival p s) := by
  unfold execBarrierArrival
  dsimp only
  split
  · exact .fault
  · split
    · exact .next h
    · split
      · exact .next h.releasesUntil
      · exact .next h.releasesUntil.modBarr.arrive

theorem execBarrierRelease_memOk (h : s.MemOk) : Out.MemOk (execBarrierRelease p s) := by
  unfold execBarrierRelease
  split
  · exact .fault
  · split
    · exact .next h
    · exact .next h.modBarr.release

theorem execDigestHandover_memOk (h : s.MemOk) : Out.MemOk (execDigestHandover c s) := by
  unfold execDigestHandover
  dsimp only
  refine h.coreEvent fun _ hk => .ite (.next h) ?_
  split
  · exact .next h
  · exact .next (.modRun (h.modCore fun _ hl => hl) fun _ hx => hx)

namespace State.MemOk

theorem watchDead (h : s.MemOk) : (s.watchDead r x).MemOk := h.modRun fun _ hx => hx

end State.MemOk

theorem execDeadlock_memOk (h : s.MemOk) : Out.MemOk (execDeadlock r s) := by
  unfold execDeadlock
  dsimp only
  split
  · exact .fault
  · split
    · exact .next h
    · exact .next h
    · exact .ite (.next h) (.next (.endRun (.postEvent (.ite h h))))

namespace State.MemOk

theorem breakCore {now : Nat} (h : s.MemOk) : (s.breakCore c now).MemOk :=
  foldl_memOk (h.modCore fun _ hk => .ite hk hk.syncDoneAt) fun _ _ hu => hu.raiseAsyncAt

theorem breakRun (h : s.MemOk) : (s.breakRun r).MemOk :=
  .ite h.reportPast (foldl_memOk h.reportPast fun _ _ hu => hu.breakCore)

end State.MemOk

theorem execObjectBreak_memOk (h : s.MemOk) : Out.MemOk (execObjectBreak r s) := by
  unfold execObjectBreak
  split
  · exact .fault
  · exact .next h.breakRun

theorem execTrapEntry_memOk (h : s.MemOk) : Out.MemOk (execTrapEntry c s) := by
  unfold execTrapEntry
  dsimp only
  refine h.coreEvent fun _ hk => .ite (.next h) ?_
  split
  · exact .next h
  · exact .ite (.next h) (.next (.takeAsync (h.arrayAt.modCore fun _ hl => hl)))

namespace State.MemOk

theorem creditBack (h : s.MemOk) : (s.creditBack c p t).MemOk := by
  unfold State.creditBack
  split
  · exact h.violation
  · exact .ite h.violation (h.modCore fun _ hk => hk)

theorem syncApply {e : Nat} (h : s.MemOk) : (s.syncApply r e t).MemOk := by
  unfold State.syncApply
  dsimp only
  split
  · split
    · exact h.flagOp
    · exact h
  · split
    · exact h.flagOp
    · exact h
  · exact .ite h.creditBack h
  · split
    · exact h.pushArrival
    · exact h
  · split
    · exact h.pushRelease
    · exact h
  · exact h

theorem putWord {w : List Nat} (h : s.MemOk) : (s.putWord p w).MemOk := .ite h.modPort (.ite h.modPort h)

theorem pushSlot {k : Nat} {g : Grain} (h : s.MemOk) : (s.pushSlot p k g).MemOk := .ite h (.ite h.setPort h.setPort.putWord)

theorem emit {k : Nat} {g : Grain} (h : s.MemOk) : (s.emit p k g).MemOk :=
  .ite h.modPort (.ite h.pushSlot h.transmit.pushSlot)

theorem fillSlot {k : Nat} (h : s.MemOk) : (s.fillSlot p k).MemOk := by
  unfold State.fillSlot
  dsimp only
  refine .ite h ?_
  split
  · exact .ite h.setPort.emit h.pushSlot
  · exact h.pushSlot

theorem queueNak {w : DWord} (h : s.MemOk) : (s.queueNak port w).MemOk := h.modPort

theorem refuse {src seq reason dcore strm q : Nat} (h : s.MemOk) : (s.refuse port r src seq reason dcore strm q t).MemOk :=
  .queueNak h

theorem refuseCopy {dcore strm reason : Nat} (h : s.MemOk) : (s.refuseCopy port dcore strm reason).MemOk := by
  unfold State.refuseCopy
  dsimp only
  split
  · exact h
  · exact .ite (.endRun h) (.queueNak h)

theorem nakIn {w : DWord} (h : s.MemOk) : (s.nakIn port w).MemOk := by
  unfold State.nakIn
  dsimp only
  refine .ite h (.ite h.modPort.modPort (.ite ?_ ?_))
  · split
    · exact h.modPort
    · exact .ite h.modPort (.modPort h)
  · split
    · exact h.modPort.queueNak
    · exact h.modPort.noRoute

end State.MemOk

theorem execResend_memOk (h : s.MemOk) : Out.MemOk (execResend port s) := by
  unfold execResend
  dsimp only
  refine .ite .fault ?_
  split
  · exact .next h
  · refine .ite (.next h) ?_
    split
    · exact .next h.setPort.emit
    · exact .next (.modRun h.setPort.emit fun _ hx => hx)

namespace State.MemOk

theorem sendMgmt {dmod type job : Nat} {rest : List Byte} (h : s.MemOk) : (s.sendMgmt dmod type job rest).MemOk :=
  h.sendRouted

theorem toParticipants {type : Nat} {rest : List Byte} (h : s.MemOk) : (s.toParticipants x type rest).MemOk :=
  foldl_memOk h fun _ _ hu => hu.sendMgmt

theorem learnLoss {d owner : Nat} (h : s.MemOk) : (s.learnLoss r d owner port).MemOk := by
  unfold State.learnLoss
  split
  · exact h
  next hx => exact .ite h.endRun (.ite h.endRun (h.setRun (h.run? hx :)))

theorem lossFor {reset : Bool} (h : s.MemOk) : (s.lossFor port reset r x).MemOk := h.postEvent.toParticipants.learnLoss

theorem portDown {reset : Bool} (h : s.MemOk) : (s.portDown port reset).MemOk := by
  unfold State.portDown
  dsimp only
  refine .ite h ?_
  split
  · exact h
  · exact foldl_memOk h fun _ _ hu => hu.lossFor

theorem farLoop (h : s.MemOk) : (s.farLoop port).MemOk := .ite h h.portDown.modPort

theorem portState {st : BitVec 3} (h : s.MemOk) : (s.portState p st).MemOk := .ite h h

theorem nextPhase (h : s.MemOk) : (s.nextPhase p).MemOk := .ite h (.ite h.portState.modPort (.ite h.portState h.portState))

theorem exchange {partner : BitVec 10} {system : BitVec 4} {partnerPort : BitVec 5} {eq0 eq1 : Byte} {micros : Nat}
    (h : s.MemOk) :
    (s.exchange p partner system partnerPort eq0 eq1 micros).MemOk :=
  .ite h.modPort.modPort.portState h.modPort

theorem chainSteer {k : Nat} {next : Bool} {tt : DWord} (h : s.MemOk) : (s.chainSteer k a next tt).MemOk := .ite h h

theorem loadCount {count depth : Nat} (h : s.MemOk) : (s.loadCount count depth).MemOk := h

theorem adoptCount {count : Nat} (h : s.MemOk) : (s.adoptCount count).MemOk := h

theorem timeIn {k : Nat} {prev : Option (BitVec 16 × Nat)} {tt : DWord} (h : s.MemOk) :
    (s.timeIn port k a prev tt).MemOk := by
  unfold State.timeIn
  extract_lets next due _ heard
  have hu : heard.MemOk := .ite h h
  clear_value due
  split
  · split
    · exact h.adoptCount
    · exact h
  · split
    · exact hu
    · split
      · exact hu.loadCount.chainSteer
      · exact hu.chainSteer

theorem malformedGrain {cond frame slot : Nat} (h : s.MemOk) : (s.malformedGrain port cond frame slot).MemOk :=
  h.modPort.queueNak

theorem missControl (h : s.MemOk) : (s.missControl port).MemOk := .ite h.setPort.portDown h.setPort

end State.MemOk

theorem execControlGrain_memOk {arrival : Nat} (h : s.MemOk) : Out.MemOk (execControlGrain port arrival s) := by
  unfold execControlGrain
  refine .ite .fault ?_
  split
  · exact .next h
  next g x _ =>
    have hs : (s.setPort port x).MemOk := h.setPort
    refine .ite (.next hs) (.ite (.next hs.missControl) ?_)
    extract_lets frame idx malformed tt slot0 heard looped answered
    have hm : malformed.MemOk := hs.malformedGrain.modPort
    have hl : looped.MemOk := .ite hs.setPort.farLoop hs.setPort
    have ha : answered.MemOk := foldl_memOk hl fun _ _ hu => hu.nakIn
    exact .ite (.next (.ite hm.portDown hm)) (.ite (.next hs.portDown) (.next (.ite ha.timeIn ha)))

namespace State.MemOk

theorem slotViolation {own : Option (Nat × Run)} (h : s.MemOk) : (s.slotViolation own).MemOk := by
  unfold State.slotViolation
  split
  · exact h
  · exact h.postEvent.endRun

theorem forwardOn {own : Option (Nat × Run)} {ent : Option SlotRec} {g : Grain} (h : s.MemOk) :
    (s.forwardOn own ent g).MemOk := by
  unfold State.forwardOn
  split
  · exact h.forwardSlot
  · exact .ite h.forwardResent (.ite h h.sendRouted)

theorem refuseSlot {frame slot reason : Nat} {exp : Option (Nat × Run × Nat × Nat)} (h : s.MemOk) :
    (s.refuseSlot port frame slot reason exp).MemOk := by
  unfold State.refuseSlot
  dsimp only
  split
  · exact h
  · split
    · exact .ite h.flyStream h.refuse
    · exact h.refuse

theorem deliver {frame slot : Nat} {own : Option (Nat × Run)} {g : Grain} (h : s.MemOk) :
    (s.deliver port frame slot own g).MemOk := by
  unfold State.deliver
  dsimp only
  split
  · exact h
  · split
    · exact .ite h.fly h.fly.sentTo
    · exact h

theorem grainIn {frame slot : Nat} {g : Grain} (h : s.MemOk) : (s.grainIn port frame slot g).MemOk := by
  unfold State.grainIn
  extract_lets own ent exp here passes failed taken
  have hf : failed.MemOk := h.modPort
  refine .ite (.ite hf.refuseSlot (.ite hf.forwardOn (.ite hf (.ite hf.refuseCopy (.ite hf hf.forwardOn))))) (.ite h.refuseSlot ?_)
  split
  next cond _ =>
    extract_lets malformed ended
    have he : ended.MemOk := .ite h.malformedGrain.slotViolation h.malformedGrain
    exact .ite he.refuseCopy he.refuseSlot
  next =>
    have ht : taken.MemOk := h.modPort
    refine .ite ht.refuseSlot (.ite (.ite ht.forwardOn ht.forwardOn) (.ite ?_ (.ite ht.deliver ht.sendRouted)))
    split
    · exact ht
    · exact .fly ht

end State.MemOk

theorem execPortGrainReceive_memOk (h : s.MemOk) : Out.MemOk (execPortGrainReceive port s) := by
  unfold execPortGrainReceive
  dsimp only
  refine .ite .fault ?_
  split
  · exact .next h
  · refine .ite (.next h.setPort) ?_
    split
    · exact .next (.grainIn h)
    · split
      · exact .next h
      · exact .next h.setPort.grainIn

namespace Ing.MemOk

theorem keep {f : Nat × Copy → Bool} (h : g.MemOk) : (g.keep f).MemOk := h

end Ing.MemOk

theorem execHogsheadReissue_memOk {chan : Nat} {ok : Bool} (h : s.MemOk) :
    Out.MemOk (execHogsheadReissue c die chan off ok s) := by
  refine .ite .fault (h.coreEvent fun k hk => ?_)
  extract_lets n first reissued failed counted
  have hr : reissued.MemOk := .stallNow (.countReissue (.ite h.hgDue h))
  have hc : counted.MemOk := .modHog (.ite hr hr.hgDue) fun _ hd => hd
  exact .next (.ite hc.hgGiveUp hc)

theorem execHogsheadRefresh_memOk {chan due : Nat} (h : s.MemOk) : Out.MemOk (execHogsheadRefresh die chan due s) := by
  unfold execHogsheadRefresh
  extract_lets m d refreshed used _ collided
  have hr : refreshed.MemOk := h.modHog fun _ hd => hd
  have hu : used.MemOk := hr.modHog fun _ hd => hd
  have hc : collided.MemOk := .chargeRuns hu
  refine .ite .fault (.ite (.next h) (.ite (.next hr) (.next ?_)))
  split
  · exact hc.stallPos
  · exact hc

namespace State.MemOk

theorem countRewrites (h : s.MemOk) : (s.countRewrites n).MemOk := .ite h h

end State.MemOk

theorem execHogsheadPatrol_memOk {line : Nat} (h : s.MemOk) : Out.MemOk (execHogsheadPatrol die line s) := by
  unfold execHogsheadPatrol
  refine .ite .fault (.ite ?_ ?_)
  · exact .next h
  · exact .next (.modHog (foldl_memOk h.hgCorrected fun _ _ hu => hu.hgDue) fun _ hd => hd)

namespace Core.MemOk

theorem scrubbed (h : k.MemOk) : k.scrubbed.MemOk := Core.memOk_reset.withStrat h.strat

end Core.MemOk

namespace State.MemOk

theorem beginScrub (h : s.MemOk) : (s.beginScrub c).MemOk := h.modCore fun _ hk => hk

theorem beginScrubs {l : List Nat} (h : s.MemOk) : (s.beginScrubs l).MemOk := by
  induction l generalizing s with
  | nil => exact h
  | cons b l ih => exact ih h.beginScrub

end State.MemOk

theorem execStart_memOk (h : s.MemOk) : Out.MemOk (execStart c v s) :=
  h.coreEvent fun _ _ => .ite (.next h.beginScrub) (.next h)

namespace Hogshead.MemOk

theorem clear (h : d.MemOk) : (d.clear off n).MemOk := Mem.Ok.clear h.flush

end Hogshead.MemOk

namespace State.MemOk

theorem beginRegionScrub (h : s.MemOk) : (s.beginRegionScrub die off n).MemOk := h.modHog fun _ hd => .ite hd.clear hd

end State.MemOk

theorem execCreditReturn_memOk {pool : BitVec 8} (h : s.MemOk) : Out.MemOk (execCreditReturn c pool s) := by
  unfold execCreditReturn
  refine h.coreEvent fun _ hk => ?_
  split
  · exact .next h
  · exact .next h.creditBack

end Sys2Proof.Machine
end

section
/-!
Grains that land, the bridges, runs from their admission to their end (09, 10, 13, 14): each function of the
model keeps the memories in canonical form.
-/

namespace Sys2Proof.Machine

variable {s : State} {k : Core} {x : Run} {d : Hogshead} {c t a b n m i r p f st port die off stop : Nat} {e : EllEnd} {v : Word}
  {bs : List Byte} {g : Ing} {code : Byte} {info : Word} {acc : Bool} {q : Payload} {j : Job} {o : MatOp}

namespace State.MemOk

theorem ringCrc {bad : Bool} (h : s.MemOk) : (s.ringCrc bad).MemOk := .ite h h

theorem takeFlight {q : Flight → Bool} {y : Flight} {u : State} (h : s.MemOk) (hu : s.takeFlight q = some (y, u)) : u.MemOk := by
  obtain ⟨z, -, hz⟩ := Option.map_eq_some_iff.1 hu
  cases hz
  exact State.MemOk.modRun (by exact h) fun _ hx => hx

theorem landed {q : Nat} (h : s.MemOk) : (s.landed c st q).MemOk := .ite h h

theorem land {f : Flight} {how : Landing} (h : s.MemOk) : (s.land c f how).MemOk := by
  unfold State.land
  extract_lets g failed poisoned st counted raised bytes bad
  have hr : raised.MemOk := .ite h.ringCrc.raiseAsyncAt h.ringCrc
  clear_value raised
  split
  · exact hr.violation
  · extract_lets q landed a now p banked
    have hl : landed.MemOk := hr.modCore fun _ hk => hk
    split
    · exact hl.violation
    · exact .ite hl.violation (.modCore hl.access fun _ hk => hk.spadLater)
    · have hb : banked.MemOk := hl.modCore fun _ hk => hk.bankAt
      exact .ite hb.violation hb

end State.MemOk

theorem execGrainLanding_memOk {stream : BitVec 8} {how : Landing} (h : s.MemOk) :
    Out.MemOk (execGrainLanding c stream how s) := by
  unfold execGrainLanding
  refine h.coreEvent fun _ hk => ?_
  split
  · exact .next h
  next hx => exact .next (((h.takeFlight hx :).land).landed)

namespace State.MemOk

theorem hostepErr (h : s.MemOk) : s.hostepErr.MemOk := h

end State.MemOk

namespace Run.MemOk

theorem modReq {id : DWord} {f : Req → Req} (h : x.MemOk) : (x.modReq id f).MemOk := h

end Run.MemOk

namespace State.MemOk

theorem queueReply {core stream : Nat} (h : s.MemOk) : (s.queueReply r core stream t bs).MemOk := h

theorem hostFetch {p : Payload} (h : s.MemOk) : (s.hostFetch r x p t).MemOk := h.queueReply

theorem hostKey {p : Payload} (h : s.MemOk) : (s.hostKey r x p t).MemOk := h.queueReply

theorem hostPut {p : Payload} (h : s.MemOk) : (s.hostPut r x p t).MemOk := by
  unfold State.hostPut
  dsimp only
  refine .ite h.hostepErr ?_
  split
  · exact h
  · exact .ite h (h.modRun fun _ hx => hx.modReq)

theorem hostAct {p : Payload} (h : s.MemOk) : (s.hostAct r x p t).MemOk := by
  unfold State.hostAct
  refine .ite h.hostepErr ?_
  split
  · exact h.hostFetch
  · exact h.hostKey
  · exact h.hostPut
  · exact h.hostepErr

theorem hostEvent {op : Nat} (h : s.MemOk) : Out.MemOk (s.hostEvent r op) := by
  unfold State.hostEvent
  split
  · exact .fault
  next hx =>
    refine .ite .fault ?_
    split
    · exact .next h
    next hy => exact .next ((h.takeFlight hy :).hostAct)

end State.MemOk

theorem execHubReply_memOk {core : Nat} {stream : BitVec 8} (h : s.MemOk) : Out.MemOk (execHubReply r core stream s) := by
  unfold execHubReply
  dsimp only
  split
  · exact .fault
  · split
    · exact .next h
    · exact .ite (.next h) (.next (.sentTo (.fly h)))

namespace State.MemOk

theorem syncEntries {pl : Nat} (h : s.MemOk) : (s.syncEntries r t pl n).MemOk := by
  induction n generalizing s pl with
  | zero => exact h
  | succ n ih => exact ih h.syncApply

theorem hubAct {f : Flight} (h : s.MemOk) : (s.hubAct r f).MemOk := by
  unfold State.hubAct
  split
  · exact h
  · exact .ite h.hostAct (.ite h h.syncEntries)

end State.MemOk

theorem execSyncGrainLanding_memOk {how : Landing} (h : s.MemOk) : Out.MemOk (execSyncGrainLanding r how s) := by
  unfold execSyncGrainLanding
  dsimp only
  split
  · exact .fault
  next hx =>
    refine .ite .fault ?_
    split
    · exact .next h
    next hy => exact .ite (.next (((h.takeFlight hy :).ringCrc).endRunDue)) (.next ((h.takeFlight hy :).hubAct))

namespace State.MemOk

theorem takeSlot {dir : Bool} {steps : Nat} (h : s.MemOk) : (s.takeSlot stop dir steps p).MemOk := h

theorem takeMoving {g : Grain} {y : Flight} {u : State} (h : s.MemOk) (hu : s.takeMoving r g = some (y, u)) : u.MemOk := by
  unfold State.takeMoving at hu
  cases hf : s.takeFlight (fun z => z.run == r && z.g == g) with
  | some z =>
    rw [hf] at hu
    cases hu
    exact h.takeFlight hf
  | none =>
    rw [hf] at hu
    obtain ⟨o, -, ho⟩ := Option.map_eq_some_iff.1 hu
    cases ho
    exact h

theorem moveOn {f : Flight} (h : s.MemOk) : (s.moveOn f).MemOk := .ite h.waitSlot h.fly

theorem drainStop (h : s.MemOk) : (s.drainStop stop).MemOk := foldl_memOk h fun _ _ hu => hu.moveOn

theorem drainAt (h : s.MemOk) : (s.drainAt p stop).MemOk := by
  unfold State.drainAt
  dsimp only
  split
  · exact h
  · exact .ite h.drainStop.takeSlot h

end State.MemOk

theorem execGrainCollision_memOk {g1 g2 : Grain} (h : s.MemOk) : Out.MemOk (execGrainCollision r stop g1 g2 s) := by
  unfold execGrainCollision
  dsimp only
  split
  · exact .fault
  · split
    · exact .next h
    next first =>
      split
      · exact .next h
      next second =>
        have hs := (h.takeMoving first).takeMoving second
        exact .next (.postEvent hs.drainStop.countConflict.stallNow.moveOn)

namespace State.MemOk

theorem setBe {dir : Bool} {q : List BeGrain} (h : s.MemOk) : (s.setBe stop dir q).MemOk := h

theorem beArrive {b : BeGrain} (h : s.MemOk) : (s.beArrive b p).MemOk := .ite h.sendRouted h.fly

end State.MemOk

theorem execBestEffortInject_memOk {increasing : Bool} (h : s.MemOk) :
    Out.MemOk (execBestEffortInject stop increasing s) := by
  unfold execBestEffortInject
  dsimp only
  split
  · exact .next h
  · exact .ite (.next h) (.next (.setBe h))

namespace State.MemOk

theorem beMove {key : Nat} (h : s.MemOk) : (s.beMove p key).MemOk := by
  unfold State.beMove
  dsimp only
  split
  · exact h
  · refine .ite h ?_
    split
    · exact h.setBe.takeSlot.beArrive
    · exact .ite h h.setBe.takeSlot.setBe

theorem ringAt (h : s.MemOk) : (s.ringAt p).MemOk :=
  foldl_memOk (foldl_memOk (foldl_memOk h fun _ _ hu => hu.beArrive) fun _ _ hu => hu.beMove) fun _ _ hu => hu.drainAt

theorem routed {out : Nat} {g : Grain} (h : s.MemOk) : (s.routed out g).MemOk := .ite h.modPort h.beEnter

theorem routerCycle {out : Nat} (h : s.MemOk) : (s.routerCycle out i).MemOk := by
  unfold State.routerCycle
  dsimp only
  refine .ite h ?_
  split
  · exact h
  · exact .routed h

theorem ringTick (h : s.MemOk) : s.ringTick.MemOk :=
  foldl_memOk (foldl_memOk h fun _ _ hu => hu.ringAt) fun _ _ hu => foldl_memOk hu fun _ _ hw => hw.routerCycle

theorem nullsAt {e : StreamEntry} (h : s.MemOk) : (s.nullsAt r x c st e).MemOk := .ite h h.flyNulls.sentTo

theorem nullsOut (h : s.MemOk) : (s.nullsOut r x).MemOk := foldl_memOk h fun _ _ hu => .ite hu hu.waitSlot

theorem nullTick (h : s.MemOk) : s.nullTick.MemOk :=
  foldl_memOk h fun _ _ hu => .nullsOut (foldl_memOk hu fun _ _ hw => hw.nullsAt)

theorem signed (h : s.MemOk) : (s.signed bs).1.MemOk := h

theorem completeReq {q : Req} {host : Bool} (h : s.MemOk) : (s.completeReq x q st host).MemOk := .ite h h.hostWrite.complete

theorem endReqs {host : Bool} {l : List Req} (h : s.MemOk) : (s.endReqs x st host l).MemOk := by
  induction l generalizing s with
  | nil => exact h
  | cons b l ih => exact ih (.ite h h.completeReq)

end State.MemOk

namespace Run.MemOk

theorem assignRows {byHost : Bool} {pt : Word} {eff : Nat} {y : Run} {l : List Req} (h : y.MemOk) :
    (Run.assignRows byHost pt eff y l).MemOk := by
  induction l generalizing y with
  | nil => exact h
  | cons b l ih =>
    rw [Run.assignRows]
    refine ih ?_
    split
    · exact h
    · exact h.modReq

end Run.MemOk

namespace State.MemOk

theorem finishReqs {l : List Req} (h : s.MemOk) : (s.finishReqs r x l).MemOk := by
  induction l generalizing s with
  | nil => exact h
  | cons b l ih => exact ih (.ite (h.completeReq.modRun fun _ hx => hx.modReq) h)

end State.MemOk

namespace Core.MemOk

theorem leave (h : k.MemOk) : k.leave.MemOk := h.settle.landed

end Core.MemOk

namespace State.MemOk

theorem releaseObjects (h : s.MemOk) : (s.releaseObjects r).MemOk := h.withHg (h.hg.map fun _ _ hd => .ite hd hd)

theorem leaveCores (h : s.MemOk) : (s.leaveCores r).MemOk :=
  (h.withCores (h.cores.map fun _ _ hk => .ite hk.leave hk)).withEllSaved h.ellSaved.filter

theorem catchUp (h : s.MemOk) : (s.catchUp r x).MemOk := .reportRaces (foldl_memOk h fun _ _ hu => hu.arrayAt)

theorem unmarkSaved (h : s.MemOk) : (s.unmarkSaved x).MemOk := by
  unfold State.unmarkSaved
  split
  · exact h
  · exact foldl_memOk h fun _ _ hu => hu.modCore fun _ hk => hk

theorem settleBounds (h : s.MemOk) : s.settleBounds.MemOk := .ite h h

theorem landAll {cores : Bool} (h : s.MemOk) : (s.landAll r x cores).MemOk := by
  unfold State.landAll
  extract_lets be late _ dropped moved landed out _
  have hm : moved.MemOk := by
    refine foldl_memOk (foldl_memOk ?_ fun _ _ hu => hu.moveOn) fun _ _ hu => hu.beArrive
    exact h
  have hl : landed.MemOk := foldl_memOk hm fun _ _ hu => .ite hu.hubAct (.ite hu.land hu)
  refine foldl_memOk ?_ fun _ _ hu => ?_
  · exact hl
  · split
    · exact .ite (.ite hu.transmit hu.transmit.retain) hu
    · exact hu

theorem letGo (h : s.MemOk) : (s.letGo r).MemOk := by
  unfold State.letGo
  dsimp only
  split
  · exact .ite h h
  · exact h

theorem finishRun {host : Bool} (h : s.MemOk) : (s.finishRun r st host).MemOk := by
  unfold State.finishRun
  split
  · exact h
  · next x _ =>
    extract_lets st' admitted signed m ended told done left
    have hm : m.1.MemOk := by
      simp only [m]
      split
      · exact State.MemOk.hostWrite h.signed
      · exact h
    have he : ended.MemOk := hm.endReqs
    clear_value ended
    have ht : told.MemOk := by
      simp only [told]
      split
      · exact .ite he.complete he
      · exact he
    clear_value told
    have hd : done.MemOk := .ite ht.complete he
    clear_value done
    have hl : left.MemOk := hd.letGo.releaseObjects.leaveCores.unmarkSaved
    exact .settleBounds (.withRuns hl hl.runs.del)

theorem concludeRun {st : Byte} (h : s.MemOk) : (s.concludeRun r st).MemOk := .settleBounds (h.modRun fun _ hx => hx)

theorem abortRun {st : Byte} (h : s.MemOk) : (s.abortRun r st).MemOk := by
  unfold State.abortRun
  split
  · exact h
  · split
    · exact h.endRun
    · exact h
    · exact .ite h.finishRun h.concludeRun
    · exact h.concludeRun

theorem sendAbort {st : Byte} (h : s.MemOk) : (s.sendAbort x st).MemOk := h.toParticipants

theorem drainBanks (h : s.MemOk) : (s.drainBanks r t).MemOk := foldl_memOk h fun _ _ hu => hu.bankRun

end State.MemOk

theorem execRunComplete_memOk (h : s.MemOk) : Out.MemOk (execRunComplete r s) := by
  unfold execRunComplete
  dsimp only
  split
  · exact .fault
  · split
    · exact .next h.catchUp.landAll.drainBanks.finishRun
    · exact .ite (.next h) (.next h.catchUp.landAll.drainBanks.finishRun)
    · exact .next h

namespace State.MemOk

theorem allocate (h : s.MemOk) : (s.allocate r x).MemOk := State.memOk_iff.2 (State.memOk_iff.1 h)

end State.MemOk

namespace Core.MemOk

theorem prepare {t : Tun} {e : CoreEnt} {ctx : Nat} (h : k.MemOk) : (k.prepare t e ctx r).MemOk := by
  unfold Core.prepare
  refine foldl_memOk (Core.memOk_iff.2 ?_) fun _ _ hk => hk.spadPut
  exact ⟨⟨Mem.ok_nil.writes, Mem.ok_nil.writes⟩, h.leave.spad, h.leave.strat⟩

end Core.MemOk

namespace State.MemOk

theorem prepareCores {l : List CoreEnt} (h : s.MemOk) : (s.prepareCores r x l).MemOk := by
  induction l generalizing s with
  | nil => exact h
  | cons b l ih => exact ih (h.modCore fun _ hk => hk.prepare)

theorem holdDies (h : s.MemOk) : (s.holdDies r x).MemOk :=
  foldl_memOk h fun _ _ hu => .ite (.modHog (hu.modHog fun _ hd => hd.flush) fun _ hd => hd) hu

theorem takeCores {l : List CoreEnt} (h : s.MemOk) : (s.takeCores x l).MemOk := by
  induction l generalizing s with
  | nil => exact h
  | cons b l ih => exact ih (.ite h.beginScrub h)

theorem lateLaunch (h : s.MemOk) : (s.lateLaunch r x).MemOk := .concludeRun (.sendAbort h)

theorem learnLaunch (h : s.MemOk) : (s.learnLaunch r c).MemOk := by
  unfold State.learnLaunch
  dsimp only
  split
  · exact h
  next hx => exact .ite h (.ite (.lateLaunch (h.setRun (h.run? hx :))) (.newEvent (h.setRun (h.run? hx :))))

theorem tryLaunch (h : s.MemOk) : (s.tryLaunch r).MemOk := by
  unfold State.tryLaunch
  dsimp only
  split
  · exact h
  · exact .ite h (.ite h (.ite h.toParticipants.learnLaunch h.sendAbort.concludeRun))

theorem putReady {y : ReadyRec} (h : s.MemOk) : (s.putReady y).MemOk := h

theorem towardsLaunch (h : s.MemOk) : (s.towardsLaunch r x).MemOk := by
  unfold State.towardsLaunch
  refine .ite ?_ ?_
  · exact h.learnLaunch
  · exact .ite h.learnLaunch (.ite (.tryLaunch (h.putReady.modRun fun _ hx => hx)) h.sendMgmt)

theorem restoreObjects {p : Preempt} (h : s.MemOk) : (s.restoreObjects r p).MemOk := State.memOk_iff.2 (State.memOk_iff.1 h)

theorem restoreCores {cs : KMap Core} (h : s.MemOk) (hc : CoresOk cs) : (s.restoreCores r cs).MemOk := by
  unfold State.restoreCores
  induction cs generalizing s with
  | nil => exact h
  | cons p cs ih =>
    obtain ⟨hp, hcs⟩ := Bool.and_eq_true_iff.1 hc
    refine ih (h.modCore fun k hk => ?_) hcs
    exact Core.MemOk.withStrat hp hk.strat

theorem occupy (h : s.MemOk) (hx : x.MemOk) : (s.occupy r x).MemOk := by
  unfold State.occupy
  split
  next hp => exact (h.restoreObjects.restoreCores (hx.saved hp)).holdDies
  next => exact (h.allocate.prepareCores).holdDies

end State.MemOk

namespace Run.MemOk

theorem admitted (h : x.MemOk) : (s.admitted x).MemOk := by
  unfold State.admitted
  split
  · exact Run.memOk_of_none rfl
  · exact h

end Run.MemOk

namespace State.MemOk

theorem countMalformed (h : s.MemOk) : (s.countMalformed f).MemOk := h.modCtx

end State.MemOk

theorem execRunAdmission_memOk (h : s.MemOk) : Out.MemOk (execRunAdmission r s) := by
  unfold execRunAdmission
  split
  · exact .fault
  next x hx =>
    have hrun : x.MemOk := h.run? hx
    extract_lets gateShut status es settled _ stepped _ opened taken
    have ho : opened.MemOk := by
      simp only [opened]
      split
      · exact h.settleBounds
      · exact h.settleBounds
    clear_value opened
    have ht : taken.MemOk := .setRun (ho.occupy hrun) hrun.admitted
    refine .ite (.next h) (.ite (.next (.finishRun (.ite h.countMalformed h))) (.ite (.next h) (.ite (.next h.takeCores) ?_)))
    exact .next ht.towardsLaunch

theorem execRequestEligible_memOk {reqId : DWord} {input : Dma} (h : s.MemOk) :
    Out.MemOk (execRequestEligible r reqId input s) := by
  unfold execRequestEligible
  dsimp only
  split
  · exact .fault
  next hx =>
    split
    · exact .fault
    · refine .ite (.next h) ?_
      split
      · exact .next (h.dmaFailed.completeReq.modRun fun _ hy => hy.modReq)
      · exact .ite (.next h) (.next (h.modRun fun _ hy => hy.modReq))

theorem execLayerDigestPost_memOk {ref : Dma} (h : s.MemOk) : Out.MemOk (execLayerDigestPost r ref s) := by
  unfold execLayerDigestPost
  split
  · exact .fault
  next x hx =>
    have hrun : x.MemOk := h.run? hx
    extract_lets l ps d cnt t mism failed posted detailed told read y finished
    have hd : detailed.MemOk := .ite (foldl_memOk h.postDigest fun _ _ hu => hu.postDigest) h.postDigest
    have ht : told.MemOk := .ite hd.postEvent hd
    have hr : read.MemOk := .ite ht.dmaFailed.postEvent ht
    have hy : y.MemOk := hrun
    have hf : finished.MemOk := .finishReqs (hr.setRun hy)
    exact .ite (.next h) (.ite (.next hf) (.next (hf.modRun fun _ hx => hx.assignRows)))

theorem execCoordinationTimeout_memOk (h : s.MemOk) : Out.MemOk (execCoordinationTimeout r s) := by
  unfold execCoordinationTimeout
  split
  · exact .fault
  · exact .ite (.next h) (.next h.sendAbort.concludeRun)

namespace State.MemOk

theorem ingEvent {b : Byte} (h : s.MemOk) : (s.ingEvent b).MemOk := h

theorem loadDone {c : Cmd} {q16 : Nat} (h : s.MemOk) : (s.loadDone f c st q16).MemOk := h.ingEvent.complete

theorem reply {e : Entry} {q16 : Nat} (h : s.MemOk) : (s.reply f e st q16).MemOk := .complete (.ite h.ingEvent h)

theorem deny {e : Entry} (h : s.MemOk) : (s.deny f e st).MemOk := h.reply

theorem malformed {e : Entry} (h : s.MemOk) : (s.malformed f e).MemOk := h.countMalformed.deny

theorem headOn (h : s.MemOk) : (s.headOn f).MemOk := h.modCtx

theorem submission {op : Nat} {e use : Entry} {body : State → State} (h : s.MemOk)
    (hbody : ∀ u : State, u.MemOk → (body u).MemOk) :
    Out.MemOk (s.submission f op e use body) := by
  unfold State.submission
  refine .ite .fault (.ite (.next h) (.ite (.next h) (.ite (.next h.headOn.deny) (.ite ?_ ?_))))
  · exact .next h.headOn.deny
  · exact .ite (.next h.headOn.deny) (.ite (.next h.headOn.malformed) (.next (hbody _ h.headOn)))

end State.MemOk

theorem execNop_memOk {e : Option Entry} (h : s.MemOk) : Out.MemOk (execNop f e s) := by
  unfold execNop
  split
  · exact h.submission fun _ hu => hu.reply
  · exact .ite .fault (.ite (.next h) (.next h.dmaFailed.modCtx.postEvent))

theorem execTunLoad_memOk {e : Entry} {img : Dma} (h : s.MemOk) : Out.MemOk (execTunLoad f e img s) := by
  unfold execTunLoad
  dsimp only
  refine h.submission fun _ hu => ?_
  split
  · exact hu.deny
  · split
    · exact hu.dmaFailed.deny
    · exact .ite hu.deny hu.modCtx.reply

namespace State.MemOk

theorem liveRun (h : s.MemOk) (hx : s.liveRun f n = some (r, x)) : x.MemOk := h.runs.mem (List.mem_of_find?_eq_some hx)

end State.MemOk

namespace Run.MemOk

/-- A run that RUN has just brought keeps no memories. -/
theorem new {cmd : Cmd} {e : Entry} {t : Tun} {posted : Nat} {fw : Bool × Word × Word} :
    (Run.new f cmd e t posted fw).MemOk := Run.memOk_of_none rfl

end Run.MemOk

theorem execRun_memOk {e : Entry} (h : s.MemOk) : Out.MemOk (execRun f e s) := by
  unfold execRun
  dsimp only
  refine h.submission fun _ hu => .ite hu.malformed ?_
  split
  · exact hu.deny
  · exact .ite hu.deny (hu.setRun .new)

theorem execRequest_memOk {e : Entry} (h : s.MemOk) : Out.MemOk (execRequest f e s) := by
  unfold execRequest
  dsimp only
  refine h.submission fun _ hu => .ite hu.malformed ?_
  split
  · exact hu.deny
  next hx => exact .ite hu.malformed (.ite hu.deny (hu.setRun (hu.liveRun hx :)))

theorem execCancel_memOk {e : Entry} (h : s.MemOk) : Out.MemOk (execCancel f e s) := by
  unfold execCancel
  dsimp only
  refine h.submission fun _ hu => .ite hu.malformed ?_
  split
  · exact hu.deny
  · exact .reply (.ite hu.finishRun hu.sendAbort.abortRun)

theorem execGrant_memOk {e : Entry} (h : s.MemOk) : Out.MemOk (execGrant f e s) := by
  unfold execGrant
  dsimp only
  refine h.submission fun _ hu => .ite hu.malformed (.ite hu.deny (.ite hu.deny ?_))
  split
  · exact hu.deny
  · exact hu.modCtx.reply

theorem execRevokeGrant_memOk {e : Entry} (h : s.MemOk) : Out.MemOk (execRevokeGrant f e s) := by
  unfold execRevokeGrant
  dsimp only
  refine h.submission fun _ hu => .ite hu.malformed (.ite hu.deny ?_)
  split
  · exact hu.deny
  · exact .ite hu.deny hu.modCtx.beginRegionScrub.reply

theorem execPmOptin_memOk {e : Entry} {pubkey : Dma} (h : s.MemOk) : Out.MemOk (execPmOptin f e pubkey s) := by
  unfold execPmOptin
  refine h.submission fun _ hu => .ite hu.modCtx.reply ?_
  split
  · exact hu.dmaFailed.deny
  · exact .ite hu.malformed hu.modCtx.reply

theorem execPreempt_memOk {e : Entry} (h : s.MemOk) : Out.MemOk (execPreempt f e s) := by
  unfold execPreempt
  refine h.submission fun _ hu => .ite hu.malformed ?_
  split
  · exact hu.deny
  · refine .ite hu.deny (.ite hu.malformed (.ite hu.sendAbort.abortRun.deny ?_))
    exact hu.setRun (Run.memOk_of_saved rfl CoresOk.nil)

theorem execResume_memOk {e : Entry} {image : Dma} (h : s.MemOk) : Out.MemOk (execResume f e image s) := by
  unfold execResume
  refine h.submission fun u hu => .ite hu.malformed ?_
  split
  · exact hu.deny
  next hx =>
    have hrun := hu.runs.mem (List.mem_of_find?_eq_some hx)
    split
    · exact hu.deny
    · refine .ite hu.finishRun.deny ?_
      split
      · exact hu.dmaFailed.deny
      · exact .ite hu.finishRun.deny (.reply (hu.setRun hrun))

namespace State.MemOk

theorem retention (h : s.MemOk) : (s.retention f).MemOk := by
  unfold State.retention
  split
  · exact h
  next addr len pub _ =>
    extract_lets b _
    clear_value b
    have hw (bs : List Byte) : (s.hostWrite f false addr bs).MemOk := h.hostWrite
    refine .ite h.postEvent ?_
    split
    · exact .postEvent (.ingEvent (hw b.1))
    next n _ => exact .postEvent (hw (b.1.take n))

theorem killRuns {host : Bool} {l : List (Nat × Run)} (h : s.MemOk) : (s.killRuns host l).MemOk := by
  induction l generalizing s with
  | nil => exact h
  | cons b l ih => exact ih (.finishRun (.ite h.breakRun.toParticipants h))

theorem killLoads {host : Bool} {l : List (Nat × Copy)} (h : s.MemOk) : (s.killLoads f host l).MemOk := by
  induction l generalizing s with
  | nil => exact h
  | cons p ps ih =>
    rw [State.killLoads]
    have ht : (if host then (p.2.waiters.filter fun w => w.1 == f).foldl (fun s w => s.loadDone f w.2 9 0) s else s).MemOk :=
      .ite (foldl_memOk h fun _ _ hu => hu.loadDone) h
    exact ih (ht.withIng (.ite ht.ing.keep ht.ing))

theorem unmapAll (h : s.MemOk) : (s.unmapAll f).MemOk := .modCtx h

theorem killStart {host : Bool} (h : s.MemOk) : (s.killStart f host).MemOk :=
  foldl_memOk (.beginScrubs (.ite h.killLoads.killRuns.retention h.killLoads.killRuns)) fun _ _ hu => hu.beginRegionScrub

theorem killEnd (h : s.MemOk) : (s.killEnd f).MemOk := h.unmapAll.modCtx

theorem killContext {host : Bool} (h : s.MemOk) : (s.killContext f host).MemOk := h.killStart.killEnd

theorem settleKill (h : s.MemOk) : (s.settleKill f).MemOk := by
  unfold State.settleKill
  dsimp only
  split
  · exact h
  · exact .ite h (foldl_memOk h.killEnd.modCtx fun _ _ hu => hu.complete)

theorem settleKills (h : s.MemOk) : s.settleKills.MemOk := foldl_memOk h fun _ _ hu => hu.settleKill

end State.MemOk

theorem execRegionScrubComplete_memOk (h : s.MemOk) : Out.MemOk (execRegionScrubComplete die off s) := by
  unfold execRegionScrubComplete
  refine .ite .fault (.ite ?_ ?_)
  · exact .next h
  · exact .next (.settleKills (h.modHog fun _ hd => foldl_memOk hd fun _ _ he => he.clear))

namespace State.MemOk

theorem mgmt {type : Nat} {p : Payload} {f : State} (h : s.MemOk) (hf : f.MemOk) : Out.MemOk (s.mgmt type p f) :=
  .next (.ite hf h)

theorem eachRun {f : State → Nat → State} {rs : List Nat} (h : s.MemOk)
    (hf : ∀ (u : State) (r : Nat), u.MemOk → (f u r).MemOk) :
    (s.eachRun f rs).MemOk :=
  foldl_memOk h fun _ _ hu => hf _ _ hu

end State.MemOk

theorem execChainFull_memOk {p : Payload} (h : s.MemOk) : Out.MemOk (execChainFull p s) := by
  refine h.mgmt (.ite h ?_)
  split
  · exact h
  · exact .ite h (.ite (.ite h.adoptCount h) h.loadCount)

namespace State.MemOk

theorem stepFor {stp : BitVec 2} (h : s.MemOk) : (s.stepFor r f stp).MemOk := by
  unfold State.stepFor
  dsimp only
  split
  · exact h
  next hx => exact .ite h (.ite h.sendAbort.abortRun (.ite (.endRun h) (h.setRun (h.run? hx :))))

end State.MemOk

namespace Run.MemOk

theorem extend {index : Nat} (h : x.MemOk) : (x.extend f index).MemOk := h

end Run.MemOk

namespace State.MemOk

theorem countHold (h : s.MemOk) : (s.countHold r).MemOk := .modRun h fun _ hx => hx

theorem flood {p : Payload} {except : Nat} (h : s.MemOk) : (s.flood p except).MemOk := foldl_memOk h fun _ _ hu => hu.queueOut

theorem sawHold {job : DWord} {index : Nat} (h : s.MemOk) : (s.sawHold job f index).MemOk := h

end State.MemOk

theorem execHoldOriginate_memOk (h : s.MemOk) : Out.MemOk (execHoldOriginate r s) := by
  unfold execHoldOriginate
  dsimp only
  split
  · exact .fault
  next hx =>
    refine .ite (.next h) (.ite ?_ ?_)
    · exact .next (h.setRun (h.run? hx :))
    · exact .next (.flood (.sawHold (.countHold (h.setRun (.extend (h.run? hx :))))))

namespace State.MemOk

theorem holdFor {index : Nat} (h : s.MemOk) : (s.holdFor r f index).MemOk := by
  unfold State.holdFor
  split
  · exact h
  next x hx =>
    have hrun : x.MemOk := h.run? hx
    extract_lets n late counted _ noted
    have hc : counted.MemOk := (h.setRun hrun.extend).countHold
    clear_value counted
    have hn : noted.MemOk := .ite hc.withChn hc
    clear_value noted
    exact .ite h (.ite hn (.modRun hn.stallNow fun _ hy => hy))

theorem saveRun {p : Preempt} (h : s.MemOk) : (s.saveRun r p).MemOk := by
  unfold State.saveRun
  extract_lets caught cs
  have hc : caught.MemOk := by
    simp only [caught]
    split
    · exact h.catchUp.landAll.letGo
    · exact h
  clear_value caught
  split
  · exact hc
  · extract_lets img q _ written marked released
    have hq : CoresOk q.cores := hc.cores.filter
    clear_value img
    have hw : written.MemOk := hc.hostWrite (f := 0) (relaxed := false) (a := p.addr) (bs := img)
    have hm : marked.MemOk := hw.setRun (Run.memOk_of_saved rfl hq)
    clear_value marked
    have hr : released.MemOk := hm.releaseObjects.complete
    refine .settleBounds (.withCores (.withEllSaved hr hr.ellSaved.filter) (hr.cores.map fun _ _ hk => ?_))
    exact .ite hk hk

end State.MemOk

theorem execRunLaunch_memOk (h : s.MemOk) : Out.MemOk (execRunLaunch r s) := by
  unfold execRunLaunch
  split
  · exact .fault
  next x hx =>
    have hrun : x.MemOk := h.run? hx
    split
    · exact .next h
    · extract_lets at0 assigned launched posted
      have ha : assigned.MemOk := .ite (.assignRows hrun) hrun
      have hp : posted.MemOk := .postEvent (h.setRun ha)
      refine .ite (.next h) (.ite (.next (.ite h.lateLaunch h))
        (.ite (.next h) (.ite (.next h.lateLaunch) (.ite (.next h.concludeRun) ?_))))
      split
      · exact .next (.ite hp.saveRun hp)
      · exact .next hp

namespace State.MemOk

theorem powerTo {st : BitVec 3} (h : s.MemOk) : (s.powerTo st).MemOk :=
  .ite h (foldl_memOk h fun _ _ hu => .ite (hu.modHog fun _ hd => hd) hu)

theorem toActive (h : s.MemOk) : s.toActive.MemOk := h.powerTo

theorem leaveHold (h : s.MemOk) : s.leaveHold.MemOk := h.toActive

theorem stepDue (h : s.MemOk) : (s.stepDue r f).MemOk := by
  unfold State.stepDue
  dsimp only
  split
  · exact h
  next hx =>
    split
    · exact h
    · exact .ite h (.ite (.settleBounds (h.setRun (h.run? hx :))) (.settleBounds (h.setRun (h.run? hx :))))

theorem sealDutyStall (h : s.MemOk) : s.sealDutyStall.MemOk := .ite h h.countEmerg

theorem refreshRates (h : s.MemOk) : (s.refreshRates r).MemOk :=
  foldl_memOk h fun _ _ hu => .ite (hu.modHog fun _ hd => hd) hu

theorem openFurlong (h : s.MemOk) : (s.openFurlong r f t).MemOk := by
  unfold State.openFurlong
  refine .withCores (h.modRun fun _ hx => ?_) (h.cores.map fun _ _ hk => .ite ?_ hk)
  · exact hx
  · exact hk

end State.MemOk

theorem execFurlongBoundary_memOk (h : s.MemOk) : Out.MemOk (execFurlongBoundary r s) := by
  unfold execFurlongBoundary
  split
  · exact .fault
  next x _ =>
    extract_lets f t passed left opened
    have hl : left.MemOk := .ite h.cycles.leaveHold h.cycles
    have ho : opened.MemOk := hl.openFurlong
    have hs : ((opened.stepDue r f).refreshRates r).sealDutyStall.MemOk := ho.stepDue.refreshRates.sealDutyStall
    refine .ite (.next h) (.ite .fault (.ite (.next h) (.ite (.next hl.concludeRun.sealDutyStall) ?_)))
    split
    · exact .ite (.next ho.saveRun.sealDutyStall) (.next hs)
    · exact .next hs

end Sys2Proof.Machine
end

section
/-!
Stones, instructions of the scalar slot, resets, rings and interrupts (05, 13, 14, 15): each function of the
model keeps the memories in canonical form.
-/

namespace Sys2Proof.Machine

variable {s : State} {k : Core} {x : Run} {d : Hogshead} {c t a b n m i r p f st port die off stop : Nat} {e : EllEnd} {v : Word}
  {bs : List Byte} {g : Ing} {code : Byte} {info : Word} {acc : Bool} {q : Payload} {j : Job} {o : MatOp}

namespace State.MemOk

theorem mapCopy (h : s.MemOk) : (s.mapCopy f i).MemOk := .ite h (.modCtx h)

theorem verifyFail (h : s.MemOk) : s.verifyFail.MemOk := h

theorem settleRewrites (h : s.MemOk) : s.settleRewrites.MemOk := .ite h h

theorem ingest {c : Cmd} {t : Tun} {y : Hash} {hostVer : Bool} (h : s.MemOk) : (s.ingest f c t bs y hostVer).MemOk := by
  unfold State.ingest
  dsimp only
  refine .ite h.verifyFail.ingEvent.loadDone (.ite h.loadDone (.ite h.loadDone (.ite h.loadDone (.ite h.loadDone ?_))))
  split
  · exact .loadDone (.settleRewrites (h.withIng h.ing.keep))
  · exact .settleRewrites (h.withIng h.ing.keep)

theorem verify {c : Cmd} {t : Tun} {len : Nat} {headerOnly : Bool} (h : s.MemOk) :
    (s.verify f c t bs len headerOnly).MemOk := by
  unfold State.verify
  dsimp only
  refine .ite h.loadDone (.ite h.verifyFail.loadDone
    (.ite h.loadDone (.ite h.verifyFail.ingEvent.loadDone (.ite h.verifyFail.ingEvent.loadDone ?_))))
  split
  · exact .ite h.mapCopy.loadDone (.ite h.loadDone h)
  · exact .ite h.loadDone h.ingest

end State.MemOk

theorem execStoneLoad_memOk {e : Entry} {stone : Dma} (h : s.MemOk) : Out.MemOk (execStoneLoad f e stone s) := by
  unfold execStoneLoad
  dsimp only
  refine h.submission fun _ hu => ?_
  split
  · exact hu.loadDone
  · refine .ite hu.loadDone ?_
    split
    · exact hu.dmaFailed.loadDone
    · exact hu.verify

theorem execStoneUnmap_memOk {e : Entry} (h : s.MemOk) : Out.MemOk (execStoneUnmap f e s) := by
  unfold execStoneUnmap
  dsimp only
  refine h.submission fun _ hu => ?_
  split
  · exact hu.deny
  · exact .ite hu.deny (.reply (.modCtx hu))

namespace State.MemOk

theorem writeRow {r : PlacedRow} {lo hi : Nat} (h : s.MemOk) : (s.writeRow r lo hi).MemOk := by
  unfold State.writeRow
  refine .ite ?_ ?_
  · exact h.modHog fun _ hd => hd.flush.writes
  · exact h.modCore fun _ hk => hk.merge.withStrat hk.strat.writes

theorem finishLoads {shared : Nat} {l : List (Nat × Cmd)} (h : s.MemOk) : (s.finishLoads i shared l).MemOk := by
  induction l generalizing s shared with
  | nil => exact h
  | cons b l ih => exact ih (.ite h.loadDone h.mapCopy.loadDone)

end State.MemOk

theorem execStoneResident_memOk {copy : Nat} (h : s.MemOk) : Out.MemOk (execStoneResident copy s) := by
  unfold execStoneResident
  dsimp only
  split
  · exact .fault
  · exact .ite (.next h) (.next (.finishLoads (foldl_memOk h fun _ _ hu => hu.writeRow)))

theorem execStratumRewrite_memOk {copy : Nat} {chunks : List Dma} {hogshead : Bool} {unit addr : Nat} (h : s.MemOk) :
    Out.MemOk (execStratumRewrite copy chunks hogshead unit addr s) := by
  unfold execStratumRewrite
  dsimp only
  split
  · exact .fault
  · refine .ite (.next h) (.ite ?_ ?_)
    · exact .next (.settleRewrites (.ingEvent (.ite h.ingEvent h.dmaFailed)))
    · exact .next (.settleRewrites (.countRewrites (foldl_memOk h fun _ _ hu => hu.writeRow)))

theorem execProgram_memOk (h : s.MemOk) : Out.MemOk (execProgram s) := h.mmio fun _ hu => .ite hu.ingEvent hu

theorem execRevoke_memOk (h : s.MemOk) : Out.MemOk (execRevoke s) := h.mmio fun _ hu => hu

theorem execIngAnchorData_memOk {w : Option Word} (h : s.MemOk) : Out.MemOk (execIngAnchorData w s) := by
  unfold execIngAnchorData
  refine h.mmio fun u hu => ?_
  have hstage {a : Nat} {bs : List Byte} {n : BitVec 7} :
      Ing.MemOk { u.ing with stageKey := memWrites u.ing.stageKey a bs, anchorAddr := n } :=
    ⟨hu.ing.1.writes, hu.ing.2⟩
  dsimp only
  split
  · exact hu.withIng hstage
  · exact hu

theorem execIngRevokeData_memOk (h : s.MemOk) : Out.MemOk (execIngRevokeData v s) :=
  h.mmio fun _ hu => .withIng hu ⟨hu.ing.1, hu.ing.2.writes⟩

theorem execRevokeAdd_memOk (h : s.MemOk) : Out.MemOk (execRevokeAdd s) := h.mmio fun _ hu => .ite hu (.ite (.ingEvent hu) hu)

namespace State.MemOk

theorem scalarOp {rd : BitVec 5} {lat : Nat} {v : Core → Word} (h : s.MemOk) : Out.MemOk (s.scalarOp c e rd lat v) :=
  h.slot fun _ hu => hu.modCore fun _ hk => hk.later

theorem scalarOpIf {bad : Bool} {rd : BitVec 5} {lat : Nat} {v : Core → Word} (h : s.MemOk) :
    Out.MemOk (s.scalarOpIf c e bad rd lat v) :=
  h.slotP fun _ hu => hu.modCore fun _ hk => hk.later

theorem loadOp {rd ra : BitVec 5} {imm : BitVec 16} (h : s.MemOk) : Out.MemOk (s.loadOp c e rd ra imm n) :=
  h.slotP fun _ hu => hu.modCore fun _ hk => .ite hk.later.modEll hk.noteRead.later

theorem storeOp {rd ra : BitVec 5} {imm : BitVec 16} (h : s.MemOk) : Out.MemOk (s.storeOp c e rd ra imm n) :=
  h.slotP fun _ hu => hu.modCore fun _ hk => .merge (hk.withDmem hk.dmem.writes)

end State.MemOk

namespace Core.MemOk

theorem jump (h : k.MemOk) : (k.jump t).MemOk := h.modEll

end Core.MemOk

namespace State.MemOk

theorem branchOp {cond : Core → Bool} {off : BitVec 16} (h : s.MemOk) : Out.MemOk (s.branchOp c e cond off) :=
  h.slotP fun _ hu => hu.modCore fun _ hk => .ite hk.jump hk

theorem jumpOp {rd : BitVec 5} {t : Core → Nat} (h : s.MemOk) : Out.MemOk (s.jumpOp c e rd t) :=
  h.slotP fun _ hu => hu.modCore fun _ hk => hk.jump.modEll

theorem ctlOp {imm : BitVec 16} {t : Core → Target} (h : s.MemOk) : Out.MemOk (s.ctlOp c e imm t) :=
  h.slotP fun _ hu => hu.modCore fun _ hk => hk.later

theorem writeDump {cores : List (List Byte)} (h : s.MemOk) : (s.writeDump cores).MemOk := by
  unfold State.writeDump
  extract_lets recs len need _ fit body q base
  have hq : q.1.MemOk := h.signed
  clear_value q
  have hw (bs : List Byte) : (q.1.hostWrite 0 true (base + 128) bs).MemOk := hq.hostWrite
  refine .ite h ?_
  split
  · exact hw (q.2.drop 128)
  next n _ => exact hw ((q.2.drop 128).take n)

theorem endDump (h : s.MemOk) : s.endDump.MemOk := by
  unfold State.endDump
  split
  · exact h
  next a bs _ _ => exact h.hostWrite (f := 0) (relaxed := true) (a := a) (bs := bs)

end State.MemOk

theorem execHubDumpBaseWrite_memOk {hi : Bool} (h : s.MemOk) : Out.MemOk (execHubDumpBaseWrite hi v s) :=
  h.mmio fun _ hu => .ite (.writeDump hu) hu

namespace State.MemOk

theorem stopPorts (h : s.MemOk) : s.stopPorts.MemOk := foldl_memOk h fun _ _ hu => hu

theorem abortActive (h : s.MemOk) : s.abortActive.MemOk := foldl_memOk h fun _ _ hu => .ite hu.sendAbort hu

theorem endAll {host : Bool} (h : s.MemOk) : (s.endAll st host).MemOk := foldl_memOk h fun _ _ hu => hu.finishRun

theorem dropLoads {host : Bool} (h : s.MemOk) : (s.dropLoads host).MemOk := by
  unfold State.dropLoads
  extract_lets told
  have ht : told.MemOk := .ite (foldl_memOk h fun _ _ hu => foldl_memOk hu fun _ _ hw => hw.loadDone) h
  exact ht.withIng ht.ing.keep

theorem dropKills (h : s.MemOk) : s.dropKills.MemOk := by
  unfold State.dropKills
  dsimp only
  refine foldl_memOk h fun _ _ hu => ?_
  split
  · exact hu
  · exact foldl_memOk hu.killEnd.modCtx fun _ _ hw => hw.complete

theorem railsOff (h : s.MemOk) : s.railsOff.MemOk := by
  refine State.memOk_iff.2
    ⟨⟨h.cores.map fun _ _ _ => ?_, h.ellSaved⟩, ⟨h.hg.map fun _ _ _ => ?_, h.runs⟩, h.hostMem, h.ing⟩
  · exact Core.memOk_reset
  · exact Hogshead.memOk_reset

theorem fatal {cause : Byte} (h : s.MemOk) : (s.fatal cause).MemOk := by
  unfold State.fatal
  extract_lets _ _ _ s₁ off cores s₂ s₃
  have hoff : ∀ u : State, u.MemOk → (off u).MemOk := fun u hu => .ite hu.railsOff hu
  have h₂ : s₂.MemOk := .ite (State.MemOk.stopPorts (s := s₁) h) h
  have h₃ : s₃.MemOk := hoff _ h₂.abortActive.endAll.dropLoads.dropKills
  exact .ite h (.withHub (.writeDump h₃))

theorem restartMps (h : s.MemOk) : s.restartMps.MemOk := h

theorem revertTrial (h : s.MemOk) : s.revertTrial.MemOk := .restartMps h

theorem beginStage (h : s.MemOk) : s.beginStage.MemOk := .ite h h

theorem stageFailed (h : s.MemOk) : (s.stageFailed code).MemOk := h

end State.MemOk

theorem execStage_memOk {img : Dma} (h : s.MemOk) : Out.MemOk (execStage img s) := by
  unfold execStage
  dsimp only
  refine .ite (.next h) ?_
  split
  · exact .next h.beginStage.dmaFailed.stageFailed
  · exact .ite (.next h.beginStage.stageFailed) (.next h.beginStage)

theorem execActivate_memOk (h : s.MemOk) : Out.MemOk (execActivate s) := .next (.ite h h)

theorem execFwCancel_memOk (h : s.MemOk) : Out.MemOk (execFwCancel s) := .next (.ite h h)

theorem execRaiseFloor_memOk (h : s.MemOk) : Out.MemOk (execRaiseFloor s) := .next (.ite h h)

namespace State.MemOk

theorem mapOut {row site : Nat} (h : s.MemOk) : (s.mapOut die row site).MemOk := by
  unfold State.mapOut
  dsimp only
  split
  · exact h
  · split
    · exact h
    · exact .ite h h

end State.MemOk

theorem execHubRepairReq_memOk (h : s.MemOk) : Out.MemOk (execHubRepairReq v s) := h.mmio fun _ hu => .ite hu (.ite hu hu)

namespace Core.MemOk

theorem markStratum (h : k.MemOk) : (k.markStratum a n).MemOk := foldl_memOk h fun _ _ hk => hk.poison

end Core.MemOk

namespace State.MemOk

theorem markCopies (h : s.MemOk) : (s.markCopies c).MemOk :=
  foldl_memOk h fun _ _ hu => foldl_memOk hu fun _ _ hw => .ite (hw.modCore fun _ hk => hk.markStratum) hw

theorem shiftStrata {next : Bool} (h : s.MemOk) : (s.shiftStrata n next).MemOk := by
  unfold State.shiftStrata
  dsimp only
  refine foldl_memOk h fun _ _ hu => hu.modCore fun _ hk => hk.withStrat ?_
  split
  · exact hu.core.strat
  · exact Mem.ok_nil

end State.MemOk

theorem execRepairApply_memOk (h : s.MemOk) : Out.MemOk (execRepairApply s) := by
  unfold execRepairApply
  split
  · exact .next h
  · extract_lets moved spare shifted cs begun
    have hs : shifted.MemOk := State.MemOk.mapOut (foldl_memOk h fun _ _ hu => hu.shiftStrata)
    have hb : begun.MemOk := foldl_memOk hs fun _ _ hu => hu.beginScrub.markCopies
    exact .ite (.next h) (.next (.settleRewrites hb))

namespace State.MemOk

theorem destroyBridge (h : s.MemOk) : (s.destroyBridge b).MemOk := foldl_memOk h fun _ _ hu => .ite hu.finishRun hu

theorem destroyBridges (h : s.MemOk) : s.destroyBridges.MemOk := foldl_memOk h fun _ _ hu => hu.destroyBridge

theorem resetContext (h : s.MemOk) : (s.resetContext f).MemOk := h.killContext.modCtx

theorem resetMsix (h : s.MemOk) : (s.resetMsix f).MemOk := h

theorem resetContexts (h : s.MemOk) : s.resetContexts.MemOk := foldl_memOk h fun _ _ hu => hu.resetContext

theorem vfsOff (h : s.MemOk) : s.vfsOff.MemOk := h

theorem scrubAll (h : s.MemOk) : s.scrubAll.MemOk := by
  refine State.memOk_iff.2
    ⟨⟨h.cores.map fun _ _ hk => ?_, CoresOk.nil⟩, ⟨h.hg.map fun _ _ hd => ?_, h.runs⟩, h.hostMem, h.ing⟩
  · exact hk.scrubbed
  · exact Mem.Ok.filter hd.flush

theorem hogsReady (h : s.MemOk) : s.hogsReady.MemOk := foldl_memOk h fun _ _ hu => .ite (hu.modHog fun _ hd => hd) hu

theorem warmEffects (h : s.MemOk) : s.warmEffects.MemOk := by
  unfold State.warmEffects
  extract_lets scrubbed
  have hs : scrubbed.MemOk := h.resetContexts.destroyBridges.dropLoads.scrubAll
  clear_value scrubbed
  exact hs

theorem spoil (h : s.MemOk) : s.spoil.MemOk := h

theorem needCal (h : s.MemOk) : s.needCal.MemOk := h

theorem endTrial (h : s.MemOk) : s.endTrial.MemOk := .ite h.revertTrial h.restartMps

theorem warmReset (h : s.MemOk) : s.warmReset.MemOk := by
  unfold State.warmReset
  extract_lets ready
  have hr : ready.MemOk := h.spoil.warmEffects.toActive.endTrial.hogsReady
  clear_value ready
  refine .ite h (.ite ?_ (.needCal hr))
  split
  · exact hr
  · exact .needCal hr

end State.MemOk

theorem execHubResetWarm_memOk (h : s.MemOk) : Out.MemOk (execHubResetWarm s) := .next (.ite h.warmReset h)

namespace State.MemOk

theorem coldCleared (h : s.MemOk) : s.coldCleared.MemOk :=
  State.memOk_iff.2 ⟨⟨CoresOk.nil, CoresOk.nil⟩, ⟨rfl, rfl⟩, h.hostMem, Ing.memOk_reset⟩

end State.MemOk

theorem execHubResetCold_memOk (h : s.MemOk) : Out.MemOk (execHubResetCold s) := .ite (.next h) (.next h.coldCleared)

namespace State.MemOk

theorem selfTest {bf : BootFindings} (h : s.MemOk) : (s.selfTest bf).MemOk := by
  unfold State.selfTest
  extract_lets before rows found sites repaired
  have hf : found.MemOk := h
  have hr : repaired.MemOk := foldl_memOk hf fun _ _ hu => hu.mapOut
  clear_value repaired
  exact hr

theorem bootFailed {cause : Byte} (h : s.MemOk) : (s.bootFailed cause).MemOk := .fatal h

theorem calibrate {ls : List Nat} (h : s.MemOk) : (s.calibrate ls).MemOk := .ite h (.bootFailed h)

theorem bootVerify {bf : BootFindings} (h : s.MemOk) : (s.bootVerify bf).MemOk := by
  unfold State.bootVerify
  dsimp only
  split
  · exact .selfTest h
  · exact h

theorem bootCalibrate {bf : BootFindings} (h : s.MemOk) : (s.bootCalibrate bf).MemOk := .ite h.calibrate h.selfTest.calibrate

theorem bootTest {bf : BootFindings} (h : s.MemOk) : (s.bootTest bf).MemOk := .ite h.selfTest h.selfTest.bootFailed

theorem bootReady (h : s.MemOk) : s.bootReady.MemOk := .hogsReady h

theorem bootStep {bf : BootFindings} (h : s.MemOk) : (s.bootStep bf).MemOk := by
  unfold State.bootStep
  refine .ite ?_ ?_
  · exact h
  · exact .ite (.bootVerify h) (.ite (.bootCalibrate h) (.ite (.bootTest h) (.ite (.bootReady h) h)))

end State.MemOk

theorem execHubCoreReset_memOk (h : s.MemOk) : Out.MemOk (execHubCoreReset v s) := by
  unfold execHubCoreReset
  extract_lets c k halted freed
  have hh : halted.MemOk := by
    refine .modCore h fun _ hk => ?_
    exact hk.landed
  clear_value halted
  have hf : freed.MemOk := hh.withEllSaved h.ellSaved.del
  clear_value freed
  refine .ite (.next h) ?_
  split
  · exact .next hf.endRunExit.breakRun.toParticipants
  · exact .ite (.next h) (.next (h.beginScrub.modCore fun _ hk => hk))

namespace State.MemOk

theorem modBoard {f : Board → Board} (h : s.MemOk) : (s.modBoard f).MemOk := h

theorem loadOff (h : s.MemOk) : s.loadOff.MemOk := h.coldCleared.modBoard

theorem answer {v : BitVec 16} (h : s.MemOk) : (s.answer v).MemOk := h

theorem answerByte {b : Byte} (h : s.MemOk) : (s.answerByte b).MemOk := h.answer

theorem statusByte {clear : Option Byte} {get : Board → Byte} {set : Board → Byte → Board} (h : s.MemOk) :
    (s.statusByte clear get set).MemOk := by
  unfold State.statusByte
  dsimp only
  split
  · exact h.answerByte
  · exact h

end State.MemOk

theorem execMfrStepCap_memOk {write : Option Byte} (h : s.MemOk) : Out.MemOk (execMfrStepCap write s) := by
  unfold execMfrStepCap
  dsimp only
  split
  · exact .next h.answerByte
  · exact .ite (.next h.settleBounds) (.next h.settleBounds)

namespace State.MemOk

theorem doorbellError (h : s.MemOk) : (s.doorbellError f off v).MemOk := h.modCtx.postEvent

theorem doorbell {ok : Ctx → Bool} {g : Ctx → Ctx} {after : State → State} (h : s.MemOk)
    (hafter : ∀ u : State, u.MemOk → (after u).MemOk) :
    Out.MemOk (s.doorbell f off v ok g after) :=
  .ite .fault (.ite (.next h) (.ite (.next (.wake (hafter _ h.modCtx))) (.next h.doorbellError)))

end State.MemOk

theorem execSqTail_memOk (h : s.MemOk) : Out.MemOk (execSqTail f v s) := h.doorbell fun _ hu => hu

namespace State.MemOk

theorem flushHeld (h : s.MemOk) : (s.flushHeld f n).MemOk := by
  induction n generalizing s with
  | zero => exact h
  | succ n ih =>
    rw [State.flushHeld]
    split
    · exact h
    · exact .ite h (ih h.setCtx.cqWrite)

end State.MemOk

theorem execCqHead_memOk (h : s.MemOk) : Out.MemOk (execCqHead f v s) := h.doorbell fun _ hu => hu.flushHeld

theorem execEqHead_memOk (h : s.MemOk) : Out.MemOk (execEqHead f v s) := h.doorbell fun _ hu => hu

theorem execDqHead_memOk (h : s.MemOk) : Out.MemOk (execDqHead f v s) := h.doorbell fun _ hu => hu

namespace State.MemOk

theorem writeRingsEn {en : Bool} (h : s.MemOk) : (s.writeRingsEn f en).MemOk := .ite h.setCtx.flushHeld (.ite h.setCtx h)

theorem leaveService {src : Nat} (h : s.MemOk) : (s.leaveService src).MemOk := .ite h h

theorem softSet {src : Nat} (h : s.MemOk) : (s.softSet src).MemOk := .ite h h

end State.MemOk

theorem execCtxIrqAck_memOk (h : s.MemOk) : Out.MemOk (execCtxIrqAck f v s) := .ite .fault (.next (.ite h.leaveService h))

theorem execCtxIrqTest_memOk (h : s.MemOk) : Out.MemOk (execCtxIrqTest f v s) := .ite .fault (.next (.ite h.softSet h))

theorem execEvcHack_memOk (h : s.MemOk) : Out.MemOk (execEvcHack v s) := h.mmio fun _ hu => .ite hu.leaveService hu

theorem execEvcSwset_memOk {w : Nat} (h : s.MemOk) : Out.MemOk (execEvcSwset w v s) :=
  .ite .fault (h.mmio fun _ hu => foldl_memOk hu fun _ _ hw => .ite hw.softSet hw)

namespace State.MemOk

theorem uncount {src : Nat} (h : s.MemOk) : (s.uncount src).MemOk := h

theorem writeTgt {src : Nat} (h : s.MemOk) : (s.writeTgt src v).MemOk := .ite h (.ite h (.ite h (.uncount h)))

end State.MemOk

theorem execEvcTgt_memOk {src : Nat} (h : s.MemOk) : Out.MemOk (execEvcTgt src v s) :=
  .ite .fault (h.mmio fun _ hu => hu.writeTgt)

namespace State.MemOk

theorem setModer {t : EvTarget} {m : Moder} (h : s.MemOk) : (s.setModer t m).MemOk := by
  unfold State.setModer
  dsimp only
  split
  · exact h
  · exact h
  · exact h.modCtx

end State.MemOk

theorem execSourcePending_memOk {src : Nat} (h : s.MemOk) : Out.MemOk (execSourcePending src s) := by
  unfold execSourcePending
  dsimp only
  refine .ite (.next h) (.next ?_)
  split
  · exact h.setModer.wake
  · exact h.setModer

namespace State.MemOk

theorem sendMsix {fv : Nat × Nat} (h : s.MemOk) : (s.sendMsix fv).MemOk := .ite h h

theorem service {srcs : List Nat} (h : s.MemOk) : (s.service srcs).MemOk := h

theorem setMp {m : Mp} (h : s.MemOk) : (s.setMp n m).MemOk := h

theorem setStack {st : List (Nat × Nat)} {rs : List MpRecord} {a : Word} (h : s.MemOk) : (s.setStack n st rs a).MemOk :=
  h.setMp

end State.MemOk

theorem execDelivery_memOk {t : EvTarget} (h : s.MemOk) : Out.MemOk (execDelivery t s) := by
  unfold execDelivery
  dsimp only
  refine .ite (.next h) ?_
  split
  · exact .next (.ite h.setModer.setMp h.setModer)
  · exact .ite (.next h.setModer) (.next h.setModer.sendMsix.service)

namespace State.MemOk

theorem claim {below : List (Nat × Nat)} {rs : List MpRecord} (h : s.MemOk) : (s.claim n below rs).MemOk := by
  unfold State.claim
  dsimp only
  split
  · exact h.service.setStack
  · exact .setStack h

end State.MemOk

theorem execExitSequence_memOk {mp : Nat} (h : s.MemOk) : Out.MemOk (execExitSequence mp s) := by
  unfold execExitSequence
  dsimp only
  refine .ite .fault ?_
  split
  · exact .next h
  · exact .ite (.next h.claim) (.ite (.next h) (.next (.ite (.setMp h) (.setStack h))))

end Sys2Proof.Machine
end

section
/-!
Engine and matrix operations, power states, registers and the tick of the chain (04, 06, 12, 13, 15): each function of the
model keeps the memories in canonical form.
-/

namespace Sys2Proof.Machine

variable {s : State} {k : Core} {x : Run} {d : Hogshead} {c t a b n m i r p f st port die off stop : Nat} {e : EllEnd} {v : Word}
  {bs : List Byte} {g : Ing} {code : Byte} {info : Word} {acc : Bool} {q : Payload} {j : Job} {o : MatOp}

namespace State.MemOk

theorem loadSlot {f : Core → EngOp} (h : s.MemOk) : Out.MemOk (s.loadSlot c e f) :=
  h.slot fun _ hu => hu.modCore fun _ hk => hk

theorem storeSlot {f : Core → EngOp} (h : s.MemOk) : Out.MemOk (s.storeSlot c e f) :=
  h.slot fun _ hu => hu.modCore fun _ hk => hk

end State.MemOk

namespace Core.MemOk

theorem loadReg {cyc issued : Nat} {r : BitVec 5} {mask v : VReg} (h : k.MemOk) : (k.loadReg cyc issued r mask v).MemOk := h

theorem ldvDeliver {issued : Nat} {r : BitVec 5} {cyc : Nat → Nat} (h : k.MemOk) : (k.ldvDeliver issued r cyc bs).MemOk :=
  foldl_memOk h.loadReg fun _ _ hk => hk.loadReg

theorem doneAt {store : Bool} (h : k.MemOk) : (k.doneAt store t).MemOk := .ite h.storeDoneAt h.loadDoneAt

end Core.MemOk

namespace State.MemOk

theorem copyRow {o : EngOp} {w : Way} {reply : Fetched} {sa da : Nat} {digest : Bool} (h : s.MemOk) :
    (s.copyRow c o w reply r t sa da n acc digest).MemOk :=
  .modCore (.writeBytes (.ite (h.readBytes.readReport.modCore fun _ hk => hk.addDigest) h.readBytes.readReport)) fun _ hk =>
    hk.doneAt

theorem copyRows {o : EngOp} {w : Way} {reply : Fetched} (h : s.MemOk) : (s.copyRows c o w reply n m a).MemOk := by
  induction n generalizing s reply m a with
  | zero => exact h
  | succ n ih => exact ih h.copyRow

theorem copyScales {o : EngOp} {w : Way} {reply : Fetched} (h : s.MemOk) : (s.copyScales c o w reply n m a b).MemOk := by
  induction n generalizing s reply m b with
  | zero => exact h
  | succ n ih => exact ih h.copyRow

theorem engRun {o : EngOp} {reply : Fetched} (h : s.MemOk) : (s.engRun c o t reply).MemOk := by
  unfold State.engRun
  dsimp only
  split
  · exact .readReport (h.readBytes.modCore fun _ hk => hk.ldvDeliver.loadDoneAt)
  · exact .violations (.readReport (h.readBytes.modCore fun _ hk => hk.bankAt.loadDoneAt))
  · exact .ite h.copyRows.copyScales h.copyRows
  · exact .ite h.copyRows.copyScales h.copyRows
  · exact .modCore (.writeBytes (h.modCore fun _ hk => hk.addDigest)) fun _ hk => hk.storeDoneAt
  · exact .modCore (.writeBytes (h.bankRun.modCore fun _ hk => hk.bankRead.addDigest)) fun _ hk => hk.storeDoneAt

theorem opStart {o : EngOp} {go : State} (h : s.MemOk) (hgo : go.MemOk) : (s.opStart c o t go).MemOk := by
  unfold State.opStart
  split
  · exact h.await
  · exact hgo

end State.MemOk

namespace Core.MemOk

theorem tidy (h : k.MemOk) : k.tidy.MemOk := .ite h.pruneAccs.settle h.pruneAccs

theorem popOp {store : Bool} {occ : Nat} (h : k.MemOk) : (k.popOp store t occ).MemOk := .queueFreed (.ite h h)

end Core.MemOk

theorem execEngineOpStart_memOk {store : Bool} {reply : List Byte} {bad : List Nat} (h : s.MemOk) :
    Out.MemOk (execEngineOpStart c store reply bad s) := by
  unfold execEngineOpStart
  refine h.coreEvent fun _ _ => .ite (.next h) ?_
  split
  · exact .next h
  · dsimp only
    split
    · exact .next (.raiseAsyncAt (h.modCore fun _ hk => hk.popOp))
    · split
      · exact .next (h.opStart (.engRun (h.modCore fun _ hk => hk.tidy.popOp)))
      · exact .ite (.next h) (.next (h.opStart (.engRun (h.modCore fun _ hk => hk.tidy.popOp.takeCredit))))

namespace State.MemOk

theorem setBridge {y : Bridge} (h : s.MemOk) : (s.setBridge b y).MemOk := h

end State.MemOk

theorem execEnable_memOk (h : s.MemOk) : Out.MemOk (execEnable v s) :=
  h.mmio fun _ hu => .ite (.ite hu hu.destroyBridge) (.ite hu.setBridge (.ite hu.setBridge hu))

theorem execBridgeTimeout_memOk (h : s.MemOk) : Out.MemOk (execBridgeTimeout r s) := by
  unfold execBridgeTimeout
  split
  · exact .fault
  · exact .next (.ite h.finishRun h)

namespace State.MemOk

theorem beginTraining (h : s.MemOk) : (s.beginTraining p).MemOk := .portState (.modPort (.ite h h.portDown))

theorem ctrlEnable (h : s.MemOk) : (s.ctrlEnable p v).MemOk :=
  .ite h (.ite h.modPort (.modPort (.ite h.portState h.portDown)))

theorem ctrlMaint (h : s.MemOk) : (s.ctrlMaint p v).MemOk := .ite h h.modPort

theorem ctrlLoop (h : s.MemOk) : (s.ctrlLoop p v).MemOk :=
  .ite h (.ite h.modPort.beginTraining (.modPort (.portState (.ite h h.portDown))))

theorem ctrlRetrain (h : s.MemOk) : (s.ctrlRetrain p).MemOk :=
  .ite h (.ite h.modPort (.ite (.ite h.nextPhase h) h.beginTraining))

theorem writeLnkCtrl (h : s.MemOk) : (s.writeLnkCtrl p v).MemOk := by
  unfold State.writeLnkCtrl
  refine .ite ?_ ?_
  · exact h.modPort.ctrlEnable.ctrlMaint.ctrlLoop.ctrlRetrain
  · exact h.modPort.ctrlEnable.ctrlMaint.ctrlLoop

end State.MemOk

theorem execLnkCoreLoop_memOk (h : s.MemOk) : Out.MemOk (execLnkCoreLoop v s) := h.mmio fun _ hu => .ite hu hu

namespace Core.MemOk

theorem pushMat (h : k.MemOk) : (k.pushMat o).MemOk := h

theorem record {p : TileP} (h : k.MemOk) : (k.record o p).MemOk := .ite h h

end Core.MemOk

namespace State.MemOk

theorem matStart {p : TileP} {load w : Nat} (h : s.MemOk) : (s.matStart c o p load w).MemOk := by
  unfold State.matStart
  extract_lets bad fault job marked queued
  have hm : marked.MemOk := .ite h.violation (.ite (h.modCore fun _ hk => hk.record) h)
  have hq : queued.MemOk := .ite (hm.modCore fun _ hk => hk) hm
  clear_value queued marked fault
  split
  · exact hq.raiseAsyncAt
  · exact hq

end State.MemOk

namespace Core.MemOk

theorem popMat {f : ArrayState → ArrayState} (h : k.MemOk) : (k.popMat t f).MemOk := .queueFreed h

end Core.MemOk

namespace State.MemOk

theorem matEvent {kind : MatKind} {f : Core → MatOp → TileP → State} (h : s.MemOk)
    (hf : ∀ (k : Core) (o : MatOp) (p : TileP), k.MemOk → (f k o p).MemOk) :
    Out.MemOk (s.matEvent c kind f) := by
  unfold State.matEvent
  refine h.coreEvent fun _ hk => .ite (.next h) ?_
  split
  · exact .next h
  · refine .ite ?_ (.next h)
    split
    · exact .next (hf _ _ _ hk)
    · exact .next h

end State.MemOk

theorem execBackgroundLoadStart_memOk (h : s.MemOk) : Out.MemOk (execBackgroundLoadStart c s) := by
  unfold execBackgroundLoadStart
  refine h.matEvent fun _ _ _ hk => .ite ?_ ?_
  · exact .raiseAsyncAt (h.modCore fun _ hl => hl.popMat)
  · exact .modCore (h.modCore fun _ hl => hl.popMat) fun _ hl => hl

namespace State.MemOk

theorem writeColumn {x : Column} (h : s.MemOk) : (s.writeColumn c x).MemOk := by
  unfold State.writeColumn
  refine .modCore (.ite ?_ ?_) fun _ hk => hk.storeDoneAt
  · exact .writeBytes (h.modCore fun _ hk => hk.addDigest)
  · exact .writeBytes (.writeBytes (h.modCore fun _ hk => hk.addDigest))

end State.MemOk

namespace Core.MemOk

theorem popColumn (h : k.MemOk) : k.popColumn.MemOk := h

theorem holdColumn (h : k.MemOk) : k.holdColumn.MemOk := by
  unfold Core.holdColumn
  dsimp only
  split <;> exact h

end Core.MemOk

theorem execResultColumn_memOk (h : s.MemOk) : Out.MemOk (execResultColumn c s) := by
  unfold execResultColumn
  refine h.coreEvent fun k₀ _ => .ite (.next h) ?_
  extract_lets u k
  have hu : u.MemOk := h.advance
  split
  · exact .next hu
  · extract_lets flags done
    have hd : (done u).MemOk := hu.modCore fun _ hk => hk.popColumn.nstatAt
    clear_value done
    refine .ite (.ite ?_ ?_) (.ite (.next hd.raiseAsyncAt) ?_)
    · exact .next hd.violation
    · exact .next (hd.modCore fun _ hk => hk)
    · split
      · exact .next hd.writeColumn
      · refine .ite (.ite (.next hu) ?_) (.next (.writeColumn (hd.modCore fun _ hk => hk.takeCredit)))
        exact .next (.violation (hu.modCore fun _ hk => hk.holdColumn.nstatAt))

namespace State.MemOk

theorem requestStep {stp : BitVec 2} (h : s.MemOk) : (s.requestStep stp).MemOk := by
  unfold State.requestStep
  split
  · exact .ite h h.toParticipants.stepFor
  · exact h

end State.MemOk

theorem execThermalStepRequest_memOk {why : StepCond} (h : s.MemOk) : Out.MemOk (execThermalStepRequest why s) := by
  unfold execThermalStepRequest
  refine .ite (.next h) (.ite ?_ ?_)
  · exact .next (.ite h h)
  · exact .ite (.next (.ite (.requestStep (.ite h h)) (.ite h h))) (.next (.ite h h))

namespace State.MemOk

theorem enter {due : Nat} (h : s.MemOk) : (s.enter st due).MemOk := by
  unfold State.enter
  refine .ite ?_ ?_
  · exact (h.powerTo.withCores (h.powerTo.cores.map fun _ _ hk => hk.scrubbed)).withEllSaved .nil
  · exact h.powerTo

theorem goTo {due : Nat} (h : s.MemOk) : (s.goTo st due).MemOk := .ite h.wake (.ite h h.enter)

end State.MemOk

theorem execHostTarget_memOk (h : s.MemOk) : Out.MemOk (execHostTarget v s) :=
  .ite (.next h) (.ite (.next h) (.next (.goTo h)))

theorem execEnterOff_memOk (h : s.MemOk) : Out.MemOk (execEnterOff s) := by
  unfold execEnterOff
  extract_lets u
  have hu : u.MemOk := h.spoil.warmEffects.stopPorts.powerTo
  clear_value u
  refine .ite (.next h) (.next (State.memOk_iff.2 ⟨⟨?_, hu.ellSaved⟩, ⟨?_, hu.runs⟩, hu.hostMem, hu.ing⟩))
  · exact hu.cores.map fun _ _ _ => Core.memOk_reset
  · exact hu.hg.map fun _ _ _ => Hogshead.memOk_reset

theorem execExitOff_memOk (h : s.MemOk) : Out.MemOk (execExitOff s) :=
  .ite (.next h) (.next h.toActive.endTrial.hogsReady.needCal)

theorem execPwrNextHiWrite_memOk (h : s.MemOk) : Out.MemOk (execPwrNextHiWrite v s) :=
  h.mmio fun _ hu => .ite (.newEvent hu) hu

namespace State.MemOk

theorem writeMode {m : BitVec 2} (h : s.MemOk) : (s.writeMode m).MemOk := .ite h (.ite h (.ite (.softSet h) h))

theorem writeLock {b : Bool} (h : s.MemOk) : (s.writeLock b).MemOk := .ite h (.ite (.writeMode h) h)

end State.MemOk

theorem execDetCntClear_memOk (h : s.MemOk) : Out.MemOk (execDetCntClear v s) := h.mmio fun _ hu => .ite hu hu

namespace State.MemOk

theorem chnAfterRead (h : s.MemOk) : (s.chnAfterRead off).MemOk := by
  unfold State.chnAfterRead
  dsimp only
  split <;> exact h

theorem lnkAfterRead (h : s.MemOk) : (s.lnkAfterRead off).MemOk := .ite h (.ite h.modPort h)

end State.MemOk

namespace Ing.MemOk

theorem afterRead (h : g.MemOk) : (g.afterRead off).MemOk := by
  unfold Ing.afterRead
  split <;> exact h

end Ing.MemOk

namespace State.MemOk

theorem coreAfterRead (h : s.MemOk) : (s.coreAfterRead off).MemOk := by
  unfold State.coreAfterRead
  refine .ite ?_ (.ite (.ite ?_ h) (.ite h (.ite ?_ h)))
  · exact h.modHog fun _ hd => hd
  · exact h.modHog fun _ hd => hd
  · exact h.modCore fun _ hk => hk.withEccRegs

theorem barAfterRead (h : s.MemOk) : (s.barAfterRead off).MemOk := by
  unfold State.barAfterRead
  refine .ite h (.ite h (.ite h (.ite h.withDet (.ite h.chnAfterRead (.ite ?_ (.ite h ?_))))))
  · exact h.withPwr
  · exact .ite h (.ite h.lnkAfterRead (.ite (h.withIng h.ing.afterRead) (.ite h.withEvc (.ite h.coreAfterRead (.ite h.modCtx h)))))

end State.MemOk

theorem execCounterLoRead_memOk (h : s.MemOk) : Out.MemOk (execCounterLoRead off s) := by
  unfold execCounterLoRead
  refine .ite .fault (.ite (.next h) (.ite (.next h) (.ite ?_ ?_)))
  · exact .next h.chnAfterRead.withBusOut
  · exact .next h.withBusOutDet

namespace State.MemOk

theorem afterRead (h : s.MemOk) : (s.afterRead f off).MemOk := .ite h (.ite h.barAfterRead (.ite h.modCtx h))

end State.MemOk

theorem nextOr_memOk {o : Out} (h : s.MemOk) (ho : Out.MemOk o) : (nextOr s o).MemOk := by
  unfold nextOr
  split
  · exact ho _ rfl
  · exact h

namespace State.MemOk

theorem writeFwCtrl (h : s.MemOk) : Out.MemOk (s.writeFwCtrl v) := by
  unfold State.writeFwCtrl
  extract_lets staged activated raised
  have hs : staged.MemOk := .ite h.beginStage h
  have ha : activated.MemOk := .ite (nextOr_memOk hs (execActivate_memOk hs)) hs
  have hr : raised.MemOk := .ite (nextOr_memOk ha (execRaiseFloor_memOk ha)) ha
  exact .next (.ite (nextOr_memOk hr (execFwCancel_memOk hr)) hr)

theorem writeHub (h : s.MemOk) : Out.MemOk (s.writeHub off v) := by
  unfold State.writeHub
  dsimp only
  split
  · exact h.mmio fun _ hu => hu
  · exact execHubDumpBaseWrite_memOk h
  · exact execHubDumpBaseWrite_memOk h
  · exact h.mmio fun _ hu => hu
  · exact .ite (execHubResetCold_memOk h) (.ite (execHubResetWarm_memOk h) (.next h))
  · exact execHubCoreReset_memOk h
  · exact h.writeFwCtrl
  · exact .next (.ite h h)
  · exact .next (.ite h h)
  · exact .next (.ite h h)
  · exact execHubRepairReq_memOk h
  · exact h.mmio fun _ hu => hu
  · exact .next h

theorem writeDet (h : s.MemOk) : Out.MemOk (s.writeDet off v) := by
  unfold State.writeDet
  dsimp only
  split
  · exact h.mmio fun _ hu => hu.writeLock.writeMode
  · exact h.mmio fun _ hu => hu
  · exact h.mmio fun _ hu => hu
  · exact execDetCntClear_memOk h
  · exact .next h

theorem writeChn (h : s.MemOk) : Out.MemOk (s.writeChn off v) := by
  unfold State.writeChn
  dsimp only
  refine h.mmio fun _ hu => ?_
  split
  · exact .ite hu hu
  · exact hu
  · exact hu
  · exact hu
  · exact hu

theorem writeMax {m : BitVec 2} (h : s.MemOk) : (s.writeMax m).MemOk := .ite h.settleBounds h.settleBounds

theorem writeTherm (h : s.MemOk) : (s.writeTherm v).MemOk := h

theorem writePwrCtrl (h : s.MemOk) : Out.MemOk (s.writePwrCtrl v) := by
  unfold State.writePwrCtrl
  extract_lets _ auto targeted exited
  have ha : auto.MemOk := .ite h h
  have ht : targeted.MemOk := nextOr_memOk ha (execHostTarget_memOk ha)
  have he : exited.MemOk := .ite (nextOr_memOk ht (execExitOff_memOk ht)) ht
  exact .ite (execEnterOff_memOk he) (.next he)

theorem writePwr (h : s.MemOk) : Out.MemOk (s.writePwr off v) := by
  unfold State.writePwr
  dsimp only
  split
  · exact h.mmio fun _ hu => hu.writeMax
  · exact h.writePwrCtrl
  · exact h.mmio fun _ hu => hu
  · exact h.mmio fun _ hu => hu
  · exact execPwrNextHiWrite_memOk h
  · exact h.mmio fun _ hu => hu.writeTherm
  · exact h.mmio fun _ hu => hu
  · exact h.mmio fun _ hu => hu
  · exact .next h

theorem writeSyn (h : s.MemOk) : Out.MemOk (s.writeSyn off v) := by
  unfold State.writeSyn
  dsimp only
  split
  · exact execEnable_memOk h
  · exact h.mmio fun _ hu => .ite hu hu.setBridge
  · refine h.mmio fun _ hu => ?_
    split
    · exact .ite hu hu
    · exact hu
    · exact hu
    · exact hu
    · exact hu
    · exact hu
    · exact hu
    · exact hu

theorem writeLnk (h : s.MemOk) : Out.MemOk (s.writeLnk off v) := by
  unfold State.writeLnk
  refine .ite (h.mmio fun _ hu => hu) (.ite ?_ ?_)
  · exact execLnkCoreLoop_memOk h
  · exact .ite (h.mmio fun _ hu => .ite hu.writeLnkCtrl (.ite hu.modPort hu)) (.next h)

theorem writeIng (h : s.MemOk) : Out.MemOk (s.writeIng off v) := by
  unfold State.writeIng
  dsimp only
  split
  · exact h.mmio fun _ hu => hu
  · exact h.mmio fun _ hu => hu
  · exact h.mmio fun _ hu => hu
  · exact execIngAnchorData_memOk h
  · refine .ite ?_ ?_
    · exact execRevoke_memOk (.ite (nextOr_memOk h (execProgram_memOk h)) h)
    · exact .next (.ite (nextOr_memOk h (execProgram_memOk h)) h)
  · exact h.mmio fun _ hu => hu
  · exact execIngRevokeData_memOk h
  · exact .ite (execRevokeAdd_memOk h) (.next h)
  · exact h.mmio fun _ hu => hu
  · exact .next h

theorem writeEvc (h : s.MemOk) : Out.MemOk (s.writeEvc off v) := by
  unfold State.writeEvc
  refine .ite (.next h) (.ite (execEvcHack_memOk h) (.ite (h.mmio fun _ hu => hu.setModer) (.ite ?_ ?_)))
  · exact execEvcSwset_memOk h
  · exact .ite (h.mmio fun _ hu => hu.setModer) (.ite (execEvcTgt_memOk h) (.next h))

theorem writeCore (h : s.MemOk) : Out.MemOk (s.writeCore off v) := by
  unfold State.writeCore
  refine .ite ?_ ?_
  · exact h.mmio fun _ hu => hu
  · exact .ite (.ite (.next (h.modCore fun _ hk => hk)) (.ite (execStart_memOk h) (.next h))) (.next h)

theorem writeCtx (h : s.MemOk) : Out.MemOk (s.writeCtx f off v) := by
  unfold State.writeCtx
  refine .ite (.next h) (.ite (.next h.modCtx.writeRingsEn) (.ite ?_ ?_))
  · exact .next h.setModer
  · exact .ite (execCtxIrqAck_memOk h) (.ite (execCtxIrqTest_memOk h) (.ite (.next h.modCtx) (.next h)))

theorem releaseMsix (h : s.MemOk) : (s.releaseMsix f).MemOk := foldl_memOk h fun _ _ hu => .sendMsix hu

theorem writeMsix (h : s.MemOk) : (s.writeMsix f i v).MemOk := .releaseMsix h

theorem writeConfig (h : s.MemOk) : (s.writeConfig f off v).MemOk := by
  unfold State.writeConfig
  dsimp only
  split
  · exact .releaseMsix h
  · exact .ite h h
  · exact .ite h h
  · exact h

theorem writeBar (h : s.MemOk) : Out.MemOk (s.writeBar off v) := by
  unfold State.writeBar
  refine .ite (.next h) (.ite h.writeHub (.ite h.writeDet
    (.ite h.writeChn (.ite h.writePwr (.ite h.writeSyn (.ite h.writeLnk (.ite h.writeIng (.ite ?_ ?_))))))))
  · exact h.writeEvc
  · exact .ite h.writeCore (.ite h.writeCtx (.ite (h.mmio fun _ hu => hu.writeMsix) (.next h)))

theorem writeDoorbell (h : s.MemOk) : Out.MemOk (s.writeDoorbell f off v) := by
  unfold State.writeDoorbell
  split
  · exact execSqTail_memOk h
  · exact execCqHead_memOk h
  · exact execEqHead_memOk h
  · exact execDqHead_memOk h
  · exact h.doorbell fun _ hu => hu

end State.MemOk

theorem execRegisterWrite_memOk (h : s.MemOk) : Out.MemOk (execRegisterWrite f off v s) := by
  unfold execRegisterWrite
  refine .ite .fault (.ite (.next h) (.ite (.next h.writeConfig)
    (.ite (h.doorbell fun _ hu => hu) (.ite h.writeDoorbell (.ite ?_ ?_)))))
  · exact .ite h.writeHub (.ite (.next h) h.writeBar)
  · exact .ite h.writeCtx (.ite (h.mmio fun _ hu => hu.writeMsix) (.next h))

namespace State.MemOk

theorem sendControl {frame half : Nat} (h : s.MemOk) : (s.sendControl frame half p).MemOk :=
  .ite h.fillSlot (.ite h.fillSlot.setPort.emit.beginTraining h.fillSlot.setPort.emit)

theorem freeSlot {k : Nat} (h : s.MemOk) : (s.freeSlot p k).MemOk := by
  unfold State.freeSlot
  dsimp only
  split
  · exact h
  · exact h.setPort.emit

theorem ownSlot {t : SlotRec} {k : Nat} (h : s.MemOk) : (s.ownSlot r x t p k).MemOk := by
  unfold State.ownSlot
  dsimp only
  split
  · exact .ite (.retain (.ite (.emit h) h)) (.ite (.emit h) h)
  · exact .ite (.ite (.retain (.ite h.emit h)) (.ite h.emit h)) h

theorem linkSlot {frame k : Nat} (h : s.MemOk) : (s.linkSlot frame k p).MemOk := by
  unfold State.linkSlot
  dsimp only
  refine .ite h (.fillSlot ?_)
  split
  · exact h.ownSlot
  · exact .ite h.freeSlot h

theorem lostSlot {frame k : Nat} (h : s.MemOk) : (s.lostSlot frame k p).MemOk := by
  unfold State.lostSlot
  dsimp only
  refine .ite h (foldl_memOk h fun _ _ hu => ?_)
  split
  · exact .ite hu (.ite hu.flyStream hu)
  · exact hu

theorem linkTick (h : s.MemOk) : s.linkTick.MemOk :=
  foldl_memOk h fun _ _ hu => foldl_memOk hu fun _ _ hw => hw.linkSlot.lostSlot

theorem sendFull {frame : Nat} (h : s.MemOk) : (s.sendFull frame p).MemOk := .ite h h.queueOut

theorem frameStart (h : s.MemOk) : s.frameStart.MemOk := by
  unfold State.frameStart
  refine .ite ?_ ?_
  · exact foldl_memOk (foldl_memOk h fun _ _ hu => hu.sendControl) fun _ _ hu => hu.sendFull
  · exact foldl_memOk h fun _ _ hu => hu.sendControl

theorem frameTick (h : s.MemOk) : s.frameTick.MemOk := .ite h.frameStart (.ite (foldl_memOk h fun _ _ hu => hu.sendControl) h)

theorem steerTick (h : s.MemOk) : s.steerTick.MemOk := .ite h h

theorem passTick (h : s.MemOk) : s.passTick.MemOk := h.cycles

theorem ageRetained (h : s.MemOk) : s.ageRetained.MemOk := h

theorem readSensors {t : Telemetry} (h : s.MemOk) : (s.readSensors t).MemOk := h

theorem freeRates (h : s.MemOk) : s.freeRates.MemOk := foldl_memOk h fun _ _ hu => .ite (hu.modHog fun _ hd => hd) hu

theorem tick {t : Telemetry} (h : s.MemOk) : (s.tick t).MemOk := by
  unfold State.tick
  extract_lets _ s₁ s₂ s₃
  have h₁ : s₁.MemOk := .withStalls h.endDump
  have h₂ : s₂.MemOk := h₁.passTick.readSensors.steerTick.ageRetained.freeRates
  have h₃ : s₃.MemOk := foldl_memOk h₂.nullTick.ringTick.reportPast fun _ _ hu => hu.watchDead
  exact (State.MemOk.withChn (.withPwr h₃)).frameTick.linkTick

end State.MemOk

theorem execChainTick_memOk {t : Telemetry} (h : s.MemOk) : Out.MemOk (execChainTick t s) := by
  unfold execChainTick
  refine .ite (.next h) ?_
  split
  · exact .next h.readSensors.bootStep
  · exact .next h.tick

theorem execVfEnable_memOk {en : Bool} {num : Nat} (h : s.MemOk) : Out.MemOk (execVfEnable en num s) := by
  unfold execVfEnable
  extract_lets _ _ u w
  have hu : u.MemOk := foldl_memOk h fun _ _ hv => hv.resetContext.resetMsix
  clear_value u
  have hw : w.MemOk := foldl_memOk hu fun _ _ hv => .ite hv hv.modCtx
  exact .ite .fault (.ite (.next h) (.next hw.withHub))

end Sys2Proof.Machine
end

section
/-!
The step keeps every memory in its canonical form (07 R208; 13 R340; 14 R387): the rules of the functions of the model put
together, one arm per command as in the dispatch, and then the step itself.
-/

namespace Sys2Proof.Machine

/-- Every command keeps the memories in canonical form, whatever it finds. -/
theorem exec_memOk {s : State} (i : Instr) (h : s.MemOk) : Out.MemOk (exec i s) := by
  unfold exec
  cases i with
  | emptyEll => exact .ite .fault (.ite .fault (.next h.openEll.endEll))
  | add | sub | and | or | xor | shl | shr | sra | slt | sltu | mul | mulh | mulhu | min | max | addi | andi | ori | xori
  | lui =>
    exact h.scalarOp
  | shli | shri | srai | lidx => exact h.scalarOpIf
  | lw | lbu => exact h.loadOp
  | sw | sb => exact h.storeOp
  | beq | bne | blt | bge | bltu | bgeu => exact h.branchOp
  | jal | jalr => exact h.jumpOp
  | loop => exact h.slotP fun _ hu => hu.modCore fun _ hk => .ite hk.jump hk.modEll
  | crr => exact h.slotP fun _ hu => hu.modCore fun _ hk => .ite hk hk.later
  | crw | crs | crc => exact h.ctlOp
  | tpw | dwr => exact h.slotP fun _ hu => hu.modCore fun _ hk => hk.later
  | trap | eret | halt => exact h.slot fun _ hu => hu.modCore fun _ hk => hk.modEll
  | tile => exact h.slotP fun _ hu => hu.modCore fun _ hk => .ite hk hk.pushMat
  | sload | mstream => exact h.slotP fun _ hu => hu.modCore fun _ hk => hk.pushMat
  | swap => exact h.slot fun _ hu => hu.modCore fun _ hk => hk.pushMat
  | tileStart | mstreamStart => exact h.matEvent fun _ _ _ hk => .matStart (h.modCore fun _ hl => hl.popMat)
  | backgroundLoadStart => exact execBackgroundLoadStart_memOk h
  | swapEffect => exact h.matEvent fun _ _ _ hk => .ite h.arrayAt (h.arrayAt.swapAt.modCore fun _ hl => hl.popMat)
  | resultColumn => exact execResultColumn_memOk h
  | ldv | lds | ldb => exact h.loadSlot
  | dadd => exact h.slot fun _ hu => hu.modCore fun _ hk => hk.later
  | stv | sts | stb => exact h.storeSlot
  | engineOpStart => exact execEngineOpStart_memOk h
  | vadd | vsub | vmul | vfma | vdiv | vmin | vmax | vsel => exact h.vecEl
  | vcmp | vand | vor | vxor | vmov | vsplat | viota | viadd | vpack | vunpk | vramax => exact h.vecOp
  | vrecip | vsqrt | vrsqrt | vexp2 | vlog2 | vtanh | vsigm | verf => exact h.vecFn
  | vsinp | vcosp => exact h.vecPhaseFn
  | vphase | vrot | vmxq => exact h.vecSlot fun _ hk => hk.vWrite.vWrite
  | vcvt => exact h.vecSlot fun _ hk => .ite hk.vWrite hk.vWrite
  | vrmax | vrmin => exact h.vecReduce
  | vaclr | vacc | vrsum => exact h.vecSlot fun _ hk => hk.bankAt
  | vacsum => exact h.sampleSlot fun _ hk => hk.bankSample.bankAt
  | vacsumBankWrite => exact execVacsumBankWrite_memOk h
  | vacvt => exact execVacvt_memOk h
  | vrq => exact execVrq_memOk h
  | fset | fclr => exact h.syncSlot fun _ hu => hu.flagSignal
  | fwait => exact execFwait_memOk h
  | fwaitWake => exact execFwaitWake_memOk h
  | barr => exact execBarr_memOk h
  | digest => exact h.slot fun _ hu => hu.modCore fun _ hk => .syncDoneAt hk
  | fence => exact h.slot fun _ hu => hu.modCore fun _ hk => hk
  | fenceRelease => exact execFenceRelease_memOk h
  | event => exact execEvent_memOk h
  | ftest => exact h.syncSlot fun _ hu => hu.modCore fun _ hk => hk.later.syncDoneAt
  | flagViewUpdate => exact execFlagViewUpdate_memOk h
  | barrierArrival => exact execBarrierArrival_memOk h
  | barrierRelease => exact execBarrierRelease_memOk h
  | digestHandover => exact execDigestHandover_memOk h
  | layerDigestPost => exact execLayerDigestPost_memOk h
  | deadlock => exact execDeadlock_memOk h
  | objectBreak => exact execObjectBreak_memOk h
  | trapEntry => exact execTrapEntry_memOk h
  | hogsheadReissue => exact execHogsheadReissue_memOk h
  | hogsheadRefresh => exact execHogsheadRefresh_memOk h
  | stratumPatrol => exact h.coreEvent fun _ hk => .ite (.next h) (.next (.countRewrites (h.setCore hk)))
  | hogsheadPatrol => exact execHogsheadPatrol_memOk h
  | coreScrub => exact h.coreEvent fun _ hk => .ite (.next h) (.next (h.beginScrub.modCore fun _ hl => hl.scrubbed))
  | scrubComplete => exact h.coreEvent fun _ hk => .ite (.next (.settleKills (h.setCore hk.scrubbed))) (.next h)
  | regionScrub => exact .ite .fault (.ite (.next h) (.next h.beginRegionScrub))
  | regionScrubComplete => exact execRegionScrubComplete_memOk h
  | start => exact execStart_memOk h
  | creditReturn => exact execCreditReturn_memOk h
  | grainLanding => exact execGrainLanding_memOk h
  | syncGrainLanding => exact execSyncGrainLanding_memOk h
  | grainCollision => exact execGrainCollision_memOk h
  | bestEffortInject => exact execBestEffortInject_memOk h
  | grainForward => exact .ite (.next h.forwardResent) (.ite (.next h) (.next h.sendRouted))
  | fetch | key | put => exact h.hostEvent
  | hubReply => exact execHubReply_memOk h
  | codewordReceive => exact .ite .fault (.ite (.next h) (.next h.setPort))
  | controlGrain => exact execControlGrain_memOk h
  | synced | syncLost | emergencyStallEnd => exact .ite (.next h) (.next h)
  | portGrainReceive => exact execPortGrainReceive_memOk h
  | nakReceive => exact .ite .fault (.next h.nakIn)
  | resend => exact execResend_memOk h
  | portTraining => exact .ite .fault (.ite (.next h) (.ite (.next h.exchange) (.next h.modPort.nextPhase)))
  | linkDown => exact .ite .fault (.next h.portDown)
  | chainFull => exact execChainFull_memOk h
  | ready => exact h.mgmt (h.putReady.eachRun fun _ _ hu => hu.tryLaunch)
  | launch => exact h.mgmt (h.eachRun fun _ _ hu => hu.learnLaunch)
  | abort => exact h.mgmt (h.eachRun fun _ _ hu => hu.abortRun)
  | pathLost => exact h.mgmt (h.eachRun fun _ _ hu => hu.learnLoss)
  | step => exact h.mgmt (h.wake.eachRun fun _ _ hu => hu.stepFor)
  | breakObjects => exact h.mgmt (h.eachRun fun _ _ hu => hu.breakRun)
  | masterListenTimeout => exact .ite (.next h) (.ite (.next h) (.next h.adoptCount))
  | coordinationTimeout => exact execCoordinationTimeout_memOk h
  | runLaunch => exact execRunLaunch_memOk h
  | furlongBoundary => exact execFurlongBoundary_memOk h
  | holdOriginate => exact execHoldOriginate_memOk h
  | hold => exact .ite .fault (.ite (.next h) (.next (h.sawHold.flood.eachRun fun _ _ hu => hu.holdFor)))
  | periodStretch => exact .ite .fault (.ite (.next h) (.next h))
  | beatStall => exact .ite (.next h) (.next (.countEmerg h))
  | thermalStepRequest => exact execThermalStepRequest_memOk h
  | stepUpRequest => exact .ite (.next h) (.next h.requestStep)
  | emergencyStall => exact .ite (.next h) (.ite (.next h) (.next (.countEmerg h)))
  | thermalTrip | pllUnlock | railFault => exact .next (.ite h.fatal h)
  | powerStateEntry => exact .ite (.next h) (.ite (.next h) (.next h.goTo))
  | powerStateExit => exact .ite (.next h) (.ite (.next h) (.next h.toActive))
  | hostTarget => exact execHostTarget_memOk h
  | enterOff => exact execEnterOff_memOk h
  | exitOff => exact execExitOff_memOk h
  | pwrNextHiWrite => exact execPwrNextHiWrite_memOk h
  | crossingCalibration => exact .ite (.next h) (.ite (.next h.calibrate) (.next h.calibrate.toActive))
  | mode => exact h.mmio fun _ hu => hu.writeMode
  | sealLock => exact h.mmio fun _ hu => hu.writeLock
  | modeChangeApply => exact .ite (.next h) (.next (.softSet h))
  | detCntClear => exact execDetCntClear_memOk h
  | detCertData => exact .ite (.next h) (h.mmio fun _ hu => hu)
  | counterLoRead => exact execCounterLoRead_memOk h
  | rcRead => exact .ite .fault (.ite (.next h) (.next h.afterRead))
  | registerWrite => exact execRegisterWrite_memOk h
  | enable => exact execEnable_memOk h
  | bridgeTimeout => exact execBridgeTimeout_memOk h
  | portEnable => exact .ite .fault (h.mmio fun _ hu => hu.ctrlEnable)
  | retrain => exact .ite .fault (h.mmio fun _ hu => hu.ctrlRetrain)
  | loopback => exact .ite .fault (h.mmio fun _ hu => hu.ctrlLoop)
  | maint => exact .ite .fault (h.mmio fun _ hu => hu.ctrlMaint)
  | lnkCoreLoop => exact execLnkCoreLoop_memOk h
  | sqTail => exact execSqTail_memOk h
  | cqHead => exact execCqHead_memOk h
  | eqHead => exact execEqHead_memOk h
  | dqHead => exact execDqHead_memOk h
  | ringsEn => exact .ite .fault (.next (.ite h.writeRingsEn h))
  | ctxIrqAck => exact execCtxIrqAck_memOk h
  | ctxIrqTest => exact execCtxIrqTest_memOk h
  | evcHack => exact execEvcHack_memOk h
  | evcSwset => exact execEvcSwset_memOk h
  | evcTgt => exact execEvcTgt_memOk h
  | sourcePending => exact execSourcePending_memOk h
  | withdrawn => exact .next (.ite h h.uncount)
  | delivery => exact execDelivery_memOk h
  | entrySequence => exact .ite .fault (.ite (.next h) (.next (.claim h)))
  | exitSequence => exact execExitSequence_memOk h
  | nop => exact execNop_memOk h
  | tunLoad => exact execTunLoad_memOk h
  | tunUnload => exact h.submission fun _ hu => .ite hu.deny hu.modCtx.reply
  | run => exact execRun_memOk h
  | request => exact execRequest_memOk h
  | cancel => exact execCancel_memOk h
  | stoneLoad => exact execStoneLoad_memOk h
  | stoneUnmap => exact execStoneUnmap_memOk h
  | grant => exact execGrant_memOk h
  | revokeGrant => exact execRevokeGrant_memOk h
  | ctxKill => exact h.submission fun _ hu => .ite hu.malformed hu.killStart.modCtx.settleKill
  | preempt => exact execPreempt_memOk h
  | resume => exact execResume_memOk h
  | pmOptin => exact execPmOptin_memOk h
  | debugConsent => exact h.submission fun _ hu => hu.modCtx.reply
  | release => exact h.submission fun _ hu => .ite hu.deny hu.beginScrubs.reply
  | runAdmission => exact execRunAdmission_memOk h
  | runComplete => exact execRunComplete_memOk h
  | requestEligible => exact execRequestEligible_memOk h
  | stoneResident => exact execStoneResident_memOk h
  | stratumRewrite => exact execStratumRewrite_memOk h
  | program => exact execProgram_memOk h
  | revoke => exact execRevoke_memOk h
  | ingAnchorData => exact execIngAnchorData_memOk h
  | ingRevokeData => exact execIngRevokeData_memOk h
  | revokeAdd => exact execRevokeAdd_memOk h
  | dutySplitApply | trialOk => exact .next (.ite h h)
  | hubDumpBaseWrite => exact execHubDumpBaseWrite_memOk h
  | hubResetCold => exact execHubResetCold_memOk h
  | hubResetWarm => exact execHubResetWarm_memOk h
  | hubCoreReset => exact execHubCoreReset_memOk h
  | stage => exact execStage_memOk h
  | activate => exact execActivate_memOk h
  | raiseFloor => exact execRaiseFloor_memOk h
  | fwCancel => exact execFwCancel_memOk h
  | firmwareActivation => exact .ite (.next h) (.next (.restartMps h))
  | trialTimeout => exact .next (.ite h.revertTrial h)
  | hubRepairReq => exact execHubRepairReq_memOk h
  | repairApply => exact execRepairApply_memOk h
  | coldReset => exact .ite (.next h) (.next h.coldCleared)
  | warmReset => exact .next (.ite h.warmReset h)
  | pfFunctionLevelReset => exact .ite (.next h) (.next (.withEvc h.resetContexts.vfsOff.destroyBridges))
  | contextReset => exact .ite .fault (.next (.ite h h.resetContext.resetMsix))
  | fatalError => exact .ite .fault (.ite (.next h) (.next h.fatal))
  | mpWatchdog => exact .next (.ite h (.ite h.revertTrial h.fatal))
  | inputExcursion | bypass | idcode | samplePreload | extest => exact .next h.modBoard
  | inputSupply => exact .ite (.next h.modBoard) (.next h.modBoard.fatal.endDump.loadOff)
  | loadLoss => exact .next h.loadOff
  | malformedTlp | unsupportedCommand => exact .ite (.next h) (.ite (.next h) (.next h))
  | capability | mfrState => exact .next h.answerByte
  | statusWord | readVin | readIin | readPin | readTemperature1 | readTemperature2 | readTemperature3 => exact .next h.answer
  | statusInput | statusTemperature | statusCml => exact .next h.statusByte
  | mfrStepCap => exact execMfrStepCap_memOk h
  | chainTick => exact execChainTick_memOk h
  | vfEnable => exact execVfEnable_memOk h

end Sys2Proof.Machine

namespace Sys2Proof.Claims

open Sys2Proof.Machine

/-- Settles O60: the front command is executed on the state without it, whose memories are the same. -/
theorem stepKeepsMemories : Obligations.StepKeepsMemories := by
  intro s t h ht
  unfold Machine.step at ht
  split at ht
  next => cases ht; exact h
  next i rest _ => exact Machine.exec_memOk (s := { s with pending := rest }) i h t ht

end Sys2Proof.Claims
end

section
/-!
The load and store slots (06 R168, R172, R173): operations that enter their engine's queue, and writes of descriptor words.
-/

namespace Sys2Proof.Machine

variable {s : State} {c : Nat} {p : BitVec 4} {f : Core → EngOp} {o : EngOp}

/-- A lone operation of the load slot joins the end of the load queue. -/
theorem State.loadSlot_ready (h : s.ready c 3 loadFull) (hf : ∀ e, f ((s.seen c).withEll e) = o) :
    s.loadSlot c (.last p) f = .next (s.setCore c
      (({ s.seen c with eng := { (s.seen c).eng with loadQ := (s.seen c).eng.loadQ ++ [o] } } : Core).fallThrough 4
        p.toNat)) := by
  unfold State.loadSlot State.slot
  refine State.slotP_effect h rfl fun e => ?_
  rw [hf]
  rfl

/-- A lone operation of the store slot joins the end of the store queue. -/
theorem State.storeSlot_ready (h : s.ready c 3 storeFull) (hf : ∀ e, f ((s.seen c).withEll e) = o) :
    s.storeSlot c (.last p) f = .next (s.setCore c
      (({ s.seen c with eng := { (s.seen c).eng with storeQ := (s.seen c).eng.storeQ ++ [o] } } : Core).fallThrough 4
        p.toNat)) := by
  unfold State.storeSlot State.slot
  refine State.slotP_effect h rfl fun e => ?_
  rw [hf]
  rfl

/-- The word that DWR writes, by its index as the ell names it (R164). -/
theorem dwrMask_index (w : BitVec 5) (v : Word) : dwrMask w.toNat v = if w = 0 then v &&& 0x3F7 else v := by
  have hw : w.toNat = 0 ↔ w = 0 := BitVec.toNat_inj (y := 0)
  simp only [dwrMask, hw]

/-- BASE moves modulo 2^32 (R172). -/
theorem Desc.base_add (d : Desc) (v : Word) :
    BitVec.ofNat 32 (Desc.base d) + v = BitVec.ofNat 32 (bits d 64 32 + v.toNat) := by
  rw [BitVec.ofNat_add, BitVec.ofNat_toNat, BitVec.setWidth_eq]
  rfl

end Sys2Proof.Machine

namespace Sys2Proof

open Sys2Proof.Machine Sys2Proof.Claims

/-- Settles O26: each operation enters the queue of its slot, and its copies do not depend on the ell. -/
theorem engineIssue : Obligations.EngineIssue := by
  unfold Obligations.EngineIssue
  intro s i c p store f hi hs
  cases i with
  | ldv | lds | ldb =>
    cases hi
    exact State.loadSlot_ready hs fun _ => rfl
  | stv | sts | stb =>
    cases hi
    exact State.storeSlot_ready hs fun _ => rfl
  | _ => cases hi

/-- Settles O27: both schedule one word of a descriptor as the ell's only effect. -/
theorem descriptorWrites : Obligations.DescriptorWrites := by
  unfold Obligations.DescriptorWrites
  intro s c p h rs w hs k
  refine ⟨fun hw => ?_, ?_⟩
  · refine State.slotP_effect hs (if_neg (Nat.not_le.2 hw)) fun e => ?_
    rw [dwrMask_index]
    rfl
  · refine State.slotP_effect (chk := fun _ => none) hs rfl fun e => ?_
    rw [Desc.base_add]
    rfl

end Sys2Proof
end

section
/-!
ENGINE_OP_START (06 R170, R173; 07 R204, R205; 02 R40): the operation at the head of an engine's queue starts, faults or waits.
-/

namespace Sys2Proof.Machine

/-- The queue of the store or the load engine. -/
def Core.engQ (k : Core) (store : Bool) : List EngOp := if store then k.eng.storeQ else k.eng.loadQ

/-- The cycle in which that engine's occupancy ends. -/
def Core.engFree (k : Core) (store : Bool) : Nat := if store then k.eng.storeFree else k.eng.loadFree

/-- The first cycle in which an operation of that engine may start, but for its credit (R173). -/
def EngOp.earliest (o : EngOp) (k : Core) (store : Bool) : Nat := max o.issued (k.engFree store)

/-! The head of an engine's queue leaves it -/

@[simp] theorem Core.queueFreed_eng (k : Core) (t : Nat) : (k.queueFreed t).eng = k.eng := by
  unfold Core.queueFreed; split <;> rfl

@[simp] theorem Core.queueFreed_spadQ (k : Core) (t : Nat) : (k.queueFreed t).spadQ = k.spadQ := by
  unfold Core.queueFreed; split <;> rfl

section
variable (k : Core) (store : Bool) (t occ : Nat)

@[simp] theorem Core.popOp_engQ : (k.popOp store t occ).engQ store = (k.engQ store).drop 1 := by
  cases store <;> simp [Core.popOp, Core.engQ]

@[simp] theorem Core.popOp_engFree : (k.popOp store t occ).engFree store = t + occ := by
  cases store <;> simp [Core.popOp, Core.engFree]

@[simp] theorem Core.popOp_spadQ : (k.popOp store t occ).spadQ = k.spadQ := by
  cases store <;> simp [Core.popOp]

end

/-! Grains that an operation waits for -/

section
variable {s : State} {c : Nat}

/-- With no grain on its way, colliding or sent again, none is owed to a core. -/
theorem State.owed_none (hf : s.lnk.flights = []) (hcol : s.lnk.collide = []) (hn : s.lnk.outNaks = []) : s.owed c = [] := by
  simp [State.owed, hf, hcol, hn]

theorem State.lateGrain_none (h : s.owed c = []) (t lag : Nat) (hit : StreamEntry → Nat → Bool) :
    s.lateGrain c t lag hit = none := by
  simp [State.lateGrain, h]

/-- Then no operation waits. -/
theorem State.opLate_none (h : ∀ d, s.owed d = []) (o : EngOp) (t : Nat) : s.opLate c o t = none := by
  unfold State.opLate State.lateBank State.lateRow
  split
  · rw [State.lateGrain_none (h c)]
    rfl
  · refine List.findSome?_eq_none_iff.2 fun r _ => ?_
    rw [State.lateGrain_none (h r.1)]
    rfl

theorem State.opStart_go {o : EngOp} {t : Nat} (h : s.opLate c o t = none) (go : State) : s.opStart c o t go = go := by
  rw [State.opStart, h]

theorem State.opStart_await {o : EngOp} {t : Nat} {g : Nat × Nat × Nat × Nat} (h : s.opLate c o t = some g) (go : State) :
    s.opStart c o t go = s.await g.1 g.2 := by
  rw [State.opStart, h]

end

/-! The event, case by case -/

section
variable {s : State} {c : Nat} {store : Bool} {reply : List Byte} {bad : List Nat} {o : EngOp} {rest : List EngOp}
  (hc : s.hasCore c = true) (he : (s.core c).ell = none) (hs : s.stalled = false) (hr : s.running c = true)
include hc he hs hr

theorem exec_engineOpStart_empty (hq : (s.core c).engQ store = []) :
    exec (.engineOpStart c store reply bad) s = .next s := by
  unfold Core.engQ at hq
  simp only [exec, execEngineOpStart, State.coreEvent_idle hc he, hs, hr, hq]
  rfl

variable (hq : (s.core c).engQ store = o :: rest)
include hq

/-- An operation that fails its checks (R170). -/
theorem exec_engineOpStart_fault {x : Byte × BitVec 8} (hx : s.engFault c o = some x) :
    exec (.engineOpStart c store reply bad) s =
      .next ((s.modCore c (fun k => k.popOp store (o.earliest (s.core c) store) o.occ)).raiseAsyncAt c x.1
        (trapInfo (if store then 4 else 3) x.2.toNat 0) (o.earliest (s.core c) store)) := by
  unfold Core.engQ at hq
  simp only [exec, execEngineOpStart, State.coreEvent_idle hc he, hs, hr, hq, hx]
  rfl

variable (hf : s.engFault c o = none)
include hf

/-- A sound operation that needs no credit. -/
theorem exec_engineOpStart_uncredited (hp : o.writes.bind (fun x => Desc.pool x.d) = none) :
    exec (.engineOpStart c store reply bad) s =
      .next (s.opStart c o (o.earliest (s.core c) store)
        ((s.modCore c (fun k => k.tidy.popOp store (o.earliest (s.core c) store) o.occ)).engRun c o
          (o.earliest (s.core c) store) (reply, bad))) := by
  unfold Core.engQ at hq
  simp only [exec, execEngineOpStart, State.coreEvent_idle hc he, hs, hr, hq, hf, hp]
  rfl

variable {p : Nat} (hp : o.writes.bind (fun x => Desc.pool x.d) = some p)
include hp

/-- A sound operation whose pool is empty (07 R204). -/
theorem exec_engineOpStart_noCredit (hn : (s.core c).credits p = 0) :
    exec (.engineOpStart c store reply bad) s = .next s := by
  unfold Core.engQ at hq
  simp only [exec, execEngineOpStart, State.coreEvent_idle hc he, hs, hr, hq, hf, hp, hn]
  rfl

/-- A sound operation whose pool holds a credit. -/
theorem exec_engineOpStart_credited (hn : (s.core c).credits p ≠ 0) :
    exec (.engineOpStart c store reply bad) s =
      .next (s.opStart c o (max (o.earliest (s.core c) store) ((s.core c).creditAt p))
        ((s.modCore c (fun k => (k.tidy.popOp store (max (o.earliest (s.core c) store) ((s.core c).creditAt p))
          o.occ).takeCredit p)).engRun c o (max (o.earliest (s.core c) store) ((s.core c).creditAt p)) (reply, bad))) := by
  unfold Core.engQ at hq
  simp only [exec, execEngineOpStart, State.coreEvent_idle hc he, hs, hr, hq, hf, hp, if_neg hn]
  rfl

end

/-- TRAP_INFO of an engine's operation: its slot and the handle at fault (05 R156). -/
theorem trapInfo_handle {slot : Nat} (hslot : slot < 8) (h : BitVec 8) :
    trapInfo slot h.toNat 0 = BitVec.ofNat 32 (slot + 256 * h.toNat) := by
  rw [trapInfo, Nat.mod_eq_of_lt hslot, Nat.mod_eq_of_lt h.isLt]
  rfl

end Sys2Proof.Machine

namespace Sys2Proof.Claims

open Sys2Proof.Machine

/-- Settles O28: each clause is the case of the event that its hypotheses name. -/
theorem engineStart : Obligations.EngineStart := by
  unfold Obligations.EngineStart
  intro s c store reply bad hc he hs hr k q go
  refine ⟨exec_engineOpStart_empty hc he hs hr, fun o rest hq => ?_⟩
  intro t
  refine ⟨fun x hx => ?_, fun hf hp hl => ?_, fun g hf hp hl => ?_, fun p hf hp hn => ?_, fun p hf hp hn hl => ?_,
    fun p g hf hp hn hl => ?_, fun hfl hcol hnak => ?_⟩
  · have hslot : (if store then 4 else 3) < 8 := by cases store <;> decide
    refine ⟨s.modCore c (fun k => k.popOp store t o.occ), ?_, ?_, ?_, ?_, fun d hd => State.core_modCore_ne _ _ hd⟩
    · rw [← trapInfo_handle hslot]
      exact exec_engineOpStart_fault hc he hs hr hq hx
    · rw [State.core_modCore_self]
      exact (Core.popOp_engQ ..).trans (congrArg (List.drop 1) hq)
    · rw [State.core_modCore_self]
      exact Core.popOp_engFree ..
    · rw [State.core_modCore_self]
      exact Core.popOp_spadQ ..
  · exact (exec_engineOpStart_uncredited hc he hs hr hq hf hp).trans (congrArg _ (State.opStart_go hl _))
  · exact (exec_engineOpStart_uncredited hc he hs hr hq hf hp).trans (congrArg _ (State.opStart_await hl _))
  · exact exec_engineOpStart_noCredit hc he hs hr hq hf hp hn
  · exact (exec_engineOpStart_credited hc he hs hr hq hf hp hn).trans (congrArg _ (State.opStart_go hl _))
  · exact (exec_engineOpStart_credited hc he hs hr hq hf hp hn).trans (congrArg _ (State.opStart_await hl _))
  · exact State.opLate_none (fun d => State.owed_none hfl hcol hnak) o

end Sys2Proof.Claims
end

section
/-!
An STV to the local scratchpad (06 R168, R173, R176): what its start leaves of the core, and the write that it queues.
-/

namespace Sys2Proof.Machine

/-! What a start tidies away -/

theorem Core.spadPut_eng (k : Core) (a : Nat) (bs : List Byte) (bad : List Nat) : (k.spadPut a bs bad).eng = k.eng :=
  foldl_keeps Core.eng (f := fun k o => k.poison .spad (a + o)) (fun _ _ => rfl) bad _

theorem Core.settle_eng (k : Core) (t : Nat) : (k.settle t).eng = k.eng :=
  foldl_keeps Core.eng (f := fun k (w : SpadWrite) => k.spadPut w.addr w.bytes w.bad)
    (fun k w => k.spadPut_eng w.addr w.bytes w.bad) _ _

/-- The scratchpad writes made and the accesses dropped before a start are no matter of the engines. -/
theorem Core.tidy_eng (k : Core) : k.tidy.eng = k.eng := by
  unfold Core.tidy
  rw [apply_ite Core.eng, Core.settle_eng]
  exact ite_self _

theorem Core.tidy_engQ (k : Core) (store : Bool) : k.tidy.engQ store = k.engQ store := by
  rw [Core.engQ, Core.tidy_eng, Core.engQ]

/-! Accesses and writes of a core's scratchpad -/

/-- Recording an access changes no core but for its record; the stall of a conflict is no matter of the cores. -/
theorem State.access_core (s : State) (c t b d : Nat) :
    (s.access c t b).core d = (s.setCore c ((s.core c).access t b).1).core d := by
  unfold State.access
  dsimp only
  split
  · exact State.stallAt_core ..
  · rfl

/-- A write that is queued is in the queue. -/
theorem Core.mem_spadLater (k : Core) (t a : Nat) (bs : List Byte) (bad : List Nat) (rank : Nat) :
    { cyc := t, addr := a, bytes := bs, bad := bad, rank := rank } ∈ (k.spadLater t a bs bad rank).spadQ := by
  simp [Core.spadLater]

/-- A row of at most 64 bytes is one access and one write. -/
theorem State.putUnits_row {s : State} {port : SpadPort} {bs : List Byte} (h0 : bs ≠ []) (h64 : bs.length ≤ 64)
    (c n a t : Nat) :
    s.putUnits true port c [] (n + 2) a t 0 bs =
      (s.access c t (spadBank a)).modCore c (fun k => k.spadLater t a bs [] (accessRank s.moduleId c port)) := by
  have hne : bs.isEmpty = false := by simpa using h0
  simp [State.putUnits, State.accessIf, hne, List.take_of_length_le h64, List.drop_of_length_le h64]

/-- The bytes of a number, by their bits. -/
theorem bytesOf_getD {w n j : Nat} (v : BitVec w) (h : j < n) :
    (bytesOf v n).getD j 0 = BitVec.ofNat 8 (bits v (8 * j) 8) := by
  rw [bytesOf, leBytes_getD _ h, bits, Nat.pow_mul]
  apply BitVec.eq_of_toNat_eq
  simp

/-! The operation -/

section
variable {o : EngOp}

/-- A store of a vector register reads no row and samples no bank (02 R40). -/
theorem State.opLate_stv (hk : o.kind = .stv) (s : State) (c t : Nat) : s.opLate c o t = none := by
  simp [State.opLate, State.opReads, hk]

/-- A store to the local scratchpad takes no credit (07 R204). -/
theorem EngOp.stv_uncredited (hk : o.kind = .stv) (hsp : Desc.space o.src.d = 0) :
    o.writes.bind (fun x => Desc.pool x.d) = none := by
  simp [EngOp.writes, hk, Desc.pool, hsp]

/-- Core `k` after a store of its own that starts in cycle t: the digest, the access, and one write of the row four cycles
later. -/
def Core.stored (k : Core) (o : EngOp) (t rank : Nat) : Core :=
  let bs := bytesOf o.data (Desc.rb o.src.d)
  let a := o.src.addr o.row 0
  ((((k.addDigest o.epoch (o.src.digest o.row 0 bs)).access (t + 4) (spadBank a)).1).spadLater (t + 4) a bs []
    rank).storeDoneAt (t + 5)

section
variable (k : Core) (t rank : Nat)

/-- The write that such a store queues: the bytes of its source register as read at issue, at the address of its row (R168,
R176). -/
theorem Core.stored_write : ∃ w, w ∈ (k.stored o t rank).spadQ ∧ w.cyc = t + 4 ∧ w.addr = o.src.addr o.row 0 ∧
    w.bad = [] ∧ w.bytes.length = Desc.rb o.src.d ∧
    (∀ j, j < Desc.rb o.src.d → w.bytes.getD j 0 = BitVec.ofNat 8 (bits o.data (8 * j) 8)) :=
  ⟨_, Core.mem_spadLater .., rfl, rfl, rfl, leBytes_length _ _, fun _ hj => bytesOf_getD _ hj⟩

theorem Core.stored_engQ (store : Bool) : (k.stored o t rank).engQ store = k.engQ store := rfl

theorem Core.stored_engFree (store : Bool) : (k.stored o t rank).engFree store = k.engFree store := rfl

end

/-- The effect of the store on the cores: its own one stores the row, and no other changes. -/
theorem State.engRun_stv (hk : o.kind = .stv) (hsp : Desc.space o.src.d = 0) (h0 : 0 < Desc.rb o.src.d)
    (h64 : Desc.rb o.src.d ≤ 64) (s : State) (c t d : Nat) (reply : Fetched) :
    (s.engRun c o t reply).core d =
      (s.modCore c (fun k => k.stored o t (accessRank s.moduleId c .store))).core d := by
  have hlen : (bytesOf o.data (Desc.rb o.src.d)).length = Desc.rb o.src.d := leBytes_length _ _
  have hne : bytesOf o.data (Desc.rb o.src.d) ≠ [] := List.ne_nil_of_length_pos (h0.trans_eq hlen.symm)
  have hunits : units (Desc.rb o.src.d) = 1 := by unfold units; omega
  simp only [State.engRun, hk, State.writeBytes, State.writeDone, hsp, hlen, hunits,
    State.putUnits_row hne (hlen.trans_le h64)]
  by_cases hd : d = c
  · subst hd
    simp only [State.core_modCore_self, State.access_core, State.core_setCore]
    rfl
  · simp only [State.core_modCore_ne _ _ hd, State.access_core, State.core_setCore_ne _ _ hd]

/-- The event with a sound such store at the head of the store queue: it starts as soon as the engine is free. -/
theorem exec_engineOpStart_stv {s : State} {c : Nat} {rest : List EngOp} {reply : List Byte} {bad : List Nat}
    (hc : s.hasCore c = true) (he : (s.core c).ell = none) (hs : s.stalled = false) (hr : s.running c = true)
    (hq : (s.core c).engQ true = o :: rest) (hf : s.engFault c o = none) (hk : o.kind = .stv) (hsp : Desc.space o.src.d = 0)
    (h0 : 0 < Desc.rb o.src.d) (h64 : Desc.rb o.src.d ≤ 64) :
    ∃ u : State, exec (.engineOpStart c true reply bad) s = .next u ∧
      u.core c = ((s.core c).tidy.popOp true (o.earliest (s.core c) true) o.occ).stored o (o.earliest (s.core c) true)
        (accessRank s.moduleId c .store) ∧
      (∀ d, d ≠ c → u.core d = s.core d) := by
  have hx := (exec_engineOpStart_uncredited (reply := reply) (bad := bad) hc he hs hr hq hf (EngOp.stv_uncredited hk hsp)).trans
    (congrArg _ (State.opStart_go (State.opLate_stv hk s c _) _))
  refine ⟨_, hx, ?_, fun d hd => ?_⟩
  · rw [State.engRun_stv hk hsp h0 h64, State.core_modCore_self, State.core_modCore_self]
    rfl
  · rw [State.engRun_stv hk hsp h0 h64, State.core_modCore_ne _ _ hd, State.core_modCore_ne _ _ hd]

end

end Sys2Proof.Machine

namespace Sys2Proof.Claims

open Sys2Proof.Machine

/-- Settles O29: the store starts without a credit and without waiting, and the core that it leaves has the write in its
queue. -/
theorem storeLandsInScratchpad : Obligations.StoreLandsInScratchpad := by
  unfold Obligations.StoreLandsInScratchpad
  intro s c o rest hc he hs hr hq hk hf hsp h0 h64 t
  obtain ⟨u, hx, hself, hothers⟩ := exec_engineOpStart_stv hc he hs hr hq hf hk hsp h0 h64
  change u.core c = ((s.core c).tidy.popOp true t o.occ).stored o t _ at hself
  refine ⟨u, hx, ?_, ?_, ?_, hothers⟩
  · rw [hself]
    exact Core.stored_write ..
  · calc (u.core c).engQ true
      _ = ((s.core c).tidy.popOp true t o.occ).engQ true := by rw [hself, Core.stored_engQ]
      _ = rest := by rw [Core.popOp_engQ, Core.tidy_engQ, Core.engQ, hq]; rfl
  · calc (u.core c).engFree true
      _ = ((s.core c).tidy.popOp true t o.occ).engFree true := by rw [hself, Core.stored_engFree]
      _ = t + o.occ := Core.popOp_engFree ..

end Sys2Proof.Claims
end

section
/-!
Hogshead dies, stalls and the counts of corrected words (02 R50, R53; 07 R185, R211): what each leaves of the state.
-/

namespace Sys2Proof.Machine

/-! Tables and counters -/

theorem kfind_kmap {α : Type} (f : Nat → α → α) (m : KMap α) (k : Nat) : kfind (kmap f m) k = (kfind m k).map (f k) := by
  induction m with
  | nil => rfl
  | cons p m ih =>
    obtain ⟨j, w⟩ := p
    by_cases h : j = k
    · simp [kmap, kfind, h]
    · simp [kmap, kfind, h, ih]

/-- What a change of every value keeps of each is found as before. -/
theorem kfind_kmap_map {α β : Type} {φ : α → β} {f : Nat → α → α} (h : ∀ k x, φ (f k x) = φ x) (m : KMap α)
    (k : Nat) : (kfind (kmap f m) k).map φ = (kfind m k).map φ := by
  rw [kfind_kmap, Option.map_map]
  exact congrArg (Option.map · _) (funext (h k))

theorem satAdd_zero (v : Word) : satAdd v 0 = v := by
  have h : v.toNat < 2 ^ 32 := v.isLt
  rw [satAdd, Nat.add_zero, Nat.min_eq_left (by omega), BitVec.ofNat_toNat, BitVec.setWidth_eq]

/-- A counter that has saturated stays there, so counting twice is counting the sum. -/
theorem satAdd_satAdd (v : Word) (m n : Nat) : satAdd (satAdd v m) n = satAdd v (m + n) := by
  have h : (satAdd v m).toNat = min (v.toNat + m) 0xFFFFFFFF := by
    rw [satAdd, BitVec.toNat_ofNat]
    omega
  rw [satAdd, h, satAdd]
  congr 1
  omega

/-! A die -/

section
variable (s : State) (d : Nat) (f g : Hogshead → Hogshead)

@[simp] theorem State.hog_modHog_self : (s.modHog d f).hog d = f (s.hog d) := kget_kset_self ..

theorem State.hog_modHog_ne {e : Nat} (h : e ≠ d) : (s.modHog d f).hog e = s.hog e := kget_kset_ne _ _ _ h

@[simp] theorem State.modHog_cores : (s.modHog d f).cores = s.cores := rfl

end

/-! Runs -/

/-- What is read off a run without its counts. -/
def IgnoresCounts {β : Type} (φ : Run → β) : Prop := ∀ x k, φ { x with counts := k } = φ x

section
variable {β : Type} {φ : Run → β} (hφ : IgnoresCounts φ) (s : State)
include hφ

theorem State.chargeRuns_run? (g : RunCounts → RunCounts) (r : Nat) : ((s.chargeRuns g).run? r).map φ = (s.run? r).map φ :=
  kfind_kmap_map (fun _ x => by split; exacts [hφ x _, rfl]) s.runs r

theorem State.countStall_run? (n r : Nat) : ((s.countStall n).run? r).map φ = (s.run? r).map φ :=
  kfind_kmap_map (fun _ x => by split; exacts [hφ x _, rfl]) s.runs r

theorem State.countReissue_run? (r : Nat) : (s.countReissue.run? r).map φ = (s.run? r).map φ :=
  State.chargeRuns_run? hφ { s with det := { s.det with hgretry := s.det.hgretry.add 1 } } _ r

theorem State.stallNow_run? (n r : Nat) : ((s.stallNow n).run? r).map φ = (s.run? r).map φ :=
  State.countStall_run? hφ { s with stalls := (s.stallNow n).stalls } _ r

end

theorem State.run?_setRun_ne (s : State) {r q : Nat} (x : Run) (h : q ≠ r) : (s.setRun r x).run? q = s.run? q :=
  kfind_kset_ne _ _ h

/-- The end of a core's run touches the runs alone. -/
theorem State.endDueOf_eq (s : State) (c : Nat) : s.endDueOf c = { s with runs := (s.endDueOf c).runs } := by
  unfold State.endDueOf State.endRunDue State.modRun
  split
  · split <;> rfl
  · rfl

/-- Of the runs to which no end has come, that of the core is to end with ABORTED, and no other gets one (07 R188). -/
theorem State.run?_endDueOf {s : State} {r : Nat} {x : Run} (h : s.run? r = some x) (he : x.endStatus = none) (c : Nat) :
    ∃ y, (s.endDueOf c).run? r = some y ∧ y.endStatus = if (s.core c).run = some r then some 0x06 else none := by
  unfold State.endDueOf
  split
  next q hq =>
    by_cases hr : q = r
    · subst hr
      rw [State.endRunDue, State.modRun_eq h]
      exact ⟨_, State.run?_setRun_self .., by simp [he, hq]⟩
    · have hx : (s.endRunDue q).run? r = s.run? r := by
        unfold State.endRunDue State.modRun
        split
        · exact State.run?_setRun_ne _ _ (Ne.symm hr)
        · rfl
      exact ⟨x, hx.trans h, by simp [he, hq, hr]⟩
  next hq => exact ⟨x, h, by simp [he, hq]⟩

/-! Stalls -/

/-- A stall at a position touches the stalls, their counts and the runs. -/
theorem State.stallPos_eq (s : State) (p n : Nat) :
    s.stallPos p n = { s with
      stalls := (s.stallPos p n).stalls, stallTot := (s.stallPos p n).stallTot, det := (s.stallPos p n).det
      runs := (s.stallPos p n).runs } := by
  unfold State.stallPos
  dsimp only
  split <;> rfl

theorem State.stallPos_refcoll (s : State) (p n : Nat) : (s.stallPos p n).det.refcoll = s.det.refcoll := by
  unfold State.stallPos
  dsimp only
  split <;> rfl

/-! Corrected words -/

theorem EccRegs.record_ceStrat (g : EccRegs) (m : MemKind) (a : Nat) (due : Bool) : (g.record m a due).ceStrat = g.ceStrat := by
  unfold EccRegs.record
  split <;> rfl

theorem EccRegs.countDue_ceStrat (g : EccRegs) (m : MemKind) (a : Nat) : (g.countDue m a).ceStrat = g.ceStrat :=
  g.record_ceStrat m a true

theorem EccRegs.countCe_ceStrat (g : EccRegs) (w : Nat) : (g.countCe .strat w).ceStrat = satAdd g.ceStrat 1 := by
  show satAdd (g.record .strat (8 * w) false).ceStrat 1 = _
  rw [EccRegs.record_ceStrat]

/-- Corrected words of the stratum are counted one by one. -/
theorem EccRegs.countCes_ceStrat (xs : List EccMark) (g : EccRegs) :
    (xs.foldl (fun g x => g.countCe .strat x.word) g).ceStrat = satAdd g.ceStrat xs.length := by
  induction xs generalizing g with
  | nil => exact (satAdd_zero _).symm
  | cons x xs ih => rw [List.foldl_cons, ih, EccRegs.countCe_ceStrat, satAdd_satAdd, Nat.add_comm, List.length_cons]

/-- So are those of a die, where nothing else changes. -/
theorem State.hgCorrected_hog (os : List Nat) (s : State) (die : Nat) :
    (s.hgCorrected die os).hog die = { s.hog die with ce := satAdd (s.hog die).ce os.length } := by
  induction os generalizing s with
  | nil => rw [List.length_nil, satAdd_zero]; rfl
  | cons o os ih =>
    have h : ({ s.modHog die (fun h => { h with ce := satAdd h.ce 1 }) with
        hgRegs := s.hgRegs.record die o false } : State).hog die = { s.hog die with ce := satAdd (s.hog die).ce 1 } :=
      s.hog_modHog_self die (fun h => { h with ce := satAdd h.ce 1 })
    rw [State.hgCorrected, ih, h, satAdd_satAdd, Nat.add_comm, List.length_cons]

theorem State.hgCorrected_cores (os : List Nat) (s : State) (die : Nat) : (s.hgCorrected die os).cores = s.cores := by
  induction os generalizing s with
  | nil => rfl
  | cons o os ih => exact ih _

/-- Reads of uncorrectable words go to the registers of the errors alone. -/
theorem State.hgDues_cores (os : List Nat) (s : State) (die : Nat) :
    (os.foldl (fun s o => s.hgDue die o) s).cores = s.cores :=
  foldl_keeps (f := fun s o => s.hgDue die o) State.cores (fun _ _ => rfl) os s

theorem State.hgDues_hog (os : List Nat) (s : State) (die : Nat) :
    (os.foldl (fun s o => s.hgDue die o) s).hog die = s.hog die :=
  foldl_keeps (f := fun s o => s.hgDue die o) (State.hog · die) (fun _ _ => rfl) os s

theorem Hogshead.mem_badIn (h : Hogshead) (due : Bool) (off n o : Nat) :
    o ∈ h.badIn due off n ↔ (o, due) ∈ h.bad ∧ o < off + n ∧ off < o + 32 := by
  simp only [Hogshead.badIn, List.mem_map, List.mem_filter, Bool.and_eq_true, beq_iff_eq, decide_eq_true_eq]
  constructor
  · rintro ⟨⟨o, b⟩, ⟨hmem, ⟨rfl, hlo⟩, hhi⟩, rfl⟩
    exact ⟨hmem, hlo, hhi⟩
  · rintro ⟨hmem, hlo, hhi⟩
    exact ⟨(o, due), ⟨hmem, ⟨rfl, hlo⟩, hhi⟩, rfl⟩

end Sys2Proof.Machine
end

section
/-!
HOGSHEAD_REISSUE, HOGSHEAD_REFRESH and the patrols (07 R196, R200 to R202; 02 R51).
-/

namespace Sys2Proof.Machine

/-! Reissues -/

/-- The module after a reissue, before a third failure ends a run: `g` is what the log then holds. -/
def State.reissued (s : State) (die : Nat) (ok : Bool) (g : HgRegs) : State :=
  { (s.countReissue.stallNow 32).modHog die (fun h => { h with
      retries := if ok = true ∨ 1 ≤ (s.hog die).retries then 0 else (s.hog die).retries + 1 }) with hgRegs := g }

/-- The module after a reissue: after a third failed attempt the run of the core is to end. -/
def State.reissueDone (s : State) (c die : Nat) (ok : Bool) (g : HgRegs) : State :=
  if ok = false ∧ 1 ≤ (s.hog die).retries then (s.reissued die ok g).endDueOf c else s.reissued die ok g

theorem exec_hogsheadReissue {s : State} {c die off chan : Nat} (hd : s.hgPresent die = true) (hch : chan = hgChannel off)
    (hoff : off < hgSize) (hc : s.hasCore c = true) (he : (s.core c).ell = none) (ok : Bool) :
    ∃ g, exec (.hogsheadReissue c die chan off ok) s = .next (s.reissueDone c die ok g) := by
  have hin : (!s.hgPresent die || chan != hgChannel off || decide (off ≥ hgSize)) = false := by simp [hd, hch, hoff]
  obtain ⟨g₁, h₁⟩ : ∃ g, (if (s.hog die).retries = 0 then s.hgDue die off else s) = { s with hgRegs := g } := by
    split <;> exact ⟨_, rfl⟩
  obtain ⟨g₂, h₂⟩ : ∃ g, (if ok = true then ({ s with hgRegs := g₁ } : State).countReissue.stallNow 32
      else (({ s with hgRegs := g₁ } : State).countReissue.stallNow 32).hgDue die off) =
        { s.countReissue.stallNow 32 with hgRegs := g } := by
    split <;> exact ⟨_, rfl⟩
  refine ⟨if ok = false ∧ 1 ≤ (s.hog die).retries then g₂.final die off else g₂, ?_⟩
  simp only [exec, execHogsheadReissue, State.coreEvent_idle hc he, hin, h₁, h₂, Bool.false_eq_true, if_false,
    Bool.and_eq_true, Bool.or_eq_true, Bool.not_eq_true', decide_eq_true_eq, ge_iff_le, State.reissueDone]
  by_cases hx : ok = false ∧ 1 ≤ (s.hog die).retries
  · simp only [if_pos hx]
    rfl
  · simp only [if_neg hx]
    rfl

theorem State.reissueDone_eq (s : State) (c die : Nat) (ok : Bool) (g : HgRegs) :
    s.reissueDone c die ok g = { s.reissued die ok g with runs := (s.reissueDone c die ok g).runs } := by
  unfold State.reissueDone
  split
  · exact State.endDueOf_eq ..
  · rfl

theorem State.reissued_retries (s : State) (die : Nat) (ok : Bool) (g : HgRegs) : ((s.reissued die ok g).hog die).retries =
    if ok = true ∨ 1 ≤ (s.hog die).retries then 0 else (s.hog die).retries + 1 :=
  congrArg Hogshead.retries (State.hog_modHog_self (s.countReissue.stallNow 32) die (fun h => { h with
    retries := if ok = true ∨ 1 ≤ (s.hog die).retries then 0 else (s.hog die).retries + 1 }))

/-- A reissue ends no run by itself. -/
theorem State.reissued_ends (s : State) (die : Nat) (ok : Bool) (g : HgRegs) (r : Nat) :
    ((s.reissued die ok g).run? r).map Run.endStatus = (s.run? r).map Run.endStatus :=
  (State.stallNow_run? (fun _ _ => rfl) s.countReissue 32 r).trans (State.countReissue_run? (fun _ _ => rfl) s r)

/-- Of the runs to which no end has come, only that of the core gets one, after a third failure (02 R51). -/
theorem State.reissueDone_ends {s : State} {r : Nat} {x : Run} (h : s.run? r = some x) (hend : x.endStatus = none)
    (c die : Nat) (ok : Bool) (g : HgRegs) :
    ∃ y, (s.reissueDone c die ok g).run? r = some y ∧ y.endStatus =
      if ok = false ∧ 1 ≤ (s.hog die).retries ∧ (s.core c).run = some r then some 0x06 else none := by
  have hmap : ((s.reissued die ok g).run? r).map Run.endStatus = some none :=
    (s.reissued_ends die ok g r).trans (by rw [h, Option.map_some, hend])
  obtain ⟨y, hy, hnone⟩ := Option.map_eq_some_iff.1 hmap
  unfold State.reissueDone
  split
  next hfail =>
    obtain ⟨z, hz, hstatus⟩ := State.run?_endDueOf hy hnone c
    refine ⟨z, hz, hstatus.trans ?_⟩
    simp only [hfail, true_and]
    rfl
  next hfail => exact ⟨y, hy, by rw [hnone, if_neg fun hall => hfail ⟨hall.1, hall.2.1⟩]⟩

/-! Refreshes -/

theorem State.hgMode_some {s : State} {die m : Nat} (h : s.hgMode die = some m) :
    ∃ x, (s.hog die).holder.bind s.run? = some x := by
  obtain ⟨x, hx, -⟩ := Option.map_eq_some_iff.1 h
  exact ⟨x, hx⟩

/-- The module after the refresh of a channel that was due in hub cycle `due`. -/
def State.refreshed (s : State) (die chan due : Nat) : State := s.modHog die (fun h => { h with due := kset h.due chan due })

/-- The module after a forced one, before its stall: the access that it meets makes way and the collision is counted. -/
def State.collided (s : State) (die chan due : Nat) : State :=
  let u := (s.refreshed die chan due).modHog die (fun h => { h with uses := (due + 64, chan) :: h.uses })
  { u with det := { u.det with refcoll := u.det.refcoll.add 1 } }.chargeRuns (fun k => { k with refcoll := k.refcoll + 1 })

/-- The stall in the 64th hub cycle, of the run that then holds the die. -/
def State.collisionStall (s : State) (due : Nat) : Option Run → State
  | some x => s.stallPos (s.posAt (x.coreCycle (ccPerTick s.pwr.cur) (due + 63))) 1
  | none => s

theorem exec_hogsheadRefresh (s : State) (die chan due : Nat) : exec (.hogsheadRefresh die chan due) s =
    if !s.hgPresent die || decide (chan ≥ 13) then .fault .noSuchUnit
    else if s.hgMode die = none || (kfind (s.hog die).due chan).any (fun d => d + refreshEvery (s.hog die).rate != due) then
      .next s
    else if s.hgMode die = some 1 || !(List.range 64).all (fun d => (s.hog die).uses.contains (due + d, chan)) then
      .next (s.refreshed die chan due)
    else .next ((s.collided die chan due).collisionStall due ((s.hog die).holder.bind (s.collided die chan due).run?)) := rfl

theorem State.collided_hog (s : State) (die chan due : Nat) : (s.collided die chan due).hog die =
    { s.hog die with due := kset (s.hog die).due chan due, uses := (due + 64, chan) :: (s.hog die).uses } :=
  calc (s.collided die chan due).hog die
    _ = ((s.refreshed die chan due).modHog die (fun h => { h with uses := (due + 64, chan) :: h.uses })).hog die := rfl
    _ = _ := by rw [State.hog_modHog_self, State.refreshed, State.hog_modHog_self]

/-- The holder is counted the collision, and its hub cycles run on as before. -/
theorem State.collided_holder {s : State} {die chan due : Nat} {x : Run} (hx : (s.hog die).holder.bind s.run? = some x) :
    ∃ y, (s.hog die).holder.bind (s.collided die chan due).run? = some y ∧ y.coreCycle = x.coreCycle := by
  obtain ⟨r, hr, hrun⟩ := Option.bind_eq_some_iff.1 hx
  have hmap : ((s.collided die chan due).run? r).map Run.coreCycle = some x.coreCycle :=
    (State.chargeRuns_run? (fun _ _ => rfl) _ _ r).trans (congrArg (Option.map Run.coreCycle) hrun)
  rw [hr]
  exact Option.map_eq_some_iff.1 hmap

section
variable {s : State} {die chan due : Nat} (hd : s.hgPresent die = true) (hch : chan < 13)
include hd hch

theorem exec_hogsheadRefresh_unheld (hm : s.hgMode die = none) : exec (.hogsheadRefresh die chan due) s = .next s := by
  rw [exec_hogsheadRefresh, if_neg (by simp [hd, hch]), if_pos (by simp [hm])]

/-- A channel that is not due one interval of the rate after its last refresh. -/
theorem exec_hogsheadRefresh_notDue {d : Nat} (hk : kfind (s.hog die).due chan = some d)
    (hne : d + refreshEvery (s.hog die).rate ≠ due) : exec (.hogsheadRefresh die chan due) s = .next s := by
  rw [exec_hogsheadRefresh, if_neg (by simp [hd, hch]), if_pos (by simp [hk, hne])]

variable {m : Nat} (hm : s.hgMode die = some m)
  (hdue : ∀ d, kfind (s.hog die).due chan = some d → d + refreshEvery (s.hog die).rate = due)
include hm hdue

theorem exec_hogsheadRefresh_due : exec (.hogsheadRefresh die chan due) s =
    if s.hgMode die = some 1 || !(List.range 64).all (fun d => (s.hog die).uses.contains (due + d, chan)) then
      .next (s.refreshed die chan due)
    else .next ((s.collided die chan due).collisionStall due ((s.hog die).holder.bind (s.collided die chan due).run?)) := by
  have hnow : (kfind (s.hog die).due chan).any (fun d => d + refreshEvery (s.hog die).rate != due) = false := by
    cases hk : kfind (s.hog die).due chan with
    | none => rfl
    | some d => simp [hdue d hk]
  rw [exec_hogsheadRefresh, if_neg (by simp [hd, hch]), if_neg (by simp [hm, hnow])]

/-- The refresh of a Sealed holder, or with a hub cycle in which the run does not use the channel. -/
theorem exec_hogsheadRefresh_free (hfree : m = 1 ∨ ∃ d, d < 64 ∧ (due + d, chan) ∉ (s.hog die).uses) :
    exec (.hogsheadRefresh die chan due) s = .next (s.refreshed die chan due) := by
  rw [exec_hogsheadRefresh_due hd hch hm hdue, if_pos (by simpa [hm] using hfree)]

theorem exec_hogsheadRefresh_forced (hmode : m ≠ 1) (hused : ∀ d, d < 64 → (due + d, chan) ∈ (s.hog die).uses) {x : Run}
    (hx : (s.hog die).holder.bind s.run? = some x) :
    exec (.hogsheadRefresh die chan due) s = .next ((s.collided die chan due).stallPos
      (s.posAt (x.coreCycle (ccPerTick s.pwr.cur) (due + 63))) 1) := by
  obtain ⟨y, hy, hcyc⟩ := State.collided_holder (chan := chan) (due := due) hx
  rw [exec_hogsheadRefresh_due hd hch hm hdue, if_neg (by simpa [hm, hmode] using hused), hy, ← hcyc]
  rfl

end

/-! Patrols -/

theorem State.countRewrites_cores (s : State) (n : Nat) : (s.countRewrites n).cores = s.cores := by
  unfold State.countRewrites
  split <;> rfl

/-- The marks of a stratum in rows r₀ up to r₁. -/
def EccMark.inRows (r₀ r₁ : Nat) (x : EccMark) : Bool :=
  x.mem == .strat && decide (8 * r₀ ≤ x.word) && decide (x.word < 8 * r₁)

/-- A core after a patrol of its stratum. -/
def Core.patrolled (k : Core) (rows : Nat) : Core :=
  let r₀ := k.patrol.getD 0
  let here := EccMark.inRows r₀ (r₀ + rows)
  let ces := (k.ecc.filter (fun x => here x && !x.due)).foldl (fun g x => g.countCe .strat x.word) k.eccRegs
  { k with
    eccRegs := (k.ecc.filter (fun x => here x && x.due)).foldl (fun g x => g.countDue .strat (8 * x.word)) ces
    ecc := k.ecc.filter (fun x => !(here x && !x.due))
    patrol := if r₀ + rows ≥ stratumRows then none else some (r₀ + rows) }

/-- Only the corrected words among the marks that it meets are counted as such. -/
theorem Core.patrolled_ceStrat (k : Core) (rows : Nat) : (k.patrolled rows).eccRegs.ceStrat = satAdd k.eccRegs.ceStrat
    (k.ecc.filter (fun x => x.inRows (k.patrol.getD 0) (k.patrol.getD 0 + rows) && !x.due)).length :=
  calc (k.patrolled rows).eccRegs.ceStrat
    _ = _ := foldl_keeps (f := fun g (x : EccMark) => g.countDue .strat (8 * x.word)) EccRegs.ceStrat
      (fun g x => g.countDue_ceStrat .strat (8 * x.word)) _ _
    _ = _ := EccRegs.countCes_ceStrat ..

section
variable {s : State} {c rows : Nat} (hc : s.hasCore c = true) (he : (s.core c).ell = none)
include hc he

theorem exec_stratumPatrol_occupied (hr : (s.core c).run.isSome = true) : exec (.stratumPatrol c rows) s = .next s := by
  simp only [exec, execStratumPatrol, State.coreEvent_idle hc he, hr, Bool.true_or, if_true]

theorem exec_stratumPatrol (hr : (s.core c).run = none) (hm : s.mappedStratum c = true) :
    ∃ n, exec (.stratumPatrol c rows) s = .next ((s.setCore c ((s.core c).patrolled rows)).countRewrites n) := by
  have hgo : ((s.core c).run.isSome || !s.mappedStratum c) = false := by simp [hr, hm]
  simp only [exec, execStratumPatrol, State.coreEvent_idle hc he, hgo]
  exact ⟨_, rfl⟩

end

section
variable {s : State} {die line : Nat} (hd : s.hgPresent die = true) (hl : 64 * line < hgSize)
include hd hl

theorem exec_hogsheadPatrol_waits (hp : s.freePhases die = []) : exec (.hogsheadPatrol die line) s = .next s := by
  simp [exec, execHogsheadPatrol, hd, hl, hp]

theorem exec_hogsheadPatrol (hp : s.freePhases die ≠ []) : ∃ u : State, exec (.hogsheadPatrol die line) s = .next u ∧
    u.cores = s.cores ∧ u.hog die = { s.hog die with
      ce := satAdd (s.hog die).ce ((s.hog die).badIn false (64 * line) 64).length
      bad := (s.hog die).bad.filter (fun x => x.2 || !((s.hog die).badIn false (64 * line) 64).contains x.1)
      patrol := if 64 * (line + 1) ≥ hgSize then none else some (line + 1) } := by
  have hin : (!s.hgPresent die || decide (64 * line ≥ hgSize)) = false := by simp [hd, hl]
  have hfree : (s.freePhases die).isEmpty = false := by simp [hp]
  simp only [exec, execHogsheadPatrol, hin, hfree]
  refine ⟨_, rfl, ?_, ?_⟩
  · rw [State.modHog_cores, State.hgDues_cores, State.hgCorrected_cores]
  · rw [State.hog_modHog_self, State.hgDues_hog, State.hgCorrected_hog]

end

end Sys2Proof.Machine

namespace Sys2Proof.Claims

open Sys2Proof.Machine

/-- Settles O41: each clause is the rule of its command (`exec_hogsheadReissue`, `exec_hogsheadRefresh`, `exec_stratumPatrol`,
`exec_hogsheadPatrol`); a third failure ends the run of the core alone, and a stall counts the cycles that are new. -/
theorem hogsheadReads : Obligations.HogsheadReads := by
  unfold Obligations.HogsheadReads
  intro s c die off chan line due rows ok
  refine ⟨fun hd hch hoff hc he => ?_, fun hd hch => ⟨?_, ?_, fun m hm hdue => ⟨?_, fun hmode hused => ?_⟩⟩,
    fun hc he => ⟨?_, fun hr hm => ?_⟩, fun hd hl => ⟨?_, fun hp => ?_⟩⟩
  · obtain ⟨g, hx⟩ := exec_hogsheadReissue hd hch hoff hc he ok
    refine ⟨_, hx, ?_, ?_, ?_, ?_, fun r x hr hend => State.reissueDone_ends hr hend c die ok g⟩
    all_goals rw [State.reissueDone_eq]
    · rfl
    · rfl
    · rfl
    · exact s.reissued_retries die ok g
  · exact exec_hogsheadRefresh_unheld hd hch
  · exact fun d => exec_hogsheadRefresh_notDue hd hch
  · exact exec_hogsheadRefresh_free hd hch hm hdue
  · obtain ⟨x, hx⟩ := State.hgMode_some hm
    refine ⟨_, exec_hogsheadRefresh_forced hd hch hm hdue hmode hused hx, ?_, fun y hy => ?_, ?_, ?_⟩
    · rw [State.stallPos_refcoll]
      rfl
    · cases hx.symm.trans hy
      rw [State.stallPos_stallCc]
      rfl
    · rw [State.stallPos_eq]
      rfl
    · rw [State.stallPos_eq]
      exact s.collided_hog die chan due
  · exact exec_stratumPatrol_occupied hc he
  · obtain ⟨n, hx⟩ := exec_stratumPatrol (rows := rows) hc he hr hm
    have hcore : ∀ d, ((s.setCore c ((s.core c).patrolled rows)).countRewrites n).core d =
        (s.setCore c ((s.core c).patrolled rows)).core d := fun d => by
      rw [State.core, State.countRewrites_cores]
      rfl
    have hhere : ∀ x : EccMark, (x.mem == .strat && !x.due && decide (8 * (s.core c).patrol.getD 0 ≤ x.word) &&
        decide (x.word < 8 * ((s.core c).patrol.getD 0 + rows))) =
        (x.inRows ((s.core c).patrol.getD 0) ((s.core c).patrol.getD 0 + rows) && !x.due) := fun x => by
      rw [EccMark.inRows]
      ac_rfl
    simp only [hhere]
    refine ⟨_, hx, ?_, ?_, ?_, ?_, fun d hne => (hcore d).trans (State.core_setCore_ne _ _ hne)⟩
    all_goals rw [hcore, State.core_setCore]
    · rfl
    · rfl
    · exact Core.patrolled_ceStrat ..
    · rfl
  · exact exec_hogsheadPatrol_waits hd hl
  · obtain ⟨u, hx, hcores, hhog⟩ := exec_hogsheadPatrol hd hl hp
    refine ⟨u, hx, ?_, ?_, ?_, fun o b hmem hout => ?_, fun o hhi hlo hmem => ?_, hcores⟩
    · rw [hhog]
    · rw [hhog]
    · simp [hhog, Hogshead.badIn]
    · rw [hhog]
      refine List.mem_filter.2 ⟨hmem, ?_⟩
      cases b with
      | true => rfl
      | false =>
        have hnot : o ∉ (s.hog die).badIn false (64 * line) 64 := fun hin => by
          obtain ⟨-, hhi, hlo⟩ := (Hogshead.mem_badIn ..).1 hin
          have hout' := hout.resolve_left Bool.false_ne_true
          omega
        simpa using hnot
    · rw [hhog] at hmem
      obtain ⟨hbad, hkept⟩ := List.mem_filter.1 hmem
      have hin : o ∈ (s.hog die).badIn false (64 * line) 64 := (Hogshead.mem_badIn ..).2 ⟨hbad, hhi, hlo⟩
      simp [hin] at hkept

end Sys2Proof.Claims
end

section
/-!
Scrubs of cores and regions, and returned credits (07 R206 to R210; 14 R391).
-/

namespace Sys2Proof.Machine

/-! Cleared memory -/

theorem memRead_filter (q : Nat → Bool) (m : Mem) (x : Nat) :
    memRead (m.filter (fun p => q p.1)) x = if q x then memRead m x else 0 := by
  induction m with
  | nil => exact (ite_self _).symm
  | cons p m ih =>
    obtain ⟨j, b⟩ := p
    by_cases hj : j = x
    · subst hj
      by_cases hq : q j = true
      · simp [memRead, hq]
      · simp [hq, ih]
    · by_cases hq : q j = true
      · simp [memRead, hq, hj, ih]
      · simp [memRead, hq, hj, ih]

/-- Whether a byte lies in a region, given by its offset and length. -/
def inRegion (a : Nat) (r : Nat × Nat) : Bool := decide (r.1 ≤ a) && decide (a < r.1 + r.2)

theorem inRegion_iff (a : Nat) (r : Nat × Nat) : inRegion a r = true ↔ r.1 ≤ a ∧ a < r.1 + r.2 := by
  simp [inRegion]

theorem memRead_memClear (m : Mem) (a n x : Nat) :
    memRead (memClear m a n) x = if inRegion x (a, n) then 0 else memRead m x :=
  (memRead_filter (fun j => !inRegion j (a, n)) m x).trans (by cases inRegion x (a, n) <;> rfl)

/-- A cleared region of a die reads 0, and every other byte as the writes on their way leave it. -/
theorem Hogshead.clear_read (h : Hogshead) (off n a : Nat) :
    memRead (h.clear off n).flush.mem a = if inRegion a (off, n) then 0 else memRead h.flush.mem a :=
  memRead_memClear ..

/-- So does each of several. -/
theorem Hogshead.clears_read (rs : List (Nat × Nat)) (h : Hogshead) (a : Nat) :
    memRead (rs.foldl (fun h r => h.clear r.1 r.2) h).flush.mem a =
      if rs.any (inRegion a) then 0 else memRead h.flush.mem a := by
  induction rs generalizing h with
  | nil => rfl
  | cons r rs ih =>
    rw [List.foldl_cons, ih, Hogshead.clear_read, List.any_cons]
    cases inRegion a r <;> cases rs.any (inRegion a) <;> rfl

theorem Hogshead.clears_scrub (rs : List (Nat × Nat)) (h : Hogshead) :
    (rs.foldl (fun h r => h.clear r.1 r.2) h).scrub = h.scrub :=
  foldl_keeps (f := fun h (r : Nat × Nat) => h.clear r.1 r.2) Hogshead.scrub (fun _ _ => rfl) rs h

/-! Kills that waited -/

theorem State.SameButHost.hg {s u : State} (h : s.SameButHost u) : u.hg = s.hg := by rw [show u = _ from h]

theorem State.settleKill_stores (s : State) (f : Nat) :
    ((s.settleKill f).cores, (s.settleKill f).hg) = (s.cores, s.hg) := by
  unfold State.settleKill
  split
  · rfl
  · dsimp only
    split
    · rfl
    · refine foldl_keeps (f := fun s c => s.complete 0 0x14 0 c 0 0 0 0) (fun s : State => (s.cores, s.hg)) (fun u c => ?_) _ _
      have hsame := u.complete_same 0 0x14 (status := 0) (by decide) c 0 0 0 0
      exact Prod.ext hsame.cores hsame.hg

/-- The last steps of kills touch neither a core nor a die. -/
theorem State.settleKills_stores (s : State) : (s.settleKills.cores, s.settleKills.hg) = (s.cores, s.hg) :=
  foldl_keeps (f := fun s f => s.settleKill f) (fun s : State => (s.cores, s.hg)) State.settleKill_stores _ s

theorem State.settleKills_cores (s : State) : s.settleKills.cores = s.cores := congrArg Prod.fst s.settleKills_stores

theorem State.settleKills_hog (s : State) (d : Nat) : s.settleKills.hog d = s.hog d :=
  congrArg (fun p : KMap Core × KMap Hogshead => kget Hogshead.reset p.2 d) s.settleKills_stores

theorem State.settleKills_none {s : State} (h : ∀ f, (s.ctx f).kill = none) : s.settleKills = s :=
  List.foldl_fixed' (fun f => by rw [State.settleKill, h f]) _

/-! Scrubs of a core -/

/-- A core under scrub, or when its scrub is done: its stores zero but for the stratum, every other field at reset. -/
def Core.zeroed (k : Core) (busy : Bool) (owner : Option Nat) : Core := { k.scrubbed with scrubBusy := busy, owner := owner }

section
variable {s : State} {c : Nat} (hc : s.hasCore c = true) (he : (s.core c).ell = none)
include hc he

theorem exec_coreScrub (hr : (s.core c).run = none) :
    exec (.coreScrub c) s = .next (s.setCore c ((s.core c).zeroed true none)) := by
  simp only [exec, execCoreScrub, State.coreEvent_idle hc he, hr, State.beginScrub, State.modCore, State.core_setCore,
    State.setCore_setCore]
  rfl

theorem exec_coreScrub_occupied (hr : (s.core c).run.isSome = true) : exec (.coreScrub c) s = .next s := by
  simp only [exec, execCoreScrub, State.coreEvent_idle hc he, hr, if_true]

theorem exec_scrubComplete (hb : (s.core c).scrubBusy = true) :
    exec (.scrubComplete c) s = .next (s.setCore c ((s.core c).zeroed false (s.core c).owner)).settleKills := by
  simp only [exec, execScrubComplete, State.coreEvent_idle hc he, hb, if_true]
  rfl

theorem exec_scrubComplete_idle (hb : (s.core c).scrubBusy = false) : exec (.scrubComplete c) s = .next s := by
  simp only [exec, execScrubComplete, State.coreEvent_idle hc he, hb]
  rfl

theorem exec_start (v : Word) : exec (.start c v) s = .next
    (if v.getLsbD 0 = true ∧ (s.core c).owner = none then s.setCore c { (s.core c) with owner := none, scrubBusy := true }
      else s) := by
  simp only [exec, execStart, State.coreEvent_idle hc he, Bool.and_eq_true, Option.isNone_iff_eq_none, bitOf]
  split <;> rfl

/-! Credits -/

variable {r : Nat} (hr : (s.core c).run = some r)
include hr

theorem exec_creditReturn (pool : BitVec 8) :
    exec (.creditReturn c pool) s = .next (s.creditBack c pool.toNat (s.nowRun r)) := by
  simp only [exec, execCreditReturn, State.coreEvent_idle hc he, hr]

end

theorem State.creditBack_below {s : State} {c p t : Nat} {x : Pool} (hp : kfind (s.core c).pools p = some x)
    (hlt : x.count < x.limit) : s.creditBack c p t = s.setCore c { (s.core c) with
      pools := kset (s.core c).pools p
        { x with count := x.count + 1, since := if x.count = 0 then t else x.since } } := by
  rw [State.creditBack, hp]
  exact if_neg (by omega)

theorem State.creditBack_full {s : State} {c p : Nat} {x : Pool} (hp : kfind (s.core c).pools p = some x)
    (hle : x.limit ≤ x.count) (t : Nat) : s.creditBack c p t = s.violation c := by
  rw [State.creditBack, hp]
  exact if_pos hle

theorem State.creditBack_none {s : State} {c p : Nat} (hp : kfind (s.core c).pools p = none) (t : Nat) :
    s.creditBack c p t = s.violation c := by
  rw [State.creditBack, hp]

/-! Scrubs of a region -/

/-- A die whose region is to be scrubbed, at once where a phase is free. -/
def Hogshead.scrubbing (h : Hogshead) (free : Bool) (off n : Nat) : Hogshead :=
  { (if free then h.clear off n else h) with
    scrub := if h.scrub.contains (off, n) then h.scrub else h.scrub ++ [(off, n)] }

theorem Hogshead.mem_scrubbing (h : Hogshead) (free : Bool) (off n : Nat) : (off, n) ∈ (h.scrubbing free off n).scrub := by
  show (off, n) ∈ if h.scrub.contains (off, n) then h.scrub else h.scrub ++ [(off, n)]
  split
  next hin => exact List.contains_iff_mem.1 hin
  next => exact List.mem_append_right _ (List.mem_singleton.2 rfl)

theorem Hogshead.scrubbing_read (h : Hogshead) (free : Bool) (off n a : Nat) :
    memRead (h.scrubbing free off n).flush.mem a =
      if free = true ∧ off ≤ a ∧ a < off + n then 0 else memRead h.flush.mem a := by
  cases free with
  | false => rw [if_neg fun h => Bool.false_ne_true h.1]; rfl
  | true =>
    refine (h.clear_read off n a).trans ?_
    simp only [inRegion_iff, true_and]

/-- A die in which the regions noted at an offset have been zeroed and are free. -/
def Hogshead.scrubDone (h : Hogshead) (off : Nat) : Hogshead :=
  { (h.scrub.filter (fun r => r.1 == off)).foldl (fun h r => h.clear r.1 r.2) h with
    scrub := h.scrub.filter (fun r => r.1 != off) }

theorem Hogshead.mem_scrubDone (h : Hogshead) (off : Nat) (r : Nat × Nat) :
    r ∈ (h.scrubDone off).scrub ↔ r ∈ h.scrub ∧ r.1 ≠ off := by
  show r ∈ h.scrub.filter (fun r => r.1 != off) ↔ _
  rw [List.mem_filter, bne_iff_ne]

theorem Hogshead.scrubDone_read (h : Hogshead) (off a : Nat) : memRead (h.scrubDone off).flush.mem a =
    if (h.scrub.filter (fun r => r.1 == off)).any (inRegion a) then 0 else memRead h.flush.mem a :=
  Hogshead.clears_read ..

/-- Whether a byte lies in a region noted at an offset. -/
theorem Hogshead.scrub_any (h : Hogshead) (off a : Nat) : (h.scrub.filter (fun r => r.1 == off)).any (inRegion a) = true ↔
    ∃ m, (off, m) ∈ h.scrub ∧ off ≤ a ∧ a < off + m := by
  simp only [List.any_eq_true, List.mem_filter, beq_iff_eq, inRegion_iff]
  constructor
  · rintro ⟨⟨o, m⟩, ⟨hmem, rfl⟩, hin⟩
    exact ⟨m, hmem, hin⟩
  · rintro ⟨m, hmem, hin⟩
    exact ⟨(off, m), ⟨hmem, rfl⟩, hin⟩

section
variable {s : State} {die off : Nat} (hd : s.hgPresent die = true)
include hd

theorem exec_regionScrub {n : Nat} (hn : off + n ≤ hgSize) (hfree : s.regionHeld die off n = false) :
    exec (.regionScrub die off n) s =
      .next (s.modHog die (fun h => h.scrubbing (!(s.freePhases die).isEmpty) off n)) := by
  have hin : (!s.hgPresent die || decide (off + n > hgSize)) = false := by simp [hd, hn]
  simp only [exec, execRegionScrub, hin, hfree]
  rfl

theorem exec_regionScrubComplete_waits (hp : s.freePhases die = []) : exec (.regionScrubComplete die off) s = .next s := by
  simp [exec, execRegionScrubComplete, hd, hp]

theorem exec_regionScrubComplete (hp : s.freePhases die ≠ []) :
    exec (.regionScrubComplete die off) s = .next (s.modHog die (fun h => h.scrubDone off)).settleKills := by
  have hfree : (s.freePhases die).isEmpty = false := by simp [hp]
  simp only [exec, execRegionScrubComplete, hd, hfree, Hogshead.clears_scrub]
  rfl

end

end Sys2Proof.Machine

namespace Sys2Proof.Claims

open Sys2Proof.Machine

/-- Settles O42: the scrubbed core is the reset one but for what stays; cleared regions read 0 whatever the writes on their
way, and the kills that go on at the end of a scrub touch neither a die nor a core. -/
theorem scrubsAndCredits : Obligations.ScrubsAndCredits := by
  unfold Obligations.ScrubsAndCredits
  intro s c die off n v pool
  refine ⟨fun hc he => ⟨exec_coreScrub hc he, exec_coreScrub_occupied hc he, exec_scrubComplete hc he,
    fun h => State.settleKills_none (s := s.setCore c _) h, exec_scrubComplete_idle hc he, exec_start hc he v,
    fun r p hr hp hlt => ?_, fun r p hr hp hle => ?_, fun r hr hp => ?_⟩, fun hd hn hfree => ?_,
    fun hd => ⟨exec_regionScrubComplete_waits hd, fun hp => ?_⟩⟩
  · rw [exec_creditReturn hc he hr, State.creditBack_below hp hlt]
  · rw [exec_creditReturn hc he hr, State.creditBack_full hp hle]
  · rw [exec_creditReturn hc he hr, State.creditBack_none hp]
  · refine ⟨_, exec_regionScrub hd hn hfree, ?_, fun a => ?_, fun d hne => State.hog_modHog_ne _ _ _ hne, rfl⟩
    · rw [State.hog_modHog_self]
      exact Hogshead.mem_scrubbing ..
    · rw [State.hog_modHog_self, Hogshead.scrubbing_read]
      simp
  · refine ⟨_, exec_regionScrubComplete hd hp, fun m => ?_, fun o m ho hmem => ?_, fun a hin => ?_, fun a hout => ?_,
      fun d hne => ?_, State.settleKills_cores _⟩
    all_goals rw [State.settleKills_hog]
    · rw [State.hog_modHog_self, Hogshead.mem_scrubDone]
      exact fun h => h.2 rfl
    · rw [State.hog_modHog_self]
      exact (Hogshead.mem_scrubDone ..).2 ⟨hmem, ho⟩
    · rw [State.hog_modHog_self, Hogshead.scrubDone_read, if_pos ((Hogshead.scrub_any ..).2 hin)]
    · rw [State.hog_modHog_self, Hogshead.scrubDone_read, if_neg]
      rw [Hogshead.scrub_any]
      rintro ⟨m, hmem, hin⟩
      have := hout m hmem
      omega
    · exact State.hog_modHog_ne _ _ _ hne

end Sys2Proof.Claims
end

section
/-!
Flags and barriers as a slot finds them (05 R154; 08 R213, R218): the sync slot that names an object that is not broken, and the
changes of one flag or one barrier.
-/

namespace Sys2Proof.Machine

/-! One object -/

section
variable {s : State} {p : Nat}

theorem State.modFlag_eq {f : Flag} (h : kfind s.syn.flags p = some f) (g : Flag → Flag) :
    s.modFlag p g = { s with syn := { s.syn with flags := kset s.syn.flags p (g f) } } := by
  rw [State.modFlag, h]

theorem State.modBarr_eq {b : Barrier} (h : kfind s.syn.barriers p = some b) (g : Barrier → Barrier) :
    s.modBarr p g = { s with syn := { s.syn with barriers := kset s.syn.barriers p (g b) } } := by
  rw [State.modBarr, h]

theorem State.modFlag_find {f : Flag} (h : kfind s.syn.flags p = some f) (g : Flag → Flag) :
    kfind (s.modFlag p g).syn.flags p = some (g f) := by
  rw [State.modFlag_eq h]
  exact kfind_kset_self ..

theorem State.modFlag_find_ne {q : Nat} (h : q ≠ p) (g : Flag → Flag) :
    kfind (s.modFlag p g).syn.flags q = kfind s.syn.flags q := by
  unfold State.modFlag
  split
  · exact kfind_kset_ne _ _ h
  · rfl

theorem State.modBarr_find {b : Barrier} (h : kfind s.syn.barriers p = some b) (g : Barrier → Barrier) :
    kfind (s.modBarr p g).syn.barriers p = some (g b) := by
  rw [State.modBarr_eq h]
  exact kfind_kset_self ..

@[simp] theorem State.modFlag_core (g : Flag → Flag) (d : Nat) : (s.modFlag p g).core d = s.core d := by
  rw [State.core, State.modFlag_cores, State.core]

@[simp] theorem State.modBarr_core (g : Barrier → Barrier) (d : Nat) : (s.modBarr p g).core d = s.core d := by
  rw [State.core, State.modBarr_cores, State.core]

end

/-! The sync slot -/

section
variable {s t : State} {c p : Nat} {post : BitVec 4} {vid : BitVec 16} {barr : Bool} {k : Core} {g : State → State}

/-- State `t` while core c of state `s`, by now `k`, has the ell of a lone sync slot open. -/
def State.inSync (t s : State) (c : Nat) (k : Core) : State :=
  t.withCores (kset s.cores c (k.withEll (some (EllSt.lone 5 2)))) (kset s.ellSaved c (s.core c))

theorem State.opened_inSync : s.opened c 5 2 = s.inSync s c (s.seen c) := rfl

@[simp] theorem State.inSync_core : (t.inSync s c k).core c = k.withEll (some (EllSt.lone 5 2)) := kget_kset_self ..

@[simp] theorem State.inSync_syn : (t.inSync s c k).syn = t.syn := rfl

theorem State.inSync_physFlag (r : Nat) : (t.inSync s c k).physFlag r vid = t.physFlag r vid := rfl

theorem State.inSync_physBarr (r : Nat) : (t.inSync s c k).physBarr r vid = t.physBarr r vid := rfl

theorem State.inSync_scyc : ((t.inSync s c k).core c).scyc = k.scyc := by
  rw [State.inSync_core]
  rfl

/-- The run is that of the core as the ell sees it, and of the core before. -/
theorem State.inSync_run : ((t.inSync s c (s.seen c)).core c).run = (s.core c).run := by
  rw [State.inSync_core]
  exact State.seen_run s c

/-- A change of the core alone. -/
theorem State.inSync_modCore {f : Core → Core} {k' : Core} (h : ∀ e, f (k.withEll e) = k'.withEll e) :
    (t.inSync s c k).modCore c f = t.inSync s c k' := by
  rw [State.modCore, State.inSync_core, h]
  simp [State.inSync, State.withCores, State.setCore]

theorem State.inSync_modFlag (f : Flag → Flag) : (t.inSync s c k).modFlag p f = (t.modFlag p f).inSync s c k := by
  have hsyn : (t.inSync s c k).syn = t.syn := rfl
  unfold State.modFlag
  rw [hsyn]
  split <;> rfl

theorem State.inSync_modBarr (f : Barrier → Barrier) : (t.inSync s c k).modBarr p f = (t.modBarr p f).inSync s c k := by
  have hsyn : (t.inSync s c k).syn = t.syn := rfl
  unfold State.modBarr
  rw [hsyn]
  split <;> rfl

/-- A lone sync slot that names an object that is not broken, leaves the core as `k` and the rest of the state as in `t` (R229). -/
theorem State.syncSlot_intact (h : s.ready c 2 noQueue) (hb : s.nameBroken c barr vid = false) (hcores : t.cores = s.cores)
    (hsaved : t.ellSaved = s.ellSaved) (hg : g (s.inSync s c (s.seen c)) = t.inSync s c k) :
    s.syncSlot c (.last post) barr vid g = .next (t.setCore c (k.fallThrough 3 post.toNat)) := by
  have hb' : (s.opened c 5 2).nameBroken c barr vid = false := by
    rw [← hb, State.nameBroken, State.nameBroken, State.opened_inSync, State.inSync_core]
    simp only [Core.withEll, State.seen_run]
    rfl
  unfold State.syncSlot State.slot
  refine State.slotP_andRest h rfl hcores hsaved ?_
  rw [if_neg (by rw [hb']; exact Bool.false_ne_true)]
  exact hg

end

end Sys2Proof.Machine
end

section
/-!
FWAIT, FTEST and the end of a wait, and the changes that reach a core's view (05 R155; 08 R218 to R221).
-/

namespace Sys2Proof.Machine

section
variable {s : State} {c r p : Nat} {post : BitVec 4} {vid : BitVec 16} {f : Flag} {val auto : Bool}

/-- FWAIT of an allocated flag (R220). -/
theorem exec_fwait (h : s.ready c 2 noQueue) (hrun : (s.core c).run = some r) (hp : s.physFlag r vid = some p)
    (hf : kfind s.syn.flags p = some f) (hb : s.nameBroken c false vid = false) :
    let k := s.seen c
    exec (.fwait c (.last post) vid val auto) s = .next (s.setCore c
      (({ k with hold := .fwait vid val auto k.scyc (if f.viewAt c k.scyc = val then some k.scyc else none) } :
        Core).fallThrough 3 post.toNat)) := by
  refine State.syncSlot_intact h hb rfl rfl ?_
  simp only [State.inSync_run, hrun, Option.bind_some, State.inSync_physFlag, hp, State.inSync_syn, hf]
  exact State.inSync_modCore fun e => rfl

/-- FTEST of an allocated flag (R221). -/
theorem exec_ftest {rd : BitVec 5} (h : s.ready c 2 noQueue) (hrun : (s.core c).run = some r)
    (hp : s.physFlag r vid = some p) (hf : kfind s.syn.flags p = some f) (hb : s.nameBroken c false vid = false) :
    let k := s.seen c
    exec (.ftest c (.last post) vid rd) s = .next (s.setCore c
      (((k.later 2 true (.sreg rd (if f.viewAt c k.scyc = true then 1 else 0))).syncDoneAt k.scyc).fallThrough 3
        post.toNat)) := by
  refine State.syncSlot_intact h hb rfl rfl ?_
  simp only [State.inSync_run, hrun, Option.bind_some, State.inSync_physFlag, hp, State.inSync_syn, hf, State.inSync_scyc]
  exact State.inSync_modCore fun e => rfl

theorem exec_fwaitWake_met {i u : Nat} (hc : s.hasCore c = true) (he : (s.core c).ell = none)
    (hh : (s.core c).hold = .fwait vid val false i (some u)) :
    exec (.fwaitWake c) s = .next (s.setCore c { s.core c with hold := .free, scyc := max (s.core c).scyc (u + 3) }) := by
  have hne : (s.core c).hold ≠ .free := by rw [hh]; exact Hold.noConfusion
  simp only [exec, execFwaitWake, State.coreEvent_idle hc he, Core.anyHold_held hne, hh, State.fwaitMet]
  rw [State.modCore, Core.endHold_held hne (by rw [hh]; rfl)]
  rfl

theorem exec_fwaitWake_waits {i : Nat} (hc : s.hasCore c = true) (he : (s.core c).ell = none)
    (hh : (s.core c).hold = .fwait vid val auto i none) (hmet : s.fwaitMet c (.fwait vid val auto i none) = none) :
    exec (.fwaitWake c) s = .next s := by
  have hne : (s.core c).hold ≠ .free := by rw [hh]; exact Hold.noConfusion
  simp only [exec, execFwaitWake, State.coreEvent_idle hc he, Core.anyHold_held hne, hh, hmet]

end

/-- A hold when a change of flag `vid` reaches the view of its core: a wait for its value, issued before it, is satisfied
(R220). -/
def Hold.metBy (vid : BitVec 16) (v : ViewUpd) (h : Hold) : Hold :=
  match h with
  | .fwait w val auto i none => if w == vid && val == v.val && decide (i < v.cyc) then .fwait w val auto i (some v.cyc) else h
  | h => h

theorem Hold.metBy_wait {vid : BitVec 16} {v : ViewUpd} {i : Nat} (auto : Bool) (h : i < v.cyc) :
    (Hold.fwait vid v.val auto i none).metBy vid v = .fwait vid v.val auto i (some v.cyc) := by
  simp [Hold.metBy, h]

section
variable {s : State} {p c : Nat} {f : Flag} (hf : kfind s.syn.flags p = some f)
include hf

theorem exec_flagViewUpdate_none (h : ∀ u, u ∈ f.upd → u.core ≠ c) : exec (.flagViewUpdate p c) s = .next s := by
  have hnone : f.upd.find? (fun u => u.core == c) = none := by simpa using h
  simp only [exec, execFlagViewUpdate, hf, hnone]

/-- The change at the front reaches the core's view, and meets the waits of a core of the flag's run (R218, R220). -/
theorem exec_flagViewUpdate_front {v : ViewUpd} {rest : List ViewUpd} (hu : f.upd = v :: rest) (hc : v.core = c) :
    exec (.flagViewUpdate p c) s = .next
      (let t := s.modFlag p (fun f => { f with view := kset f.view c v.val, upd := f.upd.erase v })
      if (s.core c).run = some f.run then
        t.modCore c (fun k => { k with
          hold := k.hold.metBy f.vid v, frozen := k.frozen.map (fun q => (q.1, q.2.metBy f.vid v)) })
      else t) := by
  have hfind : f.upd.find? (fun u => u.core == c) = some v := by simp [hu, hc]
  simp only [exec, execFlagViewUpdate, hf, hfind, State.modFlag_core, beq_iff_eq]
  rfl

end

end Sys2Proof.Machine

namespace Sys2Proof.Claims

open Sys2Proof.Machine

/-- Settles O35: the two slots change their core alone, and the end of a wait is read off the hold. -/
theorem flagReads : Obligations.FlagReads := by
  unfold Obligations.FlagReads
  intro s c r p post vid rd f val auto
  exact ⟨fun h hrun hp hf hb => ⟨exec_fwait h hrun hp hf hb, exec_ftest h hrun hp hf hb⟩,
    fun i u hc he hh => exec_fwaitWake_met hc he hh, fun i hc he hh hmet => exec_fwaitWake_waits hc he hh hmet⟩

/-- Settles O36: the change at the front is found, leaves the queue and reaches the view; a wait that it meets is satisfied. -/
theorem flagViewUpdates : Obligations.FlagViewUpdates := by
  unfold Obligations.FlagViewUpdates
  intro s p c f hf
  refine ⟨exec_flagViewUpdate_none hf, fun v rest hu hc => ?_⟩
  have hflag := State.modFlag_find hf fun f => { f with view := kset f.view c v.val, upd := f.upd.erase v }
  refine ⟨_, { f with view := kset f.view c v.val, upd := f.upd.erase v }, exec_flagViewUpdate_front hf hu hc,
    ?_, ?_, kget_kset_self .., rfl, fun q hq => ?_,
    fun i auto hrun hh hi => ?_, fun d hd => ?_, ?_⟩
  · dsimp only
    split <;> exact hflag
  · simp [hu]
  · dsimp only
    split <;> exact State.modFlag_find_ne hq _
  · simp only [if_pos hrun, State.core_modCore_self, State.modFlag_core, hh, Hold.metBy_wait auto hi]
  · dsimp only
    split
    · rw [State.core_modCore_ne _ _ hd, State.modFlag_core]
    · exact State.modFlag_core ..
  · dsimp only
    split
    · rw [State.core_modCore_self, State.modFlag_core]
    · rw [State.modFlag_core]

end Sys2Proof.Claims
end

section
/-!
Barriers: BARR, the arrivals that reach a node and the releases that reach a core (08 R225, R226).
-/

namespace Sys2Proof.Machine

/-! BARR -/

@[simp] theorem State.modBarr_ellSaved (s : State) (p : Nat) (f : Barrier → Barrier) :
    (s.modBarr p f).ellSaved = s.ellSaved := by
  unfold State.modBarr
  split <;> rfl

section
variable {s : State} {c r p : Nat} {post : BitVec 4} {vid : BitVec 16} {b : Barrier}

/-- BARR of an allocated barrier (R225). -/
theorem exec_barr (nowait : Bool) (h : s.ready c 2 noQueue) (hrun : (s.core c).run = some r)
    (hp : s.physBarr r vid = some p) (hf : kfind s.syn.barriers p = some b) (hb : s.nameBroken c true vid = false) :
    let k := s.seen c
    let par := decide (kget 0 b.coreGen c % 2 = 1)
    exec (.barr c (.last post) vid nowait) s = .next
      (((s.modBarr p (fun b' => { b' with coreGen := kset b'.coreGen c (kget 0 b.coreGen c + 1) })).pushArrival p
        { node := .ofCore c, parity := par, child := c, core := c, cyc := k.scyc + 2 }).setCore c
          (({ k with
              outArr := k.outArr ++ [{ vid := vid, parity := par, nowait := nowait }]
              hold := if nowait then k.hold else .barr vid par k.scyc } : Core).fallThrough 3 post.toNat)) := by
  refine State.syncSlot_intact h hb (by simp) (by simp [State.pushArrival]) ?_
  simp only [State.inSync_run, hrun, Option.bind_some, State.inSync_physBarr, hp, State.inSync_syn, hf, State.inSync_scyc,
    State.pushArrival, State.inSync_modBarr]
  exact State.inSync_modCore fun e => rfl

theorem State.pushArrival_find (h : kfind s.syn.barriers p = some b) (a : Arrival) :
    kfind (s.pushArrival p a).syn.barriers p = some { b with arrivals := arrInsert a b.arrivals } := State.modBarr_find h _

end

/-! Arrivals -/

/-- The bit of an arrival in its node's counter (R225). -/
def Arrival.bit (a : Arrival) : NodeBit := { node := a.node, parity := a.parity, child := a.child }

section
variable {s : State} {p : Nat} {b : Barrier} {a : Arrival} {rest : List Arrival}

theorem State.releasesUntil_none (hb : kfind s.syn.barriers p = some b) (hr : b.releases = []) (t n : Nat) :
    s.releasesUntil p t n = s := by
  cases n with
  | zero => rfl
  | succ n => simp only [State.releasesUntil, hb, hr]

/-- With no release on its way the next arrival reaches its node. -/
theorem exec_barrierArrival (hb : kfind s.syn.barriers p = some b) (ha : b.arrivals = a :: rest) (hr : b.releases = []) :
    exec (.barrierArrival p) s = .next
      ((s.modBarr p (fun b' => { b' with arrivals := b'.arrivals.erase (b.nextArrival a) })).arrive p (b.nextArrival a)) := by
  simp only [exec, execBarrierArrival, hb, ha, State.releasesUntil_none hb hr]

/-- The arrivals of the front one's cycle are all counted already. -/
def Barrier.allCounted (b : Barrier) (a : Arrival) (rest : List Arrival) : Prop :=
  a.bit ∈ b.bits ∧ ∀ x, x ∈ rest → x.cyc = a.cyc → x.bit ∈ b.bits

theorem Barrier.nextArrival_counted (ha : b.arrivals = a :: rest) (h : b.allCounted a rest) : b.nextArrival a = a := by
  obtain ⟨hbit, hrest⟩ := h
  have hnone : b.arrivals.find? (fun x => x.cyc == a.cyc && !b.bits.contains x.bit) = none := by
    simp only [ha, List.find?_eq_none, List.mem_cons]
    rintro x (rfl | hx)
    · simp [hbit]
    · simpa using hrest x hx
  exact congrArg (Option.getD · a) hnone

/-- Otherwise the next arrival is one that is not, and the front one where that is not (R225). -/
theorem Barrier.nextArrival_uncounted (ha : b.arrivals = a :: rest) (h : ¬ b.allCounted a rest) :
    (b.nextArrival a).bit ∉ b.bits ∧ (a.bit ∉ b.bits → b.nextArrival a = a) := by
  have hnext : b.nextArrival a = (b.arrivals.find? (fun x => x.cyc == a.cyc && !b.bits.contains x.bit)).getD a := rfl
  rw [hnext]
  cases hfind : b.arrivals.find? (fun x => x.cyc == a.cyc && !b.bits.contains x.bit) with
  | none =>
    simp only [ha, List.find?_eq_none, List.mem_cons, forall_eq_or_imp] at hfind
    exact absurd ⟨by simpa using hfind.1, by simpa using hfind.2⟩ h
  | some x =>
    have hx := List.find?_some hfind
    rw [Bool.and_eq_true] at hx
    refine ⟨by simpa using hx.2, fun hbit => ?_⟩
    rw [ha, List.find?_cons_of_pos (by simp [hbit])] at hfind
    exact (Option.some.inj hfind).symm

/-- An arrival whose bit is set already (R226). -/
theorem State.arrive_overrun (hb : kfind s.syn.barriers p = some b) (hbroken : b.broken = false) (hbit : a.bit ∈ b.bits) :
    s.arrive p a = s.overrun p b a.core := by
  simp only [State.arrive, hb, hbroken]
  rw [if_neg Bool.false_ne_true]
  exact if_pos (List.contains_iff_mem.2 hbit)

theorem State.endRun_run? {r : Nat} {x : Run} (hx : s.run? r = some x) (he : x.endStatus = none) (st : Byte) :
    (s.endRun r st).run? r = some { x with endStatus := some st } := by
  rw [State.endRun, State.modRun_eq hx, he]
  exact kfind_kset_self ..

@[simp] theorem State.postEvent_syn (f type status core job detail : Nat) :
    (s.postEvent f type status core job detail).syn = s.syn := by
  rw [show s.postEvent f type status core job detail = _ from State.postEvent_same ..]

@[simp] theorem State.endRun_syn (r : Nat) (st : Byte) : (s.endRun r st).syn = s.syn := State.modRun_syn ..

/-- An overrun marks its barrier, is logged and reported, and then ends the run (R226). -/
theorem State.overrun_ends (core : Nat) : ∃ u : State,
    u.syn.barriers = (s.modBarr p (fun b => { b with overran := true })).syn.barriers ∧ u.runs = s.runs ∧
      s.overrun p b core = u.endRun b.run 0x0A := by
  have hlog : ∀ (t : State) (w : Word), (if bitOf t.syn.ovrLog 0 then t else { t with syn := { t.syn with ovrLog := w } }).syn.barriers =
      t.syn.barriers ∧ (if bitOf t.syn.ovrLog 0 then t else { t with syn := { t.syn with ovrLog := w } }).runs = t.runs := by
    intro t w
    split <;> exact ⟨rfl, rfl⟩
  have hevent : ∀ t : State, (match t.run? b.run with
      | some x => t.postEvent b.owner 0x04 0 core x.job.toNat 0xFF
      | none => t).syn = t.syn ∧ (match t.run? b.run with
      | some x => t.postEvent b.owner 0x04 0 core x.job.toNat 0xFF
      | none => t).runs = t.runs := by
    intro t
    split
    · exact ⟨State.postEvent_syn .., State.postEvent_runs ..⟩
    · exact ⟨rfl, rfl⟩
  exact ⟨_, (congrArg Syn.barriers (hevent _).1).trans (hlog _ _).1, ((hevent _).2.trans (hlog _ _).2).trans (State.modBarr_runs ..), rfl⟩

/-- Barrier p is allocated, with a property. -/
def State.barrierIs (s : State) (p : Nat) (P : Barrier → Prop) : Prop := ∃ g, kfind s.syn.barriers p = some g ∧ P g

theorem State.barrierIs_modBarr {P : Barrier → Prop} {f : Barrier → Barrier} (h : s.barrierIs p P) (hf : ∀ g, P g → P (f g)) :
    (s.modBarr p f).barrierIs p P := by
  obtain ⟨g, hg, hP⟩ := h
  exact ⟨f g, State.modBarr_find hg f, hf g hP⟩

/-- What holds once an arrival's bit is set holds after the arrival, if it is no matter of what then is on its way, nor, at the
root, of the bits (R225). -/
theorem State.arrive_barrierIs {P : Barrier → Prop} (hb : kfind s.syn.barriers p = some b) (hbroken : b.broken = false)
    (hbit : a.bit ∉ b.bits) (hset : P { b with bits := a.bit :: b.bits }) (harr : ∀ g l, P g → P { g with arrivals := l })
    (hrel : ∀ g l, P g → P { g with releases := l }) (hroot : a.node = .root → ∀ g l, P g → P { g with bits := l }) :
    (s.arrive p a).barrierIs p P := by
  have hcontains : ¬ b.bits.contains { node := a.node, parity := a.parity, child := a.child } = true := by
    rw [List.contains_iff_mem]
    exact hbit
  have hnow : (s.modBarr p (fun _ => { b with bits := a.bit :: b.bits })).barrierIs p P := ⟨_, State.modBarr_find hb _, hset⟩
  unfold State.arrive
  rw [hb]
  dsimp only
  rw [if_neg (by rw [hbroken]; exact Bool.false_ne_true), if_neg hcontains]
  split
  · exact hnow
  · split
    next hnode =>
      refine List.foldlRecOn (motive := fun u : State => u.barrierIs p P) _ _
        (State.barrierIs_modBarr hnow fun g => hroot hnode g _) fun u hu m _ => ?_
      split
      · exact State.barrierIs_modBarr hu fun g => hrel g _
      · exact hu
    · split
      · split
        · split
          · exact State.barrierIs_modBarr hnow fun g => harr g _
          · exact hnow
        · exact State.barrierIs_modBarr hnow fun g => hrel g _
      · exact State.barrierIs_modBarr hnow fun g => harr g _

end

/-! Releases -/

section
variable {s : State} {p : Nat} {b : Barrier}

theorem exec_barrierRelease_none (hb : kfind s.syn.barriers p = some b) (hr : b.releases = []) :
    exec (.barrierRelease p) s = .next s := by
  simp only [exec, execBarrierRelease, hb, hr]

/-- A release that reaches core c (R225). -/
theorem exec_barrierRelease_core {a : Release} {rest : List Release} {c : Nat} (hb : kfind s.syn.barriers p = some b)
    (hr : b.releases = a :: rest) (hc : a.core = some c) (hbroken : b.broken = false) :
    exec (.barrierRelease p) s = .next ((s.modBarr p (fun b => { b with releases := rest })).modCore c
      (fun k => k.wake b.vid a.parity b.overran a.cyc)) := by
  have hfind := State.modBarr_find hb fun b => { b with releases := rest }
  simp only [exec, execBarrierRelease, hb, hr, State.release, hfind, hbroken, hc]
  rfl

theorem takeArr_head {vid : BitVec 16} {par : Bool} {x : OutArr} {xs : List OutArr} (hv : x.vid = vid) (hp : x.parity = par) :
    takeArr vid par (x :: xs) = some (x, xs) := by
  simp [takeArr, hv, hp]

section
variable {k : Core} {vid : BitVec 16} {par : Bool} {t : Nat} {x : OutArr} {xs : List OutArr} (hk : k.outArr = x :: xs)
  (hv : x.vid = vid) (hp : x.parity = par)
include hk hv hp

/-- After an overrun a core stays held (R226). -/
theorem Core.wake_overran : k.wake vid par true t = { k with outArr := xs }.syncDoneAt t := by
  rw [Core.wake, hk, takeArr_head hv hp]
  simp

/-- A core held on a BARR goes on in the cycle after its release (R225). -/
theorem Core.wake_held {i : Nat} (hn : x.nowait = false) (hh : k.hold = .barr vid par i) :
    k.wake vid par false t =
      { ({ k with outArr := xs } : Core).syncDoneAt t with hold := .free, scyc := max k.scyc (t + 1) } := by
  have hheld : (({ k with outArr := xs } : Core).syncDoneAt t).hold = .barr vid par i := hh
  rw [Core.wake, hk, takeArr_head hv hp]
  dsimp only
  rw [hn, Bool.or_false, if_neg Bool.false_ne_true]
  exact Core.endHold_held (by rw [hheld]; exact Hold.noConfusion) (by rw [hheld]; simp [Hold.isBarr])

end
end

end Sys2Proof.Machine

namespace Sys2Proof.Claims

open Sys2Proof.Machine

/-- Settles O37: BARR changes its core and its barrier alone; an arrival at the front is the next one, and its bit decides. -/
theorem barrierArrivals : Obligations.BarrierArrivals := by
  unfold Obligations.BarrierArrivals
  intro s c r p post vid b nowait hb
  refine ⟨fun h hrun hp hname harr => ?_, fun a rest ha hr hbroken => ?_⟩
  · refine ⟨_, exec_barr nowait h hrun hp hb hname, ?_, State.core_setCore .., fun d hd => ?_⟩
    · refine (State.pushArrival_find (State.modBarr_find hb _) _).trans ?_
      simp [harr, arrInsert, Node.ofCore]
    · rw [State.core_setCore_ne _ _ hd, State.core, State.pushArrival_cores, State.modBarr_cores, State.core]
  · have herase : kfind (s.modBarr p (fun b' => { b' with arrivals := b'.arrivals.erase (b.nextArrival a) })).syn.barriers p =
        some { b with arrivals := b.arrivals.erase (b.nextArrival a) } := State.modBarr_find hb _
    have hexec := exec_barrierArrival hb ha hr
    by_cases hall : b.allCounted a rest
    · rw [Barrier.nextArrival_counted ha hall] at hexec herase
      rw [State.arrive_overrun herase hbroken hall.1] at hexec
      obtain ⟨u, hbarr, hruns, hends⟩ := State.overrun_ends (b := { b with arrivals := b.arrivals.erase a }) a.core
      rw [hends] at hexec
      refine ⟨_, { b with arrivals := rest, overran := true }, hexec, ?_, fun _ _ => ⟨rfl, fun x hx he => ?_⟩,
        fun hbit => absurd hall.1 hbit⟩
      · rw [State.endRun_syn, hbarr, State.modBarr_find herase, ha, List.erase_cons_head]
      · exact ⟨_, State.endRun_run? (by rw [State.run?, hruns, State.modBarr_runs]; exact hx) he _, rfl⟩
    · obtain ⟨hnew, hfront⟩ := Barrier.nextArrival_uncounted ha hall
      obtain ⟨g, hg, hP⟩ := State.arrive_barrierIs (P := fun g => a.bit ∉ b.bits → a.node ≠ .root → a.bit ∈ g.bits) herase hbroken
        hnew (fun hbit _ => by rw [hfront hbit]; exact List.mem_cons_self) (fun _ _ h => h) (fun _ _ h => h)
        (fun hnode _ _ _ hbit hroot => absurd (by rwa [hfront hbit] at hnode) hroot)
      exact ⟨_, g, hexec, hg, fun hbit hrest => absurd ⟨hbit, hrest⟩ hall, hP⟩

/-- Settles O38: the release at the front reaches its core, and the core's oldest arrival is the one that it completes. -/
theorem barrierReleases : Obligations.BarrierReleases := by
  unfold Obligations.BarrierReleases
  intro s p b hb
  refine ⟨exec_barrierRelease_none hb, fun a rest c x xs i hr hc hbroken hout hv hp hn hh =>
    ⟨fun hover => ?_, fun hover => ?_⟩⟩
  all_goals
    have hexec := exec_barrierRelease_core hb hr hc hbroken
    rw [hover] at hexec
    refine ⟨_, hexec, State.modBarr_find hb _, ?_⟩
    rw [State.core_modCore_self, State.modBarr_core]
  · rw [Core.wake_overran hout hv hp]
    exact ⟨rfl, rfl⟩
  · rw [Core.wake_held hout hv hp hn hh]
    refine ⟨rfl, rfl, rfl, fun d hd => ?_, State.modBarr_runs ..⟩
    rw [State.core_modCore_ne _ _ hd, State.modBarr_core]

end Sys2Proof.Claims
end

section
/-!
DEADLOCK: what it logs, reports and ends (08 R227).
-/

namespace Sys2Proof.Machine

/-- Entries for the host are no matter of the sync unit. -/
theorem State.postEvent_withSyn (s : State) (y : Syn) (f type status core job detail : Nat) :
    ({ s with syn := y } : State).postEvent f type status core job detail =
      { s.postEvent f type status core job detail with syn := y } := by
  have hentry : ∀ (u : State) bs, ({ u with syn := y } : State).eventEntry f bs = { u.eventEntry f bs with syn := y } := by
    intro u bs
    have hx : ({ u with syn := y } : State).ctx f = u.ctx f := rfl
    simp only [State.eventEntry, hx]
    split <;> rfl
  have hx : ({ s with syn := y } : State).ctx f = s.ctx f := rfl
  have hid : ∀ u : State, ({ u with syn := y } : State).moduleId = u.moduleId := fun _ => rfl
  have hmod : ∀ (u : State) g, ({ u with syn := y } : State).modCtx f g = { u.modCtx f g with syn := y } := fun _ _ => rfl
  simp only [State.postEvent, hx]
  split
  · exact hentry ..
  · rw [hentry, hmod, hentry, hid, hid]

/-- The end of a run to come is a matter of the runs alone. -/
theorem State.endRun_eq (s : State) (r : Nat) (st : Byte) : s.endRun r st = { s with runs := (s.endRun r st).runs } := by
  unfold State.endRun State.modRun
  split <;> rfl

section
variable {s : State} {r : Nat} {x : Run} (hx : s.run? r = some x)
include hx

theorem exec_deadlock_not (h : x.phase ≠ .active ∨ (s.coresOf r).all (fun c => (s.core c).deadlocked) = false ∨
    x.dlSince = none ∨ ∀ c, c ∈ s.coresOf r → (s.core c).waitsOn = none) : exec (.deadlock r) s = .next s := by
  simp only [exec, execDeadlock, hx]
  split
  · rfl
  · rfl
  next c cs u hwait hsince =>
    refine if_pos ?_
    obtain h | h | h | h := h
    · simp [h]
    · simp [State.allHeld, h]
    · rw [hsince] at h
      cases h
    · have hc : c ∈ (s.coresOf r).filter (fun c => (s.core c).waitsOn.isSome) := hwait ▸ List.mem_cons_self
      obtain ⟨hmem, hsome⟩ := List.mem_filter.1 hc
      rw [h c hmem] at hsome
      cases hsome

variable {c u : Nat} {cs : List Nat} (hwait : (s.coresOf r).filter (fun c => (s.core c).waitsOn.isSome) = c :: cs)
  (hsince : x.dlSince = some u)
include hwait hsince

theorem exec_deadlock_early (h : s.nowOf x < u + s.syn.dlTimeout.toNat * 1024) : exec (.deadlock r) s = .next s := by
  simp only [exec, execDeadlock, hx, hwait, hsince]
  exact if_pos (by simp [h])

/-- A deadlock, logged where none is yet, reported, and the end of the run. -/
theorem exec_deadlock_due (hphase : x.phase = .active) (hall : (s.coresOf r).all (fun c => (s.core c).deadlocked) = true)
    (hheld : ∀ d, d ∈ s.coresOf r → (s.core d).heldSince u = true) (h : u + s.syn.dlTimeout.toNat * 1024 ≤ s.nowOf x) :
    let w := (s.core c).waitsOn.getD (0, false)
    let y := if bitOf s.syn.dlLog 0 then s.syn else { s.syn with
      dlLog := BitVec.ofNat 32 (1 + 2 * (x.ctx % 1024))
      dlInfo := BitVec.ofNat 32 (c % 1024 + 2 ^ 10 * w.1.toNat + 2 ^ 26 * b2n w.2) }
    exec (.deadlock r) s = .next
      ({ s.postEvent x.ctx 0x07 0 c x.job.toNat (c % 1024 + 1024 * w.1.toNat) with syn := y }.endRun r 0x07) := by
  have hgo : ¬ (x.phase != .active || !s.allHeld r || !((s.coresOf r).all (fun c => (s.core c).heldSince u)) ||
      decide (s.nowOf x < u + s.syn.dlTimeout.toNat * 1024)) = true := by
    have hsince : (s.coresOf r).all (fun c => (s.core c).heldSince u) = true := List.all_eq_true.2 hheld
    have hall : s.allHeld r = true := hall
    simp [hphase, hall, hsince, Nat.not_lt.2 h]
  simp only [exec, execDeadlock, hx, hwait, hsince]
  rw [if_neg hgo, ← State.postEvent_withSyn]
  split <;> rfl

end

end Sys2Proof.Machine
end

section
/-!
The break of a run's objects: the races that it reports, the flags and barriers that it marks and the cores that lose their object
(08 R223, R228 to R230).
-/

namespace Sys2Proof.Machine

/-! Races -/

theorem State.flagRace_flags (s : State) (f : Flag) : (s.flagRace f).syn.flags = s.syn.flags := by
  unfold State.flagRace
  dsimp only
  split
  · rw [State.postEvent_syn]
  · rfl

theorem State.flagRace_barriers (s : State) (f : Flag) : (s.flagRace f).syn.barriers = s.syn.barriers := by
  unfold State.flagRace
  dsimp only
  split
  · rw [State.postEvent_syn]
  · rfl

theorem State.modFlag_barriers (s : State) (p : Nat) (g : Flag → Flag) : (s.modFlag p g).syn.barriers = s.syn.barriers := by
  unfold State.modFlag
  split <;> rfl

/-- A report of races is a matter of the flags, not of the barriers. -/
theorem State.reportRaces_barriers (s : State) (due : Flag → Bool) : (s.reportRaces due).syn.barriers = s.syn.barriers := by
  refine foldl_keeps (fun s : State => s.syn.barriers) (fun s p => ?_) _ _
  split
  · rw [State.modFlag_barriers, State.flagRace_barriers]
  · rfl

@[simp] theorem State.reportRaces_cores (s : State) (due : Flag → Bool) : (s.reportRaces due).cores = s.cores := by
  refine foldl_keeps State.cores (fun s p => ?_) _ _
  split
  · rw [State.modFlag_cores, State.flagRace_cores]
  · rfl

/-- A flag after races have been reported: nothing of it has changed but that its own may be no longer owed. -/
theorem State.reportRaces_find {s : State} {p : Nat} {f : Flag} (h : kfind s.syn.flags p = some f) (due : Flag → Bool) :
    ∃ o, kfind (s.reportRaces due).syn.flags p = some { f with owed := o } ∧ (o = f.owed ∨ o = false) := by
  unfold State.reportRaces
  refine List.foldlRecOn (motive := fun u : State =>
    ∃ o, kfind u.syn.flags p = some { f with owed := o } ∧ (o = f.owed ∨ o = false)) _ _ ⟨f.owed, h, .inl rfl⟩ ?_
  rintro u ⟨o, hu, ho⟩ q -
  split
  · rw [← State.flagRace_flags u q.2] at hu
    by_cases hq : p = q.1
    · subst hq
      exact ⟨false, State.modFlag_find hu _, .inr rfl⟩
    · exact ⟨o, (State.modFlag_find_ne hq _).trans hu, ho⟩
  · exact ⟨o, hu, ho⟩

/-! The objects -/

/-- A flag of run r that breaks in cycle `now`, as it stood before the operations of that cycle (R223, R230). -/
def Flag.breaks (r now : Nat) (f : Flag) : Flag :=
  if f.run = r && !f.broken then
    { f with
      broken := true, upd := [], hist := [], value := (f.before now).1, last := (f.before now).2.1
      race := (f.before now).2.2, owed := false }
  else f

def Barrier.breaks (r : Nat) (b : Barrier) : Barrier :=
  if b.run = r then { b with broken := true, arrivals := [], releases := [] } else b

/-- The state in which a run's objects are broken, and its cores do not know yet. -/
def State.objectsBroken (s : State) (r : Nat) : State :=
  { s.reportPast with syn := { s.reportPast.syn with
    flags := kmap (fun _ => Flag.breaks r (s.nowRun r)) s.reportPast.syn.flags
    barriers := kmap (fun _ => Barrier.breaks r) s.reportPast.syn.barriers } }

/-- An object of the run is not broken yet. -/
def State.anyWhole (s : State) (r : Nat) : Bool :=
  s.syn.flags.any (fun p => p.2.run == r && !p.2.broken) || s.syn.barriers.any (fun p => p.2.run == r && !p.2.broken)

theorem State.breakRun_eq (s : State) (r : Nat) :
    s.breakRun r = if s.anyWhole r then (s.coresOf r).foldl (fun u c => u.breakCore c (s.nowRun r)) (s.objectsBroken r)
      else s.objectsBroken r := by
  have hcores : (s.objectsBroken r).coresOf r = s.coresOf r := by
    have h : (s.objectsBroken r).cores = s.cores := State.reportRaces_cores ..
    rw [State.coresOf, h, State.coresOf]
  have heq : s.breakRun r = if !s.anyWhole r then s.objectsBroken r
      else ((s.objectsBroken r).coresOf r).foldl (fun u c => u.breakCore c (s.nowRun r)) (s.objectsBroken r) := rfl
  rw [heq, hcores]
  cases s.anyWhole r <;> rfl

theorem State.breakRun_syn (s : State) (r : Nat) : (s.breakRun r).syn = (s.objectsBroken r).syn := by
  rw [State.breakRun_eq]
  split
  · exact foldl_keeps State.syn (fun u c => u.breakCore_syn c _) _ _
  · rfl

theorem State.objectsBroken_core (s : State) (r d : Nat) : (s.objectsBroken r).core d = s.core d := by
  have h : (s.objectsBroken r).cores = s.cores := State.reportRaces_cores ..
  rw [State.core, h, State.core]

/-- What a break leaves of a flag. -/
theorem State.breakRun_flag {s : State} {p : Nat} {f : Flag} (r : Nat) (h : kfind s.syn.flags p = some f) :
    ∃ o, kfind (s.breakRun r).syn.flags p = some (Flag.breaks r (s.nowRun r) { f with owed := o }) ∧ (o = f.owed ∨ o = false) := by
  obtain ⟨o, ho, howed⟩ := State.reportRaces_find h fun f => decide (f.cyc.getD 0 < s.nowRun f.run)
  refine ⟨o, ?_, howed⟩
  rw [State.breakRun_syn]
  exact (kfind_kmap ..).trans (congrArg _ ho)

/-- What it leaves of a barrier. -/
theorem State.breakRun_barrier {s : State} {p : Nat} {b : Barrier} (r : Nat) (h : kfind s.syn.barriers p = some b) :
    kfind (s.breakRun r).syn.barriers p = some (b.breaks r) := by
  rw [State.breakRun_syn]
  refine (kfind_kmap ..).trans ?_
  have hsame : s.reportPast.syn.barriers = s.syn.barriers := State.reportRaces_barriers ..
  rw [hsame, h]
  rfl

/-! The cores -/

theorem mem_causeInsert {x y : Cause} {q : List Cause} : y ∈ causeInsert x q ↔ y = x ∨ y ∈ q := by
  induction q with
  | nil => simp [causeInsert]
  | cons z q ih =>
    simp only [causeInsert]
    split
    · simp only [List.mem_cons, ih]
      tauto
    · simp only [List.mem_cons]

theorem State.core_raiseAsyncAt_self (s : State) (c : Nat) (code : Byte) (info : Word) (t : Nat) :
    (s.raiseAsyncAt c code info t).core c = (s.core c).raised code info t := by
  rw [State.core, State.raiseAsyncAt_cores]
  exact State.core_modCore_self ..

theorem State.core_raiseAsyncAt_ne (s : State) {c d : Nat} (h : d ≠ c) (code : Byte) (info : Word) (t : Nat) :
    (s.raiseAsyncAt c code info t).core d = s.core d := by
  rw [State.core, State.raiseAsyncAt_cores]
  exact State.core_modCore_ne _ _ h

/-- A core loses its object, and no other core (R229). -/
theorem State.core_breakCore_ne (s : State) {c d : Nat} (h : d ≠ c) (now : Nat) : (s.breakCore c now).core d = s.core d :=
  (foldl_keeps (fun u : State => u.core d) (fun _ _ => State.core_raiseAsyncAt_ne _ h _ _ _) _ _).trans
    (State.core_modCore_ne _ _ h)

/-- BROKEN_OBJECT of a flag or barrier, from cycle `now` on (R229). -/
def brokenObject (v : BitVec 16) (now : Nat) : Cause := { code := 0x09, info := trapInfo 5 0 v.toNat, cyc := now }

/-- Core c, in no handler, is held on an object, and `q` of causes are pending at it. -/
structure State.HeldOn (s : State) (c : Nat) (v : BitVec 16) (q : Cause → Prop) : Prop where
  object : (s.core c).hold.object = some v
  handler : (s.core c).inHandler = false
  halted : (s.core c).halted = false
  pending : ∀ y, q y → y ∈ (s.core c).asyncQ

namespace State.HeldOn
variable {s : State} {c : Nat} {v : BitVec 16} {q : Cause → Prop} (h : s.HeldOn c v q)
include h

theorem mono {q' : Cause → Prop} (hq : ∀ y, q' y → q y) : s.HeldOn c v q' :=
  ⟨h.object, h.handler, h.halted, fun y hy => h.pending y (hq y hy)⟩

theorem of_core {u : State} (hu : u.core c = s.core c) : u.HeldOn c v q := by
  constructor <;> rw [hu]
  · exact h.object
  · exact h.handler
  · exact h.halted
  · exact h.pending

theorem raise (w : BitVec 16) (now : Nat) :
    (s.raiseAsyncAt c 0x09 (trapInfo 5 0 w.toNat) now).HeldOn c v (fun y => y = brokenObject w now ∨ q y) := by
  have hcore : (s.core c).raised 0x09 (trapInfo 5 0 w.toNat) now =
      { s.core c with asyncQ := causeInsert (brokenObject w now) (s.core c).asyncQ } :=
    if_neg (by rw [h.halted]; exact Bool.false_ne_true)
  constructor <;> rw [State.core_raiseAsyncAt_self, hcore]
  · exact h.object
  · exact h.handler
  · exact h.halted
  · rintro y (rfl | hy)
    · exact mem_causeInsert.2 (.inl rfl)
    · exact mem_causeInsert.2 (.inr (h.pending y hy))

theorem raises (now : Nat) (ws : List (BitVec 16)) :
    (ws.foldl (fun s w => s.raiseAsyncAt c 0x09 (trapInfo 5 0 w.toNat) now) s).HeldOn c v
      (fun y => (∃ w, w ∈ ws ∧ y = brokenObject w now) ∨ q y) := by
  induction ws generalizing s q with
  | nil => exact h.mono fun y hy => hy.resolve_left (by simp)
  | cons w ws ih =>
    refine (ih (h.raise w now)).mono fun y hy => ?_
    obtain ⟨w', hw', rfl⟩ | hy := hy
    · obtain rfl | hw' := List.mem_cons.1 hw'
      · exact .inr (.inl rfl)
      · exact .inl ⟨w', hw', rfl⟩
    · exact .inr (.inr hy)

/-- The core that loses its object stays held, and BROKEN_OBJECT is pending (R229). -/
theorem breakCore (now : Nat) : (s.breakCore c now).HeldOn c v (fun y => y = brokenObject v now ∨ q y) := by
  unfold State.breakCore
  refine (raises (q := q) ?_ now _).mono fun y hy => ?_
  · have hhandler := h.handler
    constructor <;> rw [State.core_modCore_self] <;> dsimp only
    · rw [if_neg (by rw [hhandler]; exact Bool.false_ne_true)]
      exact h.object
    · split <;> exact hhandler
    · split <;> exact h.halted
    · split <;> exact h.pending
  · obtain rfl | hy := hy
    · exact .inl ⟨v, by simp [h.object], rfl⟩
    · exact .inr hy

theorem breakCore_any (now d : Nat) : (s.breakCore d now).HeldOn c v q := by
  by_cases hd : c = d
  · subst hd
    exact (h.breakCore now).mono fun _ => .inr
  · exact h.of_core (State.core_breakCore_ne s hd now)

theorem breakCores (now : Nat) {ds : List Nat} (hc : c ∈ ds) :
    (ds.foldl (fun u d => u.breakCore d now) s).HeldOn c v (fun y => y = brokenObject v now) := by
  induction ds generalizing s with
  | nil => exact absurd hc List.not_mem_nil
  | cons d ds ih =>
    rw [List.foldl_cons]
    obtain rfl | hc := List.mem_cons.1 hc
    · exact List.foldlRecOn (motive := fun u : State => u.HeldOn c v (fun y => y = brokenObject v now)) _ _
        ((h.breakCore now).mono fun _ => .inl) fun u hu d _ => hu.breakCore_any now d
    · exact ih (h.breakCore_any now d) hc

end State.HeldOn

theorem brokenObject_eq (v : BitVec 16) (now : Nat) :
    brokenObject v now = { code := 0x09, info := BitVec.ofNat 32 (5 + 65536 * v.toNat), cyc := now } := by
  have hv : v.toNat % 65536 = v.toNat := Nat.mod_eq_of_lt v.isLt
  simp [brokenObject, trapInfo, hv]

theorem State.anyWhole_of {s : State} {r : Nat} (h : (∃ p f, kfind s.syn.flags p = some f ∧ f.run = r ∧ f.broken = false) ∨
    (∃ p b, kfind s.syn.barriers p = some b ∧ b.run = r ∧ b.broken = false)) : s.anyWhole r = true := by
  rw [State.anyWhole, Bool.or_eq_true, List.any_eq_true, List.any_eq_true]
  obtain ⟨p, f, hf, hr, hb⟩ | ⟨p, b, hb', hr, hb⟩ := h
  · exact .inl ⟨_, kfind_mem hf, by simp [hr, hb]⟩
  · exact .inr ⟨_, kfind_mem hb', by simp [hr, hb]⟩

/-- A core that a run does not occupy is no matter of the break of its objects. -/
theorem State.breakRun_core_ne {s : State} {r c : Nat} (h : c ∉ s.coresOf r) : (s.breakRun r).core c = s.core c := by
  have hfold : ((s.coresOf r).foldl (fun u d => u.breakCore d (s.nowRun r)) (s.objectsBroken r)).core c = s.core c := by
    refine List.foldlRecOn (motive := fun u : State => u.core c = s.core c) _ _ (s.objectsBroken_core r c) fun u hu d hd => ?_
    rw [State.core_breakCore_ne u (fun hcd => h (by rw [hcd]; exact hd)), hu]
  rw [State.breakRun_eq]
  split
  · exact hfold
  · exact s.objectsBroken_core r c

/-- A core held on an object of the run, in no handler (R229). -/
theorem State.breakRun_held {s : State} {r c : Nat} {v : BitVec 16} (hw : s.anyWhole r = true) (hc : c ∈ s.coresOf r)
    (ho : (s.core c).hold.object = some v) (hin : (s.core c).inHandler = false) (hh : (s.core c).halted = false) :
    brokenObject v (s.nowRun r) ∈ ((s.breakRun r).core c).asyncQ := by
  have hheld : s.HeldOn c v (fun _ => False) := ⟨ho, hin, hh, fun _ => False.elim⟩
  rw [State.breakRun_eq, if_pos hw]
  exact ((hheld.of_core (s.objectsBroken_core r c)).breakCores _ hc).pending _ rfl

end Sys2Proof.Machine

namespace Sys2Proof.Claims

open Sys2Proof.Machine

/-- Settles O40: a deadlock leaves all but the log, the event and the run's end; a break reports the races that are past, marks the
run's objects and goes over its cores. -/
theorem deadlockAndBreak : Obligations.DeadlockAndBreak := by
  unfold Obligations.DeadlockAndBreak
  intro s r x hx
  refine ⟨exec_deadlock_not hx, fun c cs u hwait hphase hall hsince => ⟨exec_deadlock_early hx hwait hsince,
    fun hheld hdue he => ⟨_, exec_deadlock_due hx hwait hsince hphase hall hheld hdue, ?_, fun hlog => ?_, fun hlog => ?_,
      ?_, ?_, ?_⟩⟩, s.breakRun r, ?_, fun p f hf => ?_, fun p b hb => ?_, fun c => State.breakRun_core_ne,
      fun c v hc ho hin hh hwhole => ?_⟩
  · exact State.endRun_run? (by rw [State.run?, State.postEvent_runs]; exact hx) he _
  · rw [State.endRun_syn, if_neg (by rw [hlog]; exact Bool.false_ne_true)]
    refine ⟨rfl, ?_⟩
    dsimp only [b2n]
    split <;> rfl
  · rw [State.endRun_syn, if_pos hlog]
    exact ⟨rfl, rfl⟩
  · rw [State.endRun_eq]
  · rw [State.endRun_eq]
  · rw [State.endRun_eq]
    exact State.postEvent_cores ..
  · simp only [exec, execObjectBreak, hx]
  · obtain ⟨o, hg, ho⟩ := State.breakRun_flag r hf
    refine ⟨_, hg, fun hr => ?_, fun hr => ?_⟩
    · rw [Flag.breaks, if_neg (by simp [hr])]
      obtain rfl | rfl := ho
      · exact .inl rfl
      · exact .inr rfl
    · cases hb : f.broken
      · rw [Flag.breaks, if_pos (by simp [hr])]
        exact ⟨rfl, fun hist => by simp [Flag.before, hist], fun _ => rfl⟩
      · rw [Flag.breaks, if_neg (by simp)]
        exact ⟨rfl, fun _ => rfl, nofun⟩
  · exact ⟨_, State.breakRun_barrier r hb, fun hr => if_neg hr, fun hr => if_pos hr⟩
  · rw [← brokenObject_eq]
    exact State.breakRun_held (State.anyWhole_of hwhole) hc ho hin hh

end Sys2Proof.Claims
end

section
/-!
FSET and FCLR of a broken LOCAL flag (08 R218, R230), and the obligation on flag signals.
-/

namespace Sys2Proof.Machine

/-- A broken flag discards the operations that reach its store (R230). -/
theorem State.flagOp_broken {s : State} {p : Nat} {f : Flag} (hf : kfind s.syn.flags p = some f) (hb : f.broken = true)
    (origin : Option Nat) (rank : Nat × Nat) (st : Nat) (val : Bool) : s.flagOp p origin rank st val = s := by
  simp only [State.flagOp, hf, hb, if_true]

/-- FSET of a LOCAL flag whose store is broken, in an ell that names no broken flag, passes and changes the core alone. -/
theorem exec_fset_discarded {s : State} {c r p : Nat} {post : BitVec 4} {vid : BitVec 16} {x : Run} {e : DWord} {f : Flag}
    (h : s.ready c 2 noQueue) (hrun : s.runOf c = some (r, x)) (he : s.flagEnt x vid = some e) (hk : flagKind e = 0)
    (hp : s.physFlag r vid = some p) (hf : kfind s.syn.flags p = some f) (hn : s.nameBroken c false vid = false)
    (hb : f.broken = true) :
    exec (.fset c (.last post) vid) s =
      .next (s.setCore c (((s.seen c).syncDoneAt ((s.core c).scyc + 2)).fallThrough 3 post.toNat)) := by
  refine State.syncSlot_intact h hn rfl rfl ?_
  have hrun' : (s.inSync s c (s.seen c)).runOf c = some (r, x) := by
    rw [← hrun]
    exact State.runOf_withCores (by rw [kget_kset_self]; exact State.seen_run s c)
  have he' : (s.inSync s c (s.seen c)).flagEnt x vid = some e := he
  have hdone : ∀ (k : Core) e, (k.withEll e).syncDoneAt ((s.core c).scyc + 2) = (k.syncDoneAt ((s.core c).scyc + 2)).withEll e :=
    fun _ _ => rfl
  simp only [State.flagSignal, hrun', he', hk, State.inSync_scyc, State.seen_scyc]
  rw [State.inSync_modCore (hdone _)]
  rw [show (s.inSync s c _).physFlag r vid = some p from hp]
  exact State.flagOp_broken (s := s.inSync s c _) hf hb ..

/-! Two flags under one number -/

/-- A LOCAL flag of run 0. -/
def storedFlag (vid : BitVec 16) (broken : Bool) : Flag :=
  { value := false, owner := 0, run := 0, vid := vid, broken := broken, last := none, race := false, cyc := none, setOp := false
    origin := none, issuers := [], owed := false, view := [], upd := [], hist := [] }

/-- A tun whose one virtual flag on this module is 5, a LOCAL one (11 R303). -/
def oneFlagTun : Tun :=
  { modeReq := 0, freqStep := 0, furlongN := 16, holdFrames := 0, slack := 0, participants := [0], digestPoints := 0, rows := 0
    slotPeriod := 0, features := 0, hgMask0 := 0, hgMask1 := 0, stoneId := 0, progHash := 0, numHash := 0, placeHash := 0
    sealedOk := false
    sections := [{ type := 0x16, mod := 0, bytes := [1, 0, 0, 0, 0, 0, 0, 0, 5, 0, 0, 0, 0, 0, 0, 0] }] }

/-- Core 0 in active run 0, with two entries under number 0 in the flag store, which no table made by `kset` has: the flag found
for the virtual flag 5 is the second, and the one that the number reaches is the first, which is broken. -/
def flagStoredTwice : State :=
  { State.reset with
    cores := [(0, { Core.reset with run := some 0, starts := [0] })]
    runs := [(0, { Run.new 0 { id := 0, head := 0 } 0 oneFlagTun 0 (false, 0, 0) with phase := .active })]
    syn := { Syn.reset with flags := [(0, storedFlag 6 true), (0, storedFlag 5 false)] } }

theorem flagStoredTwice_ready : flagStoredTwice.ready 0 2 noQueue := by
  unfold State.ready
  decide

end Sys2Proof.Machine

namespace Sys2Proof.Claims

open Sys2Proof.Machine

/-- Refutes O34: the statement asks for every state and takes "the flag is not broken" of the flags that the name reaches, and the
store from the flag that the number reaches. In a store with two entries under one number, which no run of the model makes,
these are two flags: in `flagStoredTwice` the set meets a broken one, which discards it (R230), and the store keeps its 0. -/
theorem not_flagSignals : ¬ Obligations.FlagSignals := by
  unfold Obligations.FlagSignals
  intro h
  have hready := flagStoredTwice_ready
  obtain ⟨u, g, hexec, hg, hval, -⟩ := h flagStoredTwice 0 0 0 0 5 _ _ (storedFlag 6 true) true hready rfl rfl rfl rfl rfl rfl rfl
    rfl nofun
  have hdiscarded := exec_fset_discarded (post := 0) (vid := 5) hready rfl rfl rfl rfl rfl rfl rfl
  obtain rfl := Host.Outcome.next.inj (hdiscarded.symm.trans hexec)
  have hstore : kfind (flagStoredTwice.syn.flags) 0 = some g := hg
  obtain rfl := Option.some.inj hstore
  cases hval

end Sys2Proof.Claims
end

section
/-!
Bridges (08 R232 to R234): SYN_BRG_CFG, the end of a submission that a bridge gates, and what the end of a run leaves of the hub.
-/

namespace Sys2Proof.Machine

theorem State.mmio_acts {s : State} (hs : s.regsAct = true) (f : State → State) : s.mmio f = .next (f s) := by
  rw [State.mmio, if_pos hs]

/-! What the end of a run leaves -/

theorem State.SameButHost.syn {s u : State} (h : s.SameButHost u) : u.syn = s.syn := by rw [show u = _ from h]

theorem State.endReqs_same (s : State) (x : Run) {st : Nat} (h : st ≠ 2) (host : Bool) (qs : List Req) :
    s.SameButHost (s.endReqs x st host qs) := by
  induction qs generalizing s with
  | nil => exact .refl s
  | cons q qs ih =>
    refine .trans (.ite (.refl s) (s.completeReq_same x q ?_ host)) (ih _)
    split
    · exact h
    · decide

/-- The hub and the bridges, which a run does not hold. -/
def State.hubAndBridges (s : State) : Hub × KMap Bridge := (s.hub, s.syn.bridges)

theorem State.SameButHost.hubAndBridges {s u : State} (h : s.SameButHost u) : u.hubAndBridges = s.hubAndBridges := by
  rw [State.hubAndBridges, h.hub, h.syn, State.hubAndBridges]

theorem State.letGo_hubAndBridges (s : State) (r : Nat) : (s.letGo r).hubAndBridges = s.hubAndBridges := by
  unfold State.letGo
  split
  · split <;> rfl
  · rfl

theorem State.unmarkSaved_hubAndBridges (s : State) (x : Run) : (s.unmarkSaved x).hubAndBridges = s.hubAndBridges := by
  unfold State.unmarkSaved
  split
  · rfl
  · exact foldl_keeps State.hubAndBridges (fun u (e : Nat × Core) => show (u.modCore e.1 _).hubAndBridges = _ from rfl) _ _

theorem State.settleBounds_hubAndBridges (s : State) : s.settleBounds.hubAndBridges = s.hubAndBridges := by
  rw [s.settleBounds_eq]
  rfl

/-- The end of a run with a status other than MALFORMED leaves the hub and the bridges. -/
theorem State.finishRun_hubAndBridges (s : State) (r : Nat) {st : Nat} (hst : statusWritten st ≠ 2) (host : Bool) :
    (s.finishRun r st host).hubAndBridges = s.hubAndBridges := by
  unfold State.finishRun
  split
  · rfl
  next x _ =>
    have hpreempt : ∀ (t : State) (n : Nat), (match x.preempt with
        | some p => if p.saved = 0 then t.complete 0 0x15 (if n = 9 then 9 else 6) p.cmd 0 x.job.toNat 0 0 else t
        | none => t).hubAndBridges = t.hubAndBridges := by
      intro t n
      split
      · split
        · refine (State.complete_same _ _ _ ?_ ..).hubAndBridges
          split <;> decide
        · rfl
      · rfl
    dsimp only
    rw [State.settleBounds_hubAndBridges]
    refine (State.unmarkSaved_hubAndBridges ..).trans ((State.letGo_hubAndBridges ..).trans ?_)
    cases host
    · exact (State.endReqs_same _ _ hst _ _).hubAndBridges
    · refine (State.complete_same _ _ _ hst ..).hubAndBridges.trans ((hpreempt _ _).trans
        ((State.endReqs_same _ _ hst _ _).hubAndBridges.trans ?_))
      split <;> rfl

/-! SYN_BRG_CFG -/

section
variable {s : State} {v : Word} (hs : s.regsAct = true)
include hs

/-- A write of SYN_BRG_CFG for a bridge that is not enabled (R232). -/
theorem exec_enable_disabled (he : (s.bridge s.syn.brgSel.toNat).enabled = false) :
    exec (.enable v) s = .next (
      if v.getLsbD 31 = false then s.setBridge s.syn.brgSel.toNat
        { s.bridge s.syn.brgSel.toNat with setter := bits v 0 10, waiter := bits v 16 10 }
      else if 1 ≤ bits v 0 10 ∧ bits v 0 10 ≤ 512 ∧ 1 ≤ bits v 16 10 ∧ bits v 16 10 ≤ 512 ∧ bits v 0 10 ≠ bits v 16 10 then
        s.setBridge s.syn.brgSel.toNat
          { s.bridge s.syn.brgSel.toNat with setter := bits v 0 10, waiter := bits v 16 10, enabled := true, value := false }
      else s) := by
  simp only [exec, execEnable, State.mmio_acts hs, he, bitOf, Bool.false_eq_true, if_false, Bool.not_eq_true', Bool.and_eq_true,
    decide_eq_true_eq, bne_iff_ne, and_assoc]

/-- The same for one that is (R234). -/
theorem exec_enable_enabled (he : (s.bridge s.syn.brgSel.toNat).enabled = true) :
    exec (.enable v) s = .next (if v.getLsbD 31 = true then s else s.destroyBridge s.syn.brgSel.toNat) := by
  simp only [exec, execEnable, State.mmio_acts hs, he, bitOf, if_true]
  rfl

end

section
variable {s : State} (b : Nat)

/-- A bridge that is destroyed is no longer enabled, and no other bridge changes (R234). -/
theorem State.destroyBridge_bridge (q : Nat) : (s.destroyBridge b).bridge q =
    if q = b then { s.bridge q with enabled := false, value := false } else s.bridge q := by
  have hruns : ∀ (u : State) (l : List (Nat × Run)), (l.foldl (fun s p =>
      if p.2.phase == .waiting && p.2.gate == some b then s.finishRun p.1 8 true else s) u).syn.bridges = u.syn.bridges := by
    refine fun u l => foldl_keeps (fun s : State => s.syn.bridges) (fun u p => ?_) l u
    split
    · exact congrArg Prod.snd (State.finishRun_hubAndBridges u p.1 (by decide) true)
    · rfl
  unfold State.destroyBridge State.bridge
  dsimp only
  rw [kget_eq_kfind, kfind_kmap, hruns, kget_eq_kfind]
  cases kfind s.syn.bridges q <;> split <;> rfl

theorem State.destroyBridge_run? {r : Nat} {x : Run} (hr : s.runs = [(r, x)]) :
    (s.destroyBridge b).run? r = if x.phase = .waiting ∧ x.gate = some b then none else some x := by
  unfold State.destroyBridge State.run?
  dsimp only
  rw [hr]
  simp only [List.foldl_cons, List.foldl_nil, Bool.and_eq_true, beq_iff_eq]
  split
  · rw [(State.finishRun_sole (State.soleKey_runs hr) 8 true).1]
    rfl
  · rw [hr]
    exact if_pos rfl

/-- What a write of SYN_BRG_CFG that disables a bridge does (R234). -/
theorem exec_enable_destroys {v : Word} (hs : s.regsAct = true) (he : (s.bridge s.syn.brgSel.toNat).enabled = true)
    (hv : v.getLsbD 31 = false) : exec (.enable v) s = .next (s.destroyBridge s.syn.brgSel.toNat) := by
  rw [exec_enable_enabled hs he, if_neg (by rw [hv]; exact Bool.false_ne_true)]

end

/-! BRIDGE_TIMEOUT -/

section
variable {s : State} {r : Nat}

theorem exec_bridgeTimeout_unknown (hr : s.run? r = none) : exec (.bridgeTimeout r) s = .fault .noSuchUnit := by
  simp only [exec, execBridgeTimeout, hr]

/-- A run that has waited for its bridge for longer than it allows (R233). -/
def State.gateOut (s : State) (x : Run) : Prop :=
  x.phase = .waiting ∧ ∃ b, x.gate = some b ∧ x.posted + 200 * (s.bridge b).timeout < s.chn.count

theorem State.gateOut_iff (s : State) (x : Run) : s.gateOut x ↔ (x.phase == .waiting &&
    x.gate.any (fun b => decide (x.posted + 200 * (s.bridge b).timeout < s.chn.count))) = true := by
  simp only [State.gateOut, Bool.and_eq_true, beq_iff_eq, Option.any_eq_true, decide_eq_true_eq]

variable {x : Run} (hr : s.run? r = some x)
include hr

theorem exec_bridgeTimeout_waits (h : ¬ s.gateOut x) : exec (.bridgeTimeout r) s = .next s := by
  rw [State.gateOut_iff] at h
  simp only [exec, execBridgeTimeout, hr]
  rw [if_neg h]

theorem exec_bridgeTimeout_ends (h : s.gateOut x) : exec (.bridgeTimeout r) s = .next (s.finishRun r 7 true) := by
  rw [State.gateOut_iff] at h
  simp only [exec, execBridgeTimeout, hr]
  rw [if_pos h]

end

end Sys2Proof.Machine
end

section
/-!
The control of ports (09 R258, R264, R265, R267): what each field of LNK_CTRL does to a port that no slot table uses.
-/

namespace Sys2Proof.Machine

theorem State.port_setPort_self (s : State) (p : Nat) (x : Port) : (s.setPort p x).port p = x := kget_kset_self ..

theorem State.port_setPort_ne (s : State) {p q : Nat} (x : Port) (h : q ≠ p) : (s.setPort p x).port q = s.port q :=
  kget_kset_ne _ _ _ h

theorem State.port_modPort_self (s : State) (p : Nat) (f : Port → Port) : (s.modPort p f).port p = f (s.port p) :=
  kget_kset_self ..

/-- What holds of the entry just written holds of the port. -/
theorem State.port_written {P : Port → Prop} {u : State} {m : KMap Port} {p : Nat} {x : Port} (h : u.lnk.ports = kset m p x)
    (hx : P x) : P (u.port p) := by
  rw [State.port, h, kget_kset_self]
  exact hx

/-- Of the ports port p alone may differ, and no core and no run does. -/
structure State.ButPort (s : State) (p : Nat) (u : State) : Prop where
  ports : ∀ q, q ≠ p → u.port q = s.port q
  cores : u.cores = s.cores
  runs : u.runs = s.runs

section
variable {s t u : State} {p : Nat}

theorem State.ButPort.refl (s : State) (p : Nat) : s.ButPort p s := ⟨fun _ _ => rfl, rfl, rfl⟩

theorem State.ButPort.trans (h : s.ButPort p t) (h' : t.ButPort p u) : s.ButPort p u :=
  ⟨fun q hq => (h'.ports q hq).trans (h.ports q hq), h'.cores.trans h.cores, h'.runs.trans h.runs⟩

theorem State.modPort_butPort (f : Port → Port) : s.ButPort p (s.modPort p f) :=
  ⟨fun _ hq => State.port_setPort_ne _ _ hq, rfl, rfl⟩

/-- Port p alone may differ, and is in state `st` with loop-back depth `sel` (R264, R266). -/
structure State.PortTo (s : State) (p : Nat) (st sel : BitVec 3) (u : State) : Prop where
  but : s.ButPort p u
  st : (u.port p).st = st
  loopSel : (u.port p).loopSel = sel

theorem State.ButPort.portTo {st sel : BitVec 3} (h : s.ButPort p t) (h' : t.PortTo p st sel u) : s.PortTo p st sel u :=
  ⟨h.trans h'.but, h'.st, h'.loopSel⟩

theorem State.modPort_portTo (f : Port → Port) :
    s.PortTo p (f (s.port p)).st (f (s.port p)).loopSel (s.modPort p f) :=
  ⟨State.modPort_butPort f, by rw [State.port_modPort_self], by rw [State.port_modPort_self]⟩

theorem State.portState_portTo (st : BitVec 3) : s.PortTo p st (s.port p).loopSel (s.portState p st) := by
  unfold State.portState
  split
  next h => exact ⟨.refl s p, h, rfl⟩
  · exact ⟨⟨fun _ hq => kget_kset_ne _ _ _ hq, rfl, rfl⟩, State.port_written (P := fun y => y.st = st) rfl rfl,
      State.port_written (P := fun y => y.loopSel = (s.port p).loopSel) rfl rfl⟩

/-- A port that no slot table uses is declared down, and no run learns of a loss (R258). -/
theorem State.portDown_portTo (hu : s.portUsed p = false) (reset : Bool) :
    s.PortTo p 0 (s.port p).loopSel (s.portDown p reset) := by
  have hnone : s.runs.filter (fun e => s.usesPort e.2 p) = [] := by
    rw [List.filter_eq_nil_iff]
    simpa [State.portUsed] using hu
  unfold State.portDown
  dsimp only
  rw [hnone]
  split
  next h => exact ⟨.refl s p, h, rfl⟩
  · exact ⟨⟨fun _ hq => kget_kset_ne _ _ _ hq, rfl, rfl⟩, State.port_written (P := fun y => y.st = 0) rfl rfl,
      State.port_written (P := fun y => y.loopSel = (s.port p).loopSel) rfl rfl⟩

theorem State.PortTo.withFresh {st sel : BitVec 3} (h : s.PortTo p st sel u) (n : Nat) : s.PortTo p st sel { u with fresh := n } :=
  ⟨⟨h.but.ports, h.but.cores, h.but.runs⟩, h.st, h.loopSel⟩

/-- What comes before a change of state: a port in loop-back stays as it is, any other goes down. -/
theorem State.leaveState_but (hu : s.portUsed p = false) (reset : Bool) :
    s.ButPort p (if (s.port p).st = 6 then s else s.portDown p reset) ∧
      ((if (s.port p).st = 6 then s else s.portDown p reset).port p).loopSel = (s.port p).loopSel := by
  split
  · exact ⟨.refl s p, rfl⟩
  · exact ⟨(State.portDown_portTo hu reset).but, (State.portDown_portTo hu reset).loopSel⟩

/-- Training begins in phase 1 (R258). -/
theorem State.beginTraining_portTo (hu : s.portUsed p = false) : s.PortTo p 1 (s.port p).loopSel (s.beginTraining p) := by
  obtain ⟨hbut, hsel⟩ := State.leaveState_but hu false
  have hstate := (hbut.trans (State.modPort_butPort _)).portTo (State.portState_portTo (s := State.modPort _ p fun x =>
    { x with cwLock := false, frameLock := false, partnerFar := false, retrain := false }) (p := p) 1)
  rw [State.port_modPort_self, hsel] at hstate
  exact hstate

/-- A port that changes its state says so in LNK_PORT_EVT (R266). -/
theorem State.portState_portEvt (hp : p < 32) {st : BitVec 3} (h : (s.port p).st ≠ st) :
    (s.portState p st).lnk.portEvt.getLsbD p = true := by
  rw [State.portState, if_neg h]
  show (s.lnk.portEvt ||| BitVec.ofNat 32 (2 ^ p)).getLsbD p = true
  rw [BitVec.getLsbD_or, BitVec.getLsbD_ofNat, Nat.testBit_two_pow_self]
  simp [hp]

theorem State.nextPhase_portTo (h : (s.port p).st < 5) :
    s.PortTo p ((s.port p).st + 1) (s.port p).loopSel (s.nextPhase p) := by
  have hnext := State.portState_portTo (s := s) (p := p) ((s.port p).st + 1)
  have hmod : ∀ f : Port → Port, (∀ x, (f x).st = x.st ∧ (f x).loopSel = x.loopSel) →
      s.PortTo p ((s.port p).st + 1) (s.port p).loopSel ((s.portState p ((s.port p).st + 1)).modPort p f) := by
    intro f hf
    refine ⟨hnext.but.trans (State.modPort_butPort f), ?_, ?_⟩ <;> rw [State.port_modPort_self]
    · rw [(hf _).1, hnext.st]
    · rw [(hf _).2, hnext.loopSel]
  unfold State.nextPhase
  dsimp only
  rw [if_neg (by simpa using h)]
  split
  · exact hmod _ fun _ => ⟨rfl, rfl⟩
  · split
    · refine (hmod _ ?_).withFresh _
      exact fun _ => ⟨rfl, rfl⟩
    · exact hnext

/-! The fields of LNK_CTRL -/

section
variable (hu : s.portUsed p = true)
include hu

theorem State.ctrlEnable_used (v : Word) : s.ctrlEnable p v = s := by rw [State.ctrlEnable, hu]; rfl

theorem State.ctrlMaint_used (v : Word) : s.ctrlMaint p v = s := by rw [State.ctrlMaint, hu]; rfl

theorem State.ctrlLoop_used (v : Word) : s.ctrlLoop p v = s := by rw [State.ctrlLoop, hu]; rfl

theorem State.ctrlRetrain_used : s.ctrlRetrain p = s := by rw [State.ctrlRetrain, hu]; rfl

end

theorem State.ctrlEnable_warming (h : s.hub.warming = true) (v : Word) : s.ctrlEnable p v = s := by
  rw [State.ctrlEnable, h, Bool.or_true, if_pos rfl]

theorem State.ctrlRetrain_warming (h : s.hub.warming = true) : s.ctrlRetrain p = s := by
  rw [State.ctrlRetrain, h, Bool.or_true, if_pos rfl]

/-- LOOPBACK is ignored outside maintenance, on a port that is held down, and for a depth that is reserved or stands already. -/
theorem State.ctrlLoop_ignored {v : Word} (h : ((s.port p).maint = false ∨ (s.port p).enable = false ∨ s.chn.strapsOk = false) ∨
    (bits v 2 3 = 1 ∨ 6 ≤ bits v 2 3 ∨ bits v 2 3 = (s.port p).loopSel.toNat)) : s.ctrlLoop p v = s := by
  rw [State.ctrlLoop]
  refine if_pos ?_
  obtain (h | h | h) | (h | h | h) := h <;> simp [h]

theorem State.ctrlRetrain_ignored (h : (s.port p).maint = false ∨ (s.port p).enable = false ∨ s.chn.strapsOk = false) :
    s.ctrlRetrain p = s := by
  rw [State.ctrlRetrain]
  refine if_pos ?_
  obtain h | h | h := h <;> simp [h]

section
variable {v : Word} (hu : s.portUsed p = false)
include hu

theorem State.ctrlEnable_on (hw : s.hub.warming = false) (hv : v.getLsbD 0 = true) :
    s.ctrlEnable p v = s.setPort p { s.port p with enable := true } := by
  rw [State.ctrlEnable, hu, hw, bitOf, hv]
  rfl

/-- PORT_ENABLE 0 holds the port down. -/
theorem State.ctrlEnable_off (hw : s.hub.warming = false) (hv : v.getLsbD 0 = false) :
    s.PortTo p 0 0 (s.ctrlEnable p v) ∧ ((s.ctrlEnable p v).port p).enable = false := by
  have hdown : s.PortTo p 0 (s.port p).loopSel (if (s.port p).st = 6 then s.portState p 0 else s.portDown p false) := by
    split
    · exact State.portState_portTo 0
    · exact State.portDown_portTo hu false
  rw [State.ctrlEnable, hu, hw, bitOf, hv, if_neg (by decide), if_neg (by decide)]
  refine ⟨⟨hdown.but.trans (State.modPort_butPort _), ?_, ?_⟩, ?_⟩ <;> rw [State.port_modPort_self]
  exact hdown.st

theorem State.ctrlMaint_free : s.ctrlMaint p v = s.setPort p { s.port p with maint := v.getLsbD 6 } := by
  rw [State.ctrlMaint, hu]
  rfl

section
variable (hm : (s.port p).maint = true) (he : (s.port p).enable = true) (hst : s.chn.strapsOk = true)
include hm he hst

/-- A depth of 2 to 5 puts the port in loop-back. -/
theorem State.ctrlLoop_loops (h2 : 2 ≤ bits v 2 3) (h5 : bits v 2 3 ≤ 5) (hsel : (s.port p).loopSel.toNat ≠ bits v 2 3) :
    s.PortTo p 6 (BitVec.ofNat 3 (bits v 2 3)) (s.ctrlLoop p v) := by
  obtain ⟨hbut, -⟩ := State.leaveState_but hu false
  have hloop := hbut.portTo (State.portState_portTo (p := p) 6)
  have hgo : ¬ (s.portUsed p || !(s.port p).maint || bits v 2 3 = 1 || bits v 2 3 ≥ 6 || (s.port p).loopSel.toNat = bits v 2 3 ||
      !(s.port p).enable || !s.chn.strapsOk) = true := by
    simp [hu, hm, he, hst, hsel]
    omega
  unfold State.ctrlLoop
  dsimp only
  rw [if_neg hgo, if_neg (by omega)]
  refine ⟨hloop.but.trans (State.modPort_butPort _), ?_, ?_⟩ <;> rw [State.port_modPort_self]
  exact hloop.st

/-- A depth of 0 ends it and starts training. -/
theorem State.ctrlLoop_ends (h0 : bits v 2 3 = 0) (hsel : (s.port p).loopSel ≠ 0) : s.PortTo p 1 0 (s.ctrlLoop p v) := by
  have hgo : ¬ (s.portUsed p || !(s.port p).maint || bits v 2 3 = 1 || bits v 2 3 ≥ 6 || (s.port p).loopSel.toNat = bits v 2 3 ||
      !(s.port p).enable || !s.chn.strapsOk) = true := by
    have hne : (s.port p).loopSel.toNat ≠ 0 := fun h => hsel (BitVec.eq_of_toNat_eq h)
    simp [hu, hm, he, hst, h0, hne]
  have htrain := State.beginTraining_portTo (s := s.modPort p fun x => { x with loopSel := 0 }) hu
  rw [State.port_modPort_self] at htrain
  unfold State.ctrlLoop
  dsimp only
  rw [if_neg hgo, if_pos h0]
  exact (State.modPort_butPort _).portTo htrain

section
variable (h6 : (s.port p).st ≠ 6) (hw : s.hub.warming = false)
include h6 hw

/-- What RETRAIN does in each state of a port under maintenance (R257, R258). -/
theorem State.ctrlRetrain_eq : s.ctrlRetrain p =
    if (s.port p).st = 7 then s.setPort p { s.port p with retrain := true }
    else if (s.port p).st ≠ 0 then (if s.hub.splitAct.getLsbD 3 = true then s.nextPhase p else s)
    else s.beginTraining p := by
  have hgo : ¬ (s.portUsed p || !(s.port p).maint || !(s.port p).enable || (s.port p).st = 6 || !s.chn.strapsOk ||
      s.hub.warming) = true := by
    simp [hu, hm, he, hst, hw]
    exact h6
  unfold State.ctrlRetrain
  dsimp only
  rw [if_neg hgo]
  simp only [Port.active, beq_iff_eq, bne_iff_ne, bitOf]
  rfl

end
end
end
end

end Sys2Proof.Machine
end

section
/-!
HOST_TARGET and the declared next submission (12 R332 to R337), and the obligation on control writes.
-/

namespace Sys2Proof.Machine

section
variable {s : State}

theorem State.powerTo_pwr {st : BitVec 3} (h : s.pwr.st ≠ st) : (s.powerTo st).pwr.st = st ∧
    (s.powerTo st).pwr.hostTarget = s.pwr.hostTarget := by
  unfold State.powerTo
  rw [if_neg h]
  dsimp only
  rw [foldl_keeps State.pwr (fun u d => by split <;> rfl)]
  exact ⟨rfl, rfl⟩

theorem State.powerTo_cores (st : BitVec 3) : (s.powerTo st).cores = s.cores := by
  unfold State.powerTo
  split
  · rfl
  · exact foldl_keeps State.cores (fun u d => by split <;> rfl) _ _

/-- A state other than Stow is entered without a loss to the cores (R331). -/
theorem State.enter_cores {n : Nat} (h : n ≠ 3) (due : Nat) : (s.enter n due).cores = s.cores := by
  unfold State.enter
  dsimp only
  rw [if_neg h]
  exact State.powerTo_cores _

theorem State.enter_pwr {n : Nat} (h : s.pwr.st.toNat < n) (h3 : n ≤ 3) (due : Nat) :
    (s.enter n due).pwr.st = BitVec.ofNat 3 n ∧ (s.enter n due).pwr.hostTarget = s.pwr.hostTarget := by
  have hne : s.pwr.st ≠ BitVec.ofNat 3 n := by
    intro he
    rw [he, BitVec.toNat_ofNat] at h
    omega
  unfold State.enter
  dsimp only
  split <;> exact State.powerTo_pwr hne

/-! The states that R332 allows -/

theorem State.allowedUpTo_le (n : Nat) : s.allowedUpTo n ≤ n := by
  induction n with
  | zero => exact Nat.le_refl 0
  | succ n ih =>
    rw [State.allowedUpTo]
    split
    · exact Nat.le_refl _
    · omega

theorem State.allowedUpTo_self {n : Nat} (h : s.allowed (n + 1) = true) : s.allowedUpTo (n + 1) = n + 1 := by
  rw [State.allowedUpTo, if_pos h]

theorem State.allowed_idle {n : Nat} (hr : s.activeRuns = []) (h1 : 1 ≤ n) (h3 : n ≤ 3)
    (hs : n = 3 → ∀ e, e ∈ s.cores → e.2.owner = none) : s.allowed n = true := by
  obtain rfl | rfl | rfl : n = 1 ∨ n = 2 ∨ n = 3 := by omega
  · simp [State.allowed, hr]
  · simp [State.allowed, hr]
  · simpa [State.allowed, hr] using hs rfl

theorem State.stow_owned (h : ∃ e, e ∈ s.cores ∧ e.2.owner ≠ none) : s.allowed 3 = false := by
  obtain ⟨e, he, ho⟩ := h
  rw [Bool.eq_false_iff]
  intro hall
  have hnone := List.all_eq_true.1 (Bool.and_eq_true_iff.1 hall).2 e he
  exact ho (Option.isNone_iff_eq_none.1 hnone)

/-! HOST_TARGET -/

/-- HOST_TARGET stores a target that is not reserved (R336). -/
def State.withTarget (s : State) (t : Nat) : State :=
  { s with pwr := { s.pwr with hostTarget := if t ≤ 3 then BitVec.ofNat 3 t else s.pwr.hostTarget } }

theorem State.regsAct_iff : s.regsAct = true ↔ s.board.loadOn = true ∧ s.pwr.st ≠ 4 ∧ s.hub.bootStage ≠ 6 := by
  simp only [State.regsAct, Bool.and_eq_true, bne_iff_ne, and_assoc]

theorem State.withTarget_allowedUpTo (t n : Nat) : (s.withTarget t).allowedUpTo n = s.allowedUpTo n := by
  have hsame : ∀ n, (s.withTarget t).allowed n = s.allowed n := fun n => rfl
  induction n with
  | zero => rfl
  | succ n ih => rw [State.allowedUpTo, State.allowedUpTo, hsame, ih]

/-- Where registers act, a write of HOST_TARGET is not lost. -/
theorem State.regsAct_hostTarget (hs : s.regsAct = true) : ¬ (!s.board.loadOn || s.hub.bootStage = 6) = true := by
  obtain ⟨hload, -, hboot⟩ := State.regsAct_iff.1 hs
  rw [hload, Bool.not_true, Bool.false_or, decide_eq_true_eq]
  exact hboot

section
variable {v : Word} (hs : s.regsAct = true)
include hs

theorem exec_hostTarget_stored (h : s.hub.splitAct.getLsbD 6 = false ∨ 3 < bits v 4 3 ∨ s.hub.fatal = true) :
    exec (.hostTarget v) s = .next (s.withTarget (bits v 4 3)) := by
  simp only [exec, execHostTarget]
  rw [if_neg (State.regsAct_hostTarget hs)]
  refine if_pos ?_
  obtain h | h | h := h
  · simp only [bitOf, h, Bool.not_false, Bool.or_true, Bool.true_or]
  · simp only [h, decide_true, Bool.or_true, Bool.true_or]
  · simp only [h, Bool.or_true]

section
variable (hsplit : s.hub.splitAct.getLsbD 6 = true) (hfatal : s.hub.fatal = false)
include hsplit hfatal

/-- In host-assisted mode the module goes to the deepest state that R332 allows, and has no planned exit (R336). -/
theorem exec_hostTarget_goes (h3 : bits v 4 3 ≤ 3) : exec (.hostTarget v) s = .next (
      let k := s.withTarget (bits v 4 3)
      let u := k.goTo (s.allowedUpTo (bits v 4 3)) k.nextEvent
      { u with pwr := { u.pwr with untilTk := none } }) := by
  obtain ⟨-, hoff, -⟩ := State.regsAct_iff.1 hs
  rw [← State.withTarget_allowedUpTo (bits v 4 3)]
  simp only [exec, execHostTarget]
  rw [if_neg (State.regsAct_hostTarget hs)]
  refine if_neg ?_
  have hdeep : ¬ bits v 4 3 > 3 := by omega
  simp only [bitOf, hsplit, hfatal, hdeep, Bool.or_eq_true, decide_eq_true_eq, Bool.not_true, Bool.false_eq_true, or_false]
  exact hoff

/-- A shallower target begins the exit (R336). -/
theorem exec_hostTarget_shallower (h : bits v 4 3 < s.pwr.st.toNat) (h3 : s.pwr.st.toNat ≤ 3) :
    exec (.hostTarget v) s = .next { s.withTarget (bits v 4 3) with pwr :=
      { (s.withTarget (bits v 4 3)).pwr with transition := true, untilTk := none } } := by
  have hless : s.allowedUpTo (bits v 4 3) < (s.withTarget (bits v 4 3)).pwr.st.toNat :=
    Nat.lt_of_le_of_lt (State.allowedUpTo_le _) h
  have hlow : (1 ≤ (s.withTarget (bits v 4 3)).pwr.st.toNat && (s.withTarget (bits v 4 3)).pwr.st.toNat ≤ 3) = true := by
    rw [Bool.and_eq_true, decide_eq_true_eq, decide_eq_true_eq]
    exact ⟨Nat.one_le_of_lt h, h3⟩
  rw [exec_hostTarget_goes hs hsplit hfatal (by omega)]
  dsimp only
  rw [State.goTo, if_pos hless, State.wake, if_pos hlow]

/-- A deeper state that R332 allows is entered (R336). -/
theorem exec_hostTarget_enters (h3 : bits v 4 3 ≤ 3) (h : s.pwr.st.toNat < s.allowedUpTo (bits v 4 3)) :
    ∃ u : State, exec (.hostTarget v) s = .next u ∧ u.pwr.st = BitVec.ofNat 3 (s.allowedUpTo (bits v 4 3)) ∧
      u.pwr.hostTarget = BitVec.ofNat 3 (bits v 4 3) ∧ u.pwr.untilTk = none ∧
      (s.allowedUpTo (bits v 4 3) ≠ 3 → u.cores = s.cores) := by
  have hst : (s.withTarget (bits v 4 3)).pwr.st.toNat < s.allowedUpTo (bits v 4 3) := h
  have htarget : (s.withTarget (bits v 4 3)).pwr.hostTarget = BitVec.ofNat 3 (bits v 4 3) := if_pos h3
  have hgo : ∀ due, (s.withTarget (bits v 4 3)).goTo (s.allowedUpTo (bits v 4 3)) due =
      (s.withTarget (bits v 4 3)).enter (s.allowedUpTo (bits v 4 3)) due := by
    intro due
    rw [State.goTo, if_neg (by omega), if_neg (by omega)]
  obtain ⟨henter, hkept⟩ := State.enter_pwr hst (Nat.le_trans (State.allowedUpTo_le _) h3)
    (s.withTarget (bits v 4 3)).nextEvent
  refine ⟨_, exec_hostTarget_goes hs hsplit hfatal h3, ?_⟩
  dsimp only
  rw [hgo]
  exact ⟨henter, hkept.trans htarget, rfl, fun hne => State.enter_cores hne _⟩

end
end

/-! The declared next submission and the loop core -/

section
variable {v : Word} (hs : s.regsAct = true)
include hs

theorem exec_pwrNextHiWrite :
    let n : DWord := BitVec.ofNat 64 (v.toNat * 2 ^ 32 + s.pwr.nextLo.toNat)
    let kept : State := { s with pwr := { s.pwr with nextHi := v, nextAt := n } }
    exec (.pwrNextHiWrite v) s =
      .next (if n ≠ 0 ∧ ∀ d, s.pwr.untilTk = some d → n.toNat < d then kept.wake else kept) := by
  have hall : ∀ n : Nat, (s.pwr.untilTk.all (fun u => decide (n < u)) = true) = ∀ d, s.pwr.untilTk = some d → n < d := by
    intro n
    simp only [Option.all_eq_true, decide_eq_true_eq]
  intro n kept
  simp only [exec, execPwrNextHiWrite, State.mmio_acts hs, append_words, State.newEvent, hall, bne_iff_ne, ne_eq, ite_and]
  rfl

theorem exec_lnkCoreLoop_free (h : (s.core (bits v 0 10)).owner = none) : exec (.lnkCoreLoop v) s = .next { s with lnk :=
    { s.lnk with loopCore := BitVec.ofNat 10 (bits v 0 10), loopEn := v.getLsbD 15 } } := by
  simp only [exec, execLnkCoreLoop, State.mmio_acts hs, h, Option.isSome_none, Bool.false_eq_true, if_false, bitOf]

theorem exec_lnkCoreLoop_owned (h : (s.core (bits v 0 10)).owner ≠ none) : exec (.lnkCoreLoop v) s = .next s := by
  rw [Option.ne_none_iff_isSome] at h
  simp only [exec, execLnkCoreLoop, State.mmio_acts hs, h, if_true]

end
end

/-! The commands of a port -/

section
variable {s : State} {p : Nat} {v : Word}

theorem exec_noSuchPort (hp : 32 ≤ p) : exec (.portEnable p v) s = .fault .noSuchUnit ∧ exec (.retrain p) s = .fault .noSuchUnit ∧
    exec (.loopback p v) s = .fault .noSuchUnit ∧ exec (.maint p v) s = .fault .noSuchUnit :=
  ⟨if_pos hp, if_pos hp, if_pos hp, if_pos hp⟩

variable (hs : s.regsAct = true) (hp : p < 32)
include hs hp

theorem exec_portEnable : exec (.portEnable p v) s = .next (s.ctrlEnable p v) :=
  (if_neg (Nat.not_le.2 hp)).trans (State.mmio_acts hs _)

theorem exec_retrain : exec (.retrain p) s = .next (s.ctrlRetrain p) :=
  (if_neg (Nat.not_le.2 hp)).trans (State.mmio_acts hs _)

theorem exec_loopback : exec (.loopback p v) s = .next (s.ctrlLoop p v) :=
  (if_neg (Nat.not_le.2 hp)).trans (State.mmio_acts hs _)

theorem exec_maint : exec (.maint p v) s = .next (s.ctrlMaint p v) :=
  (if_neg (Nat.not_le.2 hp)).trans (State.mmio_acts hs _)

end

end Sys2Proof.Machine
end

section
/-!
The obligation on control writes: the registers of bridges, ports and power, clause by clause.
-/

namespace Sys2Proof.Claims

open Sys2Proof.Machine

section
variable {s : State} {v : Word} (hs : s.regsAct = true)
include hs

/-! ENABLE -/

section
variable (he : (s.bridge s.syn.brgSel.toNat).enabled = false)
include he

theorem enable_good (hv : v.getLsbD 31 = true) (hgood : 1 ≤ bits v 0 10 ∧ bits v 0 10 ≤ 512 ∧ 1 ≤ bits v 16 10 ∧
    bits v 16 10 ≤ 512 ∧ bits v 0 10 ≠ bits v 16 10) : exec (.enable v) s = .next (s.setBridge s.syn.brgSel.toNat
      { s.bridge s.syn.brgSel.toNat with setter := bits v 0 10, waiter := bits v 16 10, enabled := true, value := false }) := by
  rw [exec_enable_disabled hs he, if_neg (by simp only [hv, Bool.true_eq_false, not_false_iff]), if_pos hgood]

theorem enable_bad (hv : v.getLsbD 31 = true) (hbad : ¬ (1 ≤ bits v 0 10 ∧ bits v 0 10 ≤ 512 ∧ 1 ≤ bits v 16 10 ∧
    bits v 16 10 ≤ 512 ∧ bits v 0 10 ≠ bits v 16 10)) : exec (.enable v) s = .next s := by
  rw [exec_enable_disabled hs he, if_neg (by simp only [hv, Bool.true_eq_false, not_false_iff]), if_neg hbad]

theorem enable_stores (hv : v.getLsbD 31 = false) : exec (.enable v) s = .next (s.setBridge s.syn.brgSel.toNat
    { s.bridge s.syn.brgSel.toNat with setter := bits v 0 10, waiter := bits v 16 10 }) := by
  rw [exec_enable_disabled hs he, if_pos hv]

end

/-- A bridge that is disabled, and the submission that it gates (R234). -/
theorem enable_disables {r : Nat} {x : Run} (he : (s.bridge s.syn.brgSel.toNat).enabled = true) (hv : v.getLsbD 31 = false) :
    ∃ u : State, exec (.enable v) s = .next u ∧ (u.bridge s.syn.brgSel.toNat).enabled = false ∧
      (u.bridge s.syn.brgSel.toNat).value = false ∧ (∀ q, q ≠ s.syn.brgSel.toNat → u.bridge q = s.bridge q) ∧
      (s.runs = [(r, x)] → u.run? r = if x.phase = .waiting ∧ x.gate = some s.syn.brgSel.toNat then none else some x) := by
  refine ⟨_, exec_enable_destroys hs he hv, ?_, ?_, fun q hq => ?_, State.destroyBridge_run? _⟩
  · rw [State.destroyBridge_bridge, if_pos rfl]
  · rw [State.destroyBridge_bridge, if_pos rfl]
  · rw [State.destroyBridge_bridge, if_neg hq]

/-! HOST_TARGET -/

section
variable (hsplit : s.hub.splitAct.getLsbD 6 = true) (hfatal : s.hub.fatal = false) (hr : s.activeRuns = [])
include hsplit hfatal hr

theorem hostTarget_idle (h3 : bits v 4 3 ≤ 3) (h : s.pwr.st.toNat < bits v 4 3)
    (hfree : bits v 4 3 = 3 → ∀ e, e ∈ s.cores → e.2.owner = none) : ∃ u : State, exec (.hostTarget v) s = .next u ∧
      u.pwr.st.toNat = bits v 4 3 ∧ u.pwr.hostTarget.toNat = bits v 4 3 ∧ u.pwr.untilTk = none := by
  have hword : (BitVec.ofNat 3 (bits v 4 3)).toNat = bits v 4 3 := by
    rw [BitVec.toNat_ofNat, Nat.mod_eq_of_lt (by omega)]
  have hall : s.allowedUpTo (bits v 4 3) = bits v 4 3 := by
    obtain ⟨n, hn⟩ : ∃ n, bits v 4 3 = n + 1 := ⟨bits v 4 3 - 1, by omega⟩
    have hok := State.allowed_idle hr (by omega) h3 hfree
    rw [hn] at hok ⊢
    exact State.allowedUpTo_self hok
  obtain ⟨u, hu, hst, htarget, htk, -⟩ := exec_hostTarget_enters hs hsplit hfatal h3 (by rwa [hall])
  exact ⟨u, hu, by rw [hst, hall, hword], by rw [htarget, hword], htk⟩

/-- Stow is not allowed with an owned core, and Doze is entered in its place (R332). -/
theorem hostTarget_owned (h3 : bits v 4 3 = 3) (h : s.pwr.st.toNat < 2) (howned : ∃ e, e ∈ s.cores ∧ e.2.owner ≠ none) :
    ∃ u : State, exec (.hostTarget v) s = .next u ∧ u.pwr.st = 2 ∧ u.pwr.hostTarget = 3 ∧ u.cores = s.cores := by
  have hdoze : s.allowedUpTo (bits v 4 3) = 2 := by
    rw [h3, State.allowedUpTo, State.stow_owned howned, if_neg Bool.false_ne_true]
    exact State.allowedUpTo_self (State.allowed_idle hr (by decide) (by decide) fun h => absurd h (by decide))
  obtain ⟨u, hu, hst, htarget, -, hcores⟩ := exec_hostTarget_enters hs hsplit hfatal (v := v) (by omega) (by rwa [hdoze])
  rw [hdoze] at hst hcores
  rw [h3] at htarget
  exact ⟨u, hu, hst, htarget, hcores (by decide)⟩

end
end

/-! Ports -/

/-- `State.ButPort` in the words of the obligation. -/
def othersKept (s : State) (p : Nat) (u : State) : Prop :=
  (∀ q, q ≠ p → u.port q = s.port q) ∧ u.cores = s.cores ∧ u.runs = s.runs

theorem othersKept_iff {s u : State} {p : Nat} : othersKept s p u ↔ s.ButPort p u :=
  ⟨fun ⟨hports, hcores, hruns⟩ => ⟨hports, hcores, hruns⟩, fun ⟨hports, hcores, hruns⟩ => ⟨hports, hcores, hruns⟩⟩

section
variable {s : State} {p : Nat} {v : Word} (hs : s.regsAct = true) (hp : p < 32) (hu : s.portUsed p = false)
include hs hp hu

theorem loopback_loops (hm : (s.port p).maint = true) (he : (s.port p).enable = true) (hst : s.chn.strapsOk = true)
    (h2 : 2 ≤ bits v 2 3) (h5 : bits v 2 3 ≤ 5) (hsel : (s.port p).loopSel.toNat ≠ bits v 2 3) :
    ∃ u : State, exec (.loopback p v) s = .next u ∧ (u.port p).st = 6 ∧ (u.port p).loopSel.toNat = bits v 2 3 ∧
      othersKept s p u := by
  obtain ⟨hbut, hloop, hdepth⟩ := State.ctrlLoop_loops hu hm he hst h2 h5 hsel
  refine ⟨_, exec_loopback hs hp, hloop, ?_, othersKept_iff.2 hbut⟩
  rw [hdepth, BitVec.toNat_ofNat, Nat.mod_eq_of_lt (by omega)]

theorem loopback_ends (hm : (s.port p).maint = true) (he : (s.port p).enable = true) (hst : s.chn.strapsOk = true)
    (h0 : bits v 2 3 = 0) (hsel : (s.port p).loopSel ≠ 0) :
    ∃ u : State, exec (.loopback p v) s = .next u ∧ (u.port p).st = 1 ∧ (u.port p).loopSel = 0 ∧
      othersKept s p u := by
  obtain ⟨hbut, htrain, hdepth⟩ := State.ctrlLoop_ends hu hm he hst h0 hsel
  exact ⟨_, exec_loopback hs hp, htrain, hdepth, othersKept_iff.2 hbut⟩

theorem portEnable_off (hw : s.hub.warming = false) (hv : v.getLsbD 0 = false) :
    ∃ u : State, exec (.portEnable p v) s = .next u ∧ (u.port p).enable = false ∧ (u.port p).st = 0 ∧
      (u.port p).loopSel = 0 ∧ othersKept s p u := by
  obtain ⟨⟨hbut, hdown, hdepth⟩, hoff⟩ := State.ctrlEnable_off hu hw hv
  exact ⟨_, exec_portEnable hs hp, hoff, hdown, hdepth, othersKept_iff.2 hbut⟩

section
variable (hm : (s.port p).maint = true) (he : (s.port p).enable = true) (hst : s.chn.strapsOk = true)
  (h6 : (s.port p).st ≠ 6) (hw : s.hub.warming = false)
include hm he hst h6 hw

theorem retrain_active (h7 : (s.port p).st = 7) :
    exec (.retrain p) s = .next (s.setPort p { s.port p with retrain := true }) := by
  rw [exec_retrain hs hp, State.ctrlRetrain_eq hu hm he hst h6 hw, if_pos h7]

/-- A port in a training phase is neither Active nor down. -/
theorem retrain_training (h1 : 1 ≤ (s.port p).st.toNat) (h5 : (s.port p).st.toNat ≤ 5) : exec (.retrain p) s = .next
    (if s.hub.splitAct.getLsbD 3 = true then s.nextPhase p else s) := by
  have h7 : (s.port p).st ≠ 7 := fun h => by rw [h] at h5; exact absurd h5 (by decide)
  have h0 : (s.port p).st ≠ 0 := fun h => by rw [h] at h1; exact absurd h1 (by decide)
  rw [exec_retrain hs hp, State.ctrlRetrain_eq hu hm he hst h6 hw, if_neg h7, if_pos h0]

theorem retrain_assisted (hsplit : s.hub.splitAct.getLsbD 3 = true) (h1 : 1 ≤ (s.port p).st.toNat)
    (h4 : (s.port p).st.toNat ≤ 4) : ∃ u : State, exec (.retrain p) s = .next u ∧ (u.port p).st = (s.port p).st + 1 ∧
      othersKept s p u := by
  have hlow : (s.port p).st < 5 := by
    rw [BitVec.lt_def]
    exact Nat.lt_succ_of_le h4
  obtain ⟨hbut, hnext, -⟩ := State.nextPhase_portTo hlow
  refine ⟨_, ?_, hnext, othersKept_iff.2 hbut⟩
  rw [retrain_training hs hp hu hm he hst h6 hw h1 (by omega), if_pos hsplit]

theorem retrain_down (h0 : (s.port p).st = 0) : ∃ u : State, exec (.retrain p) s = .next u ∧ (u.port p).st = 1 ∧
    u.lnk.portEvt.getLsbD p = true ∧ othersKept s p u := by
  obtain ⟨hbut, htrain, -⟩ := State.beginTraining_portTo hu
  refine ⟨_, ?_, htrain, ?_, othersKept_iff.2 hbut⟩
  · rw [exec_retrain hs hp, State.ctrlRetrain_eq hu hm he hst h6 hw, if_neg (by rw [h0]; decide), if_neg (not_not.2 h0)]
  · refine State.portState_portEvt hp ?_
    rw [State.port_modPort_self, if_neg (by rw [h0]; decide), (State.portDown_portTo hu false).st]
    decide

end
end

/-! The clauses together -/

/-- Settles O51: each register by what its field does (08 R232 to R234, 09 R258 to R267, 12 R335 to R337). -/
theorem controlWrites : Obligations.ControlWrites := by
  unfold Obligations.ControlWrites
  intro s v p r x
  refine ⟨fun hs => ⟨?bridge, ?used, ?free, ?target, ?next, exec_lnkCoreLoop_free hs, exec_lnkCoreLoop_owned hs⟩,
    exec_noSuchPort, exec_bridgeTimeout_unknown, fun hr => ⟨exec_bridgeTimeout_waits hr, ?timeout⟩⟩
  case bridge =>
    refine ⟨enable_good hs, enable_bad hs, enable_stores hs, fun he hv => ?_, enable_disables hs⟩
    rw [exec_enable_enabled hs he, if_pos hv]
  case used =>
    intro hp hu
    exact ⟨by rw [exec_portEnable hs hp, State.ctrlEnable_used hu], by rw [exec_maint hs hp, State.ctrlMaint_used hu],
      by rw [exec_loopback hs hp, State.ctrlLoop_used hu], by rw [exec_retrain hs hp, State.ctrlRetrain_used hu]⟩
  case free =>
    intro hp hu
    refine ⟨fun hw => ?_, fun hw => ⟨fun hv => ?_, portEnable_off hs hp hu hw⟩, ?_, fun h => ?_, fun h => ?_,
      fun hm he hst => ⟨loopback_loops hs hp hu hm he hst, loopback_ends hs hp hu hm he hst, fun h6 hw =>
        ⟨retrain_active hs hp hu hm he hst h6 hw, retrain_assisted hs hp hu hm he hst h6 hw, fun hsplit h1 h5 => ?_,
          retrain_down hs hp hu hm he hst h6 hw⟩⟩⟩
    · exact ⟨by rw [exec_portEnable hs hp, State.ctrlEnable_warming hw], by rw [exec_retrain hs hp, State.ctrlRetrain_warming hw]⟩
    · rw [exec_portEnable hs hp, State.ctrlEnable_on hu hw hv]
    · rw [exec_maint hs hp, State.ctrlMaint_free hu]
    · exact ⟨by rw [exec_loopback hs hp, State.ctrlLoop_ignored (.inl h)],
        by rw [exec_retrain hs hp, State.ctrlRetrain_ignored h]⟩
    · rw [exec_loopback hs hp, State.ctrlLoop_ignored (.inr h)]
    · rw [retrain_training hs hp hu hm he hst h6 hw h1 h5, hsplit, if_neg Bool.false_ne_true]
  case target =>
    exact ⟨exec_hostTarget_stored hs, fun hsplit hfatal => ⟨exec_hostTarget_shallower hs hsplit hfatal,
      fun h3 h hr hfree => hostTarget_idle hs hsplit hfatal hr h3 h hfree,
      fun h3 h hr howned => hostTarget_owned hs hsplit hfatal hr h3 h howned⟩⟩
  case next =>
    exact ⟨fun h => by rw [exec_pwrNextHiWrite hs, if_neg h], fun h => by rw [exec_pwrNextHiWrite hs, if_pos h]⟩
  case timeout =>
    intro hout hruns
    refine ⟨_, exec_bridgeTimeout_ends hr hout, (State.finishRun_sole (State.soleKey_runs hruns) 7 true).1, ?_⟩
    exact congrArg Prod.fst (State.finishRun_hubAndBridges s r (by decide) true)

end Sys2Proof.Claims
end

section
/-!
Landings at a core (09 R243, R248; 03 R92; 05 R158): a grain leaves those on their way, and acts at its core alone.
-/

namespace Sys2Proof.Machine

/-! Entries for the host depend on the rings, on what the host has been sent and on the chain count -/

/-- What an entry for the host depends on, and what it changes. -/
def State.hostSide (s : State) : KMap Ctx × Mem × List HostReq × Chn := (s.ctxs, s.hostMem, s.hostReqs, s.chn)

section
variable {s u : State} (h : u.hostSide = s.hostSide)
include h

theorem State.ctx_of_hostSide (f : Nat) : u.ctx f = s.ctx f := by
  rw [State.ctx, show u.ctxs = s.ctxs from congrArg Prod.fst h, State.ctx]

theorem State.setCtx_hostSide (f : Nat) (x : Ctx) : (u.setCtx f x).hostSide = (s.setCtx f x).hostSide := by
  simp only [State.hostSide, Prod.mk.injEq] at h
  simp only [State.hostSide, State.setCtx, h]

theorem State.hostWrite_hostSide (f : Nat) (relaxed : Bool) (a : Nat) (bs : List Byte) :
    (u.hostWrite f relaxed a bs).hostSide = (s.hostWrite f relaxed a bs).hostSide := by
  simp only [State.hostSide, Prod.mk.injEq] at h
  simp only [State.hostSide, State.hostWrite, h]

theorem State.eventEntry_hostSide (f : Nat) (bs : List Byte) : (u.eventEntry f bs).hostSide = (s.eventEntry f bs).hostSide := by
  simp only [State.eventEntry, State.ctx_of_hostSide h]
  split
  · exact State.setCtx_hostSide h f _
  · exact State.setCtx_hostSide (State.hostWrite_hostSide h f false _ _) f _

theorem State.postEvent_hostSide (f type status core job detail : Nat) :
    (u.postEvent f type status core job detail).hostSide = (s.postEvent f type status core job detail).hostSide := by
  have hentry : ∀ {s u : State}, u.hostSide = s.hostSide → ∀ b0 b1 h2 q8 q24,
      (u.eventEntry f (entryBytes b0 b1 h2 u.moduleId 0 q8 u.chn.count q24)).hostSide =
        (s.eventEntry f (entryBytes b0 b1 h2 s.moduleId 0 q8 s.chn.count q24)).hostSide := by
    intro s u h b0 b1 h2 q8 q24
    have hchn : u.chn = s.chn := congrArg (fun v => v.2.2.2) h
    rw [State.moduleId, hchn]
    exact State.eventEntry_hostSide h f _
  simp only [State.postEvent, State.ctx_of_hostSide h]
  refine hentry ?_ ..
  split
  · exact h
  · have howed := hentry h 0x0F 0 0xFFFF 0 (s.ctx f).eqOwed
    rw [State.modCtx, State.modCtx, State.ctx_of_hostSide howed]
    exact State.setCtx_hostSide howed f _

/-- A schedule-violation event names the context and the job of its core's run, and depends on no more of the runs. -/
theorem State.violation_hostSide {c : Nat} (hcore : (u.core c).run = (s.core c).run)
    (hrun : ∀ r, (u.run? r).map (fun x => (x.ctx, x.job)) = (s.run? r).map (fun x => (x.ctx, x.job))) :
    (u.violation c).hostSide = (s.violation c).hostSide := by
  unfold State.violation
  rw [hcore]
  cases (s.core c).run with
  | none => exact h
  | some r =>
    specialize hrun r
    dsimp only
    cases hs : s.run? r with
    | none =>
      rw [hs, Option.map_none, Option.map_eq_none_iff] at hrun
      rw [hrun]
      exact h
    | some x =>
      rw [hs, Option.map_some, Option.map_eq_some_iff] at hrun
      obtain ⟨y, hy, hsame⟩ := hrun
      rw [Prod.mk.injEq] at hsame
      rw [hy]
      dsimp only
      rw [hsame.1, hsame.2]
      exact State.postEvent_hostSide h ..

end

/-! What leaves the links as they are -/

@[simp] theorem State.modRun_lnk (s : State) (r : Nat) (g : Run → Run) : (s.modRun r g).lnk = s.lnk := by
  unfold State.modRun
  split <;> rfl

@[simp] theorem State.afterHalt_lnk (s : State) (c : Nat) : (s.afterHalt c).lnk = s.lnk := by
  unfold State.afterHalt State.endRunExit
  dsimp only
  split
  · split <;> simp
  · rfl

@[simp] theorem State.raiseAsyncAt_lnk (s : State) (c : Nat) (code : Byte) (info : Word) (t : Nat) :
    (s.raiseAsyncAt c code info t).lnk = s.lnk := by
  have hhalt : ∀ u : State, (if (u.core c).halted then u.afterHalt c else u).lnk = u.lnk := by
    intro u
    split <;> simp
  unfold State.raiseAsyncAt
  dsimp only
  split
  · rw [State.endDueOf_eq]
    exact hhalt _
  · exact hhalt _

@[simp] theorem State.violation_lnk (s : State) (c : Nat) : (s.violation c).lnk = s.lnk := by
  rw [show s.violation c = _ from s.violation_same c]

@[simp] theorem State.access_lnk (s : State) (c t b : Nat) : (s.access c t b).lnk = s.lnk := by
  unfold State.access
  dsimp only
  split
  · rw [State.stallAt_eq]
    rfl
  · rfl

/-- The grain that a consumer waits for is all that a landing changes last. -/
theorem State.landed_eq (s : State) (c st q : Nat) :
    s.landed c st q = { s with lnk := { s.lnk with awaited := (s.landed c st q).lnk.awaited } } := by
  unfold State.landed
  split <;> rfl

/-! A cause that arises at a core -/

/-- Whether it halts on it or not, a core keeps its scratchpad, the writes on their way there, and its streams. -/
theorem Core.raised_stores (k : Core) (code : Byte) (info : Word) (t : Nat) :
    (k.raised code info t).spad = k.spad ∧ (k.raised code info t).spadQ = k.spadQ ∧
      (k.raised code info t).streams = k.streams := by
  have hlanded : ∀ k : Core, (k.landed.spad, k.landed.spadQ, k.landed.streams) = (k.spad, k.spadQ, k.streams) := fun k =>
    foldl_keeps (fun k : Core => (k.spad, k.spadQ, k.streams)) (fun k w => by rw [Core.apply_eq]) k.pendW { k with pendW := [] }
  have hpending : ∀ k : Core, (k.recordPending.spad, k.recordPending.spadQ, k.recordPending.streams) =
      (k.spad, k.spadQ, k.streams) := by
    intro k
    unfold Core.recordPending
    split
    · rfl
    · exact hlanded k
  rw [← Prod.mk.injEq, ← Prod.mk.injEq]
  unfold Core.raised
  dsimp only
  split
  · exact hpending _
  · rfl

/-- A core that has not halted keeps all but its pending causes. -/
theorem Core.raised_running {k : Core} (h : k.halted = false) (code : Byte) (info : Word) (t : Nat) :
    k.raised code info t = { k with asyncQ := causeInsert { code := code, info := info, cyc := t } k.asyncQ } :=
  if_neg (by rw [h]; exact Bool.false_ne_true)

/-! The grain -/

/-- A grain that lands with a failed CRC (R248). -/
def Flight.failed (f : Flight) (how : Landing) : Bool := how == .badCrc || !Grain.crcOk f.g

/-- A grain that lands with a failed CRC or an uncorrectable word. -/
def Flight.poisoned (f : Flight) (how : Landing) : Bool := f.failed how || how == .badWord

theorem Flight.failed_iff {f : Flight} {how : Landing} : f.failed how = true ↔ how = .badCrc ∨ Grain.crcOk f.g = false := by
  simp [Flight.failed]

theorem Flight.poisoned_iff {f : Flight} {how : Landing} :
    f.poisoned how = true ↔ how ≠ .sound ∨ Grain.crcOk f.g = false := by
  cases how <;> simp [Flight.poisoned, Flight.failed]

/-- The state in which the damage of a grain, if it has any, has been counted and raised (R248; 05 R158). -/
def State.warned (s : State) (c : Nat) (f : Flight) (how : Landing) : State :=
  let s := s.ringCrc (f.failed how)
  if f.poisoned how then s.raiseAsyncAt c 0x0A (trapInfo 6 (Grain.stream f.g) 2) f.t else s

/-- Core c expects the index after the one that has landed. -/
def State.expectNext (s : State) (c st : Nat) (e : StreamEntry) : State :=
  s.modCore c (fun k => { k with streams := kset k.streams st { e with landed := e.landed + 1 } })

section
variable (s : State) (c : Nat) (f : Flight) (how : Landing)

theorem State.warned_lnk : (s.warned c f how).lnk =
    { s.lnk with ringCrc := if f.failed how = true then satAdd s.lnk.ringCrc 1 else s.lnk.ringCrc } := by
  have hcrc : (s.ringCrc (f.failed how)).lnk =
      { s.lnk with ringCrc := if f.failed how = true then satAdd s.lnk.ringCrc 1 else s.lnk.ringCrc } := by
    unfold State.ringCrc
    split <;> rfl
  unfold State.warned
  dsimp only
  split
  · rw [State.raiseAsyncAt_lnk, hcrc]
  · exact hcrc

theorem State.ringCrc_core (bad : Bool) (d : Nat) : (s.ringCrc bad).core d = s.core d := by
  unfold State.ringCrc
  split <;> rfl

theorem State.warned_core_self : (s.warned c f how).core c =
    if f.poisoned how = true then (s.core c).raised 0x0A (trapInfo 6 (Grain.stream f.g) 2) f.t else s.core c := by
  unfold State.warned
  dsimp only
  split
  · rw [State.core_raiseAsyncAt_self, State.ringCrc_core]
  · exact s.ringCrc_core _ _

theorem State.warned_core_ne {d : Nat} (h : d ≠ c) : (s.warned c f how).core d = s.core d := by
  unfold State.warned
  dsimp only
  split
  · rw [State.core_raiseAsyncAt_ne _ h, State.ringCrc_core]
  · exact s.ringCrc_core _ _

theorem State.warned_stores : ((s.warned c f how).core c).spad = (s.core c).spad ∧
    ((s.warned c f how).core c).spadQ = (s.core c).spadQ ∧ ((s.warned c f how).core c).streams = (s.core c).streams := by
  rw [State.warned_core_self]
  split
  · exact Core.raised_stores ..
  · exact ⟨rfl, rfl, rfl⟩

theorem State.warned_sound (h : f.poisoned how = false) : s.warned c f how = s := by
  have hfailed : f.failed how = false := (Bool.or_eq_false_iff.1 h).1
  unfold State.warned State.ringCrc
  rw [h, hfailed]
  rfl

/-- At a core that has not halted a damaged grain leaves its cause pending (R158, R248). -/
theorem State.warned_running (h : (s.core c).halted = false) : ∃ q, (s.warned c f how).core c = { s.core c with asyncQ := q } ∧
    (f.poisoned how = true → { code := 0x0A, info := trapInfo 6 (Grain.stream f.g) 2, cyc := f.t } ∈ q) := by
  rw [State.warned_core_self]
  split
  · exact ⟨_, Core.raised_running h .., fun _ => mem_causeInsert.2 (.inl rfl)⟩
  next hp => exact ⟨(s.core c).asyncQ, rfl, fun hpoisoned => absurd hpoisoned hp⟩

/-- A grain on a stream that its core does not have (R243). -/
theorem State.land_unknown (h : kfind (s.core c).streams (Grain.stream f.g) = none) :
    s.land c f how = (s.warned c f how).violation c := by
  rw [← (s.warned_stores c f how).2.2] at h
  unfold State.land
  dsimp only
  split
  · rfl
  next e he => exact absurd (h.symm.trans he) nofun

/-- What a grain does on a stream that its core has: a write to the row of its index, contributions to a bank, or an event
(R243, R248). -/
theorem State.land_cases {e : StreamEntry} (h : kfind (s.core c).streams (Grain.stream f.g) = some e) :
    let t := (s.warned c f how).expectNext c (Grain.stream f.g) e
    let a := e.rowAddr (f.q.getD e.landed)
    ((e.kind = .unused ∨ e.kind = .data ∧ 786432 < a + 64) ∧ s.land c f how = t.violation c) ∨
    (e.kind = .data ∧ a + 64 ≤ 786432 ∧ ∃ n, s.land c f how = (t.access c n (spadBank a)).modCore c (fun k =>
      k.spadLater f.t a (bytesOf (Grain.payload f.g) 64)
        (((List.range 8).filter (fun i => f.poisoned how || bitOf f.bad i)).map (fun i => 8 * i))
        (accessRank e.srcMod e.srcCor .store))) ∨
    (e.kind = .partialSum ∧ ∃ ls, let v := t.modCore c (fun k => k.bankAt e.bank (f.t + 9) (.partials ls))
      s.land c f how = v ∨ s.land c f how = v.violation c) := by
  intro t a
  rw [← (s.warned_stores c f how).2.2] at h
  unfold State.land
  dsimp only
  split
  next hnone => exact absurd (h.symm.trans hnone) nofun
  next e' he' =>
    obtain rfl : e = e' := Option.some.inj (h.symm.trans he')
    split
    next hk => exact .inl ⟨.inl hk, rfl⟩
    next hk =>
      by_cases ha : a + 64 > 786432
      · exact .inl ⟨.inr ⟨hk, ha⟩, if_pos ha⟩
      · exact .inr (.inl ⟨hk, Nat.not_lt.1 ha, _, if_neg ha⟩)
    next hk =>
      refine .inr (.inr ⟨hk, (partialLanes e (f.q.getD e.landed) (Grain.null f.g) (f.poisoned how)
        (bytesOf (Grain.payload f.g) 64)).1, ?_⟩)
      split
      · exact .inr rfl
      · exact .inl rfl

end

end Sys2Proof.Machine
end

section
/-!
The obligation on landings, case by case.
-/

namespace Sys2Proof.Machine

/-- Of a core, the record of its accesses and what is on its way to its scratchpad and its banks may differ; no write there is
lost. -/
def Core.SameButQueues (k l : Core) : Prop :=
  l = { k with accs := l.accs, spadQ := l.spadQ, bankQ := l.bankQ } ∧ ∀ w, w ∈ k.spadQ → w ∈ l.spadQ

theorem Core.SameButQueues.refl (k : Core) : k.SameButQueues k := ⟨rfl, fun _ h => h⟩

theorem Core.spadLater_sameButQueues (k : Core) (t a : Nat) (bs : List Byte) (bad : List Nat) (rank : Nat) :
    k.SameButQueues (k.spadLater t a bs bad rank) := by
  refine ⟨rfl, fun w hw => ?_⟩
  cases hb : w.before t rank <;> simp [Core.spadLater, hw, hb]

theorem mem_effInsert_self (x : BankEff) (q : List BankEff) : x ∈ effInsert x q := by
  induction q with
  | nil => exact List.mem_singleton_self x
  | cons y q ih =>
    unfold effInsert
    split
    · exact List.mem_cons_of_mem y ih
    · exact List.mem_cons_self

/-- Core c, ready for the next grain, has the writes on their way that it had. -/
theorem State.expectNext_spadQ (s : State) (c : Nat) (f : Flight) (how : Landing) (e : StreamEntry) :
    (((s.warned c f how).expectNext c (Grain.stream f.g) e).core c).spadQ = (s.core c).spadQ := by
  rw [State.expectNext, State.core_modCore_self]
  exact (s.warned_stores c f how).2.1

section
variable {s : State} {c : Nat} {f : Flight} {how : Landing} {e : StreamEntry}
  (h : kfind (s.core c).streams (Grain.stream f.g) = some e)
include h

/-- A landing acts at its core alone, and there on the writes on their way alone. -/
theorem State.land_keeps : let t := (s.warned c f how).expectNext c (Grain.stream f.g) e
    (s.land c f how).lnk = t.lnk ∧ (∀ d, d ≠ c → (s.land c f how).core d = t.core d) ∧
      (t.core c).SameButQueues ((s.land c f how).core c) := by
  intro t
  obtain ⟨-, hu⟩ | ⟨-, -, n, hu⟩ | ⟨-, ls, hu⟩ := s.land_cases c f how h
  · rw [hu]
    exact ⟨State.violation_lnk .., fun d _ => State.violation_core .., by
      rw [State.violation_core]
      exact .refl _⟩
  · rw [hu]
    refine ⟨State.access_lnk .., fun d hd => ?_, ?_⟩
    · rw [State.core_modCore_ne _ _ hd, State.access_core, State.core_setCore_ne _ _ hd]
    · rw [State.core_modCore_self, State.access_core, State.core_setCore]
      exact Core.spadLater_sameButQueues (t.core c |>.access n _).1 ..
  · have hv : ∀ v : State, (v.violation c).lnk = v.lnk ∧ ∀ d, (v.violation c).core d = v.core d := fun v =>
      ⟨State.violation_lnk .., fun d => State.violation_core ..⟩
    have hbank : ∀ k : Core, k.SameButQueues (k.bankAt e.bank (f.t + 9) (.partials ls)) := fun k => ⟨rfl, fun _ hw => hw⟩
    obtain hu | hu := hu
    · rw [hu]
      refine ⟨rfl, fun d hd => State.core_modCore_ne _ _ hd, ?_⟩
      rw [State.core_modCore_self]
      exact hbank _
    · rw [hu, (hv _).1, (hv _).2]
      refine ⟨rfl, fun d hd => ((hv _).2 d).trans (State.core_modCore_ne _ _ hd), ?_⟩
      rw [State.core_modCore_self]
      exact hbank _

theorem State.land_core_ne {d : Nat} (hd : d ≠ c) : (s.land c f how).core d = s.core d := by
  obtain ⟨-, hcores, -⟩ := State.land_keeps h (how := how)
  rw [hcores d hd, State.expectNext, State.core_modCore_ne _ _ hd, State.warned_core_ne _ _ _ _ hd]

theorem State.land_lnk : (s.land c f how).lnk =
    { s.lnk with ringCrc := if f.failed how = true then satAdd s.lnk.ringCrc 1 else s.lnk.ringCrc } :=
  (State.land_keeps h).1.trans (s.warned_lnk c f how)

/-- The core of a landing: that at which its damage has been raised, with the next index expected and no write lost. -/
theorem State.land_core_self : let k := (s.warned c f how).core c
    let l := (s.land c f how).core c
    l.spad = (s.core c).spad ∧ l.sregs = k.sregs ∧ l.vregs = k.vregs ∧ l.asyncQ = k.asyncQ ∧
      l.streams = kset (s.core c).streams (Grain.stream f.g) { e with landed := e.landed + 1 } ∧
      ∀ w, w ∈ (s.core c).spadQ → w ∈ l.spadQ := by
  intro k l
  obtain ⟨hspad, hspadQ, hstreams⟩ := s.warned_stores c f how
  obtain ⟨hcore, hqueue⟩ : Core.SameButQueues _ l := (State.land_keeps h).2.2
  rw [State.expectNext, State.core_modCore_self] at hcore hqueue
  rw [hcore]
  exact ⟨hspad, rfl, rfl, rfl, by rw [hstreams], fun w hw => hqueue w (hspadQ ▸ hw)⟩

/-- A grain of a data stream is written to the row of its index (R243). -/
theorem State.land_data (hk : e.kind = .data) (ha : e.rowAddr (f.q.getD e.landed) + 64 ≤ 786432) :
    { cyc := f.t, addr := e.rowAddr (f.q.getD e.landed), bytes := bytesOf (Grain.payload f.g) 64
      bad := ((List.range 8).filter (fun i => f.poisoned how || bitOf f.bad i)).map (fun i => 8 * i)
      rank := accessRank e.srcMod e.srcCor .store } ∈ ((s.land c f how).core c).spadQ := by
  obtain ⟨hno | ⟨-, hno⟩, -⟩ | ⟨-, -, n, hu⟩ | ⟨hno, -⟩ := s.land_cases c f how h
  · exact absurd (hk.symm.trans hno) nofun
  · exact absurd ha (Nat.not_le.2 hno)
  · rw [hu, State.core_modCore_self]
    exact Core.mem_spadLater ..
  · exact absurd (hk.symm.trans hno) nofun

/-- One of any other stream is not. -/
theorem State.land_noData (hk : e.kind ≠ .data) : ((s.land c f how).core c).spadQ = (s.core c).spadQ := by
  obtain ⟨-, hu⟩ | ⟨hno, -⟩ | ⟨-, ls, hu | hu⟩ := s.land_cases c f how h
  · rw [hu, State.violation_core, State.expectNext_spadQ]
  · exact absurd hno hk
  · rw [hu, State.core_modCore_self, ← State.expectNext_spadQ s c f how e]
    rfl
  · rw [hu, State.violation_core, State.core_modCore_self, ← State.expectNext_spadQ s c f how e]
    rfl

/-- The contributions of a partial-sum grain reach its bank 9 cycles later (R243). -/
theorem State.land_partialSum (hk : e.kind = .partialSum) :
    ∃ y, y ∈ ((s.land c f how).core c).bankQ ∧ y.bank = e.bank ∧ y.cyc = f.t + 9 := by
  obtain ⟨hno | ⟨hno, -⟩, -⟩ | ⟨hno, -⟩ | ⟨-, ls, hu | hu⟩ := s.land_cases c f how h
  · exact absurd (hk.symm.trans hno) nofun
  · exact absurd (hk.symm.trans hno) nofun
  · exact absurd (hk.symm.trans hno) nofun
  · rw [hu, State.core_modCore_self]
    exact ⟨_, mem_effInsert_self .., rfl, rfl⟩
  · rw [hu, State.violation_core, State.core_modCore_self]
    exact ⟨_, mem_effInsert_self .., rfl, rfl⟩

end

section
variable {s : State} {c : Nat} {st : BitVec 8} {how : Landing} (hc : s.hasCore c = true) (he : (s.core c).ell = none)
include hc he

theorem exec_grainLanding_none
    (hf : s.lnk.flights.find? (fun f => f.core == c && Grain.stream f.g == st.toNat) = none) :
    exec (.grainLanding c st how) s = .next s := by
  simp only [exec, execGrainLanding, State.coreEvent_idle hc he, State.takeFlight, hf, Option.map_none]

/-- GRAIN_LANDING is what its grain does once it is no longer on its way, but for the wait for it. -/
theorem exec_grainLanding_found {f : Flight} {x : Run}
    (hf : s.lnk.flights.find? (fun f => f.core == c && Grain.stream f.g == st.toNat) = some f) (hx : s.run? f.run = some x) :
    ∃ w, exec (.grainLanding c st how) s = .next { (Claims.arrived s f x).land c f how with
      lnk := { ((Claims.arrived s f x).land c f how).lnk with awaited := w } } := by
  have harrived : ({ s with lnk := { s.lnk with flights := s.lnk.flights.erase f } } : State).modRun f.run
      (fun x => { x with dlSince := none }) = Claims.arrived s f x :=
    State.modRun_eq (s := { s with lnk := { s.lnk with flights := s.lnk.flights.erase f } }) hx _
  refine ⟨(((Claims.arrived s f x).land c f how).landed c st.toNat (f.q.getD 0)).lnk.awaited, ?_⟩
  simp only [exec, execGrainLanding, State.coreEvent_idle hc he, State.takeFlight, hf, Option.map_some, harrived]
  rw [State.landed_eq]

end

end Sys2Proof.Machine

namespace Sys2Proof.Claims

open Sys2Proof.Machine

/-- The host learns of a violation at a core by its run's context and job, which a landing leaves. -/
theorem arrived_violation {s : State} {f : Flight} {x : Run} (hx : s.run? f.run = some x) (c : Nat) :
    ((arrived s f x).violation c).hostSide = (s.violation c).hostSide := by
  refine State.violation_hostSide (s := s) (u := arrived s f x) rfl rfl fun r => ?_
  by_cases hr : r = f.run
  · have hself : (arrived s f x).run? f.run = some { x with dlSince := none } := kfind_kset_self ..
    rw [hr, hx, hself]
    rfl
  · exact congrArg (Option.map _) (kfind_kset_ne _ _ hr)

theorem trapInfo_stream (st : BitVec 8) : trapInfo 6 st.toNat 2 = BitVec.ofNat 32 (6 + 256 * st.toNat + 65536 * 2) := by
  rw [trapInfo, Nat.mod_eq_of_lt (show st.toNat < 256 from st.isLt)]

/-- Settles O43: a landing acts at its core alone (`State.land_keeps`), by what its stream is for (`State.land_cases`), once what is
wrong with its grain has been counted and raised (`State.warned`). -/
theorem grainsLand : Obligations.GrainsLand := by
  unfold Obligations.GrainsLand
  intro s c st f x hc he
  refine ⟨fun hf how => exec_grainLanding_none hc he hf, fun hf hx => ?_⟩
  have hst : Grain.stream f.g = st.toNat := by
    have hsel := List.find?_some hf
    simp only [Bool.and_eq_true, beq_iff_eq] at hsel
    exact hsel.2
  rw [← hst]
  refine ⟨fun e how hk => ?known, fun hk hcrc => ?unknown⟩
  case known =>
    intro q a
    obtain ⟨w, hexec⟩ := exec_grainLanding_found hc he (how := how) hf hx
    have hk' : kfind ((arrived s f x).core c).streams (Grain.stream f.g) = some e := hk
    obtain ⟨hspad, hsregs, hvregs, hcauses, hstreams, hqueue⟩ := State.land_core_self hk' (how := how)
    have hcrc : ((arrived s f x).land c f how).lnk.ringCrc =
        if f.failed how = true then satAdd s.lnk.ringCrc 1 else s.lnk.ringCrc := by
      rw [State.land_lnk hk']
      rfl
    refine ⟨_, hexec, ?flights, ?ports, fun d hd => State.land_core_ne hk' hd, hspad, fun hh => ?regs, ?next, hqueue,
      fun hsound hok => ?sound, fun hbad hh => ⟨?cause, ?count⟩⟩
    case flights | ports =>
      dsimp only
      rw [State.land_lnk hk']
      rfl
    case regs =>
      obtain ⟨causes, hrunning, -⟩ := (arrived s f x).warned_running c f how hh
      rw [hrunning] at hsregs hvregs
      exact ⟨hsregs, hvregs⟩
    case next => exact (congrArg (kfind · _) hstreams).trans (kfind_kset_self ..)
    case sound =>
      have hfailed : f.failed how = false := by rw [hsound, Flight.failed, hok]; rfl
      have hpoisoned : f.poisoned how = false := by rw [Flight.poisoned, hfailed, hsound]; rfl
      refine ⟨hcrc.trans (if_neg (by rw [hfailed]; exact Bool.false_ne_true)), fun hd ha => ?_, State.land_noData hk',
        State.land_partialSum hk'⟩
      have hwrite := State.land_data hk' (how := how) hd ha
      rw [hpoisoned] at hwrite
      exact hwrite
    case cause =>
      obtain ⟨causes, hrunning, hpending⟩ := (arrived s f x).warned_running c f how hh
      rw [hrunning] at hcauses
      rw [hst, ← trapInfo_stream, ← hst]
      exact hcauses ▸ hpending (Flight.poisoned_iff.2 hbad)
    case count =>
      simp only [← Flight.failed_iff]
      exact hcrc
  case unknown =>
    obtain ⟨w, hexec⟩ := exec_grainLanding_found hc he (how := .sound) hf hx
    have hsound : f.poisoned .sound = false := by rw [Flight.poisoned, Flight.failed, hcrc]; rfl
    have hland : (arrived s f x).land c f .sound = (arrived s f x).violation c := by
      rw [State.land_unknown (s := arrived s f x) (h := hk), State.warned_sound _ _ _ _ hsound]
    have hsame := (arrived s f x).violation_same c
    have hhost := arrived_violation hx c
    rw [hland] at hexec
    refine ⟨_, hexec, congrArg Lnk.flights (State.violation_lnk ..), hsame.cores, congrArg Prod.fst hhost,
      congrArg (fun v => v.2.1) hhost⟩

end Sys2Proof.Claims
end

section
/-!
Ports (09 R253 to R260, R263; 10 R292): what codewords, training, a link that goes down, control grains, NAKs and re-sends do to one
port.
-/

namespace Sys2Proof.Machine

/-! Fields of a word that is itself a field -/

theorem getLsbD_field {n : Nat} (v : BitVec n) (lo : Nat) {w i : Nat} (h : i < w) :
    (BitVec.ofNat w (bits v lo w)).getLsbD i = v.getLsbD (lo + i) := by
  rw [BitVec.getLsbD_ofNat, bits, Nat.testBit_mod_two_pow, Nat.testBit_div_two_pow, Nat.add_comm i lo]
  simp [h, BitVec.getLsbD]

theorem bits_field {n : Nat} (v : BitVec n) (lo : Nat) {w lo' w' : Nat} (h : lo' + w' ≤ w) :
    bits (BitVec.ofNat w (bits v lo w)) lo' w' = bits v (lo + lo') w' := by
  rw [bits_ofNat _ h, bits, bits]
  apply Nat.eq_of_testBit_eq
  intro i
  simp only [Nat.testBit_mod_two_pow, Nat.testBit_div_two_pow]
  by_cases hi : i < w'
  · have hin : i + lo' < w := by omega
    simp [hi, hin, Nat.add_assoc, Nat.add_comm lo lo']
  · simp [hi]

/-! One port after two changes -/

@[simp] theorem State.setPort_setPort (s : State) (p : Nat) (x y : Port) : (s.setPort p x).setPort p y = s.setPort p y := by
  simp [State.setPort]

theorem State.modPort_setPort (s : State) (p : Nat) (x : Port) (f : Port → Port) :
    (s.setPort p x).modPort p f = s.setPort p (f x) := by
  rw [State.modPort, State.port_setPort_self, State.setPort_setPort]

/-! Codewords (R255) -/

/-- Slots are filled out of the bytes received, and nothing else changes. -/
theorem Port.takeSlots_eq (n : Nat) (x : Port) :
    x.takeSlots n = { x with
      rxBytes := (x.takeSlots n).rxBytes, rxSlot := (x.takeSlots n).rxSlot, rxQ := (x.takeSlots n).rxQ } := by
  induction n generalizing x with
  | zero => rfl
  | succ n ih =>
    unfold Port.takeSlots
    dsimp only
    split
    · rfl
    · rw [ih]

/-- Two ports that differ in what they have received, and not in its counts. -/
def Port.SameButRx (x y : Port) : Prop := y = { x with rxBytes := y.rxBytes, rxSlot := y.rxSlot, rxQ := y.rxQ }

theorem Port.putBytes_same (x : Port) (bs : List (Option Byte)) :
    x.SameButRx (if x.frameLock then ({ x with rxBytes := x.rxBytes ++ bs } : Port).takeSlots 6 else x) := by
  split
  · rw [Port.SameButRx, Port.takeSlots_eq]
  · rfl

/-- A codeword that cannot be corrected is counted as such. -/
theorem Port.takeWord_lost {x : Port} {cs : List Nat} (h : rsDecode cs = none) :
    Port.SameButRx { x with fecCw := satAdd x.fecCw 1, fecUncorr := satAdd x.fecUncorr 1 } (x.takeWord cs) := by
  unfold Port.takeWord
  rw [h]
  exact Port.putBytes_same _ _

/-- A codeword that is read is counted, and the symbols that were corrected in it. -/
theorem Port.takeWord_read {x : Port} {cs w : List Nat} {n : Nat} (h : rsDecode cs = some (w, n)) :
    Port.SameButRx { x with
      fecCw := satAdd x.fecCw 1, fecCorr := if n = 0 then x.fecCorr else satAdd x.fecCorr 1
      fecSym := if n = 0 then x.fecSym else satAdd x.fecSym n } (x.takeWord cs) := by
  unfold Port.takeWord
  rw [h]
  dsimp only
  split
  · exact Port.putBytes_same _ _
  · exact Port.putBytes_same _ _

section
variable {s : State} {p : Nat} {xs : List (BitVec 10)} (hp : p < 32)
include hp

theorem exec_codewordReceive_unlocked (h : (s.port p).cwLock = false) : exec (.codewordReceive p xs) s = .next s := by
  simp only [exec, execCodewordReceive, h]
  rw [if_neg (Nat.not_le.2 hp)]
  rfl

/-- What a port receives; a far-end loop may hand grains of it on to be sent back (R265). -/
theorem exec_codewordReceive (h : (s.port p).cwLock = true) (hn : xs.length = 256) : ∃ ret,
    exec (.codewordReceive p xs) s =
      .next (s.setPort p { (s.port p).receive (xs.map (fun v => v.toNat)) with retQ := ret }) := by
  have hlocked : (!(s.port p).cwLock || xs.length != 256) = false := by rw [h, hn]; rfl
  simp only [exec, execCodewordReceive]
  rw [if_neg (Nat.not_le.2 hp), if_neg (by rw [hlocked]; exact Bool.false_ne_true)]
  split
  · exact ⟨_, rfl⟩
  · exact ⟨((s.port p).receive (xs.map (fun v => v.toNat))).retQ, rfl⟩

end

/-! Training (R258) -/

/-- A change of state leaves all else of its port but the count of the times that it has gone down. -/
theorem State.portState_keeps {β : Type} (φ : Port → β) (hφ : ∀ (x : Port) st n, φ { x with st := st, downCount := n } = φ x)
    (s : State) (p : Nat) (st : BitVec 3) : φ ((s.portState p st).port p) = φ (s.port p) := by
  unfold State.portState
  split
  · rfl
  · exact State.port_written (P := fun y => φ y = φ (s.port p)) rfl (hφ ..)

/-- The next phase is another state. -/
theorem ne_nextPhase (st : BitVec 3) : st ≠ st + 1 := by
  revert st
  decide

section
variable {s : State} {p : Nat} (h : (s.port p).st < 5)
include h

/-- Codeword lock is found in the third phase, frame lock in the fourth. -/
theorem State.nextPhase_locks : ((s.nextPhase p).port p).cwLock = ((s.port p).cwLock || (s.port p).st == 3) ∧
    ((s.nextPhase p).port p).frameLock = ((s.port p).frameLock || (s.port p).st == 4) := by
  have hcw := s.portState_keeps Port.cwLock (fun _ _ _ => rfl) p ((s.port p).st + 1)
  have hframe := s.portState_keeps Port.frameLock (fun _ _ _ => rfl) p ((s.port p).st + 1)
  unfold State.nextPhase
  dsimp only
  rw [if_neg (by simpa using h)]
  generalize s.portState p ((s.port p).st + 1) = u at hcw hframe ⊢
  split
  next h3 =>
    rw [State.port_modPort_self, h3]
    exact ⟨(Bool.or_true _).symm, hframe.trans (Bool.or_false _).symm⟩
  next h3 =>
    split
    next h4 =>
      refine ⟨State.port_written (P := fun y => y.cwLock = _) rfl ?_, State.port_written (P := fun y => y.frameLock = _) rfl ?_⟩
      · rw [h4]
        exact hcw.trans (Bool.or_false _).symm
      · rw [h4]
        exact (Bool.or_true _).symm
    next h4 => rw [hcw, hframe, beq_false_of_ne h3, beq_false_of_ne h4, Bool.or_false, Bool.or_false]; exact ⟨rfl, rfl⟩

theorem State.nextPhase_portEvt (hp : p < 32) : (s.nextPhase p).lnk.portEvt.getLsbD p = true := by
  have hevt := State.portState_portEvt hp (ne_nextPhase (s.port p).st)
  unfold State.nextPhase
  dsimp only
  rw [if_neg (by simpa using h)]
  split
  · exact hevt
  · split
    · exact hevt
    · exact hevt

end

/-- A port that PORT_TRAINING trains (R258; 13 R369; 15 R410, R413). -/
structure State.Trains (s : State) (p : Nat) : Prop where
  inactive : (s.port p).st ≠ 7
  unlooped : (s.port p).st ≠ 6
  enabled : (s.port p).enable = true
  straps : s.chn.strapsOk = true
  unused : s.portUsed p = false
  hardware : s.hub.splitAct.getLsbD 3 = false
  booted : s.hub.bootStage = 5
  sound : s.hub.fatal = true → portsStop s.hub.cause = false
  due : s.restsDown (s.port p) = false

theorem State.Trains.goes {s : State} {p : Nat} (h : s.Trains p) : 
    ((s.port p).active || (s.port p).st = 6 || !(s.port p).enable || !s.chn.strapsOk || s.portUsed p ||
    (bitOf s.hub.splitAct 3 && (s.port p).st != 5) || s.hub.bootStage != 5 || (s.hub.fatal && portsStop s.hub.cause) ||
    s.restsDown (s.port p)) = false := by
  obtain ⟨h7, h6, hen, hst, hu, hhw, hboot, hfatal, hdue⟩ := h
  have hstop : (s.hub.fatal && portsStop s.hub.cause) = false := by
    cases hf : s.hub.fatal
    · rfl
    · exact hfatal hf
  rw [Port.active, beq_false_of_ne h7, decide_eq_false h6, hen, hst, hu, bitOf, hhw, hboot, hstop, hdue]
  rfl

section
variable {s : State} {p : Nat} {pm : BitVec 10} {sy : BitVec 4} {pp : BitVec 5} {e0 e1 : Byte} {us : Nat} (hp : p < 32)
  (h : s.Trains p)
include hp h

theorem exec_portTraining_phase (h5 : (s.port p).st ≠ 5) : ∃ f : Port → Port,
    (∀ x, (f x).st = x.st ∧ (f x).cwLock = x.cwLock ∧ (f x).frameLock = x.frameLock) ∧
    exec (.portTraining p pm sy pp e0 e1 us) s = .next ((s.modPort p f).nextPhase p) := by
  refine ⟨fun x => { x with
    maint := x.maint || x.trained
    retrainAt := if x.st = 0 && x.trained then some s.chn.count else x.retrainAt }, fun x => ⟨rfl, rfl, rfl⟩, ?_⟩
  simp only [exec, execPortTraining]
  rw [if_neg (Nat.not_le.2 hp), if_neg (by rw [h.goes]; exact Bool.false_ne_true), if_neg h5]

theorem exec_portTraining_exchange (h5 : (s.port p).st = 5) :
    exec (.portTraining p pm sy pp e0 e1 us) s = .next (s.exchange p pm sy pp e0 e1 us) := by
  simp only [exec, execPortTraining]
  rw [if_neg (Nat.not_le.2 hp), if_neg (by rw [h.goes]; exact Bool.false_ne_true), if_pos h5]

end

/-- The partner that a port's exchange has to bring (R258). -/
def State.meets (s : State) (p : Nat) (pm : BitVec 10) (sy : BitVec 4) (pp : BitVec 5) : Prop :=
  (partnerOf (s.moduleId / 16) (s.moduleId % 16) p).1 = pm.toNat ∧
    (partnerOf (s.moduleId / 16) (s.moduleId % 16) p).2 = pp.toNat ∧ sy = s.chn.straps.sysId

/-- What an exchange shows of the partner. -/
def Port.exchanged (x : Port) (pm : BitVec 10) (sy : BitVec 4) (e0 e1 : Byte) (us : Nat) : Port :=
  { x with partner := pm, partnerSys := sy, trainTime := BitVec.ofNat 32 us, eq := BitVec.ofNat 32 (e0.toNat + 256 * e1.toNat) }

section
variable {s : State} {p : Nat} {pm : BitVec 10} {sy : BitVec 4} {pp : BitVec 5} {e0 e1 : Byte} {us : Nat}

theorem State.meets_iff : s.meets p pm sy pp ↔ ((partnerOf (s.moduleId / 16) (s.moduleId % 16) p).1 == pm.toNat &&
    (partnerOf (s.moduleId / 16) (s.moduleId % 16) p).2 == pp.toNat && sy == s.chn.straps.sysId) = true := by
  simp only [State.meets, Bool.and_eq_true, beq_iff_eq, and_assoc]

theorem State.exchange_met (h : s.meets p pm sy pp) : s.exchange p pm sy pp e0 e1 us =
    ((s.modPort p (fun x => x.exchanged pm sy e0 e1 us)).modPort p (fun x =>
      { x with trained := true, beCredit := Config.beCredits, mgCredit := Config.mgCredits })).portState p 7 :=
  if_pos (State.meets_iff.1 h)

theorem State.exchange_unmet (h : ¬ s.meets p pm sy pp) : s.exchange p pm sy pp e0 e1 us =
    s.modPort p (fun x => x.exchanged pm sy e0 e1 us) :=
  if_neg (fun hm => h (State.meets_iff.2 hm))

/-- Whether it ends training or not, an exchange records the partner that it sees, at its port alone. -/
theorem State.exchange_records : let u := s.exchange p pm sy pp e0 e1 us
    s.ButPort p u ∧ (u.port p).partner = pm ∧ (u.port p).partnerSys = sy ∧ (u.port p).trainTime = BitVec.ofNat 32 us := by
  intro u
  by_cases h : s.meets p pm sy pp
  · rw [show u = _ from State.exchange_met h]
    refine ⟨(State.modPort_butPort _).trans ((State.modPort_butPort _).trans (State.portState_portTo 7).but), ?_, ?_, ?_⟩
    · rw [State.portState_keeps Port.partner (fun _ _ _ => rfl), State.port_modPort_self, State.port_modPort_self]
      rfl
    · rw [State.portState_keeps Port.partnerSys (fun _ _ _ => rfl), State.port_modPort_self, State.port_modPort_self]
      rfl
    · rw [State.portState_keeps Port.trainTime (fun _ _ _ => rfl), State.port_modPort_self, State.port_modPort_self]
      rfl
  · rw [show u = _ from State.exchange_unmet h, State.port_modPort_self]
    exact ⟨State.modPort_butPort _, rfl, rfl, rfl⟩

/-- The exchange ends training exactly with the partner that the wiring expects (R258). -/
theorem State.exchange_ends (hp : p < 32) (h5 : (s.port p).st = 5) : let u := s.exchange p pm sy pp e0 e1 us
    (s.meets p pm sy pp → (u.port p).st = 7 ∧ u.lnk.portEvt.getLsbD p = true) ∧
      (¬ s.meets p pm sy pp → (u.port p).st = 5 ∧ u.lnk.portEvt = s.lnk.portEvt) := by
  refine ⟨fun h => ?_, fun h => ?_⟩
  · rw [State.exchange_met h]
    refine ⟨(State.portState_portTo 7).st, State.portState_portEvt hp ?_⟩
    rw [State.port_modPort_self, State.port_modPort_self]
    exact fun h7 => absurd (h5.symm.trans h7) (by decide)
  · rw [State.exchange_unmet h, State.port_modPort_self]
    exact ⟨h5, rfl⟩

end

end Sys2Proof.Machine
end

section
/-!
The loss of a port (09 R258; 10 R292, R293) and its control slots (09 R257, R260, R265).
-/

namespace Sys2Proof.Machine

/-! What leaves the ports as they are -/

@[simp] theorem State.sendRouted_ports (s : State) (g : Grain) : (s.sendRouted g).lnk.ports = s.lnk.ports := by
  unfold State.sendRouted
  split
  · split <;> rfl
  · split <;> rfl

@[simp] theorem State.postEvent_lnk (s : State) (f type status core job detail : Nat) :
    (s.postEvent f type status core job detail).lnk = s.lnk := by
  rw [show s.postEvent f type status core job detail = _ from State.postEvent_same ..]

@[simp] theorem State.postEvent_chn (s : State) (f type status core job detail : Nat) :
    (s.postEvent f type status core job detail).chn = s.chn := by
  rw [show s.postEvent f type status core job detail = _ from State.postEvent_same ..]

theorem State.learnLoss_lnk (s : State) (r d owner port : Nat) : (s.learnLoss r d owner port).lnk = s.lnk := by
  have hend : (s.endRun r 0x05).lnk = s.lnk := by rw [State.endRun_eq]
  unfold State.learnLoss
  split
  · rfl
  · split
    · exact hend
    · split
      · exact hend
      · rfl

/-- The loss of a port is announced through the ports, and changes none. -/
theorem State.lossFor_ports (s : State) (port : Nat) (reset : Bool) (r : Nat) (x : Run) :
    (s.lossFor port reset r x).lnk.ports = s.lnk.ports := by
  unfold State.lossFor
  dsimp only
  rw [State.learnLoss_lnk]
  refine (State.toParticipants_keeps (fun s => s.lnk.ports) (fun s m type job rest => ?_) _ _ _ _).trans ?_
  · exact State.sendRouted_ports ..
  · exact congrArg Lnk.ports (State.postEvent_lnk ..)

theorem State.learnLoss_ends {s : State} {r : Nat} {x : Run} (hr : s.runs = [(r, x)]) (hm : x.mode ≠ 2) (d owner port : Nat) :
    s.learnLoss r d owner port = s.endRun r 0x05 := by
  rw [State.learnLoss, State.run?_sole hr]
  exact if_pos (bne_iff_ne.2 hm)

/-- A run in a mode other than Open that loses a port is to end with PATH_LOST (R292, R293). -/
theorem State.lossFor_ends {s : State} {r : Nat} {x : Run} (hr : s.runs = [(r, x)]) (hm : x.mode ≠ 2) (he : x.endStatus = none)
    (port : Nat) (reset : Bool) : (s.lossFor port reset r x).runs = [(r, { x with endStatus := some 0x05 })] ∧
      (s.lossFor port reset r x).chn.event = s.chn.event := by
  have htold : ∀ (t : State) rest, t.runs = s.runs → t.chn.event = s.chn.event → ∀ d owner,
      ((t.toParticipants x 5 rest).learnLoss r d owner port).runs = [(r, { x with endStatus := some 0x05 })] ∧
        ((t.toParticipants x 5 rest).learnLoss r d owner port).chn.event = s.chn.event := by
    intro t rest hruns hevent d owner
    have hsole : (t.toParticipants x 5 rest).runs = [(r, x)] :=
      (State.toParticipants_keeps State.runs State.sendMgmt_runs t x 5 rest).trans (hruns.trans hr)
    rw [State.learnLoss_ends hsole hm, State.endRun_first hsole he]
    exact ⟨State.setRun_sole hsole _,
      (State.toParticipants_keeps (fun s => s.chn.event) State.sendMgmt_event t x 5 rest).trans hevent⟩
  exact htold _ _ (State.postEvent_runs ..) (congrArg Chn.event (State.postEvent_chn ..)) _ _

/-! A port that goes down -/

/-- A port that has gone down (R258). -/
def Port.gone (x : Port) : Port :=
  { x with
    st := 0, cwLock := false, frameLock := false, partnerFar := false, farReq := false, missed := 0, outOfSeq := 0
    expSlot := none, naks := [], resendQ := [], outQ := [], lastHeard := none, retrain := false, rxBytes := [], rxSlot := 0
    rxQ := [], txSlot := 50, txBytes := [], retQ := [], downCount := satAdd x.downCount 1 }

/-- The state in which a port has gone down, and no run has learnt of it. -/
def State.without (s : State) (p : Nat) : State :=
  { s with lnk := { s.lnk with
    ports := kset s.lnk.ports p (s.port p).gone
    portEvt := s.lnk.portEvt ||| BitVec.ofNat 32 (2 ^ p)
    routerQ := s.lnk.routerQ.filter (fun e => e.1 != p)
    heldIn := s.lnk.heldIn.filter (fun e => e.2.1 != p) } }

section
variable {s : State} {p : Nat} (hst : (s.port p).st ≠ 0) (reset : Bool)
include hst

/-- A port that goes down: the runs that use it learn of it, after CHN_EVENT and the log say so. -/
theorem State.portDown_cases :
    (s.runs.filter (fun e => s.usesPort e.2 p) = [] ∧ s.portDown p reset = s.without p) ∨
    s.runs.filter (fun e => s.usesPort e.2 p) ≠ [] ∧ ∃ log, s.portDown p reset = (s.runs.filter (fun e => s.usesPort e.2 p)).foldl (fun s e => s.lossFor p reset e.1 e.2)
      { s.without p with chn := { s.chn with event := s.chn.event ||| 4, pathLog := log } } := by
  unfold State.portDown
  dsimp only
  rw [if_neg hst]
  cases s.runs.filter (fun e => s.usesPort e.2 p) with
  | nil => exact .inl ⟨rfl, rfl⟩
  | cons e es => exact .inr ⟨List.cons_ne_nil e es, _, rfl⟩

theorem State.portDown_port : (s.portDown p reset).port p = (s.port p).gone := by
  obtain ⟨-, h⟩ | ⟨-, log, h⟩ := State.portDown_cases hst reset
  · rw [h]
    exact kget_kset_self ..
  · have hkept := foldl_keeps (f := fun (u : State) (e : Nat × Run) => u.lossFor p reset e.1 e.2) (fun u : State => u.lnk.ports)
      (fun u e => u.lossFor_ports p reset e.1 e.2)
    rw [h, State.port, hkept]
    exact kget_kset_self ..

theorem State.portDown_unused (hu : s.portUsed p = false) : s.portDown p reset = s.without p := by
  have hnone : s.runs.filter (fun e => s.usesPort e.2 p) = [] := by
    rw [List.filter_eq_nil_iff]
    simpa [State.portUsed] using hu
  obtain ⟨-, h⟩ | ⟨hsome, -⟩ := State.portDown_cases hst reset
  · exact h
  · exact absurd hnone hsome

end

/-- A far-end loop that is asked for takes the port down, which goes on decoding (R264, R265). -/
theorem State.farLoop_port {s : State} {p : Nat} (h6 : (s.port p).st ≠ 6) :
    ((s.farLoop p).port p).st = 0 ∧ ((s.farLoop p).port p).frameLock = (s.port p).frameLock := by
  unfold State.farLoop
  dsimp only
  split
  next h =>
    rw [Bool.or_eq_true, decide_eq_true_eq, decide_eq_true_eq] at h
    exact ⟨h.resolve_right h6, rfl⟩
  next h =>
    have h0 : (s.port p).st ≠ 0 := fun h0 => h (by rw [h0]; rfl)
    rw [State.port_modPort_self, State.portDown_port h0]
    exact ⟨rfl, rfl⟩

/-! Control slots -/

theorem State.nakIn_invalid {w : DWord} (h : w.getLsbD 12 = false) (s : State) (p : Nat) : s.nakIn p w = s := by
  rw [State.nakIn, bitOf, h]
  rfl

/-- A control grain whose NAK entries are none of them VALID. -/
theorem State.nakIns_invalid (s : State) (p : Nat) {g : Grain} (h : ∀ j, j < 5 → g.getLsbD (64 + 64 * j + 12) = false) :
    (List.range 5).foldl (fun s j => s.nakIn p (BitVec.ofNat 64 (bits g (64 + 64 * j) 64))) s = s := by
  refine List.foldlRecOn (motive := (· = s)) _ _ rfl fun u hu j hj => ?_
  rw [hu]
  refine State.nakIn_invalid ?_ s p
  rw [getLsbD_field _ _ (by decide)]
  exact h j (List.mem_range.1 hj)

/-- The next grain that a port has received, in a slot that is selected. -/
theorem Port.nextRx_cons {x : Port} {k : Nat} {g : Grain} {rest : List (Nat × Grain)} (hq : x.rxQ = (k, g) :: rest)
    {sel : Nat → Bool} (hsel : sel k = true) : x.nextRx sel = some (k, g, { x with rxQ := rest }) := by
  rw [Port.nextRx, hq]
  exact if_pos hsel

section
variable {s : State} {p a k : Nat} {g : Grain} {rest : List (Nat × Grain)} (hp : p < 32) (hq : (s.port p).rxQ = (k, g) :: rest)
  (hk : k % 25 = 0) (hlock : (s.port p).frameLock = true)
include hp hq hk hlock

theorem exec_controlGrain_missed (hcrc : ctlCrcOk g = false) (hm : (s.port p).missed + 1 < 32) :
    exec (.controlGrain p a) s = .next (s.setPort p { s.port p with
      rxQ := rest, missed := (s.port p).missed + 1, expSlot := (s.port p).expSlot.map (fun e => (e + 1) % 131072) }) := by
  simp only [exec, execControlGrain, Port.nextRx_cons (sel := fun k => k % 25 == 0) hq (beq_iff_eq.2 hk), hlock, hcrc]
  rw [if_neg (Nat.not_le.2 hp)]
  simp only [State.missControl, State.port_setPort_self, State.setPort_setPort]
  exact congrArg Host.Outcome.next (if_neg (Nat.not_le.2 hm))

variable (hcrc : ctlCrcOk g = true)
  (hseq : (s.port p).expSlot = none ∨ (s.port p).expSlot = some (2 * bits g 0 16 + bits g 16 1))
include hcrc hseq

theorem exec_controlGrain_retrain (h17 : g.getLsbD 17 = true) :
    exec (.controlGrain p a) s = .next ((s.setPort p { s.port p with rxQ := rest }).portDown p false) := by
  have hin : ((s.port p).expSlot.isSome && (s.port p).expSlot != some (2 * bits g 0 16 + bits g 16 1)) = false := by
    obtain h | h := hseq <;> simp [h]
  simp only [exec, execControlGrain, Port.nextRx_cons (sel := fun k => k % 25 == 0) hq (beq_iff_eq.2 hk), hlock, hcrc, bitOf, h17, hin]
  exact if_neg (Nat.not_le.2 hp)

/-- What a port takes over from a control grain that arrives in root cycle a (R257; 10 R276). -/
def Port.heard (x : Port) (g : Grain) (a : Nat) : Port :=
  { x with
    missed := 0, outOfSeq := 0, expSlot := some ((2 * bits g 0 16 + bits g 16 1 + 1) % 131072), farReq := g.getLsbD 18
    partnerFar := g.getLsbD 19 && x.loopSel == 5, partner := BitVec.ofNat 10 (bits g 32 10)
    partnerSys := BitVec.ofNat 4 (bits g 42 4), beCredit := x.beCredit + bits g 384 8
    mgCredit := x.mgCredit + bits g 392 8, depth := BitVec.ofNat 4 (bits g 480 4), farSynced := g.getLsbD 484
    lastHeard := if bits g 16 1 = 0 then some (BitVec.ofNat 16 (bits g 0 16), a) else x.lastHeard }

theorem exec_controlGrain_taken (h17 : g.getLsbD 17 = false) (hnaks : ∀ j, j < 5 → g.getLsbD (64 + 64 * j + 12) = false) :
    let t := s.setPort p (({ s.port p with rxQ := rest } : Port).heard g a)
    let t := if g.getLsbD 18 = true then t.farLoop p else t
    exec (.controlGrain p a) s = .next (if bits g 16 1 = 0
      then t.timeIn p (bits g 0 16) a (s.port p).lastHeard (BitVec.ofNat 64 (bits g 448 64)) else t) := by
  have hin : ((s.port p).expSlot.isSome && (s.port p).expSlot != some (2 * bits g 0 16 + bits g 16 1)) = false := by
    obtain h | h := hseq <;> simp [h]
  have hdepth : bits (BitVec.ofNat 64 (bits g 448 64)) 32 4 = bits g 480 4 := bits_field g 448 (by decide)
  have hsynced : (BitVec.ofNat 64 (bits g 448 64)).getLsbD 36 = g.getLsbD 484 := getLsbD_field g 448 (by decide)
  simp only [exec, execControlGrain, Port.nextRx_cons (sel := fun k => k % 25 == 0) hq (beq_iff_eq.2 hk), hlock, hcrc, bitOf, h17, hin, hdepth, hsynced,
    State.nakIns_invalid _ p hnaks, State.setPort_setPort, beq_iff_eq]
  exact if_neg (Nat.not_le.2 hp)

end

end Sys2Proof.Machine
end

section
/-!
NAKs and re-sends (09 R259, R260).
-/

namespace Sys2Proof.Machine

section
variable {s : State} {p : Nat} {w : DWord} (hp : p < 32)
include hp

theorem exec_nakReceive : exec (.nakReceive p w) s = .next (s.nakIn p w) := if_neg (Nat.not_le.2 hp)

end

/-- A NAK for a grain of this module that is retained queues its copy (R260). -/
theorem State.nakIn_own {s : State} {p : Nat} {w : DWord} {e : Retained} (h12 : w.getLsbD 12 = true)
    (hsrc : bits w 0 10 = s.moduleId) (hid : s.moduleId ≠ 0x3FF)
    (hfind : s.lnk.retained.find? (fun e => e.seq == bits w 16 32) = some e) (hsent : e.sent < 2) :
    s.nakIn p w =
      ({ s.modPort p (fun x => { x with nakRx := satAdd x.nakRx 1 }) with
        lnk := { (s.modPort p (fun x => { x with nakRx := satAdd x.nakRx 1 })).lnk with
          retained := s.lnk.retained.map (fun x => if x = e then { x with sent := x.sent + 1 } else x) } } : State).modPort e.port
        (fun x => { x with resendQ := x.resendQ ++ [(some e.run, Grain.asResent e.g)] }) := by
  have hlnk : (s.modPort p (fun x => { x with nakRx := satAdd x.nakRx 1 })).lnk.retained = s.lnk.retained := rfl
  have hmod : (s.modPort p (fun x => { x with nakRx := satAdd x.nakRx 1 })).moduleId = s.moduleId := rfl
  unfold State.nakIn
  simp only [bitOf, h12, hmod, hlnk, hfind]
  rw [if_neg (by decide), if_neg (by rw [hsrc]; exact hid), if_pos hsrc, if_neg (Nat.not_le.2 hsent)]

/-! Slots that a port sends -/

/-- Port p has gone on sending, and nothing else has changed but what is on the wire. -/
structure State.SentOn (s : State) (p : Nat) (u : State) : Prop where
  rest : u = { s with lnk := { s.lnk with ports := u.lnk.ports }, wire := u.wire }
  ports : ∀ q, q ≠ p → u.port q = s.port q
  port : ∃ slot bs scr, u.port p = { s.port p with txSlot := slot, txBytes := bs, txScramble := scr }

theorem State.setPort_sentOn (s : State) (p slot : Nat) (bs : List Byte) (scr : BitVec 31) :
    s.SentOn p (s.setPort p { s.port p with txSlot := slot, txBytes := bs, txScramble := scr }) :=
  ⟨rfl, fun _ hq => State.port_setPort_ne _ _ hq, _, _, _, State.port_setPort_self ..⟩

/-- A port that is active is in no loop-back (R264). -/
theorem Port.looped_active {x : Port} (h : x.st = 7) (depth : Nat) : x.looped depth = false := by
  rw [Port.looped, h]
  rfl

theorem State.putWord_active {s : State} {p : Nat} (h : (s.port p).st = 7) (w : List Nat) :
    s.putWord p w = { s with wire := (p, toLanes w) :: s.wire } := by
  rw [State.putWord, Port.looped_active h, Port.looped_active h]
  rfl

theorem State.pushSlot_active {s : State} {p : Nat} (h : (s.port p).st = 7) (k : Nat) (g : Grain) :
    s.SentOn p (s.pushSlot p k g) := by
  unfold State.pushSlot
  dsimp only
  split
  · exact ⟨rfl, fun _ _ => rfl, _, _, _, rfl⟩
  · generalize (if k = 0 then [] else (s.port p).txBytes) ++ bytesOf g 72 = bs
    split
    · exact s.setPort_sentOn p (k + 1) _ (s.port p).txScramble
    · rw [State.putWord_active (by rw [State.port_setPort_self]; exact h)]
      exact ⟨rfl, fun q hq => State.port_setPort_ne _ _ hq, _, _, _, State.port_setPort_self ..⟩

theorem State.emit_active {s : State} {p : Nat} (h : (s.port p).st = 7) (k : Nat) (g : Grain) :
    (s.transmit p g).SentOn p (s.emit p k g) := by
  unfold State.emit
  dsimp only
  rw [Port.looped_active h, Port.looped_active h, Port.looped_active h]
  exact State.pushSlot_active (s := s.transmit p g) h k g

/-! RESEND -/

section
variable {s : State} {p : Nat} (hp : p < 32)
include hp

theorem exec_resend_empty (hq : (s.port p).resendQ = []) : exec (.resend p) s = .next s := by
  simp only [exec, execResend, hq]
  exact if_neg (Nat.not_le.2 hp)

variable {own : Option Nat} {g : Grain} {rest : List (Option Nat × Grain)} (hq : (s.port p).resendQ = (own, g) :: rest)
include hq

theorem exec_resend_waits (h : (s.port p).st ≠ 7 ∨ s.retryFree (s.port p) = false) : exec (.resend p) s = .next s := by
  have hwait : (!(s.port p).active || !s.retryFree (s.port p)) = true := by
    obtain h | h := h
    · rw [Port.active, beq_false_of_ne h]
      rfl
    · rw [h, Bool.not_false, Bool.or_true]
  simp only [exec, execResend, hq]
  rw [if_neg (Nat.not_le.2 hp), if_pos hwait]

/-- Port p after its next copy has left, before it is counted. -/
def Port.resentAt (x : Port) (rest : List (Option Nat × Grain)) (count : Nat) : Port :=
  { x with resendQ := rest, retryAt := some count }

/-- A re-send is counted where its grain is this module's (R260). -/
def State.countResend (s : State) (p : Nat) : Option Nat → State
  | none => s
  | some r =>
    let s := s.modPort p (fun x => { x with resend := satAdd x.resend 1 })
    ({ s with det := { s.det with resend := s.det.resend.add 1 } } : State).modRun r
      (fun x => { x with counts := { x.counts with resend := x.counts.resend + 1 } })

theorem exec_resend_sends (h7 : (s.port p).st = 7) (hfree : s.retryFree (s.port p) = true) : ∃ u : State,
    ((s.setPort p ((s.port p).resentAt rest s.chn.count)).transmit p g).SentOn p u ∧
      exec (.resend p) s = .next (u.countResend p own) := by
  have hgo : (!(s.port p).active || !s.retryFree (s.port p)) = false := by
    rw [Port.active, h7, hfree]
    rfl
  have hsent := fun k => State.emit_active (s := s.setPort p ((s.port p).resentAt rest s.chn.count)) (p := p)
    (by rw [State.port_setPort_self]; exact h7) k g
  refine ⟨_, hsent (if s.chn.count % 24 = 11 then 24 else 49), ?_⟩
  simp only [exec, execResend, hq]
  rw [if_neg (Nat.not_le.2 hp), if_neg (by rw [hgo]; exact Bool.false_ne_true)]
  cases own <;> rfl

end

end Sys2Proof.Machine
end

section
/-!
The obligation on ports, clause by clause.
-/

namespace Sys2Proof.Machine

/-- A port that changes or goes down says so in LNK_PORT_EVT (09 R266). -/
theorem getLsbD_or_portBit {p : Nat} (hp : p < 32) (v : Word) : (v ||| BitVec.ofNat 32 (2 ^ p)).getLsbD p = true := by
  rw [BitVec.getLsbD_or, BitVec.getLsbD_ofNat, Nat.testBit_two_pow_self]
  simp [hp]

theorem State.port_modPort (s : State) (p : Nat) (f : Port → Port) (q : Nat) :
    (s.modPort p f).port q = if q = p then f (s.port q) else s.port q := by
  split
  next h => rw [h, State.port_modPort_self]
  next h => exact State.port_setPort_ne _ _ h

theorem Port.SameButRx.counts {x y : Port} (h : x.SameButRx y) : y.fecCw = x.fecCw ∧ y.fecUncorr = x.fecUncorr ∧
    y.fecCorr = x.fecCorr ∧ y.fecSym = x.fecSym ∧ y.scramble = x.scramble := by
  rw [h]
  exact ⟨rfl, rfl, rfl, rfl, rfl⟩

theorem State.modRun_eq_runs (s : State) (r : Nat) (g : Run → Run) : s.modRun r g = { s with runs := (s.modRun r g).runs } := by
  unfold State.modRun
  split <;> rfl

theorem State.countResend_some (s : State) (p r : Nat) : s.countResend p (some r) =
    { s.modPort p (fun x => { x with resend := satAdd x.resend 1 }) with
      det := { s.det with resend := s.det.resend.add 1 }, runs := (s.countResend p (some r)).runs } := by
  rw [State.countResend, State.modRun_eq_runs]
  rfl

theorem State.countResend_run? {s : State} {r : Nat} {x : Run} (h : s.run? r = some x) (p : Nat) :
    (s.countResend p (some r)).run? r = some { x with counts := { x.counts with resend := x.counts.resend + 1 } } :=
  have hcounted := State.modRun_eq (s := { s.modPort p (fun x => { x with resend := satAdd x.resend 1 }) with
    det := { s.det with resend := s.det.resend.add 1 } }) h
  (congrArg (State.run? · r) (hcounted _)).trans (State.run?_setRun_self ..)

end Sys2Proof.Machine

namespace Sys2Proof.Claims

open Sys2Proof.Machine

section
variable {s : State} {p : Nat} (hp : p < 32)
include hp

theorem codeword_counted {xs : List (BitVec 10)} (h : (s.port p).cwLock = true) (hn : xs.length = 256) :
    ∃ u : State, exec (.codewordReceive p xs) s = .next u ∧
      let x := s.port p
      let d := descramble (xs.map (fun v => v.toNat)) x.scramble
      (u.port p).fecCw = satAdd x.fecCw 1 ∧ (u.port p).scramble = d.2 ∧
      (rsDecode d.1 = none →
        (u.port p).fecUncorr = satAdd x.fecUncorr 1 ∧ (u.port p).fecCorr = x.fecCorr ∧ (u.port p).fecSym = x.fecSym) ∧
      (∀ w n, rsDecode d.1 = some (w, n) → (u.port p).fecUncorr = x.fecUncorr ∧
        (u.port p).fecCorr = (if n = 0 then x.fecCorr else satAdd x.fecCorr 1) ∧
        (u.port p).fecSym = (if n = 0 then x.fecSym else satAdd x.fecSym n)) ∧
      ((∀ q, q ≠ p → u.port q = s.port q) ∧ u.cores = s.cores) ∧ u.chn = s.chn := by
  obtain ⟨ret, hexec⟩ := exec_codewordReceive hp h hn
  refine ⟨_, hexec, ?_⟩
  intro x d
  rw [State.port_setPort_self]
  have hothers : ∀ y : Port, ((∀ q, q ≠ p → (s.setPort p y).port q = s.port q) ∧ (s.setPort p y).cores = s.cores) ∧
      (s.setPort p y).chn = s.chn := fun y => ⟨⟨fun q hq => State.port_setPort_ne _ _ hq, rfl⟩, rfl⟩
  cases hdec : rsDecode d.1 with
  | none =>
    obtain ⟨hcw, hun, hcorr, hsym, hscr⟩ := (Port.takeWord_lost (x := { x with scramble := d.2 }) hdec).counts
    exact ⟨hcw, hscr, fun _ => ⟨hun, hcorr, hsym⟩, nofun, hothers _⟩
  | some r =>
    obtain ⟨hcw, hun, hcorr, hsym, hscr⟩ :=
      (Port.takeWord_read (x := { x with scramble := d.2 }) (w := r.1) (n := r.2) hdec).counts
    refine ⟨hcw, hscr, nofun, fun w n hr => ?_, hothers _⟩
    obtain rfl : r = (w, n) := Option.some.inj hr
    exact ⟨hun, hcorr, hsym⟩

section
variable {pm : BitVec 10} {sy : BitVec 4} {pp : BitVec 5} {e0 e1 : Byte} {us : Nat} (h : s.Trains p)
include h

theorem training_phase (h5 : (s.port p).st ≠ 5) : ∃ u : State, exec (.portTraining p pm sy pp e0 e1 us) s = .next u ∧
    (u.port p).st = (s.port p).st + 1 ∧ (u.port p).cwLock = ((s.port p).cwLock || (s.port p).st == 3) ∧
    (u.port p).frameLock = ((s.port p).frameLock || (s.port p).st == 4) ∧
    u.lnk.portEvt.getLsbD p = true ∧ (∀ q, q ≠ p → u.port q = s.port q) ∧ u.cores = s.cores := by
  obtain ⟨f, hf, hexec⟩ := exec_portTraining_phase hp h (pm := pm) (sy := sy) (pp := pp) (e0 := e0) (e1 := e1) (us := us) h5
  obtain ⟨hst, hcw, hframe⟩ := hf (s.port p)
  have hlow : ∀ st : BitVec 3, st ≠ 5 → st ≠ 6 → st ≠ 7 → st < 5 := by decide
  have hport := State.port_modPort_self s p f
  have hphase : ((s.modPort p f).port p).st < 5 := by
    rw [hport, hst]
    exact hlow _ h5 h.unlooped h.inactive
  have hbut := (State.modPort_butPort f).trans (State.nextPhase_portTo hphase).but
  have hlocks := State.nextPhase_locks hphase
  have hnext := (State.nextPhase_portTo hphase).st
  rw [hport, hst, hcw, hframe] at hlocks
  rw [hport, hst] at hnext
  exact ⟨_, hexec, hnext, hlocks.1, hlocks.2, State.nextPhase_portEvt hphase hp, hbut.ports, hbut.cores⟩

theorem training_exchange (h5 : (s.port p).st = 5) : ∃ u : State, exec (.portTraining p pm sy pp e0 e1 us) s = .next u ∧
    (s.meets p pm sy pp → (u.port p).st = 7 ∧ u.lnk.portEvt.getLsbD p = true) ∧
    (¬ s.meets p pm sy pp → (u.port p).st = 5 ∧ u.lnk.portEvt = s.lnk.portEvt) ∧
    (u.port p).partner = pm ∧ (u.port p).partnerSys = sy ∧ (u.port p).trainTime = BitVec.ofNat 32 us ∧
    (∀ q, q ≠ p → u.port q = s.port q) ∧ u.cores = s.cores := by
  obtain ⟨hmet, hunmet⟩ := State.exchange_ends (pm := pm) (sy := sy) (pp := pp) (e0 := e0) (e1 := e1) (us := us) hp h5
  obtain ⟨hbut, hpartner, hsys, htime⟩ :=
    State.exchange_records (s := s) (p := p) (pm := pm) (sy := sy) (pp := pp) (e0 := e0) (e1 := e1) (us := us)
  exact ⟨_, exec_portTraining_exchange hp h h5, hmet, hunmet, hpartner, hsys, htime, hbut.ports, hbut.cores⟩

end

theorem exec_linkDown (why : DownCause) : exec (.linkDown p why) s = .next (s.portDown p (why == .missedControl)) :=
  if_neg (Nat.not_le.2 hp)

theorem linkDown_down (why : DownCause) (h : (s.port p).st = 0) : exec (.linkDown p why) s = .next s := by
  rw [exec_linkDown hp, State.portDown]
  exact congrArg Host.Outcome.next (if_pos h)

theorem linkDown_unused (why : DownCause) (hst : (s.port p).st ≠ 0) (hu : s.portUsed p = false) :
    ∃ u : State, exec (.linkDown p why) s = .next u ∧
      (u.port p).st = 0 ∧ (u.port p).cwLock = false ∧ (u.port p).frameLock = false ∧ (u.port p).naks = [] ∧
      (u.port p).resendQ = [] ∧ (u.port p).outQ = [] ∧ (u.port p).rxQ = [] ∧
      (u.port p).downCount = satAdd (s.port p).downCount 1 ∧ u.lnk.portEvt.getLsbD p = true ∧
      ((∀ q, q ≠ p → u.port q = s.port q) ∧ u.cores = s.cores) ∧ u.runs = s.runs ∧ u.chn = s.chn := by
  refine ⟨_, exec_linkDown hp why, ?_⟩
  rw [State.portDown_port hst, State.portDown_unused hst _ hu]
  exact ⟨rfl, rfl, rfl, rfl, rfl, rfl, rfl, rfl, getLsbD_or_portBit hp _, ⟨fun q hq => kget_kset_ne _ _ _ hq, rfl⟩, rfl, rfl⟩

theorem linkDown_used {r : Nat} {y : Run} (why : DownCause) (hst : (s.port p).st ≠ 0) (hr : s.runs = [(r, y)])
    (hu : s.usesPort y p = true) (hm : y.mode ≠ 2) (he : y.endStatus = none) :
    ∃ (u : State) (z : Run), exec (.linkDown p why) s = .next u ∧ (u.port p).st = 0 ∧ u.run? r = some z ∧
      z.endStatus = some 0x05 ∧ u.chn.event.getLsbD 2 = true := by
  have husers : s.runs.filter (fun e => s.usesPort e.2 p) = [(r, y)] := by
    rw [hr]
    exact List.filter_cons_of_pos hu
  refine ⟨_, { y with endStatus := some 0x05 }, exec_linkDown hp why, by rw [State.portDown_port hst]; rfl, ?_⟩
  obtain ⟨hnone, -⟩ | ⟨-, log, hdown⟩ := State.portDown_cases hst (why == .missedControl)
  · exact absurd (husers.symm.trans hnone) nofun
  · rw [husers] at hdown
    rw [hdown, List.foldl_cons, List.foldl_nil]
    obtain ⟨hruns, hevent⟩ := State.lossFor_ends (s := { s.without p with
      chn := { s.chn with event := s.chn.event ||| 4, pathLog := log } }) hr hm he p (why == .missedControl)
    refine ⟨State.run?_sole hruns, rfl, ?_⟩
    rw [hevent, BitVec.getLsbD_or]
    exact Bool.or_true _

theorem nakReceive_own {nak : DWord} {e : Retained} (h12 : nak.getLsbD 12 = true) (hsrc : bits nak 0 10 = s.moduleId)
    (hid : s.moduleId ≠ 0x3FF) (hfind : s.lnk.retained.find? (fun e => e.seq == bits nak 16 32) = some e) (hsent : e.sent < 2) :
    ∃ u : State, exec (.nakReceive p nak) s = .next u ∧ (u.port p).nakRx = satAdd (s.port p).nakRx 1 ∧
      (u.port e.port).resendQ = (s.port e.port).resendQ ++ [(some e.run, Grain.asResent e.g)] ∧
      { e with sent := e.sent + 1 } ∈ u.lnk.retained ∧ u.cores = s.cores ∧ u.runs = s.runs := by
  refine ⟨_, exec_nakReceive hp, ?_⟩
  rw [State.nakIn_own h12 hsrc hid hfind hsent]
  have hcounted : ∀ q, ((s.modPort p (fun x => { x with nakRx := satAdd x.nakRx 1 })).port q).resendQ = (s.port q).resendQ := by
    intro q
    rw [State.port_modPort]
    split <;> rfl
  refine ⟨?_, ?_, List.mem_map.2 ⟨e, List.mem_of_find?_eq_some hfind, if_pos rfl⟩, rfl, rfl⟩
  · have hport := State.port_modPort_self s p (fun x => { x with nakRx := satAdd x.nakRx 1 })
    rw [State.port_modPort]
    split <;> exact congrArg Port.nakRx hport
  · rw [State.port_modPort_self]
    exact congrArg (· ++ _) (hcounted e.port)

/-- What a re-send leaves, whether it is counted or not. -/
theorem resend_sends {own : Option Nat} {g : Grain} {rest : List (Option Nat × Grain)} (hq : (s.port p).resendQ = (own, g) :: rest)
    (h7 : (s.port p).st = 7) (hfree : s.retryFree (s.port p) = true) :
    ∃ u : State, exec (.resend p) s = .next u ∧ u.tx = (p, g) :: s.tx ∧
      (u.port p).resendQ = rest ∧ (u.port p).retryAt = some s.chn.count ∧
      (own = none → (u.port p).resend = (s.port p).resend ∧ u.det = s.det ∧ u.runs = s.runs) ∧
      (∀ r, own = some r → (u.port p).resend = satAdd (s.port p).resend 1 ∧
        u.det.resend.val = min (s.det.resend.val + 1) (2 ^ 64 - 1) ∧
        (∀ y, s.run? r = some y → u.run? r = some { y with counts := { y.counts with resend := y.counts.resend + 1 } })) ∧
      ((∀ q, q ≠ p → u.port q = s.port q) ∧ u.cores = s.cores) := by
  obtain ⟨u, ⟨hrest, hports, slot, bs, scr, hport⟩, hexec⟩ := exec_resend_sends hp hq h7 hfree
  have hself : ((s.setPort p ((s.port p).resentAt rest s.chn.count)).transmit p g).port p =
      (s.port p).resentAt rest s.chn.count := State.port_setPort_self ..
  have hothers : ∀ q, q ≠ p → u.port q = s.port q := fun q hne => (hports q hne).trans (State.port_setPort_ne _ _ hne)
  rw [hself] at hport
  refine ⟨_, hexec, ?_⟩
  cases own with
  | none =>
    rw [State.countResend, hport]
    refine ⟨?_, rfl, rfl, fun _ => ⟨rfl, ?_, ?_⟩, nofun, hothers, ?_⟩ <;> (rw [hrest]; rfl)
  | some r =>
    have hcounted : (u.modPort p (fun x => { x with resend := satAdd x.resend 1 })).port p =
        { (s.port p).resentAt rest s.chn.count with
          txSlot := slot, txBytes := bs, txScramble := scr, resend := satAdd (s.port p).resend 1 } := by
      rw [State.port_modPort_self, hport]
      rfl
    have hruns : u.runs = s.runs := by rw [hrest]; rfl
    refine ⟨?tx, ?queue, ?retry, nofun, ?counted, fun q hne => ?other, ?cores⟩
    case counted =>
      rintro _ ⟨⟩
      refine ⟨?_, ?_, fun y hy => State.countResend_run? ((congrArg (kfind · r) hruns).trans hy) p⟩ <;>
        rw [State.countResend_some]
      · exact congrArg Port.resend hcounted
      · rw [hrest]
        rfl
    all_goals rw [State.countResend_some]
    case queue => exact congrArg Port.resendQ hcounted
    case retry => exact congrArg Port.retryAt hcounted
    case other => exact (State.port_setPort_ne _ _ hne).trans (hothers q hne)
    case tx | cores =>
      rw [hrest]
      rfl

end

/-- Settles O45: each clause is the rule of its command; a port that no run uses goes down alone, and one that a run uses takes the
run's end with it (`State.lossFor_ends`). -/
theorem ports : Obligations.Ports := by
  unfold Obligations.Ports
  intro s p a xs pm sy pp e0 e1 us why nak hp x others ok
  refine ⟨exec_codewordReceive_unlocked hp, codeword_counted hp, ?training, linkDown_unused hp why,
    fun r y => linkDown_used hp why, linkDown_down hp why, ?control, fun h12 => ?invalid,
    fun e h12 hsrc hid hfind hsent => nakReceive_own hp h12 hsrc hid hfind hsent,
    fun own g rest hq => ⟨resend_sends hp hq, exec_resend_waits hp hq⟩, exec_resend_empty hp⟩
  case training =>
    intro h7 h6 hen hst hu hhw hboot hfatal hdue
    have htrains : s.Trains p := ⟨h7, h6, hen, hst, hu, hhw, hboot, hfatal, hdue⟩
    exact ⟨training_phase hp htrains, training_exchange hp htrains⟩
  case control =>
    intro k g rest hq hk hlock y idx
    refine ⟨exec_controlGrain_missed hp hq hk hlock, fun hcrc hseq h17 hnaks => ⟨?_, fun h18 h6 => ?_⟩,
      fun hcrc hseq h17 => exec_controlGrain_retrain hp hq hk hlock hcrc hseq h17⟩
    · exact exec_controlGrain_taken hp hq hk hlock hcrc hseq h17 hnaks
    · rw [if_pos h18]
      have hfar := State.farLoop_port (s := s.setPort p (y.heard g a)) (p := p) (by rw [State.port_setPort_self]; exact h6)
      rw [State.port_setPort_self] at hfar
      exact ⟨hfar.1, hfar.2.trans hlock⟩
  case invalid => rw [exec_nakReceive hp, State.nakIn_invalid h12]

end Sys2Proof.Claims
end

section
/-!
Received grains (09 R249, R259, R260, R263; 10 R273, R290): the grain that a port takes, and what it does with one.
-/

namespace Sys2Proof.Machine

/-! What a change of one port leaves -/

/-- The route table looks at which ports are active, and at nothing else of them (10 R272). -/
theorem State.route_setPort {s : State} {p : Nat} {x : Port} (h : x.active = (s.port p).active) (dm : Nat) :
    (s.setPort p x).route dm = s.route dm := by
  have hact : ∀ q, ((s.setPort p x).port q).active = (s.port q).active := by
    intro q
    by_cases hq : q = p
    · rw [hq, State.port_setPort_self, h]
    · rw [State.port_setPort_ne _ _ hq]
  have hid : (s.setPort p x).moduleId = s.moduleId := rfl
  simp only [State.route, hact, hid]

theorem mem_flightInsert_self (f : Flight) (fs : List Flight) : f ∈ flightInsert f fs := by
  induction fs with
  | nil => exact List.mem_singleton_self f
  | cons x fs ih =>
    unfold flightInsert
    split
    · exact List.mem_cons_of_mem x ih
    · exact List.mem_cons_self

theorem b2n_beq (m n : Nat) : b2n (m == n) = if m = n then 1 else 0 := by
  simp [b2n]

/-! The grain that a port takes -/

/-- Port p has taken the next grain that it has received. -/
def State.took (s : State) (p : Nat) (rest : List (Nat × Grain)) : State := s.setPort p { s.port p with rxQ := rest }

section
variable {s : State} {p : Nat} (hp : p < 32)
include hp

theorem exec_portGrainReceive_empty (hq : (s.port p).rxQ = []) : exec (.portGrainReceive p) s = .next s := by
  simp only [exec, execPortGrainReceive, Port.nextRx, hq]
  exact if_neg (Nat.not_le.2 hp)

variable {k : Nat} {g : Grain} {rest : List (Nat × Grain)} (hq : (s.port p).rxQ = (k, g) :: rest) (hk : k % 25 ≠ 0)
include hq hk

theorem exec_portGrainReceive_inactive (h7 : (s.port p).st ≠ 7) (h6 : (s.port p).st ≠ 6) :
    exec (.portGrainReceive p) s = .next (s.setPort p { s.port p with rxQ := rest }) := by
  have hidle : (!((s.port p).active || (s.port p).st == 6)) = true := by
    rw [Port.active, beq_false_of_ne h7, beq_false_of_ne h6]
    rfl
  simp only [exec, execPortGrainReceive, Port.nextRx_cons (sel := fun k => k % 25 != 0) hq (bne_iff_ne.2 hk)]
  rw [if_neg (Nat.not_le.2 hp)]
  exact if_pos hidle

variable (h7 : (s.port p).st = 7)
include h7

/-- PORT_GRAIN_RECEIVE at an active port: a grain that was held for this slot comes before the one that waits (10 R290). -/
theorem exec_portGrainReceive_active : exec (.portGrainReceive p) s =
    let t := s.took p rest
    match s.lnk.heldIn.find? (fun h => h.2.1 == p && h.2.2.1 == s.rxFrame p k && h.2.2.2.1 == k) with
    | some h => .next (({ t with lnk := { t.lnk with heldIn := s.lnk.heldIn.erase h } } : State).grainIn p (s.rxFrame p k) k
        h.2.2.2.2)
    | none =>
      match s.landsLate p (s.rxFrame p k) k g with
      | some f => .next { t with lnk := { t.lnk with heldIn := s.lnk.heldIn ++ [(f.1, p, f.2, k, g)] } }
      | none => .next (t.grainIn p (s.rxFrame p k) k g) := by
  have hbusy : (!((s.port p).active || (s.port p).st == 6)) = false := by
    rw [Port.active, h7]
    rfl
  have hframe : (s.setPort p { s.port p with rxQ := rest }).rxFrame p k = s.rxFrame p k := by
    rw [State.rxFrame, State.port_setPort_self]
    rfl
  simp only [exec, execPortGrainReceive, Port.nextRx_cons (sel := fun k => k % 25 != 0) hq (bne_iff_ne.2 hk), hframe]
  rw [if_neg (Nat.not_le.2 hp)]
  exact if_neg (fun h => Bool.false_ne_true (hbusy.symm.trans h))

end

/-- Grain g of slot k, which is no control slot, is the next at the active port p, and none was held for that slot. -/
structure State.Receives (s : State) (p k : Nat) (g : Grain) (rest : List (Nat × Grain)) : Prop where
  port : p < 32
  next : (s.port p).rxQ = (k, g) :: rest
  slot : k % 25 ≠ 0
  active : (s.port p).st = 7
  alone : s.lnk.heldIn.find? (fun h => h.2.1 == p && h.2.2.1 == s.rxFrame p k && h.2.2.2.1 == k) = none

section
variable {s : State} {p k : Nat} {g : Grain} {rest : List (Nat × Grain)} (h : s.Receives p k g rest)
include h

theorem exec_portGrainReceive_late {w : Nat × Nat} (hlate : s.landsLate p (s.rxFrame p k) k g = some w) :
    let t := s.took p rest
    exec (.portGrainReceive p) s = .next { t with
      lnk := { t.lnk with heldIn := s.lnk.heldIn ++ [(w.1, p, w.2, k, g)] } } := by
  rw [exec_portGrainReceive_active h.port h.next h.slot h.active, h.alone, hlate]

theorem exec_portGrainReceive_taken (hlate : s.landsLate p (s.rxFrame p k) k g = none) : exec (.portGrainReceive p) s =
    .next ((s.took p rest).grainIn p (s.rxFrame p k) k g) := by
  rw [exec_portGrainReceive_active h.port h.next h.slot h.active, h.alone, hlate]

end

/-- Only a scheduled grain in a run's slot lands late. -/
theorem State.landsLate_noRuns {s : State} (h : s.runs = []) (p frame slot : Nat) (g : Grain) :
    s.landsLate p frame slot g = none := by
  rw [State.landsLate, State.activeRuns, h]
  exact ite_self _

theorem State.landsLate_resent {g : Grain} (h : Grain.resent g = true) (s : State) (p frame slot : Nat) :
    s.landsLate p frame slot g = none := by
  rw [State.landsLate, h, Bool.or_true]
  rfl

/-! What a port does with it -/

/-- The run whose tables name a slot inbound. -/
def State.slotOwner (s : State) (p frame slot : Nat) : Option (Nat × Run) :=
  s.runs.find? (fun e => (s.inSlot e.2 p frame slot).isSome)

/-- The grain that a run expects for this module in a slot: the run, the source module and the sequence number. -/
def State.expects (s : State) (p frame slot : Nat) : Option (Nat × Run × Nat × Nat) :=
  s.runs.findSome? (fun e => (s.expected e.2 p frame slot).map (fun q => (e.1, e.2, q.1, q.2)))

/-- A failed CRC is counted at its port. -/
def State.countCrc (s : State) (p : Nat) : State := s.modPort p (fun x => { x with crcFail := satAdd x.crcFail 1 })

/-- The credits that a grain owes its sender (09 R240). -/
def State.countOwed (s : State) (p : Nat) (g : Grain) : State :=
  s.modPort p (fun x => { x with beOwed := x.beOwed + b2n (Grain.cls g == 1), mgOwed := x.mgOwed + b2n (Grain.cls g == 3) })

section
variable {s : State} {p frame slot : Nat} {g : Grain}

theorem State.slotOwner_noRuns (h : s.runs = []) : s.slotOwner p frame slot = none := by
  rw [State.slotOwner, h]
  rfl

theorem State.expects_noRuns (h : s.runs = []) : s.expects p frame slot = none := by
  rw [State.expects, h]
  rfl

/-- A run expects no grain in a slot where none of its sources has one. -/
theorem State.expects_none (h : s.runs.findSome? (fun e => s.expected e.2 p frame slot) = none) :
    s.expects p frame slot = none := by
  rw [List.findSome?_eq_none_iff] at h
  rw [State.expects, List.findSome?_eq_none_iff]
  intro e he
  rw [h e he]
  rfl

section
variable {r : Nat} {x : Run} (hr : s.runs = [(r, x)])
include hr

theorem State.slotOwner_sole {e : SlotRec} (he : s.inSlot x p frame slot = some e) : s.slotOwner p frame slot = some (r, x) := by
  rw [State.slotOwner, hr]
  exact List.find?_cons_of_pos (by simp [he])

theorem State.expects_sole {src seq : Nat} (he : s.expected x p frame slot = some (src, seq)) :
    s.expects p frame slot = some (r, x, src, seq) := by
  rw [State.expects, hr, List.findSome?_cons, he]
  rfl

end

/-! A failed CRC -/

section
variable (hcrc : Grain.crcOk g = false)
include hcrc

/-- In a slot in which a grain is expected the slot is refused (R259). -/
theorem State.grainIn_refused {q : Nat × Run × Nat × Nat} (hexp : s.expects p frame slot = some q) :
    s.grainIn p frame slot g = (s.countCrc p).refuseSlot p frame slot 0 (some q) := by
  rw [State.expects] at hexp
  simp only [State.grainIn, hcrc, hexp]
  rfl

/-- In a slot of no run, what is idle or has arrived is dropped. -/
theorem State.grainIn_dropped (hexp : s.expects p frame slot = none) (hown : s.slotOwner p frame slot = none)
    (hg : Grain.idle g = true ∨ Grain.dmod g = s.moduleId ∧ Grain.resent g = false) :
    s.grainIn p frame slot g = s.countCrc p := by
  rw [State.expects] at hexp
  rw [State.slotOwner] at hown
  obtain hidle | ⟨hhere, hres⟩ := hg
  · simp [State.grainIn, hcrc, hexp, hown, hidle, State.countCrc]
  · simp [State.grainIn, hcrc, hexp, hown, hhere, hres, State.countCrc]

end

/-! A right CRC -/

section
variable (hcrc : Grain.crcOk g = true)
include hcrc

theorem State.grainIn_idle (hidle : Grain.idle g = true) (hexp : s.expects p frame slot = none) : s.grainIn p frame slot g = s := by
  rw [State.expects] at hexp
  simp only [State.grainIn, hcrc, hexp, hidle]
  rfl

variable (hidle : Grain.idle g = false)
include hidle

/-- In a slot of no run one that meets a row of the malformed-grain table is dropped (R263). -/
theorem State.grainIn_malformed {cond : Nat} (hexp : s.expects p frame slot = none) (hown : s.slotOwner p frame slot = none)
    (hcond : s.malformedCond g slot none = some cond) (hg : Grain.dmod g ≠ s.moduleId ∨ Grain.resent g = false) :
    s.grainIn p frame slot g = s.malformedGrain p cond frame slot := by
  have hcopy : (Grain.dmod g == s.moduleId && Grain.resent g) = false := by
    obtain h | h := hg
    · rw [beq_false_of_ne h, Bool.false_and]
    · rw [h, Bool.and_false]
  rw [State.expects] at hexp
  rw [State.slotOwner] at hown
  simp only [State.grainIn, hcrc, hexp, hidle, hown, Option.bind_none, hcond, hcopy, State.slotViolation, ite_self]
  rfl

section
variable (hcond : s.malformedCond g slot ((s.slotOwner p frame slot).bind (fun e => s.inSlot e.2 p frame slot)) = none)
include hcond

/-- One that is not scheduled goes by the route table, be it for this module or for another (R249; 10 R273). -/
theorem State.grainIn_routed (hexp : s.expects p frame slot = none) (hres : Grain.resent g = false) (hcls : Grain.cls g ≠ 0) :
    s.grainIn p frame slot g = (s.countOwed p g).sendRouted g := by
  rw [State.expects] at hexp
  rw [State.slotOwner] at hcond
  simp only [State.grainIn, hcrc, hexp, hidle, hcond, hres, State.forwardOn, if_neg hcls]
  by_cases hhere : Grain.dmod g = s.moduleId <;> simp [hhere, hcls, State.countOwed]

/-- A scheduled one for this module goes to its place (R243, R246). -/
theorem State.grainIn_delivered (hhere : Grain.dmod g = s.moduleId) (hres : Grain.resent g = false) (hcls : Grain.cls g = 0) :
    s.grainIn p frame slot g = (s.countOwed p g).deliver p frame slot (s.slotOwner p frame slot) g := by
  rw [State.slotOwner] at hcond
  simp only [State.grainIn, hcrc, hidle, hcond, hres, hhere, hcls]
  simp [State.countOwed, State.slotOwner, hcls]

/-- A re-sent copy for this module takes the place of the oldest grain refused of its core and stream (R260). -/
theorem State.grainIn_copy {n : OutNak} {left : List OutNak} (hexp : s.expects p frame slot = none)
    (hhere : Grain.dmod g = s.moduleId) (hres : Grain.resent g = true)
    (hnak : takeNak (Grain.dcore g) (Grain.stream g) s.lnk.outNaks = some (n, left)) :
    s.grainIn p frame slot g =
      ({ s.countOwed p g with lnk := { (s.countOwed p g).lnk with outNaks := left } } : State).fly
        { run := n.run, core := n.dcore, g := g, t := n.t, q := if n.dcore ≥ 0x3F0 then none else some n.q, bad := 0 } := by
  have hkept : (s.countOwed p g).lnk.outNaks = s.lnk.outNaks := rfl
  rw [State.expects] at hexp
  rw [State.slotOwner] at hcond
  rw [← hkept, State.countOwed] at hnak
  simp only [State.grainIn, hcrc, hexp, hidle, hcond, hres, hhere, hnak]
  simp [State.countOwed]

end
end

section
variable {r n : Nat} {x : Run} {e : SlotRec} (he : s.inSlot x p frame slot = some e) (hn : s.slotNo x frame slot = some n)
include he hn

theorem State.deliver_core (hcore : e.dcore < 0x3F0) : s.deliver p frame slot (some (r, x)) g =
    (s.fly { run := r, core := e.dcore, g := g, t := s.linkLanding x e n, q := some (s.linkIndex x e n), bad := 0 }).sentTo
      e.dcore e.stream (s.linkIndex x e n + 1) := by
  simp only [State.deliver, he, hn]
  exact if_neg (Nat.not_le.2 hcore)

/-- A failed CRC leaves the place of its grain on the stream kept for the copy (R243, R259). -/
theorem State.refuseSlot_crc (src seq : Nat) : s.refuseSlot p frame slot 0 (some (r, x, src, seq)) =
    s.refuse p r src seq 0 e.dcore e.stream (s.linkIndex x e n) (s.linkLanding x e n) := by
  simp only [State.refuseSlot, he, hn]
  rfl

end
end

end Sys2Proof.Machine
end

section
/-!
The obligation on received grains, case by case.
-/

namespace Sys2Proof.Claims

open Sys2Proof.Machine

theorem received_held {s : State} {p k : Nat} {g : Grain} {rest : List (Nat × Grain)} (hp : p < 32)
    (hq : (s.port p).rxQ = (k, g) :: rest) (hk : k % 25 ≠ 0) (h7 : (s.port p).st = 7) {h : Nat × Nat × Nat × Nat × Grain}
    (hheld : s.lnk.heldIn.find? (fun h => h.2.1 == p && h.2.2.1 == s.rxFrame p k && h.2.2.2.1 == k) = some h) :
    let t := s.took p rest
    exec (.portGrainReceive p) s =
      .next (({ t with lnk := { t.lnk with heldIn := s.lnk.heldIn.erase h } } : State).grainIn p (s.rxFrame p k) k h.2.2.2.2) := by
  rw [exec_portGrainReceive_active hp hq hk h7, hheld]

section
variable {s : State} {p k : Nat} {g : Grain} {rest : List (Nat × Grain)} (h : s.Receives p k g rest)
include h

/-! A slot of no run -/

section
variable (hr : s.runs = [])
include hr

/-- In a slot of no run nothing is late and nothing is expected. -/
theorem received_taken : exec (.portGrainReceive p) s =
    .next ((s.took p rest).grainIn p (s.rxFrame p k) k g) :=
  exec_portGrainReceive_taken h (State.landsLate_noRuns hr ..)

theorem received_idle (hidle : Grain.idle g = true) (hcrc : Grain.crcOk g = true) :
    exec (.portGrainReceive p) s = .next (s.setPort p { s.port p with rxQ := rest }) := by
  rw [received_taken h hr, State.grainIn_idle (s := s.took p rest) hcrc hidle (State.expects_noRuns hr)]
  rfl

theorem received_dropped (hcrc : Grain.crcOk g = false)
    (hg : Grain.idle g = true ∨ Grain.dmod g = s.moduleId ∧ Grain.resent g = false) : exec (.portGrainReceive p) s =
      .next (s.setPort p { s.port p with rxQ := rest, crcFail := satAdd (s.port p).crcFail 1 }) := by
  rw [received_taken h hr,
    State.grainIn_dropped (s := s.took p rest) hcrc (State.expects_noRuns hr) (State.slotOwner_noRuns hr) hg, State.countCrc, State.took, State.modPort_setPort]

theorem received_malformed {cond : Nat} (hidle : Grain.idle g = false) (hcrc : Grain.crcOk g = true)
    (hcond : s.malformedCond g k none = some cond) (hg : Grain.dmod g ≠ s.moduleId ∨ Grain.resent g = false) :
    ∃ u : State, exec (.portGrainReceive p) s = .next u ∧ (u.port p).malformed = satAdd (s.port p).malformed 1 ∧
      (u.port p).naks = (s.port p).naks ++ [nakLocal (s.rxFrame p k) k] ∧ u.tx = s.tx ∧ u.cores = s.cores := by
  refine ⟨_, received_taken h hr, ?_⟩
  rw [State.grainIn_malformed (s := s.took p rest) hcrc hidle (State.expects_noRuns hr) (State.slotOwner_noRuns hr) hcond hg, State.malformedGrain,
    State.took, State.modPort_setPort, State.queueNak, State.modPort_setPort, State.port_setPort_self]
  exact ⟨rfl, rfl, rfl, rfl⟩

section
variable (hidle : Grain.idle g = false) (hcrc : Grain.crcOk g = true) (hcond : s.malformedCond g k none = none)
  (hres : Grain.resent g = false) (hcls : Grain.cls g ≠ 0)
include hidle hcrc hcond hres hcls

/-- A port that has noted what a grain owes its sender. -/
def owedFor (x : Port) (g : Grain) : Port :=
  { x with
    beOwed := x.beOwed + (if Grain.cls g = 1 then 1 else 0), mgOwed := x.mgOwed + (if Grain.cls g = 3 then 1 else 0) }

theorem received_routed : exec (.portGrainReceive p) s =
    .next ((s.setPort p (owedFor { s.port p with rxQ := rest } g)).sendRouted g) := by
  have hnoent : (s.slotOwner p (s.rxFrame p k) k).bind (fun e => s.inSlot e.2 p (s.rxFrame p k) k) = none := by
    rw [State.slotOwner_noRuns hr]
    rfl
  rw [received_taken h hr, State.grainIn_routed (s := s.took p rest) hcrc hidle (by rw [← hnoent] at hcond; exact hcond)
    (State.expects_noRuns hr) hres hcls, State.countOwed, State.took, State.modPort_setPort, b2n_beq, b2n_beq]
  rfl

theorem received_hub (hhere : Grain.dmod g = s.moduleId) (hhub : 0x3F0 ≤ Grain.dcore g) : exec (.portGrainReceive p) s =
    .next { s.setPort p (owedFor { s.port p with rxQ := rest } g) with tx := (32, g) :: s.tx } := by
  rw [received_routed h hr hidle hcrc hcond hres hcls, State.sendRouted]
  exact congrArg Host.Outcome.next ((if_pos hhere).trans (if_neg (Nat.not_lt.2 hhub)))

theorem received_forwarded {q : Nat} (hhere : Grain.dmod g ≠ s.moduleId) (hroute : s.route (Grain.dmod g) = some q) :
    let t := s.setPort p (owedFor { s.port p with rxQ := rest } g)
    exec (.portGrainReceive p) s = .next { t with lnk := { t.lnk with routerQ := s.lnk.routerQ ++ [(q, s.chn.count, g)] } } := by
  have hpart : (s.setPort p (owedFor { s.port p with rxQ := rest } g)).route (Grain.dmod g) = s.route (Grain.dmod g) :=
    State.route_setPort (x := owedFor { s.port p with rxQ := rest } g) rfl _
  rw [received_routed h hr hidle hcrc hcond hres hcls, State.sendRouted, hpart, hroute]
  exact congrArg Host.Outcome.next (if_neg hhere)

theorem received_unroutable (hhere : Grain.dmod g ≠ s.moduleId) (hroute : s.route (Grain.dmod g) = none) :
    exec (.portGrainReceive p) s = .next { s.setPort p (owedFor { s.port p with rxQ := rest } g) with
      chn := { s.chn with noRoute := satAdd s.chn.noRoute 1 } } := by
  have hpart : (s.setPort p (owedFor { s.port p with rxQ := rest } g)).route (Grain.dmod g) = s.route (Grain.dmod g) :=
    State.route_setPort (x := owedFor { s.port p with rxQ := rest } g) rfl _
  rw [received_routed h hr hidle hcrc hcond hres hcls, State.sendRouted, hpart, hroute]
  exact congrArg Host.Outcome.next (if_neg hhere)

end
end

/-! A slot of the only run -/

section
variable {r n : Nat} {x : Run} {e : SlotRec} (hr : s.runs = [(r, x)]) (hlate : s.landsLate p (s.rxFrame p k) k g = none)
  (he : s.inSlot x p (s.rxFrame p k) k = some e) (hn : s.slotNo x (s.rxFrame p k) k = some n)
include hr hlate he hn

theorem received_delivered (hcore : e.dcore < 0x3F0) (hidle : Grain.idle g = false) (hhere : Grain.dmod g = s.moduleId)
    (hres : Grain.resent g = false) (hcrc : Grain.crcOk g = true) (hcond : s.malformedCond g k (some e) = none)
    (hcls : Grain.cls g = 0) : ∃ u : State, exec (.portGrainReceive p) s = .next u ∧
      { run := r, core := e.dcore, g := g, t := s.linkLanding x e n, q := some (s.linkIndex x e n), bad := 0 } ∈ u.lnk.flights ∧
      u.tx = s.tx ∧ u.runs = s.runs ∧ (∀ c, c ≠ e.dcore → u.core c = s.core c) := by
  have hown := State.slotOwner_sole hr he
  have hent : (s.slotOwner p (s.rxFrame p k) k).bind (fun e => s.inSlot e.2 p (s.rxFrame p k) k) = some e := by
    rw [hown]
    exact he
  refine ⟨_, exec_portGrainReceive_taken h hlate, ?_⟩
  rw [State.grainIn_delivered (s := s.took p rest) hcrc hidle (by rw [← hent] at hcond; exact hcond) hhere hres hcls,
    show (s.took p rest).slotOwner p (s.rxFrame p k) k = some (r, x) from hown,
    State.deliver_core (s := (s.took p rest).countOwed p g) he hn hcore]
  exact ⟨mem_flightInsert_self .., rfl, rfl, fun c hc => State.core_modCore_ne _ _ hc⟩

theorem received_refused {src seq : Nat} (hcrc : Grain.crcOk g = false)
    (hexp : s.expected x p (s.rxFrame p k) k = some (src, seq)) : ∃ u : State, exec (.portGrainReceive p) s = .next u ∧
      (u.port p).crcFail = satAdd (s.port p).crcFail 1 ∧ (u.port p).naks = (s.port p).naks ++ [nakWord src 0 seq] ∧
      { run := r, dcore := e.dcore, strm := e.stream, src := src, seq := seq, tries := 0, q := s.linkIndex x e n
        t := s.linkLanding x e n } ∈ u.lnk.outNaks ∧ u.lnk.flights = s.lnk.flights ∧ u.cores = s.cores := by
  refine ⟨_, exec_portGrainReceive_taken h hlate, ?_⟩
  rw [State.grainIn_refused hcrc (State.expects_sole (s := s.took p rest) hr hexp),
    State.refuseSlot_crc (s := (s.took p rest).countCrc p) he hn]
  have hport : ((s.took p rest).countCrc p).port p =
      { s.port p with rxQ := rest, crcFail := satAdd (s.port p).crcFail 1 } := by
    rw [State.countCrc, State.took, State.modPort_setPort, State.port_setPort_self]
  have hnak : ∀ w : DWord, (((s.took p rest).countCrc p).queueNak p w).port p =
      { s.port p with
        rxQ := rest, crcFail := satAdd (s.port p).crcFail 1, naks := (s.port p).naks ++ [w] } := by
    intro w
    rw [State.queueNak, State.port_modPort_self, hport]
  exact ⟨congrArg Port.crcFail (hnak _), congrArg Port.naks (hnak _), List.mem_append_right _ (List.mem_singleton_self _), rfl, rfl⟩

end

theorem received_copy {n : OutNak} {left : List OutNak}
    (hexp : s.runs.findSome? (fun e => s.expected e.2 p (s.rxFrame p k) k) = none) (hidle : Grain.idle g = false)
    (hcrc : Grain.crcOk g = true) (hhere : Grain.dmod g = s.moduleId) (hres : Grain.resent g = true)
    (hcond : ∀ ent, s.malformedCond g k ent = none)
    (hnak : takeNak (Grain.dcore g) (Grain.stream g) s.lnk.outNaks = some (n, left)) :
    ∃ u : State, exec (.portGrainReceive p) s = .next u ∧ u.lnk.outNaks = left ∧
      { run := n.run, core := n.dcore, g := g, t := n.t, q := if n.dcore ≥ 0x3F0 then none else some n.q, bad := 0 } ∈
        u.lnk.flights ∧ u.cores = s.cores := by
  refine ⟨_, exec_portGrainReceive_taken h (State.landsLate_resent hres ..), ?_⟩
  rw [State.grainIn_copy (s := s.took p rest) hcrc hidle (hcond _) (State.expects_none hexp) hhere hres hnak]
  exact ⟨rfl, mem_flightInsert_self .., rfl⟩

end

/-- Settles O46: the grain of a slot of no run, of a slot of the only run and of a retry slot each meets one branch of
`State.grainIn`. -/
theorem receivedGrains : Obligations.ReceivedGrains := by
  unfold Obligations.ReceivedGrains
  intro s p k g rest hp y go
  refine ⟨exec_portGrainReceive_empty hp, fun hq hk h7 => ?_, exec_portGrainReceive_inactive hp⟩
  intro frame counted held
  have hnext : held = none → s.Receives p k g rest := fun hheld => ⟨hp, hq, hk, h7, hheld⟩
  refine ⟨fun h => received_held hp hq hk h7, fun w hheld => exec_portGrainReceive_late (hnext hheld), fun hr hheld => ?noRun,
    fun r x e n hr hheld hlate he hn hcore hidle hhere hres => ?onlyRun,
    fun n left hheld hexp hidle hcrc hhere hres hcond => received_copy (hnext hheld) hexp hidle hcrc hhere hres hcond⟩
  case noRun =>
    refine ⟨received_idle (hnext hheld) hr, fun hidle hcrc => received_dropped (hnext hheld) hr hcrc (.inl hidle),
      fun hidle hcrc hcond hres hcls => ⟨?hub, fun q => ?forwarded, ?unroutable⟩,
      fun hidle hcrc hhere hres => received_dropped (hnext hheld) hr hcrc (.inr ⟨hhere, hres⟩),
      fun cond hidle hcrc => received_malformed (hnext hheld) hr hidle hcrc⟩
    case hub => exact received_hub (hnext hheld) hr hidle hcrc hcond hres hcls
    case forwarded => exact received_forwarded (hnext hheld) hr hidle hcrc hcond hres hcls
    case unroutable => exact received_unroutable (hnext hheld) hr hidle hcrc hcond hres hcls
  case onlyRun =>
    exact ⟨received_delivered (hnext hheld) hr hlate he hn hcore hidle hhere hres,
      fun src seq => received_refused (hnext hheld) hr hlate he hn⟩

end Sys2Proof.Claims
end

section
/-!
The chain count (10 R274 to R280): when it is loaded, adopted, found within its bounds and lost.
-/

namespace Sys2Proof.Machine

section
variable (s : State)

/-! MASTER_LISTEN_TIMEOUT, SYNCED and SYNC_LOST -/

theorem exec_masterListenTimeout_idle (h : s.master = false ∨ s.chn.running = true ∨ s.chn.count < 400000) :
    exec .masterListenTimeout s = .next s :=
  if_pos (by obtain h | h | h := h <;> simp [h])

/-- After 2 ms a master asks a partner that reports SYNCED, or starts as the root (10 R280). -/
theorem exec_masterListenTimeout_due (hm : s.master = true) (hr : s.chn.running = false) (hn : 400000 ≤ s.chn.count) :
    exec .masterListenTimeout s = .next
      (if (List.range 32).any (fun q => (s.port q).active && (s.port q).farSynced) then
        { s with chn := { s.chn with asked := true } }
      else s.adoptCount 0) := by
  have hgo : ¬ (!s.master || s.chn.running || decide (s.chn.count < 400000)) = true := by simp [hm, hr, Nat.not_lt.2 hn]
  show execMasterListenTimeout s = _
  rw [execMasterListenTimeout, if_neg hgo]
  split <;> rfl

theorem exec_synced : exec .synced s = .next (if 1024 ≤ s.chn.okFrames ∧ s.chn.depth ≠ 15
    then { s with chn := { s.chn with synced := true } } else s) := by
  show execSynced s = _
  by_cases h : 1024 ≤ s.chn.okFrames ∧ s.chn.depth ≠ 15
  · rw [execSynced, if_pos (by simpa using h), if_pos h]
  · rw [execSynced, if_neg (by simpa using h), if_neg h]

/-- What SYNC_LOST watches for (10 R278). -/
def State.losesSync (why : SyncLoss) : Bool :=
  match why with
  | .offset => decide (24 < s.chn.theta.natAbs)
  | .silence => !s.parentPorts.isEmpty && decide (1024 ≤ s.chn.silent)

/-- A module that has lost its count (10 R278). -/
def State.syncGone : State :=
  { s with chn := { s.chn with synced := false, okFrames := 0, depth := 15, event := s.chn.event ||| 1 } }

theorem exec_syncLost (why : SyncLoss) :
    exec (.syncLost why) s = .next (if s.losesSync why = true ∧ s.chn.synced = true then s.syncGone else s) := by
  have hexec : exec (.syncLost why) s = if !s.losesSync why || !s.chn.synced then .next s else .next s.syncGone := by
    cases why <;> rfl
  rw [hexec]
  cases s.losesSync why <;> cases s.chn.synced <;> rfl

end

/-! CHAIN_FULL -/

section
variable {s : State} {p : Payload}

theorem exec_chainFull_other (h : bits p 0 8 ≠ 1 ∨ s.chn.depth ≠ 15) : exec (.chainFull p) s = .next s := by
  show execChainFull p s = _
  rw [execChainFull, State.mgmt]
  obtain h | h := h
  · rw [if_neg h]
  · dsimp only
    rw [bne_iff_ne.2 h, Bool.true_or, if_pos rfl, ite_self]

/-- The port of the module that is to give the count: the parent's, or the partner's that a master has asked (10 R278, R280). -/
def State.countPort (s : State) (p : Payload) : Option Nat :=
  if s.master then (if s.chn.asked then s.portTo (bits p 16 16) else none) else s.parentPort

/-- The count waits for the control grain of its frame (log 96). -/
def State.countWaits (s : State) (p : Payload) : State :=
  { s with chn := { s.chn with full := some (bits p 192 16, bits p 128 64) } }

variable (ht : bits p 0 8 = 1)
include ht

/-- A master that has not asked takes no count. -/
theorem exec_chainFull_unasked (hm : s.master = true) (hf : s.countPort p = none) : exec (.chainFull p) s = .next s := by
  have hf' : (if s.master then (if s.chn.asked then s.portTo (mgmtSender p) else none) else s.parentPort) = none := hf
  show execChainFull p s = _
  rw [execChainFull, State.mgmt, if_pos ht]
  dsimp only
  rw [hf', if_pos (by simp [hm])]

variable (hd : s.chn.depth = 15)
include hd

/-- No port has heard the frame that the grain names last. -/
theorem exec_chainFull_waits (hm : s.master = true → s.countPort p ≠ none)
    (h : ∀ q h, s.countPort p = some q → (s.port q).lastHeard = some h → h.1.toNat ≠ bits p 192 16) :
    exec (.chainFull p) s = .next (s.countWaits p) := by
  have hf' : (if s.master then (if s.chn.asked then s.portTo (mgmtSender p) else none) else s.parentPort) =
    s.countPort p := rfl
  show execChainFull p s = _
  rw [execChainFull, State.mgmt, if_pos ht]
  dsimp only
  rw [hf']
  cases hq : s.countPort p with
  | none =>
    have hm' : s.master = false := Bool.eq_false_iff.2 fun hm' => hm hm' hq
    simp [hd, hm', State.countWaits]
  | some q =>
    have hlast : (s.port q).lastHeard.any (fun h => h.1.toNat == bits p 192 16) = false := by
      cases hl : (s.port q).lastHeard with
      | none => rfl
      | some x => simpa using h q x hq hl
    simp [hd, hlast, State.countWaits]

/-- The port has: the count is loaded, or adopted by a master from a partner that is SYNCED. -/
theorem exec_chainFull_heard {q : Nat} {h : BitVec 16 × Nat} (hq : s.countPort p = some q)
    (hl : (s.port q).lastHeard = some h) (hf : h.1.toNat = bits p 192 16) : exec (.chainFull p) s = .next
      (if s.master then (if (s.port q).farSynced then s.adoptCount (bits p 128 64) else s)
      else s.loadCount (bits p 128 64) (s.port q).depth.toNat) := by
  have hf' : (if s.master then (if s.chn.asked then s.portTo (mgmtSender p) else none) else s.parentPort) = some q := hq
  have hlast : (s.port q).lastHeard.any (fun h => h.1.toNat == bits p 192 16) = true := by simp [hl, hf]
  show execChainFull p s = _
  rw [execChainFull, State.mgmt, if_pos ht]
  simp [hf', hd, hlast]

end

end Sys2Proof.Machine
end

section
/-!
Holds (10 R288 to R290): the hold grains that go on, what a hold extends, and what a late one stalls.
-/

namespace Sys2Proof.Machine

/-! The hold grains -/

theorem foldl_queueOut (g : Nat → Nat → Grain) (qs : List Nat) (s : State) :
    qs.foldl (fun s q => s.queueOut q (g s.moduleId q)) s = { s with lnk := { s.lnk with
      routerQ := s.lnk.routerQ ++ qs.map (fun q => (q, s.chn.count, g s.moduleId q)) } } := by
  induction qs generalizing s with
  | nil => simp
  | cons q qs ih =>
    rw [List.foldl_cons, ih]
    simp only [State.queueOut, List.map_cons, List.append_assoc, List.singleton_append]
    rfl

/-- The grains of a hold that goes on to every active port but one (10 R289), as they stand at the router. -/
def State.holdGrains (s : State) (p : Payload) (except : Nat) : List (Nat × Nat × Grain) :=
  ((List.range 32).filter (fun q => q != except && (s.port q).st == 7)).map (fun q => (q, s.chn.count,
    mkGrain (partnerOf (s.moduleId / 16) (s.moduleId % 16) q).1 0x3FC 0 2 false false p))

theorem State.flood_eq (s : State) (p : Payload) (except : Nat) :
    s.flood p except = { s with lnk := { s.lnk with routerQ := s.lnk.routerQ ++ s.holdGrains p except } } :=
  foldl_queueOut (fun m q => mkGrain (partnerOf (m / 16) (m % 16) q).1 0x3FC 0 2 false false p) _ s

theorem State.sawHold_contains (s : State) (job : DWord) (f index : Nat) :
    (s.sawHold job f index).chn.holdsSeen.contains (job, f, index) = true := by
  simp [State.sawHold]

/-! The extension of a furlong -/

/-- A run of which a hold extends furlong f to `index` (10 R289), counted (02 R53). -/
def Run.held (x : Run) (f index : Nat) : Run :=
  { x with
    exts := kset x.exts f (max index (kget 0 x.exts f))
    counts := { x.counts with hold := x.counts.hold + 1 } }

/-- The state in which a hold has extended run r, which was x. -/
def State.holdCounted (s : State) (r : Nat) (x : Run) (f index : Nat) : State :=
  { s with det := { s.det with hold := s.det.hold.add 1 } }.setRun r (x.held f index)

theorem State.countHold_extend (s : State) (r : Nat) (x : Run) (f index : Nat) :
    (s.setRun r (x.extend f index)).countHold r = s.holdCounted r x f index := by
  have hx : ({ s.setRun r (x.extend f index) with det := { s.det with hold := s.det.hold.add 1 } } : State).run? r =
    some (x.extend f index) := State.run?_setRun_self ..
  have heq := State.modRun_eq hx (fun x => { x with counts := { x.counts with hold := x.counts.hold + 1 } })
  refine heq.trans ?_
  simp only [State.setRun, kset_kset, State.holdCounted]
  rfl

theorem State.holdCounted_run? (s : State) (r : Nat) (x : Run) (f index : Nat) :
    (s.holdCounted r x f index).run? r = some (x.held f index) := State.run?_setRun_self ..

theorem Run.held_ext (x : Run) (f index : Nat) : kget 0 (x.held f index).exts f = max index (kget 0 x.exts f) :=
  kget_kset_self ..

/-! A hold at a run -/

/-- The extension that a hold adds to a run, in core cycles. -/
def State.addedCc (s : State) (x : Run) (f index : Nat) : Nat := (index - kget 0 x.exts f) * s.extCc x

/-- A hold for a furlong whose original end has passed is recorded as late (10 R290). -/
def Chn.holdLate (c : Chn) : Chn := { c with lateHold := satAdd c.lateHold 1, event := c.event ||| 16 }

/-- What moves in a run of which a furlong that is over is extended by n core cycles, k frames (10 R290). -/
def Run.movedBy (n k : Nat) (y : Run) : Run :=
  { y with exempt := y.exempt + n, openAt := y.openAt + n, lateBy := y.lateBy + k }

section
variable {s : State} {r f index : Nat} {x : Run} (hx : s.run? r = some x) (hp : x.phase = .active)
include hx hp

/-- Where the furlong is still open, the hold extends it; it may be late none the less. -/
theorem State.holdFor_open (hf : x.furlong ≤ f) :
    ∃ c, s.holdFor r f index = { s.holdCounted r x f index with chn := c } ∧ (c = s.chn ∨ c = s.chn.holdLate) ∧
      (x.furlong < f ∨ s.clk < x.openAt + x.furlongCc → c = s.chn) := by
  have hphase : (x.phase != .active) = false := by simp [hp]
  unfold State.holdFor
  rw [hx]
  dsimp only
  rw [hphase, if_neg Bool.false_ne_true, State.countHold_extend, if_pos hf]
  split
  next hlate =>
    refine ⟨s.chn.holdLate, rfl, .inr rfl, fun h => ?_⟩
    simp only [Bool.or_eq_true, Bool.and_eq_true, beq_iff_eq, decide_eq_true_eq] at hlate
    omega
  · exact ⟨s.chn, rfl, .inl rfl, fun _ => rfl⟩

/-- Where it has passed, the module stalls at once for the whole extension. -/
theorem State.holdFor_late (hf : f < x.furlong) : s.holdFor r f index =
    ({ s.holdCounted r x f index with chn := s.chn.holdLate }.stallNow (s.addedCc x f index)).modRun r
      (Run.movedBy (s.addedCc x f index) ((index - kget 0 x.exts f) * x.tun.holdFrames)) := by
  have hphase : (x.phase != .active) = false := by simp [hp]
  unfold State.holdFor
  rw [hx]
  dsimp only
  rw [hphase, if_neg Bool.false_ne_true, State.countHold_extend, if_neg (Nat.not_le.2 hf), if_pos (by simp [hf])]
  rfl

end

/-- A hold is a matter of its run, of the counts and of the stalls. -/
theorem State.holdFor_eq (s : State) (r f index : Nat) : s.holdFor r f index = { s with
    runs := (s.holdFor r f index).runs, det := (s.holdFor r f index).det, stalls := (s.holdFor r f index).stalls
    chn := { s.chn with
      lateHold := (s.holdFor r f index).chn.lateHold, event := (s.holdFor r f index).chn.event } } := by
  cases hx : s.run? r with
  | none => simp only [State.holdFor, hx]
  | some x =>
    by_cases hp : x.phase = .active
    · by_cases hf : x.furlong ≤ f
      · obtain ⟨c, hc, rfl | rfl, -⟩ := State.holdFor_open hx hp (index := index) hf <;> rw [hc] <;> rfl
      · rw [State.holdFor_late hx hp (Nat.not_le.1 hf), State.modRun]
        split <;> rfl
    · simp [State.holdFor, hx, hp]

/-- A stall that begins now is counted in the only run, where it is active (02 R53). -/
theorem State.stallNow_sole {s : State} {r : Nat} {x : Run} (hr : s.runs = [(r, x)]) (hp : x.phase = .active) (n : Nat) :
    (s.stallNow n).runs =
      [(r, { x with counts := { x.counts with stallCc := x.counts.stallCc + (n - (s.stallsAt s.pos).2) } })] := by
  simp [State.stallNow, State.countStall, hr, kmap, hp]

section
variable {s : State} {r f index : Nat} {x : Run} (hr : s.runs = [(r, x)]) (hp : x.phase = .active)
include hr hp

theorem State.holdFor_sole_open (hf : x.furlong ≤ f) : (s.holdFor r f index).run? r = some (x.held f index) ∧
    (s.holdFor r f index).det = { s.det with hold := s.det.hold.add 1 } ∧
    (x.furlong < f ∨ s.clk < x.openAt + x.furlongCc → (s.holdFor r f index).chn = s.chn) := by
  obtain ⟨c, hc, -, hsame⟩ := State.holdFor_open (State.run?_sole hr) hp (index := index) hf
  rw [hc]
  exact ⟨s.holdCounted_run? r x f index, rfl, hsame⟩

theorem State.holdFor_sole_late (hf : f < x.furlong) : let d := s.addedCc x f index - (s.stallsAt s.pos).2
    (s.holdFor r f index).run? r = some (Run.movedBy (s.addedCc x f index) ((index - kget 0 x.exts f) * x.tun.holdFrames)
      { x.held f index with counts := { (x.held f index).counts with stallCc := x.counts.stallCc + d } }) ∧
    (s.holdFor r f index).det = { s.det with hold := s.det.hold.add 1, stallCc := s.det.stallCc.add d } ∧
    (s.holdFor r f index).chn = s.chn.holdLate := by
  have hruns : (s.holdCounted r x f index).runs = [(r, x.held f index)] := State.setRun_sole hr _
  have hmod := State.modRun_sole (State.stallNow_sole (s := { s.holdCounted r x f index with chn := s.chn.holdLate }) hruns hp
    (s.addedCc x f index)) (Run.movedBy (s.addedCc x f index) ((index - kget 0 x.exts f) * x.tun.holdFrames))
  refine ⟨?_, ?_, ?_⟩
  · rw [State.holdFor_late (State.run?_sole hr) hp hf]
    exact State.run?_sole hmod
  · rw [State.holdFor_late (State.run?_sole hr) hp hf, State.modRun]
    split <;> rfl
  · rw [State.holdFor_late (State.run?_sole hr) hp hf, State.modRun_chn]
    rfl

end

/-! HOLD -/

section
variable {s : State} {p : Nat} {pl : Payload}

/-- The identity of the hold that a hold grain carries (10 R288). -/
def holdId (pl : Payload) : DWord × Nat × Nat := (BitVec.ofNat 64 (bits pl 0 64), bits pl 64 32, bits pl 96 8)

/-- The state in which a hold has been seen and has gone on. -/
def State.passedOn (s : State) (p : Nat) (pl : Payload) : State :=
  (s.sawHold (holdId pl).1 (holdId pl).2.1 (holdId pl).2.2).flood pl p

theorem State.passedOn_eq (s : State) (p : Nat) (pl : Payload) :
    s.passedOn p pl = { s.sawHold (holdId pl).1 (holdId pl).2.1 (holdId pl).2.2 with
      lnk := { s.lnk with routerQ := s.lnk.routerQ ++ s.holdGrains pl p } } := State.flood_eq ..

variable (hp : p < 32)
include hp

theorem exec_hold_seen (h : s.chn.holdsSeen.contains (holdId pl) = true) : exec (.hold p pl) s = .next s := by
  show execHold p pl s = _
  rw [execHold, if_neg (Nat.not_le.2 hp)]
  exact if_pos h

theorem exec_hold_new (h : s.chn.holdsSeen.contains (holdId pl) = false) : exec (.hold p pl) s = .next
    (((s.runs.filter (fun e => e.2.job == (holdId pl).1)).map (fun e => e.1)).foldl
      (fun s r => s.holdFor r (holdId pl).2.1 (holdId pl).2.2) (s.passedOn p pl)) := by
  have hruns : (s.passedOn p pl).runs = s.runs := by
    rw [State.passedOn_eq]
    rfl
  show execHold p pl s = _
  rw [execHold, if_neg (Nat.not_le.2 hp)]
  dsimp only
  rw [if_neg (by simpa [holdId] using h), ← hruns]
  rfl

end

end Sys2Proof.Machine
end

section
/-!
The obligation on the chain count and holds, from the commands' rules.
-/

namespace Sys2Proof.Claims

open Sys2Proof.Machine

section
variable {s : State} {p : Nat} {pl : Payload} {r : Nat} {x : Run}

/-- A hold that is new changes only the run that it extends, the counts, the stalls and the router. -/
theorem hold_frame (hp : p < 32) (h : s.chn.holdsSeen.contains (holdId pl) = false) :
    ∃ u : State, exec (.hold p pl) s = .next u ∧ u.chn.holdsSeen.contains (holdId pl) = true ∧ u.cores = s.cores ∧
      u.lnk = { s.lnk with routerQ := s.lnk.routerQ ++ s.holdGrains pl p } := by
  have hkeep : ∀ {β : Type} (φ : State → β), (∀ u q, φ (u.holdFor q (holdId pl).2.1 (holdId pl).2.2) = φ u) → ∀ rs : List Nat,
      φ (rs.foldl (fun u q => u.holdFor q (holdId pl).2.1 (holdId pl).2.2) (s.passedOn p pl)) = φ (s.passedOn p pl) :=
    fun φ hφ rs => foldl_keeps φ hφ rs _
  refine ⟨_, exec_hold_new hp h, ?_, ?_, ?_⟩
  · rw [hkeep (fun u => u.chn.holdsSeen.contains (holdId pl)) fun u q => by rw [State.holdFor_eq], State.passedOn_eq]
    exact s.sawHold_contains ..
  · rw [hkeep State.cores fun u q => by rw [State.holdFor_eq], State.passedOn_eq]
    rfl
  · rw [hkeep State.lnk fun u q => by rw [State.holdFor_eq], State.passedOn_eq]

/-- Of the only run a new hold is that of `State.holdFor`. -/
theorem hold_sole (hp : p < 32) (h : s.chn.holdsSeen.contains (holdId pl) = false) (hr : s.runs = [(r, x)])
    (hj : x.job = (holdId pl).1) :
    exec (.hold p pl) s = .next ((s.passedOn p pl).holdFor r (holdId pl).2.1 (holdId pl).2.2) := by
  rw [exec_hold_new hp h, hr, List.filter_cons_of_pos (by simp [hj])]
  rfl

end

/-- Settles O47: each command of the chain count is read off its rule, and a hold goes on and extends its run by
`State.holdFor_sole_open` or `State.holdFor_sole_late`. -/
theorem chainAndHolds : Obligations.ChainAndHolds := by
  unfold Obligations.ChainAndHolds
  intro s p pl
  refine ⟨exec_masterListenTimeout_idle s, fun hm hr hn => ⟨?asks, ?starts⟩, exec_synced s, ⟨?offset, ?silence⟩,
    exec_chainFull_other, fun ht hd => ⟨fun hm => ⟨fun q h hq hl hf => ?loads, fun h => ?waits⟩,
      fun hm ha => ?unasked, fun q hm ha hq => ⟨fun h hl hf hsync => ?adopts, fun h => ?masterWaits⟩⟩,
    fun hp => ⟨exec_hold_seen hp, fun hnew => ⟨hold_frame hp hnew, fun r x hr hj hphase => ?held⟩⟩⟩
  case asks =>
    rintro ⟨q, hq, hst, hfar⟩
    rw [exec_masterListenTimeout_due s hm hr hn,
      if_pos (List.any_eq_true.2 ⟨q, List.mem_range.2 hq, by simp [Port.active, hst, hfar]⟩)]
  case starts =>
    intro h
    rw [exec_masterListenTimeout_due s hm hr hn, if_neg]
    · rfl
    · rw [List.any_eq_true]
      rintro ⟨q, hq, hsync⟩
      obtain ⟨hst, hfar⟩ : (s.port q).st = 7 ∧ (s.port q).farSynced = true := by simpa [Port.active] using hsync
      rw [h q (List.mem_range.1 hq) hst] at hfar
      cases hfar
  case offset => simpa [State.losesSync, State.syncGone] using exec_syncLost s .offset
  case silence => simpa [State.losesSync, State.syncGone, and_assoc] using exec_syncLost s .silence
  case loads =>
    have hfrom : s.countPort pl = some q := by simpa [State.countPort, hm] using hq
    rw [exec_chainFull_heard ht hd hfrom hl hf, hm]
    rfl
  case waits =>
    have hfrom : s.countPort pl = s.parentPort := by simp [State.countPort, hm]
    exact exec_chainFull_waits ht hd (by simp [hm]) fun q y hq => h q y (hfrom ▸ hq)
  case unasked => exact exec_chainFull_unasked ht hm (by simp [State.countPort, hm, ha])
  case adopts =>
    have hfrom : s.countPort pl = some q := by simpa [State.countPort, hm, ha] using hq
    rw [exec_chainFull_heard ht hd hfrom hl hf, if_pos hm, if_pos hsync]
    rfl
  case masterWaits =>
    have hfrom : s.countPort pl = some q := by simpa [State.countPort, hm, ha] using hq
    refine exec_chainFull_waits ht hd (fun _ => by simp [hfrom]) fun q' y hq' hl => ?_
    obtain rfl : q = q' := Option.some.inj (hfrom.symm.trans hq')
    exact h y hl
  case held =>
    have hexec := hold_sole hp hnew hr hj
    have hruns : (s.passedOn p pl).runs = [(r, x)] := by rw [State.passedOn_eq]; exact hr
    by_cases hf : x.furlong ≤ (holdId pl).2.1
    · obtain ⟨hrun, hdet, hchn⟩ := State.holdFor_sole_open hruns hphase (index := (holdId pl).2.2) hf
      rw [State.passedOn_eq] at hexec hrun hdet hchn
      refine ⟨_, _, hexec, hrun, x.held_ext .., rfl, by rw [hdet]; rfl, rfl,
        fun _ => ⟨by rw [hdet]; rfl, rfl, fun h => ?_⟩, fun h => absurd hf (Nat.not_le.2 h)⟩
      rw [hchn h]
      exact ⟨rfl, rfl⟩
    · obtain ⟨hrun, hdet, hchn⟩ := State.holdFor_sole_late hruns hphase (index := (holdId pl).2.2) (Nat.not_le.1 hf)
      rw [State.passedOn_eq] at hexec hrun hdet hchn
      exact ⟨_, _, hexec, hrun, x.held_ext .., rfl, by rw [hdet]; rfl, rfl, fun h => absurd h hf,
        fun _ => ⟨by rw [hchn]; rfl, by rw [hchn]; rfl, rfl, rfl, by rw [hdet]; rfl, rfl⟩⟩

end Sys2Proof.Claims
end

section
/-!
What is done for a run before its state is taken (08 R231; 14 R387): its arrays catch up and what it has on its way lands. None of
this adds or removes a run, or gives a core to another run or owner.
-/

namespace Sys2Proof.Machine

/-! The roster of a module -/

/-- The run and the owner of a core. -/
def Core.place (k : Core) : Option Nat × Option Nat := (k.run, k.owner)

/-- Which runs the module has, and the place of each core. -/
def State.roster (s : State) : (Nat → Bool) × (Nat → Option Nat × Option Nat) :=
  (fun r => (s.run? r).isSome, fun c => (s.core c).place)

theorem State.roster_eq {s u : State} (hr : ∀ r, (u.run? r).isSome = (s.run? r).isSome)
    (hc : ∀ c, (u.core c).place = (s.core c).place) : u.roster = s.roster :=
  Prod.ext (funext hr) (funext hc)

theorem State.run?_of_roster {s u : State} (h : u.roster = s.roster) (r : Nat) : (u.run? r).isSome = (s.run? r).isSome :=
  congrFun (congrArg Prod.fst h) r

theorem State.place_of_roster {s u : State} (h : u.roster = s.roster) (c : Nat) : (u.core c).place = (s.core c).place :=
  congrFun (congrArg Prod.snd h) c

/-- A change of neither the runs nor the cores. -/
theorem State.roster_of {s u : State} (hr : u.runs = s.runs) (hc : u.cores = s.cores) : u.roster = s.roster :=
  State.roster_eq (fun r => by rw [State.run?, hr, State.run?]) fun c => by rw [State.core, hc, State.core]

/-- A change of every run, or of some, where it stands. -/
theorem State.roster_kmap {s u : State} {f : Nat → Run → Run} (hr : u.runs = kmap f s.runs) (hc : u.cores = s.cores) :
    u.roster = s.roster :=
  State.roster_eq (fun r => by rw [State.run?, hr, kfind_kmap, Option.isSome_map, State.run?])
    fun c => by rw [State.core, hc, State.core]

theorem State.setRun_roster {s : State} {r : Nat} {x : Run} (h : s.run? r = some x) (y : Run) :
    (s.setRun r y).roster = s.roster := by
  refine State.roster_eq (fun q => ?_) fun _ => rfl
  by_cases hq : q = r
  · rw [hq, State.run?_setRun_self, h]
    rfl
  · rw [State.run?_setRun_ne _ _ hq]

@[simp] theorem State.modRun_roster (s : State) (r : Nat) (g : Run → Run) : (s.modRun r g).roster = s.roster := by
  unfold State.modRun
  split
  next h => exact State.setRun_roster h _
  · rfl

theorem State.setCore_roster {s : State} {c : Nat} {k : Core} (h : k.place = (s.core c).place) :
    (s.setCore c k).roster = s.roster := by
  refine State.roster_eq (fun _ => rfl) fun d => ?_
  by_cases hd : d = c
  · rw [hd, State.core_setCore, h]
  · rw [State.core_setCore_ne _ _ hd]

theorem State.modCore_roster {f : Core → Core} (h : ∀ k, (f k).place = k.place) (s : State) (c : Nat) :
    (s.modCore c f).roster = s.roster :=
  State.setCore_roster (h _)

theorem foldl_roster {α : Type} {f : State → α → State} (h : ∀ s a, (f s a).roster = s.roster) (xs : List α) (s : State) :
    (xs.foldl f s).roster = s.roster :=
  foldl_keeps State.roster h xs s

theorem State.SameButHost.roster {s u : State} (h : s.SameButHost u) : u.roster = s.roster :=
  State.roster_of h.runs h.cores

/-! Counts, stalls and endings -/

@[simp] theorem State.countStall_roster (s : State) (n : Nat) : (s.countStall n).roster = s.roster := State.roster_kmap rfl rfl

@[simp] theorem State.chargeRuns_roster (s : State) (g : RunCounts → RunCounts) : (s.chargeRuns g).roster = s.roster :=
  State.roster_kmap rfl rfl

@[simp] theorem State.passBack_roster (s : State) (p n : Nat) : (s.passBack p n).roster = s.roster := State.roster_kmap rfl rfl

@[simp] theorem State.stallNow_roster (s : State) (n : Nat) : (s.stallNow n).roster = s.roster :=
  State.countStall_roster { s with stalls := (s.stallNow n).stalls } _

@[simp] theorem State.stallPos_roster (s : State) (p n : Nat) : (s.stallPos p n).roster = s.roster := by
  unfold State.stallPos
  dsimp only
  split
  · exact State.countStall_roster ..
  · rw [State.passBack_roster]
    exact State.countStall_roster ..

@[simp] theorem State.stallAt_roster (s : State) (c t n : Nat) : (s.stallAt c t n).roster = s.roster := by
  unfold State.stallAt
  split <;> simp

@[simp] theorem State.countConflict_roster (s : State) : s.countConflict.roster = s.roster := State.chargeRuns_roster ..

@[simp] theorem State.await_roster (s : State) (c : Nat) (g : Nat × Nat × Nat) : (s.await c g).roster = s.roster := by
  unfold State.await
  split
  · rfl
  · dsimp only
    split
    · rfl
    · exact State.stallPos_roster ..

@[simp] theorem State.violation_roster (s : State) (c : Nat) : (s.violation c).roster = s.roster := (s.violation_same c).roster

@[simp] theorem State.endRunExit_roster (s : State) (c : Nat) (st : Byte) : (s.endRunExit c st).roster = s.roster := by
  unfold State.endRunExit
  split <;> simp

@[simp] theorem State.endDueOf_roster (s : State) (c : Nat) : (s.endDueOf c).roster = s.roster := by
  unfold State.endDueOf State.endRunDue
  split <;> simp

@[simp] theorem State.afterHalt_roster (s : State) (c : Nat) : (s.afterHalt c).roster = s.roster := by
  unfold State.afterHalt
  dsimp only
  split <;> simp

theorem Core.raised_place (k : Core) (code : Byte) (info : Word) (t : Nat) : (k.raised code info t).place = k.place := by
  have hlanded : ∀ k : Core, k.landed.place = k.place := fun k =>
    foldl_keeps Core.place (fun k w => by rw [Core.apply_eq]; rfl) k.pendW { k with pendW := [] }
  unfold Core.raised Core.recordPending
  dsimp only
  split
  · split
    · rfl
    · exact hlanded _
  · rfl

@[simp] theorem State.raiseAsyncAt_roster (s : State) (c : Nat) (code : Byte) (info : Word) (t : Nat) :
    (s.raiseAsyncAt c code info t).roster = s.roster := by
  have hcore := State.modCore_roster (f := fun k => k.raised code info t) (fun k => k.raised_place code info t) s c
  have hhalt : ∀ u : State, (if (u.core c).halted then u.afterHalt c else u).roster = u.roster := by
    intro u
    split <;> simp
  unfold State.raiseAsyncAt
  dsimp only
  split
  · rw [State.endDueOf_roster]
    exact (hhalt _).trans hcore
  · exact (hhalt _).trans hcore

/-! Operands and the matrix array -/

@[simp] theorem State.access_roster (s : State) (c t b : Nat) : (s.access c t b).roster = s.roster := by
  have hcore : (s.setCore c ((s.core c).access t b).1).roster = s.roster := State.setCore_roster rfl
  unfold State.access
  dsimp only
  split
  · rw [State.stallAt_roster, State.countConflict_roster, hcore]
  · exact hcore

@[simp] theorem State.accessAll_roster (s : State) (c t a n : Nat) : (s.accessAll c t a n).roster = s.roster :=
  foldl_roster (fun _ _ => State.access_roster ..) _ _

@[simp] theorem State.scaleAccess_roster (s : State) (c t a n : Nat) (unit : Bool) :
    (s.scaleAccess c t a n unit).roster = s.roster :=
  foldl_roster (fun _ _ => State.access_roster ..) _ _

@[simp] theorem State.portFetch_roster (s : State) (c h t a n : Nat) : (s.portFetch c h t a n).1.roster = s.roster := by
  unfold State.portFetch
  dsimp only
  split
  · exact State.modCore_roster (by intro k; rfl) s c
  · rw [State.raiseAsyncAt_roster]
    exact State.modCore_roster (by intro k; rfl) s c

@[simp] theorem State.stratRead_roster (s : State) (c a n : Nat) : (s.stratRead c a n).1.roster = s.roster := by
  unfold State.stratRead
  dsimp only
  split
  · exact State.modCore_roster (by intro k; rfl) s c
  · rw [State.endDueOf_roster]
    exact State.modCore_roster (by intro k; rfl) s c

@[simp] theorem State.loadRow_roster (s : State) (c : Nat) (o : Operand) (p : TileP) (row k0 cs t : Nat) (quiet : Bool) :
    (s.loadRow c o p row k0 cs t quiet).1.roster = s.roster := by
  simp only [State.loadRow]
  split
  · rw [foldl_keeps (fun y : State × Nat => y.1.roster) (fun _ _ => State.portFetch_roster ..)]
    dsimp only
    split <;> simp
  · split <;> simp

@[simp] theorem State.injectRow_roster (s : State) (c : Nat) (o : Operand) (p : TileP) (m0 k0 cs r t : Nat)
    (masked : Nat → Bool) (quiet : Bool) : (s.injectRow c o p m0 k0 cs r t masked quiet).roster = s.roster := by
  unfold State.injectRow
  split
  · rfl
  · split
    · exact State.modCore_roster (by intro k; rfl) s c
    · exact (State.modCore_roster (by intro k; rfl) _ c).trans (State.loadRow_roster ..)

@[simp] theorem State.injectRows_roster (s : State) (c : Nat) (o : Operand) (p : TileP) (m0 k0 cs l : Nat)
    (masked : Nat → Bool) (upto n : Nat) : (s.injectRows c o p m0 k0 cs l masked upto n).roster = s.roster := by
  induction n generalizing s with
  | zero => rfl
  | succ n ih => rw [State.injectRows, ih, State.injectRow_roster]

@[simp] theorem State.runLoad_roster (s : State) (c : Nat) (j : Job) (p : TileP) (upto : Option Nat) :
    (s.runLoad c j p upto).1.roster = s.roster := by
  refine (State.modCore_roster (by intro k; rfl) _ c).trans ?_
  cases upto <;> simp

/-- What remains of a job takes its place. -/
theorem State.putJob_roster (s : State) (c : Nat) (j : Job) (rest : List Job) :
    (s.modCore c (fun k => { k with arr := { k.arr with jobs := putJob k.arr.jobs j rest } })).roster = s.roster :=
  State.modCore_roster (by intro k; rfl) s c

@[simp] theorem State.landLoads_roster (s : State) (c w n : Nat) : (s.landLoads c w n).roster = s.roster := by
  induction n generalizing s with
  | zero => rfl
  | succ n ih =>
    unfold State.landLoads
    split
    · rfl
    · split
      · rfl
      · rw [ih, State.putJob_roster, State.runLoad_roster]

@[simp] theorem State.swapAt_roster (s : State) (c w : Nat) : (s.swapAt c w).roster = s.roster := by
  refine (State.modCore_roster (by intro k; rfl) _ c).trans ?_
  split <;> split <;> simp

@[simp] theorem State.streamAccess_roster (s : State) (c : Nat) (o : Operand) (p : TileP) (n t : Nat) (chs : List Nat) :
    (s.streamAccess c o p n t chs).roster = s.roster := by
  have hfold : ∀ (f : Nat → Nat × Nat) (xs : List Nat) (s : State),
      (xs.foldl (fun s j => s.access c (f j).1 (f j).2) s).roster = s.roster :=
    fun f => foldl_roster (fun _ _ => State.access_roster ..)
  simp only [State.streamAccess]
  split
  · exact hfold (fun j => (t + j, weightPath)) _ _
  · rw [hfold (fun r => (t, spadBank (64 * r) + unitless)), hfold (fun r => (t, spadBank (64 * r)))]

@[simp] theorem State.subVector_roster (s : State) (c : Nat) (o : Operand) (p : TileP) (n ch t : Nat) :
    (s.subVector c o p n ch t).1.roster = s.roster := by
  simp only [State.subVector]
  split <;> split <;> simp

@[simp] theorem State.enterGroup_roster (s : State) (c : Nat) (o : MatOp) (p : TileP) (st : SetP) (grp e : Nat) :
    (s.enterGroup c o p st grp e).roster = s.roster := by
  unfold State.enterGroup
  refine (State.setCore_roster ?_).trans ?_
  · rfl
  dsimp only
  rw [foldl_keeps (fun y : State × List (Nat × List Val) => y.1.roster) (fun _ _ => State.subVector_roster ..)]
  simp only [apply_ite State.roster, State.streamAccess_roster, ite_self]

@[simp] theorem State.runJob_roster (s : State) (c : Nat) (j : Job) (p : TileP) : (s.runJob c j p).1.roster = s.roster := by
  simp only [State.runJob]
  split
  · exact State.modCore_roster (by intro k; rfl) s c
  · split <;> simp

@[simp] theorem State.advance_roster (s : State) (c t : Nat) (col : Bool) (n : Nat) : (s.advance c t col n).roster = s.roster := by
  induction n generalizing s with
  | zero => rfl
  | succ n ih =>
    simp only [State.advance]
    split
    · rfl
    · split
      · rfl
      · split
        · rfl
        · split
          · exact State.await_roster ..
          · rw [ih, State.putJob_roster, State.runJob_roster]

@[simp] theorem State.arrayAt_roster (s : State) (c t : Nat) : (s.arrayAt c t).roster = s.roster := State.advance_roster ..

@[simp] theorem State.catchUp_roster (s : State) (r : Nat) (x : Run) : (s.catchUp r x).roster = s.roster :=
  (State.roster_of (State.reportRaces_runs ..) (State.reportRaces_cores ..)).trans
    (foldl_roster (fun _ _ => State.arrayAt_roster ..) _ _)

/-! Grains -/

@[simp] theorem State.retain_roster (s : State) (r port : Nat) (g : Grain) : (s.retain r port g).roster = s.roster := by
  unfold State.retain
  split
  · rfl
  next h => exact State.setRun_roster h _

theorem State.sendRouted_cores (s : State) (g : Grain) : (s.sendRouted g).cores = s.cores := by
  unfold State.sendRouted
  split
  · split <;> rfl
  · split <;> rfl

@[simp] theorem State.moveOn_roster (s : State) (f : Flight) : (s.moveOn f).roster = s.roster := by
  unfold State.moveOn
  split <;> rfl

@[simp] theorem State.beArrive_roster (s : State) (b : BeGrain) (p : Nat) : (s.beArrive b p).roster = s.roster := by
  unfold State.beArrive
  dsimp only
  split
  · exact State.roster_of (State.sendRouted_runs ..) (s.sendRouted_cores _)
  · rfl

@[simp] theorem State.hostAct_roster (s : State) (r : Nat) (x : Run) (p : Payload) (t : Nat) :
    (s.hostAct r x p t).roster = s.roster := by
  have hput : (s.hostPut r x p t).roster = s.roster := by
    unfold State.hostPut
    dsimp only
    split
    · rfl
    · split
      · rfl
      · split
        · rfl
        · exact State.modRun_roster ..
  unfold State.hostAct
  split
  · rfl
  · split
    case h_3 => exact hput
    all_goals rfl

@[simp] theorem State.creditBack_roster (s : State) (c p t : Nat) : (s.creditBack c p t).roster = s.roster := by
  unfold State.creditBack
  split
  · exact State.violation_roster ..
  · split
    · exact State.violation_roster ..
    · exact State.modCore_roster (by intro k; rfl) s c

@[simp] theorem State.syncApply_roster (s : State) (r e t : Nat) : (s.syncApply r e t).roster = s.roster := by
  have hflag : ∀ p rank val, (s.flagOp p none rank t val).roster = s.roster := fun _ _ _ =>
    State.roster_of (State.flagOp_runs ..) (State.flagOp_cores ..)
  have hbarr : ∀ p g, (s.modBarr p g).roster = s.roster := fun _ _ =>
    State.roster_of (State.modBarr_runs ..) (State.modBarr_cores ..)
  unfold State.syncApply
  dsimp only
  split
  case h_1 | h_2 =>
    split
    · exact hflag ..
    · rfl
  case h_3 =>
    split
    · exact State.creditBack_roster ..
    · rfl
  case h_4 | h_5 =>
    split
    · exact hbarr ..
    · rfl
  case h_6 => rfl

@[simp] theorem State.syncEntries_roster (s : State) (r t pl n : Nat) : (s.syncEntries r t pl n).roster = s.roster := by
  induction n generalizing s pl with
  | zero => rfl
  | succ n ih => rw [State.syncEntries, ih, State.syncApply_roster]

@[simp] theorem State.hubAct_roster (s : State) (r : Nat) (f : Flight) : (s.hubAct r f).roster = s.roster := by
  unfold State.hubAct
  split
  · rfl
  · split
    · exact State.hostAct_roster ..
    · split
      · rfl
      · exact State.syncEntries_roster ..

/-- A landing acts at its core, which keeps its place (09 R243). -/
@[simp] theorem State.land_roster (s : State) (c : Nat) (f : Flight) (how : Landing) : (s.land c f how).roster = s.roster := by
  have hwarned : (s.warned c f how).roster = s.roster := by
    have hcrc : (s.ringCrc (f.failed how)).roster = s.roster := by
      unfold State.ringCrc
      split <;> rfl
    unfold State.warned
    dsimp only
    split
    · rw [State.raiseAsyncAt_roster, hcrc]
    · exact hcrc
  cases h : kfind (s.core c).streams (Grain.stream f.g) with
  | none => rw [State.land_unknown _ _ _ _ h, State.violation_roster, hwarned]
  | some e =>
    have hnext : ((s.warned c f how).expectNext c (Grain.stream f.g) e).roster = s.roster :=
      (State.modCore_roster (by intro k; rfl) _ c).trans hwarned
    obtain ⟨-, hu⟩ | ⟨-, -, n, hu⟩ | ⟨-, ls, hu⟩ := s.land_cases c f how h
    · rw [hu, State.violation_roster, hnext]
    · rw [hu]
      exact (State.modCore_roster (by intro k; rfl) _ c).trans ((State.access_roster ..).trans hnext)
    · have hbank := (State.modCore_roster (f := fun k => k.bankAt e.bank (f.t + 9) (.partials ls)) (by intro k; rfl)
        ((s.warned c f how).expectNext c (Grain.stream f.g) e) c).trans hnext
      obtain hu | hu := hu
      · rw [hu, hbank]
      · rw [hu, State.violation_roster, hbank]

@[simp] theorem State.landAll_roster (s : State) (r : Nat) (x : Run) (cores : Bool) : (s.landAll r x cores).roster = s.roster := by
  simp only [State.landAll]
  rw [foldl_roster]
  · refine (foldl_roster (fun s f => ?_) _ _).trans ?_
    · split
      · exact State.hubAct_roster ..
      · split
        · exact State.land_roster ..
        · rfl
    · rw [foldl_roster (fun _ _ => State.beArrive_roster ..), foldl_roster (fun _ _ => State.moveOn_roster ..)]
      rfl
  · intro s o
    split
    · split
      · split
        · rfl
        · exact State.retain_roster ..
      · rfl
    · rfl

@[simp] theorem State.letGo_roster (s : State) (r : Nat) : (s.letGo r).roster = s.roster := by
  unfold State.letGo
  split
  · split <;> rfl
  · rfl

end Sys2Proof.Machine
end

section
/-!
The core cycles that pass (02 R40, R41): where the module stands after each, and what they leave of a run.
-/

namespace Sys2Proof.Machine

section
variable {s : State}

/-- A stall cycle that is still to pass has been counted already. -/
theorem State.cycle_owed (h : 0 < (s.stallsAt s.pos).2) : s.cycle = { s.stallPasses with
    clk := s.clk + 1, stalls := kset s.stalls s.pos ((s.stallsAt s.pos).1, (s.stallsAt s.pos).2 - 1) } :=
  if_pos h

theorem State.cycle_stalled (h : (s.stallsAt s.pos).2 = 0) (hs : s.stallStands = true) :
    s.cycle = { s.stallPasses.countStall 1 with
      clk := s.clk + 1, stalls := kset s.stalls s.pos ((s.stallsAt s.pos).1 + 1, 0) } := by
  unfold State.cycle
  dsimp only
  rw [if_neg (by omega), if_pos hs]

theorem State.cycle_free (h : (s.stallsAt s.pos).2 = 0) (hs : s.stallStands = false) : s.cycle = { s with clk := s.clk + 1 } := by
  unfold State.cycle
  dsimp only
  rw [if_neg (by omega), if_neg (by rw [hs]; exact Bool.false_ne_true)]

/-- A cycle in which the module is stalled leaves it at its position. -/
theorem State.pos_stalled {u : State} (hc : u.clk = s.clk + 1) (ht : u.stallTot = s.stallTot + 1) : u.pos = s.pos := by
  rw [State.pos, hc, ht, State.pos]
  omega

theorem State.cycle_owed_keeps (h : 0 < (s.stallsAt s.pos).2) : s.cycle.pos = s.pos ∧ s.cycle.det = s.det ∧
    (s.cycle.stallsAt s.pos).2 + 1 = (s.stallsAt s.pos).2 := by
  rw [State.cycle_owed h]
  refine ⟨State.pos_stalled rfl rfl, rfl, ?_⟩
  rw [State.stallsAt, kget_kset_self]
  exact Nat.sub_add_cancel h

end

/-! Runs -/

/-- Of a run, only what stall cycles touch may differ. -/
def Run.SameButStalls (x y : Run) : Prop :=
  y = { x with
    stallK := y.stallK, exempt := y.exempt, lateBy := y.lateBy
    counts := { x.counts with stallCc := y.counts.stallCc } }

theorem Run.SameButStalls.trans {x y z : Run} (h : x.SameButStalls y) (h' : y.SameButStalls z) : x.SameButStalls z := by
  rw [Run.SameButStalls, h', h]

theorem kmap_kmap {α : Type} (f g : Nat → α → α) (m : KMap α) : kmap f (kmap g m) = kmap (fun k x => f k (g k x)) m := by
  induction m with
  | nil => rfl
  | cons p m ih => simp [kmap, ih]

theorem kmap_id {α : Type} (m : KMap α) : kmap (fun _ x => x) m = m := by
  induction m with
  | nil => rfl
  | cons p m ih => simp [kmap, ih]

theorem State.cycle_runs (s : State) :
    ∃ f : Nat → Run → Run, (∀ (k : Nat) (x : Run), x.SameButStalls (f k x)) ∧ s.cycle.runs = kmap f s.runs := by
  have hpass : ∀ (k : Nat) (x : Run), x.SameButStalls (if (x.phase != .active || s.boundaryHeld x) = true then x
      else if 0 < x.exempt then { x with exempt := x.exempt - 1, lateBy := if x.exempt = 1 then 0 else x.lateBy }
      else { x with stallK := x.stallK + 1 }) := by
    intro k x
    split
    · rfl
    · split <;> rfl
  have hcount : ∀ x : Run, x.SameButStalls (if x.phase = .active then
      { x with counts := { x.counts with stallCc := x.counts.stallCc + 1 } } else x) := by
    intro x
    split <;> rfl
  by_cases howed : 0 < (s.stallsAt s.pos).2
  · rw [State.cycle_owed howed]
    exact ⟨_, hpass, rfl⟩
  · by_cases hs : s.stallStands = true
    · rw [State.cycle_stalled (by omega) hs]
      exact ⟨_, fun k x => (hpass k x).trans (hcount _), kmap_kmap _ _ s.runs⟩
    · rw [State.cycle_free (by omega) (Bool.not_eq_true _ ▸ hs)]
      exact ⟨fun _ x => x, fun _ _ => rfl, (kmap_id _).symm⟩

/-- Core cycles change every run where it stands, and only what stall cycles touch. -/
theorem State.cycles_runs (n : Nat) (s : State) :
    ∃ f : Nat → Run → Run, (∀ (k : Nat) (x : Run), x.SameButStalls (f k x)) ∧ (s.cycles n).runs = kmap f s.runs := by
  induction n generalizing s with
  | zero => exact ⟨fun _ x => x, fun _ _ => rfl, (kmap_id _).symm⟩
  | succ n ih =>
    obtain ⟨f, hf, hruns⟩ := s.cycle_runs
    obtain ⟨g, hg, hrest⟩ := ih s.cycle
    refine ⟨fun k x => g k (f k x), fun k x => (hf k x).trans (hg k _), ?_⟩
    rw [State.cycles, hrest, hruns, kmap_kmap]

end Sys2Proof.Machine
end

section
/-!
FURLONG_BOUNDARY (10 R285, R287): the boundary opens the next furlong, ends the run, or saves it.
-/

namespace Sys2Proof.Machine

/-! What changes only at boundaries -/

/-- Changes of one die after another. -/
theorem foldl_hg {f : State → Nat → State} (h : ∀ s d, f s d = { s with hg := (f s d).hg }) (ds : List Nat) (s : State) :
    ds.foldl f s = { s with hg := (ds.foldl f s).hg } := by
  induction ds generalizing s with
  | nil => rfl
  | cons d ds ih =>
    rw [List.foldl_cons, ih, h s d]

/-- A change of the power state is a matter of PWR_STATE, of what it records, and of the dies' refresh (12 R331, R337). -/
theorem State.powerTo_eq (s : State) (st : BitVec 3) : s.powerTo st = { s with
    hg := (s.powerTo st).hg
    pwr := { s.pwr with
      st := (s.powerTo st).pwr.st, last := (s.powerTo st).pwr.last, event := (s.powerTo st).pwr.event
      lastOut := (s.powerTo st).pwr.lastOut } } := by
  unfold State.powerTo
  split
  · rfl
  · dsimp only
    rw [foldl_hg (fun s d => by split <;> rfl)]

/-- Where the module was held it is Active again (12 R336), and nothing but its power state and its dies' refresh has changed. -/
theorem State.leaveHold_eq (s : State) : s.leaveHold = { s with
    hg := s.leaveHold.hg
    pwr := { s.pwr with
      st := s.leaveHold.pwr.st, last := s.leaveHold.pwr.last, event := s.leaveHold.pwr.event
      lastOut := s.leaveHold.pwr.lastOut, transition := s.leaveHold.pwr.transition, untilTk := s.leaveHold.pwr.untilTk } } := by
  unfold State.leaveHold State.toActive
  rw [State.powerTo_eq]

theorem State.leaveHold_st {s : State} (h : s.pwr.st = 1) : s.leaveHold.pwr.st = 0 :=
  (State.powerTo_pwr (s := s) (st := 0) (by rw [h]; decide)).1

theorem State.refreshRates_eq (s : State) (r : Nat) : s.refreshRates r = { s with hg := (s.refreshRates r).hg } :=
  foldl_hg (fun s d => by split <;> rfl) _ s

/-- A SEAL_DUTY stall is counted as an emergency, and begins (12 R329). -/
theorem State.sealDutyStall_eq (s : State) : s.sealDutyStall = { s with
    runs := s.sealDutyStall.runs, det := { s.det with emerg := s.sealDutyStall.det.emerg }
    pwr := { s.pwr with emerg := s.sealDutyStall.pwr.emerg, dutyLeft := s.sealDutyStall.pwr.dutyLeft } } := by
  unfold State.sealDutyStall
  split <;> rfl

@[simp] theorem State.sealDutyStall_cores (s : State) : s.sealDutyStall.cores = s.cores := by rw [State.sealDutyStall_eq]

@[simp] theorem State.sealDutyStall_core (s : State) (c : Nat) : s.sealDutyStall.core c = s.core c := by
  rw [State.core, State.sealDutyStall_cores, State.core]

theorem State.sealDutyStall_run? {s : State} {r : Nat} {x : Run} (h : s.run? r = some x) :
    ∃ n, s.sealDutyStall.run? r = some { x with counts := { x.counts with emerg := n } } := by
  unfold State.sealDutyStall
  split
  · exact ⟨x.counts.emerg, h⟩
  · have hrun : (s.countEmerg false).run? r = some (if x.phase = .active then
        { x with counts := { x.counts with emerg := x.counts.emerg + 1 } } else x) :=
      (kfind_kmap ..).trans (congrArg _ h)
    by_cases hp : x.phase = .active
    · exact ⟨x.counts.emerg + 1, hrun.trans (by rw [if_pos hp])⟩
    · exact ⟨x.counts.emerg, hrun.trans (by rw [if_neg hp])⟩

/-- What a step change may touch of a run. -/
def Run.SameButStep (x y : Run) : Prop :=
  y = { x with stepAt := y.stepAt, hubMark := y.hubMark, counts := { x.counts with stp := y.counts.stp } }

theorem State.settleBounds_pwr (s : State) : s.settleBounds.pwr.st = s.pwr.st ∧ s.settleBounds.pwr.cur = s.pwr.cur := by
  unfold State.settleBounds
  dsimp only
  split <;> exact ⟨rfl, rfl⟩

theorem State.stepDue_eq (s : State) (r f : Nat) : s.stepDue r f = { s with
    runs := (s.stepDue r f).runs, pwr := (s.stepDue r f).pwr, det := { s.det with stp := (s.stepDue r f).det.stp } } ∧
    (s.stepDue r f).pwr.st = s.pwr.st := by
  unfold State.stepDue
  split
  · exact ⟨rfl, rfl⟩
  · split
    · exact ⟨rfl, rfl⟩
    · dsimp only
      split
      · exact ⟨rfl, rfl⟩
      · split
        · exact ⟨by rw [State.settleBounds_eq]; rfl, (State.settleBounds_pwr _).1⟩
        · exact ⟨by rw [State.settleBounds_eq]; rfl, (State.settleBounds_pwr _).1⟩

/-- A run whose step change takes effect at a boundary (12 R320); n core cycles a tick were in force before. -/
def Run.stepped (x : Run) (n : Nat) : Run :=
  { x with
    stepAt := none, counts := { x.counts with stp := x.counts.stp + 1 }
    hubMark := (x.openAt, x.hubCycle n x.openAt) }

/-- The module at the new step. -/
def State.stepped (s : State) (r : Nat) (x : Run) (stp : BitVec 2) : State :=
  { s.setRun r (x.stepped (ccPerTick s.pwr.cur)) with
    pwr := { s.pwr with cur := stp }, det := { s.det with stp := s.det.stp.add 1 } }

/-- Bounds that take effect leave every run as it is. -/
theorem State.settleBounds_run? (s : State) (r : Nat) : s.settleBounds.run? r = s.run? r := by
  rw [State.run?, State.settleBounds_runs, State.run?]

section
variable {s : State} {r : Nat} {x : Run} (hx : s.run? r = some x)
include hx

theorem State.stepDue_run? (f : Nat) : ∃ y, (s.stepDue r f).run? r = some y ∧ x.SameButStep y := by
  unfold State.stepDue
  rw [hx]
  dsimp only
  split
  · exact ⟨x, hx, rfl⟩
  next g stp hg =>
    split
    · exact ⟨x, hx, rfl⟩
    · split
      · exact ⟨{ x with stepAt := none }, (State.settleBounds_run? ..).trans (State.run?_setRun_self ..), rfl⟩
      · exact ⟨x.stepped (ccPerTick s.pwr.cur),
          (State.settleBounds_run? (s.stepped r x stp) r).trans (State.run?_setRun_self ..), rfl⟩

/-- A step change that is not due, or an emergency that stands, leaves the step as it is (12 R330). -/
theorem State.stepDue_waits {f : Nat} (h : x.stepAt = none ∨ (∃ g stp, x.stepAt = some (g, stp) ∧ f < g) ∨ s.pwr.standing ≠ []) :
    s.stepDue r f = s := by
  unfold State.stepDue
  rw [hx]
  dsimp only
  split
  · rfl
  next g stp hg =>
    refine if_pos ?_
    obtain h | ⟨g', stp', h, hlt⟩ | h := h
    · rw [hg] at h
      cases h
    · rw [hg] at h
      cases h
      simp [hlt]
    · simp [h]

/-- A step change that is due and allowed takes effect (12 R320). -/
theorem State.stepDue_changes {f g : Nat} {stp : BitVec 2} (hg : x.stepAt = some (g, stp)) (hf : g ≤ f) (hs : s.pwr.standing = [])
    (hone : stp.toNat + 1 = s.pwr.cur.toNat ∨ s.pwr.cur.toNat + 1 = stp.toNat) (hsingle : s.singleRun = true)
    (hle : stp.toNat ≤ x.lnchStep.toNat) : s.stepDue r f = (s.stepped r x stp).settleBounds := by
  have hdue : ¬ (decide (g > f) || !s.pwr.standing.isEmpty) = true := by simp [hf, hs]
  have hgo : ¬ (!(stp.toNat + 1 == s.pwr.cur.toNat || s.pwr.cur.toNat + 1 == stp.toNat) || !s.singleRun ||
      decide (x.lnchStep.toNat < stp.toNat)) = true := by
    simpa [hsingle, Nat.not_lt.2 hle] using or_iff_not_imp_left.1 hone
  unfold State.stepDue
  rw [hx]
  dsimp only
  rw [hg]
  dsimp only
  rw [if_neg hdue, if_neg hgo]
  rfl

end

/-! The boundary -/

/-- The module at a boundary in cycle t: the cycles up to it have passed, and Hold has ended. -/
def State.atBoundary (s : State) (t : Nat) : State :=
  let u := s.cycles (t - s.clk)
  if u.pwr.st = 1 then u.leaveHold else u

section
variable (s : State) (t : Nat)

theorem State.atBoundary_eq : ∃ h p, s.atBoundary t = { s.cycles (t - s.clk) with hg := h, pwr := p } ∧
    p.st = (if s.pwr.st = 1 then 0 else s.pwr.st) ∧ p.cur = s.pwr.cur ∧ p.standing = s.pwr.standing := by
  have hpwr : (s.cycles (t - s.clk)).pwr = s.pwr := s.cycles_pwr _
  unfold State.atBoundary
  dsimp only
  by_cases hst : s.pwr.st = 1
  · have hheld : (s.cycles (t - s.clk)).pwr.st = 1 := by rw [hpwr, hst]
    rw [if_pos hheld, if_pos hst, State.leaveHold_eq]
    exact ⟨_, _, rfl, State.leaveHold_st hheld, (congrArg Pwr.cur hpwr :), (congrArg Pwr.standing hpwr :)⟩
  · rw [if_neg (by rw [hpwr]; exact hst), if_neg hst]
    exact ⟨_, _, rfl, congrArg Pwr.st hpwr, (congrArg Pwr.cur hpwr :), (congrArg Pwr.standing hpwr :)⟩

@[simp] theorem State.atBoundary_cores : (s.atBoundary t).cores = s.cores := by
  obtain ⟨h, p, heq, -⟩ := s.atBoundary_eq t
  rw [heq, ← s.cycles_cores (t - s.clk)]

theorem State.atBoundary_clk : (s.atBoundary t).clk = max s.clk t := by
  obtain ⟨h, p, heq, -⟩ := s.atBoundary_eq t
  rw [heq]
  exact (s.cycles_clk _).trans (by omega)

theorem State.atBoundary_runs : ∃ f : Nat → Run → Run, (∀ (k : Nat) (x : Run), x.SameButStalls (f k x)) ∧
    (s.atBoundary t).runs = kmap f s.runs := by
  obtain ⟨h, p, heq, -⟩ := s.atBoundary_eq t
  rw [heq]
  exact State.cycles_runs _ s

theorem State.atBoundary_run? {r : Nat} {x : Run} (hx : s.run? r = some x) :
    ∃ y, (s.atBoundary t).run? r = some y ∧ x.SameButStalls y := by
  obtain ⟨f, hf, hruns⟩ := s.atBoundary_runs t
  refine ⟨f r x, ?_, hf r x⟩
  rw [State.run?, hruns, kfind_kmap, show kfind s.runs r = some x from hx, Option.map_some]

end

/-- A run at the opening of furlong f in core cycle t, at position p. -/
def Run.opened (x : Run) (f t p : Nat) : Run :=
  { x with furlong := f, stallK := 0, holdsSent := 0, openAt := t, opens := kset x.opens f p }

/-- A core at the opening of its run's furlong: where it has not executed the furlong before, its schedule goes on from the
boundary, in schedule cycle q (10 R287). -/
def Core.boundary (k : Core) (r q : Nat) : Core := if k.run = some r then { k with scyc := max k.scyc q } else k

theorem Core.reset_boundary (r q : Nat) : Core.reset.boundary r q = Core.reset :=
  if_neg (show Core.reset.run ≠ some r from nofun)

theorem State.openFurlong_eq {s : State} {r : Nat} {x : Run} (hx : s.run? r = some x) (f t : Nat) :
    s.openFurlong r f t = { s.setRun r (x.opened f t (s.pos - (s.clk - t))) with
      cores := kmap (fun _ k => k.boundary r (f * x.furlongCc)) s.cores } := by
  unfold State.openFurlong
  rw [State.modRun_eq hx, hx]
  rfl

/-- A value of a changed table, where the change leaves the default as it is. -/
theorem kget_kmap {α : Type} {d : α} {f : Nat → α → α} (h : ∀ k, f k d = d) (m : KMap α) (k : Nat) :
    kget d (kmap f m) k = f k (kget d m k) := by
  rw [kget_eq_kfind, kget_eq_kfind, kfind_kmap]
  cases kfind m k with
  | none => exact (h k).symm
  | some v => rfl

theorem State.openFurlong_core {s : State} {r : Nat} {x : Run} (hx : s.run? r = some x) (f t c : Nat) :
    (s.openFurlong r f t).core c = (s.core c).boundary r (f * x.furlongCc) := by
  rw [State.openFurlong_eq hx]
  exact kget_kmap (f := fun _ k => k.boundary r (f * x.furlongCc)) (fun _ => Core.reset_boundary ..) s.cores c

theorem Core.boundary_place (k : Core) (r q : Nat) : (k.boundary r q).place = k.place := by
  unfold Core.boundary
  split <;> rfl

section
variable {s : State} {r : Nat} {x : Run} (hx : s.run? r = some x)
include hx

theorem exec_furlongBoundary_inactive (hp : x.phase ≠ .active) : exec (.furlongBoundary r) s = .next s := by
  show execFurlongBoundary r s = _
  simp only [execFurlongBoundary, hx]
  rw [if_pos (by simpa using hp)]

variable (hp : x.phase = .active) (hells : ∀ c, c ∈ s.coresOf r → (s.core c).ell = none)
include hp hells

theorem exec_furlongBoundary_early (h : s.clk + ccPerTick s.pwr.cur ≤ s.boundaryAt x) :
    exec (.furlongBoundary r) s = .next s := by
  have hbetween : (s.coresOf r).any (fun c => (s.core c).ell.isSome) = false :=
    List.any_eq_false.2 fun c hc => by simp [hells c hc]
  show execFurlongBoundary r s = _
  simp only [execFurlongBoundary, hx]
  rw [if_neg (by simp [hp]), hbetween, if_neg Bool.false_ne_true, if_pos h]

/-- In the tick that holds its cycle, a boundary ends the run, saves it, or opens its next furlong. -/
theorem exec_furlongBoundary_due (h : s.boundaryAt x < s.clk + ccPerTick s.pwr.cur) :
    let u := s.atBoundary (s.boundaryAt x)
    let v := u.openFurlong r (x.furlong + 1) (s.boundaryAt x)
    (x.endStatus ≠ none → exec (.furlongBoundary r) s = .next (u.concludeRun r 0).sealDutyStall) ∧
    (∀ p, x.endStatus = none → x.preempt = some p → p.furlong = x.furlong + 1 →
      exec (.furlongBoundary r) s = .next (v.saveRun r p).sealDutyStall) ∧
    (x.endStatus = none → (∀ p, x.preempt = some p → p.furlong ≠ x.furlong + 1) →
      exec (.furlongBoundary r) s = .next (((v.stepDue r (x.furlong + 1)).refreshRates r).sealDutyStall)) := by
  intro u v
  have hbetween : (s.coresOf r).any (fun c => (s.core c).ell.isSome) = false :=
    List.any_eq_false.2 fun c hc => by simp [hells c hc]
  have hexec : exec (.furlongBoundary r) s = if x.endStatus.isSome then .next (u.concludeRun r 0).sealDutyStall
      else match x.preempt with
        | some p =>
          if p.furlong = x.furlong + 1 then .next (v.saveRun r p).sealDutyStall
          else .next (((v.stepDue r (x.furlong + 1)).refreshRates r).sealDutyStall)
        | none => .next (((v.stepDue r (x.furlong + 1)).refreshRates r).sealDutyStall) := by
    show execFurlongBoundary r s = _
    simp only [execFurlongBoundary, hx]
    rw [if_neg (by simp [hp]), hbetween, if_neg Bool.false_ne_true, if_neg (Nat.not_le.2 h)]
    rfl
  rw [hexec]
  refine ⟨fun he => if_pos (Option.isSome_iff_ne_none.2 he), fun p he hpre hf => ?_, fun he hpre => ?_⟩
  · rw [he, if_neg (by simp), hpre]
    exact if_pos hf
  · rw [he, if_neg (by simp)]
    cases hq : x.preempt with
    | none => rfl
    | some p => exact if_neg (hpre p hq)

end

/-! A run that ends -/

theorem State.concludeRun_eq {s : State} {r : Nat} {x : Run} (hx : s.run? r = some x) (st : Byte) :
    ∃ e, s.concludeRun r st = (s.setRun r { x with phase := .ended, endStatus := some e }).settleBounds ∧
      (x.endExit = false → e = x.endStatus.getD st) := by
  refine ⟨if x.endExit && s.exitStatus (s.coresOf r) != 0 then BitVec.ofNat 8 (s.exitStatus (s.coresOf r))
    else x.endStatus.getD st, ?_, fun h => by simp [h]⟩
  unfold State.concludeRun
  dsimp only
  rw [State.modRun_eq hx]

theorem State.concludeRun_run? {s : State} {r : Nat} {x : Run} (hx : s.run? r = some x) (st : Byte) :
    ∃ y, (s.concludeRun r st).run? r = some y ∧ y.phase = .ended ∧
      (x.endExit = false → y.endStatus = some (x.endStatus.getD st)) := by
  obtain ⟨e, heq, he⟩ := State.concludeRun_eq hx st
  rw [heq]
  exact ⟨_, (State.settleBounds_run? ..).trans (State.run?_setRun_self ..), rfl, fun h => congrArg some (he h)⟩

@[simp] theorem State.concludeRun_cores (s : State) (r : Nat) (st : Byte) : (s.concludeRun r st).cores = s.cores := by
  simp [State.concludeRun]

/-! A run that is saved -/

/-- A core of a run that has been saved: owned as before, marked, and of no run (14 R387). -/
def Core.saved (k : Core) (r : Nat) : Core := if k.run = some r then { k with run := none, preempted := true } else k

theorem Core.reset_saved (r : Nat) : Core.reset.saved r = Core.reset :=
  if_neg (show Core.reset.run ≠ some r from nofun)

/-- The module once what run r sent has been delivered (08 R231). -/
def State.delivered (s : State) (r : Nat) (x : Run) : State := ((s.catchUp r x).landAll r x true).letGo r

theorem State.delivered_roster (s : State) (r : Nat) (x : Run) : (s.delivered r x).roster = s.roster := by
  simp [State.delivered]

section
variable {s : State} {r : Nat} {x y : Run} (hx : s.run? r = some x) (hy : (s.delivered r x).run? r = some y) (p : Preempt)
include hx hy

theorem State.saveRun_runs : ∃ q, (s.saveRun r p).runs =
    kset (s.delivered r x).runs r { y with phase := .preempted, preempt := some q, furlong := p.furlong } := by
  unfold State.delivered at hy ⊢
  unfold State.saveRun
  simp only [hx]
  generalize ((s.catchUp r x).landAll r x true).letGo r = v at hy ⊢
  simp only [hy]
  rw [State.settleBounds_runs]
  dsimp only
  rw [State.complete_runs]
  exact ⟨_, rfl⟩

theorem State.saveRun_cores : (s.saveRun r p).cores = kmap (fun _ k => k.saved r) (s.delivered r x).cores := by
  unfold State.delivered at hy ⊢
  unfold State.saveRun
  simp only [hx]
  generalize ((s.catchUp r x).landAll r x true).letGo r = v at hy ⊢
  simp only [hy]
  rw [State.settleBounds_cores]
  dsimp only
  rw [(State.complete_same _ _ _ (by decide) ..).cores]
  rfl

end

/-- A run that is saved is pre-empted, and its cores are marked, owned as before and not its own. -/
theorem State.saveRun_saved {s : State} {r : Nat} {x : Run} (hx : s.run? r = some x) (p : Preempt) :
    (∃ y, (s.saveRun r p).run? r = some y ∧ y.phase = .preempted ∧ y.furlong = p.furlong) ∧
    ∀ c, (s.core c).run = some r → ((s.saveRun r p).core c).run = none ∧ ((s.saveRun r p).core c).preempted = true ∧
      ((s.saveRun r p).core c).owner = (s.core c).owner := by
  have hroster := s.delivered_roster r x
  have hsome : ((s.delivered r x).run? r).isSome = true := by
    rw [State.run?_of_roster hroster, hx]
    rfl
  obtain ⟨y, hy⟩ := Option.isSome_iff_exists.1 hsome
  obtain ⟨q, hruns⟩ := State.saveRun_runs hx hy p
  refine ⟨⟨{ y with phase := .preempted, preempt := some q, furlong := p.furlong },
    by rw [State.run?, hruns, kfind_kset_self], rfl, rfl⟩, fun c hc => ?_⟩
  have hplace : ((s.delivered r x).core c).place = (s.core c).place := State.place_of_roster hroster c
  have hcore : (s.saveRun r p).core c = ((s.delivered r x).core c).saved r := by
    rw [State.core, State.saveRun_cores hx hy]
    exact kget_kmap (f := fun _ (k : Core) => k.saved r) (fun _ => Core.reset_saved r) _ c
  obtain ⟨hrun, howner⟩ := Prod.mk.inj hplace
  rw [hcore, Core.saved, if_pos (hrun.trans hc)]
  exact ⟨rfl, rfl, howner⟩

end Sys2Proof.Machine
end

section
/-!
What a core cycle leaves (02 R40), and a boundary that opens the next furlong (10 R287).
-/

namespace Sys2Proof.Machine

/-! A core cycle -/

section
variable {s : State} (h : (s.stallsAt s.pos).2 = 0)
include h

theorem State.cycle_stalled_keeps (hs : s.stallStands = true) : s.cycle.pos = s.pos ∧
    s.cycle.det.stallCc.val = min (s.det.stallCc.val + 1) (2 ^ 64 - 1) := by
  rw [State.cycle_stalled h hs]
  exact ⟨State.pos_stalled rfl rfl, rfl⟩

theorem State.cycle_free_keeps (hs : s.stallStands = false) (hclk : s.stallTot ≤ s.clk) :
    s.cycle.pos = s.pos + 1 ∧ s.cycle.det = s.det ∧ s.cycle.runs = s.runs := by
  rw [State.cycle_free h hs]
  exact ⟨Nat.sub_add_comm hclk, rfl, rfl⟩

end

/-- Core cycles count no step change. -/
theorem State.cycles_stp (n : Nat) (s : State) : (s.cycles n).det.stp = s.det.stp := by
  induction n generalizing s with
  | zero => rfl
  | succ n ih =>
    rw [State.cycles, ih]
    unfold State.cycle
    dsimp only
    split
    · rfl
    · split <;> rfl

/-! What follows the opening of a furlong -/

/-- What a boundary does after furlong f of run r has opened: a step change that is due, the dies' refresh, and a SEAL_DUTY
stall (12 R320, R329). -/
def State.afterOpening (s : State) (r f : Nat) : State := ((s.stepDue r f).refreshRates r).sealDutyStall

theorem State.afterOpening_eq (s : State) (r f : Nat) : s.afterOpening r f = { s.stepDue r f with
    hg := (s.afterOpening r f).hg, runs := (s.afterOpening r f).runs
    det := { (s.stepDue r f).det with emerg := (s.afterOpening r f).det.emerg }
    pwr := { (s.stepDue r f).pwr with
      emerg := (s.afterOpening r f).pwr.emerg, dutyLeft := (s.afterOpening r f).pwr.dutyLeft } } := by
  unfold State.afterOpening
  rw [State.sealDutyStall_eq, State.refreshRates_eq]

theorem State.afterOpening_run? {s : State} {r f : Nat} {y : Run} (hy : (s.stepDue r f).run? r = some y) :
    ∃ n, (s.afterOpening r f).run? r = some { y with counts := { y.counts with emerg := n } } := by
  refine State.sealDutyStall_run? ?_
  rw [State.refreshRates_eq]
  exact hy

section
variable (s : State) (r f : Nat)

/-- No cycle passes, no core changes, and no other count is made. -/
theorem State.afterOpening_keeps : (s.afterOpening r f).cores = s.cores ∧ (s.afterOpening r f).clk = s.clk ∧
    (s.afterOpening r f).pwr.st = s.pwr.st ∧ (s.afterOpening r f).det.stallCc = s.det.stallCc := by
  obtain ⟨hstep, hst⟩ := s.stepDue_eq r f
  rw [State.afterOpening_eq]
  refine ⟨?_, ?_, hst, ?_⟩
  all_goals
    rw [hstep]

theorem State.afterOpening_step : (s.afterOpening r f).pwr.cur = (s.stepDue r f).pwr.cur ∧
    (s.afterOpening r f).det.stp = (s.stepDue r f).det.stp := by
  rw [State.afterOpening_eq]
  exact ⟨rfl, rfl⟩

end

/-! The boundary that opens furlong f in core cycle t -/

/-- The module at the opening of furlong f of run r, in core cycle t. -/
def State.openedAt (s : State) (r f t : Nat) : State := (s.atBoundary t).openFurlong r f t

section
variable {s : State} {r : Nat} {x : Run} (hx : s.run? r = some x) (f t : Nat)
include hx

theorem State.openedAt_run? : ∃ y, x.SameButStalls y ∧ (s.openedAt r f t).run? r =
    some (y.opened f t ((s.cycles (t - s.clk)).pos - (max s.clk t - t))) := by
  obtain ⟨y, hy, hsame⟩ := s.atBoundary_run? t hx
  have hpos : (s.atBoundary t).pos = (s.cycles (t - s.clk)).pos := by
    obtain ⟨h, p, heq, -⟩ := s.atBoundary_eq t
    rw [heq]
    rfl
  refine ⟨y, hsame, ?_⟩
  rw [State.openedAt, State.openFurlong_eq hy, State.atBoundary_clk, hpos]
  exact kfind_kset_self ..

theorem State.openedAt_keeps : (s.openedAt r f t).clk = max s.clk t ∧ (s.openedAt r f t).det = (s.cycles (t - s.clk)).det ∧
    (s.openedAt r f t).pwr = (s.atBoundary t).pwr := by
  obtain ⟨y, hy, -⟩ := s.atBoundary_run? t hx
  obtain ⟨h, p, heq, -⟩ := s.atBoundary_eq t
  rw [State.openedAt, State.openFurlong_eq hy]
  exact ⟨s.atBoundary_clk t, by rw [heq]; rfl, rfl⟩

theorem State.openedAt_core (c : Nat) : (s.openedAt r f t).core c = (s.core c).boundary r (f * x.furlongCc) := by
  obtain ⟨y, hy, hsame⟩ := s.atBoundary_run? t hx
  rw [State.openedAt, State.openFurlong_core hy, State.core, State.atBoundary_cores, hsame]
  rfl

end

theorem State.singleRun_sole {s : State} {r : Nat} {x : Run} (hr : s.runs = [(r, x)]) (hp : x.phase = .active) (hm : x.mode ≠ 1) :
    s.singleRun = true := by
  have hactive : s.activeRuns = [(r, x)] := by simp [State.activeRuns, hr, hp]
  rw [State.singleRun, hactive]
  simpa using hm

/-- A module with one run, active and Exact or Open, is one with a single such run when the furlong has opened. -/
theorem State.openedAt_singleRun {s : State} {r : Nat} {x : Run} (hr : s.runs = [(r, x)]) (hp : x.phase = .active) (hm : x.mode ≠ 1)
    (f t : Nat) : (s.openedAt r f t).singleRun = true := by
  obtain ⟨g, hg, hruns⟩ := s.atBoundary_runs t
  have hsole : (s.atBoundary t).runs = [(r, g r x)] := by rw [hruns, hr]; rfl
  have hsame := hg r x
  rw [State.openedAt, State.openFurlong_eq (State.run?_sole hsole)]
  refine State.singleRun_sole (State.setRun_sole hsole _) ?_ ?_
  · rw [hsame]
    exact hp
  · rw [hsame]
    exact hm

/-- The run at the new step. -/
theorem State.stepped_run? (s : State) (r : Nat) (x : Run) (stp : BitVec 2) :
    (s.stepped r x stp).settleBounds.run? r = some (x.stepped (ccPerTick s.pwr.cur)) :=
  (State.settleBounds_run? ..).trans (State.run?_setRun_self ..)

/-! What stands once a furlong has opened and what was due has been done -/

section
variable {s : State} {r : Nat} {x : Run} (hx : s.run? r = some x) (f t : Nat)
include hx

theorem State.openedAt_pwr : (s.openedAt r f t).pwr.st = (if s.pwr.st = 1 then 0 else s.pwr.st) ∧
    (s.openedAt r f t).pwr.cur = s.pwr.cur ∧ (s.openedAt r f t).pwr.standing = s.pwr.standing := by
  obtain ⟨h, p, heq, hpwr⟩ := s.atBoundary_eq t
  rw [(State.openedAt_keeps hx f t).2.2, heq]
  exact hpwr

theorem State.opened_run? : ∃ y, ((s.openedAt r f t).afterOpening r f).run? r = some y ∧ y.phase = x.phase ∧ y.furlong = f ∧
    y.holdsSent = 0 ∧ y.stallK = 0 ∧ y.openAt = t ∧
    kget 0 y.opens f = (s.cycles (t - s.clk)).pos - (max s.clk t - t) := by
  obtain ⟨y, hsame, hv⟩ := State.openedAt_run? hx f t
  obtain ⟨z, hz, hstep⟩ := State.stepDue_run? hv f
  obtain ⟨n, hu⟩ := State.afterOpening_run? hz
  refine ⟨_, hu, by rw [hstep, hsame]; rfl, ?_⟩
  rw [hstep]
  exact ⟨rfl, rfl, rfl, rfl, kget_kset_self ..⟩

theorem State.opened_keeps : let u := (s.openedAt r f t).afterOpening r f
    u.pwr.st = (if s.pwr.st = 1 then 0 else s.pwr.st) ∧ (∀ c, u.core c = (s.core c).boundary r (f * x.furlongCc)) ∧
      u.clk = max s.clk t ∧ u.det.stallCc = (s.cycles (t - s.clk)).det.stallCc := by
  obtain ⟨hclk, hdet, -⟩ := State.openedAt_keeps hx f t
  obtain ⟨hcores, huclk, hst, hstall⟩ := (s.openedAt r f t).afterOpening_keeps r f
  refine ⟨hst.trans (State.openedAt_pwr hx f t).1, fun c => ?_, huclk.trans hclk, by rw [hstall, hdet]⟩
  rw [State.core, hcores]
  exact State.openedAt_core hx f t c

section
variable {y : Run} (hy : ((s.openedAt r f t).afterOpening r f).run? r = some y)
include hy

theorem State.opened_step_waits
    (h : x.stepAt = none ∨ (∃ g stp, x.stepAt = some (g, stp) ∧ f < g) ∨ s.pwr.standing ≠ []) :
    ((s.openedAt r f t).afterOpening r f).pwr.cur = s.pwr.cur ∧ y.stepAt = x.stepAt := by
  obtain ⟨z, hsame, hv⟩ := State.openedAt_run? hx f t
  obtain ⟨-, hcur, hstanding⟩ := State.openedAt_pwr hx f t
  have hstepAt : z.stepAt = x.stepAt := by rw [hsame]
  have hwaits := State.stepDue_waits hv (by rw [hstanding]; exact hstepAt ▸ h)
  obtain ⟨n, hu⟩ := State.afterOpening_run? (hwaits ▸ hv)
  obtain rfl := Option.some.inj (hy.symm.trans hu)
  rw [((s.openedAt r f t).afterOpening_step r f).1, hwaits]
  exact ⟨hcur, hstepAt⟩

theorem State.opened_step_changes {g : Nat} {stp : BitVec 2} (hr : s.runs = [(r, x)]) (hp : x.phase = .active)
    (hg : x.stepAt = some (g, stp)) (hf : g ≤ f) (hs : s.pwr.standing = [])
    (hone : stp.toNat + 1 = s.pwr.cur.toNat ∨ s.pwr.cur.toNat + 1 = stp.toNat) (hm : x.mode ≠ 1)
    (hle : stp.toNat ≤ x.lnchStep.toNat) : let u := (s.openedAt r f t).afterOpening r f
    u.pwr.cur = stp ∧ y.stepAt = none ∧ y.counts.stp = x.counts.stp + 1 ∧
      u.det.stp.val = min (s.det.stp.val + 1) (2 ^ 64 - 1) := by
  obtain ⟨z, hsame, hv⟩ := State.openedAt_run? hx f t
  obtain ⟨-, hcur, hstanding⟩ := State.openedAt_pwr hx f t
  have hstepAt : z.stepAt = some (g, stp) := by rw [hsame]; exact hg
  have hchange := State.stepDue_changes hv hstepAt hf (hstanding.trans hs) (by rw [hcur]; exact hone)
    (State.openedAt_singleRun hr hp hm f t) (by rw [hsame]; exact hle)
  have hdue := State.stepped_run? (s.openedAt r f t) r (z.opened f t ((s.cycles (t - s.clk)).pos - (max s.clk t - t))) stp
  rw [← hchange] at hdue
  obtain ⟨n, hu⟩ := State.afterOpening_run? hdue
  obtain rfl := Option.some.inj (hy.symm.trans hu)
  obtain ⟨hucur, hustp⟩ := (s.openedAt r f t).afterOpening_step r f
  dsimp only
  rw [hucur, hustp, hchange]
  refine ⟨(State.settleBounds_pwr _).2, rfl, by rw [hsame]; rfl, ?_⟩
  rw [State.settleBounds_eq, ← s.cycles_stp (t - s.clk), ← (State.openedAt_keeps hx f t).2.1]
  rfl

end

end

end Sys2Proof.Machine
end

section
/-!
HOLD_ORIGINATE (10 R288), and the management grains of a run (10 R281 to R284, R291 to R293).
-/

namespace Sys2Proof.Machine

/-! HOLD_ORIGINATE -/

section
variable {s : State} {r : Nat} {x : Run} (hx : s.run? r = some x)
include hx

theorem exec_holdOriginate_quiet (h : x.phase ≠ .active ∨ x.stallK < x.tun.slack + x.holdsSent * s.extCc x + 1) :
    exec (.holdOriginate r) s = .next s := by
  show execHoldOriginate r s = _
  simp only [execHoldOriginate, hx]
  exact if_pos (by simpa using h)

variable (hp : x.phase = .active) (hover : x.tun.slack + x.holdsSent * s.extCc x + 1 ≤ x.stallK)
include hp hover

theorem exec_holdOriginate_seen (h : s.chn.holdsSeen.contains (x.job, x.furlong, x.holdsSent + 1) = true) :
    exec (.holdOriginate r) s = .next (s.setRun r { x with holdsSent := x.holdsSent + 1 }) := by
  show execHoldOriginate r s = _
  simp only [execHoldOriginate, hx]
  rw [if_neg (by simpa [hp] using hover), if_pos h]

/-- A hold that is new extends its origin's furlong, is counted and seen there, and is sent from every active port. -/
theorem exec_holdOriginate_sends (h : s.chn.holdsSeen.contains (x.job, x.furlong, x.holdsSent + 1) = false) :
    exec (.holdOriginate r) s = .next (((s.holdCounted r { x with holdsSent := x.holdsSent + 1 } x.furlong (x.holdsSent + 1)).sawHold
      x.job x.furlong (x.holdsSent + 1)).flood
        (holdPayload x.job.toNat x.furlong (x.holdsSent + 1) x.tun.holdFrames s.moduleId s.chn.count) 32) := by
  show execHoldOriginate r s = _
  simp only [execHoldOriginate, hx]
  rw [if_neg (by simpa [hp] using hover), if_neg (by rw [h]; exact Bool.false_ne_true), State.countHold_extend]
  rfl

end

/-! The runs that a management grain names -/

section
variable {s : State} {p : Payload} {type : Nat}

theorem State.mgmt_otherType (h : bits p 0 8 ≠ type) (u : State) : s.mgmt type p u = .next s := by
  rw [State.mgmt, if_neg h]

variable (h : bits p 0 8 = type) (u : State) (f : State → Nat → State)
include h

theorem State.mgmt_noRun (hn : s.namedRuns p = []) : s.mgmt type p (u.eachRun f (s.namedRuns p)) = .next u := by
  rw [State.mgmt, if_pos h, hn]
  rfl

theorem State.mgmt_oneRun {r : Nat} (hn : s.namedRuns p = [r]) : s.mgmt type p (u.eachRun f (s.namedRuns p)) = .next (f u r) := by
  rw [State.mgmt, if_pos h, hn]
  rfl

end

/-! Grains to the other participants do not touch the chain's count -/

@[simp] theorem State.sendRouted_count (s : State) (g : Grain) : (s.sendRouted g).chn.count = s.chn.count := by
  simp only [State.sendRouted]
  split
  · split <;> rfl
  · split <;> rfl

@[simp] theorem State.toParticipants_count (s : State) (x : Run) (type : Nat) (rest : List Byte) :
    (s.toParticipants x type rest).chn.count = s.chn.count :=
  State.toParticipants_keeps (fun s => s.chn.count) (fun s _ _ _ _ => s.sendRouted_count _) s x type rest

@[simp] theorem State.toParticipants_runs (s : State) (x : Run) (type : Nat) (rest : List Byte) :
    (s.toParticipants x type rest).runs = s.runs :=
  State.toParticipants_keeps State.runs State.sendMgmt_runs s x type rest

theorem State.wake_keeps (s : State) (r : Nat) :
    s.wake.run? r = s.run? r ∧ s.wake.activeRuns = s.activeRuns ∧ s.wake.chn = s.chn := by
  obtain ⟨b, hb⟩ := s.wake_eq
  rw [hb]
  exact ⟨rfl, rfl, rfl⟩

/-! What ends a run -/

section
variable {s : State} {r : Nat} {x : Run} (hx : s.run? r = some x)
include hx

/-- The first status that ends a run stands. -/
theorem State.endRun_setRun (he : x.endStatus = none) (st : Byte) :
    s.endRun r st = s.setRun r { x with endStatus := some st } := by
  rw [State.endRun, State.modRun_eq hx, he]
  rfl

/-- A run that an ABORT to the other participants ends is over. -/
theorem State.abortSent_run? (z : Run) (st : Byte) : ∃ y, ((s.sendAbort z st).concludeRun r st).run? r = some y ∧
    y.phase = .ended ∧ (x.endStatus = none → x.endExit = false → y.endStatus = some st) := by
  have hsent : (s.sendAbort z st).run? r = some x := by rw [State.run?, State.sendAbort_runs]; exact hx
  obtain ⟨y, hy, hended, hst⟩ := State.concludeRun_run? hsent st
  exact ⟨y, hy, hended, fun hnone hexit => by rw [hst hexit, hnone, Option.getD_none]⟩

theorem State.abortRun_active (hp : x.phase = .active) (he : x.endStatus = none) (st : Byte) :
    s.abortRun r st = s.setRun r { x with endStatus := some st } := by
  have hends : s.abortRun r st = s.endRun r st := by simp only [State.abortRun, hx, hp]
  rw [hends, State.endRun_setRun hx he]

/-- A run that waits for admission ends without a manifest (log 27). -/
theorem State.abortRun_waiting (hp : x.phase = .waiting) (hl : x.launched = none) (st : Byte) :
    s.abortRun r st = s.finishRun r st.toNat true := by
  simp only [State.abortRun, hx, hp, hl]
  rfl

theorem State.abortRun_unlaunched (hp : x.phase = .waiting ∧ x.launched ≠ none ∨ x.phase = .admitted) (st : Byte) :
    s.abortRun r st = s.concludeRun r st := by
  obtain ⟨hp, hl⟩ | hp := hp
  · simp only [State.abortRun, hx, hp]
    exact if_neg (by simpa using hl)
  · simp only [State.abortRun, hx, hp]

/-! READY (10 R281, R283) -/

section
variable (hp : x.phase = .admitted) (hc : x.cl = none) (hentry : s.isEntry x = true)
include hp hc hentry

/-- The entry module waits for the READY of every participant. -/
theorem State.tryLaunch_waits (h : ∃ m, m ∈ x.tun.participants ∧ ∀ z, z ∈ s.chn.readies → z.job = x.job → z.sender ≠ m) :
    s.tryLaunch r = s := by
  obtain ⟨m, hm, hnone⟩ := h
  have hmissing : (!x.tun.participants.all fun m => (s.chn.readies.filter (fun y => y.job == x.job)).any (fun y => y.sender == m)) =
      true := by
    simp only [Bool.not_eq_true', List.all_eq_false]
    refine ⟨m, hm, ?_⟩
    simpa using hnone
  simp only [State.tryLaunch, hx]
  rw [if_neg (by simp [hp, hc, hentry]), if_pos hmissing]

variable (hall : ∀ m, m ∈ x.tun.participants → ∃ z, z ∈ s.chn.readies ∧ z.job = x.job ∧ z.sender = m)
include hall

/-- Once all have come, the run launches or is aborted as the records of its participants agree with the entry module's. -/
theorem State.tryLaunch_ready : s.tryLaunch r =
    if (s.chn.readies.filter (fun y => y.job == x.job)).all (fun y => !x.tun.participants.contains y.sender ||
      Claims.readyAgree y (s.readyRec x)) then
      (s.toParticipants x 3 (leBytes 8 (ceil24 (s.chn.count + s.chn.margin.toNat)))).learnLaunch r
        (ceil24 (s.chn.count + s.chn.margin.toNat))
    else (s.sendAbort x 3).concludeRun r 3 := by
  have hcome : (!x.tun.participants.all fun m => (s.chn.readies.filter (fun y => y.job == x.job)).any (fun y => y.sender == m)) =
      false := by
    rw [Bool.not_eq_false', List.all_eq_true]
    intro m hm
    obtain ⟨z, hz, hjob, hfrom⟩ := hall m hm
    exact List.any_eq_true.2 ⟨z, List.mem_filter.2 ⟨hz, by simp [hjob]⟩, by simp [hfrom]⟩
  simp only [State.tryLaunch, hx]
  rw [if_neg (by simp [hp, hc, hentry]), hcome]
  rfl

theorem State.tryLaunch_agreed
    (h : ∀ z, z ∈ s.chn.readies → z.job = x.job → z.sender ∈ x.tun.participants → Claims.readyAgree z (s.readyRec x) = true) :
    s.tryLaunch r = (s.toParticipants x 3 (leBytes 8 (ceil24 (s.chn.count + s.chn.margin.toNat)))).learnLaunch r
      (ceil24 (s.chn.count + s.chn.margin.toNat)) := by
  rw [State.tryLaunch_ready hx hp hc hentry hall]
  refine if_pos (List.all_eq_true.2 fun z hz => ?_)
  obtain ⟨hmem, hjob⟩ := List.mem_filter.1 hz
  have hagree := h z hmem (by simpa using hjob)
  by_cases hpart : z.sender ∈ x.tun.participants
  · simp [hagree hpart]
  · simp [hpart]

theorem State.tryLaunch_refused
    (h : ∃ z, z ∈ s.chn.readies ∧ z.job = x.job ∧ z.sender ∈ x.tun.participants ∧ Claims.readyAgree z (s.readyRec x) = false) :
    s.tryLaunch r = (s.sendAbort x 3).concludeRun r 3 := by
  rw [State.tryLaunch_ready hx hp hc hentry hall]
  obtain ⟨z, hmem, hjob, hpart, hdiffers⟩ := h
  refine if_neg fun hsame => ?_
  have hz := List.all_eq_true.1 hsame z (List.mem_filter.2 ⟨hmem, by simp [hjob]⟩)
  simp [hpart, hdiffers] at hz

end

/-! LAUNCH (10 R282) -/

theorem State.learnLaunch_known (h : x.phase ≠ .admitted ∨ x.cl ≠ none) (c : Nat) : s.learnLaunch r c = s := by
  simp only [State.learnLaunch, hx]
  exact if_pos (by simpa [Option.isSome_iff_ne_none] using h)

/-- A run that learns C_L too late is over, with the event. -/
theorem State.learnLaunch_late {c : Nat} (hp : x.phase = .admitted) (hc : x.cl = none) (hn : c < s.chn.count + 24) :
    ∃ y, (s.learnLaunch r c).run? r = some y ∧ y.phase = .ended ∧ (s.learnLaunch r c).chn.event.getLsbD 3 = true ∧
      (x.endStatus = none → x.endExit = false → y.endStatus = some 7) := by
  have hlate : s.learnLaunch r c = (s.setRun r { x with cl := some c }).lateLaunch r x := by
    simp only [State.learnLaunch, hx]
    rw [if_neg (by simp [hp, hc]), if_pos hn]
  rw [hlate]
  obtain ⟨y, hy, hended, hst⟩ := State.abortSent_run? (s := { s.setRun r { x with cl := some c } with
    chn := { s.chn with event := s.chn.event ||| 8 } }) (State.run?_setRun_self ..) x 7
  exact ⟨y, hy, hended, by simp [State.lateLaunch], hst⟩

/-! PATH_LOST (10 R291) -/

theorem State.learnLoss_endsRun {d owner port : Nat}
    (h : x.mode ≠ 2 ∨ d + 2 ≤ x.furlong ∨ x.tun.detour s.moduleId owner port = none) (he : x.endStatus = none) :
    s.learnLoss r d owner port = s.setRun r { x with endStatus := some 0x05 } := by
  rw [← State.endRun_setRun hx he]
  simp only [State.learnLoss, hx]
  by_cases hm : x.mode = 2
  · rw [if_neg (by simp [hm])]
    exact if_pos (by simpa [hm] using h)
  · exact if_pos (by simpa using hm)

theorem State.learnLoss_detours {d owner port : Nat} (hm : x.mode = 2) (hf : x.furlong < d + 2)
    (hway : x.tun.detour s.moduleId owner port ≠ none) : s.learnLoss r d owner port =
      s.setRun r { x with openFeat := x.openFeat ||| 4, detourAt := some (owner * 32 + port, d + 2) } := by
  simp only [State.learnLoss, hx]
  rw [if_neg (by simp [hm]), if_neg (by simpa [hway] using hf)]

/-! STEP (10 R293) -/

theorem State.stepFor_ignored (h : x.mode = 1 ∨ x.phase ≠ .admitted ∧ x.phase ≠ .active) (f : Nat) (stp : BitVec 2) :
    s.stepFor r f stp = s := by
  simp only [State.stepFor, hx]
  refine if_pos ?_
  obtain h | ⟨hadm, hact⟩ := h
  · simp [h]
  · simp [Run.holdsUnits, hadm, hact]

variable (hm : x.mode ≠ 1)
include hm

/-- A STEP for a module that another run is active on ends the run. -/
theorem State.stepFor_shared (hp : x.phase = .active) (he : x.endStatus = none) (h : ∃ e, e ∈ s.activeRuns ∧ e.1 ≠ r)
    (f : Nat) (stp : BitVec 2) : (s.stepFor r f stp).run? r = some { x with endStatus := some 6 } := by
  have hshared : s.activeRuns.any (fun e => e.1 != r) = true := by simpa using h
  have hsent : (s.sendAbort x 6).run? r = some x := by rw [State.run?, State.sendAbort_runs]; exact hx
  simp only [State.stepFor, hx]
  rw [if_neg (by simpa [Run.holdsUnits, hp] using hm), if_pos hshared, State.abortRun_active hsent hp he]
  exact State.run?_setRun_self ..

variable (hsole : ∀ e, e ∈ s.activeRuns → e.1 = r)
include hsole

theorem State.stepFor_keeps {f : Nat} (hp : x.phase = .admitted ∨ x.phase = .active ∧ x.furlong < f) (stp : BitVec 2) :
    s.stepFor r f stp = { s.setRun r { x with stepAt := some (f, stp) } with pwr := { s.pwr with changing := true } } := by
  have hnone : ¬ s.activeRuns.any (fun e => e.1 != r) = true := by simpa using hsole
  simp only [State.stepFor, hx]
  rw [if_neg ?holds, if_neg hnone, if_neg ?later]
  case holds => obtain hp | ⟨hp, -⟩ := hp <;> simpa [Run.holdsUnits, hp] using hm
  case later =>
    obtain hp | ⟨-, hf⟩ := hp
    · simp [hp]
    · simp [hf]

theorem State.stepFor_late {f : Nat} (hp : x.phase = .active) (hf : f ≤ x.furlong) (he : x.endStatus = none) (stp : BitVec 2) :
    s.stepFor r f stp = { s.setRun r { x with endStatus := some 6 } with
      chn := { s.chn with event := s.chn.event ||| 32 } } := by
  have hnone : ¬ s.activeRuns.any (fun e => e.1 != r) = true := by simpa using hsole
  simp only [State.stepFor, hx]
  rw [if_neg (by simpa [Run.holdsUnits, hp] using hm), if_neg hnone, if_pos (by simp [hf, hp])]
  exact State.endRun_setRun (s := { s with chn := { s.chn with event := s.chn.event ||| 32 } }) hx he 6

end

end Sys2Proof.Machine
end

section
/-!
The obligation on furlongs, from the commands' rules.
-/

namespace Sys2Proof.Claims

open Sys2Proof.Machine

section
variable {s : State} {r : Nat} {x : Run} (hx : s.run? r = some x)
include hx

/-- A new hold of its own extends a run's furlong, is counted and seen, and is on its way on every active port. -/
theorem holdOriginate_sends (hp : x.phase = .active) (hover : x.tun.slack + x.holdsSent * s.extCc x + 1 ≤ x.stallK)
    (hnew : s.chn.holdsSeen.contains (x.job, x.furlong, x.holdsSent + 1) = false) :
    ∃ (u : State) (y : Run), exec (.holdOriginate r) s = .next u ∧ u.run? r = some y ∧ y.holdsSent = x.holdsSent + 1 ∧
      kget 0 y.exts x.furlong = max (x.holdsSent + 1) (kget 0 x.exts x.furlong) ∧
      y.counts.hold = x.counts.hold + 1 ∧ u.det.hold.val = min (s.det.hold.val + 1) (2 ^ 64 - 1) ∧ u.cores = s.cores ∧
      u.chn.holdsSeen.contains (x.job, x.furlong, x.holdsSent + 1) = true ∧
      u.lnk = { s.lnk with routerQ := s.lnk.routerQ ++
        (s.holdGrains (holdPayload x.job.toNat x.furlong (x.holdsSent + 1) x.tun.holdFrames s.moduleId s.chn.count) 32) } := by
  refine ⟨_, _, exec_holdOriginate_sends hx hp hover hnew, ?_, rfl,
    Run.held_ext { x with holdsSent := x.holdsSent + 1 } .., rfl, ?_⟩
  · rw [State.flood_eq]
    exact s.holdCounted_run? ..
  · rw [State.flood_eq]
    exact ⟨rfl, rfl, State.sawHold_contains .., rfl⟩

/-- What the entry module does once the READY of every participant agrees: the run launches at C_L. -/
theorem learnLaunch_sent {c : Nat} (z : Run) (type : Nat) (rest : List Byte) (hp : x.phase = .admitted) (hc : x.cl = none)
    (hn : s.chn.count + 24 ≤ c) : ((s.toParticipants z type rest).learnLaunch r c).run? r = some { x with cl := some c } := by
  have hsent : (s.toParticipants z type rest).run? r = some x := by rw [State.run?, State.toParticipants_runs]; exact hx
  rw [State.learnLaunch_intime hsent hp hc (by rw [State.toParticipants_count]; exact hn)]
  obtain ⟨b, hb⟩ := ((s.toParticipants z type rest).setRun r { x with cl := some c }).newEvent_eq c
  rw [hb]
  exact State.run?_setRun_self ..

section
variable (hp : x.phase = .active) (hells : ∀ c, c ∈ s.coresOf r → (s.core c).ell = none)
  (hdue : s.boundaryAt x < s.clk + ccPerTick s.pwr.cur)
include hp hells hdue

/-- A run that has an end status is over at its boundary. -/
theorem furlongBoundary_ends {st : Byte} (he : x.endStatus = some st) : ∃ (u : State) (y : Run),
    exec (.furlongBoundary r) s = .next u ∧ u.run? r = some y ∧ y.phase = .ended ∧
      (x.endExit = false → y.endStatus = some st) ∧ u.cores = s.cores := by
  obtain ⟨y, hy, hsame⟩ := s.atBoundary_run? (s.boundaryAt x) hx
  obtain ⟨z, hz, hended, hstatus⟩ := State.concludeRun_run? hy 0
  obtain ⟨n, hu⟩ := State.sealDutyStall_run? hz
  refine ⟨_, _, (exec_furlongBoundary_due hx hp hells hdue).1 (by simp [he]), hu, hended, fun hexit => ?_, ?_⟩
  · rw [hsame] at hstatus
    rw [show z.endStatus = _ from hstatus hexit, he]
    rfl
  · rw [State.sealDutyStall_cores, State.concludeRun_cores, State.atBoundary_cores]

/-- A run that is pre-empted at a boundary is saved there. -/
theorem furlongBoundary_saves {p : Preempt} (he : x.endStatus = none) (hpre : x.preempt = some p)
    (hf : p.furlong = x.furlong + 1) : ∃ (u : State) (y : Run),
    exec (.furlongBoundary r) s = .next u ∧ u.run? r = some y ∧ y.phase = .preempted ∧ y.furlong = x.furlong + 1 ∧
      ∀ c, (s.core c).run = some r →
        (u.core c).run = none ∧ (u.core c).preempted = true ∧ (u.core c).owner = (s.core c).owner := by
  obtain ⟨y, -, hv⟩ := State.openedAt_run? hx (x.furlong + 1) (s.boundaryAt x)
  obtain ⟨⟨z, hz, hphase, hfurlong⟩, hcores⟩ := State.saveRun_saved hv p
  obtain ⟨n, hu⟩ := State.sealDutyStall_run? hz
  refine ⟨_, _, (exec_furlongBoundary_due hx hp hells hdue).2.1 p he hpre hf, hu, hphase, hfurlong.trans hf, fun c hc => ?_⟩
  have hcore := State.openedAt_core hx (x.furlong + 1) (s.boundaryAt x) c
  obtain ⟨hrun, howner⟩ := Prod.mk.inj ((congrArg Core.place hcore).trans (Core.boundary_place ..))
  obtain ⟨hnone, hmarked, howned⟩ := hcores c (hrun.trans hc)
  rw [State.sealDutyStall_core]
  exact ⟨hnone, hmarked, howned.trans howner⟩

end

end

/-- Settles O48: the cycles by `State.cycle_owed_keeps` and its siblings, a boundary by `exec_furlongBoundary_due`, and each
management grain by what the command does to the one run that the grain names. -/
theorem furlongs : Obligations.Furlongs := by
  unfold Obligations.Furlongs
  refine ⟨fun s => ⟨?clock, ?frame, State.cycle_owed_keeps, State.cycle_stalled_keeps, State.cycle_free_keeps⟩,
    fun s r x pl hx => ⟨fun hp => ⟨exec_furlongBoundary_inactive hx hp, exec_holdOriginate_quiet hx (.inl hp)⟩,
      fun hp hells => ⟨exec_furlongBoundary_early hx hp hells, fun hdue => ⟨?opens,
        fun _ => furlongBoundary_ends hx hp hells hdue, fun _ => furlongBoundary_saves hx hp hells hdue⟩⟩,
      fun hp => ⟨fun hfew => exec_holdOriginate_quiet hx (.inr hfew), fun hover =>
        ⟨exec_holdOriginate_seen hx hp hover, holdOriginate_sends hx hp hover⟩⟩,
      ⟨fun h => State.mgmt_otherType h _, fun h => State.mgmt_otherType h _, fun h => State.mgmt_otherType h _,
        fun h => State.mgmt_otherType h _, fun h => State.mgmt_otherType h _, fun h => State.mgmt_otherType h _⟩,
      fun hnone => ?noRun, fun hone => ⟨?ready, ?launch, ?abort, ?pathLost, ?step, ?breaks⟩⟩⟩
  case clock => rw [State.cycle_eq]
  case frame => rw [State.cycle_eq]
  case opens =>
    intro he hpre
    obtain ⟨y, hy, hphase, hf, hheld, hstall, hat, hopens⟩ := State.opened_run? hx (x.furlong + 1) (s.boundaryAt x)
    obtain ⟨hst, hcores, hclk, hcc⟩ := State.opened_keeps hx (x.furlong + 1) (s.boundaryAt x)
    exact ⟨_, y, (exec_furlongBoundary_due hx hp hells hdue).2.2 he hpre, hy, hphase.trans hp, hf, hheld, hstall, hat, hst,
      hcores, hclk, hcc, hopens, State.opened_step_waits hx _ _ hy,
      fun g stp hr hg hle hs hone hm => State.opened_step_changes hx _ _ hy hr hp hg hle hs hone hm⟩
  case noRun =>
    exact ⟨fun ht => State.mgmt_noRun ht _ _ hnone, fun ht => State.mgmt_noRun ht _ _ hnone,
      fun ht => State.mgmt_noRun ht _ _ hnone, fun ht => State.mgmt_noRun ht _ _ hnone,
      fun ht => State.mgmt_noRun ht _ _ hnone, fun ht => State.mgmt_noRun ht _ _ hnone⟩
  case ready =>
    intro ht hp hc hentry
    have hexec : exec (.ready pl) s = .next ((s.putReady (readyOf pl)).tryLaunch r) := State.mgmt_oneRun ht _ _ hone
    have hx' : (s.putReady (readyOf pl)).run? r = some x := hx
    refine ⟨fun hmiss => ?waits, fun hall => ⟨fun hagree hn => ?launches, fun hdiffer => ?refuses⟩⟩
    case waits => rw [hexec, State.tryLaunch_waits hx' hp hc hentry hmiss]; rfl
    case launches =>
      have hceil : ceil24 (s.chn.count + s.chn.margin.toNat) = (s.chn.count + s.chn.margin.toNat + 23) / 24 * 24 := Nat.mul_comm ..
      rw [← hceil] at hn ⊢
      refine ⟨_, { x with cl := some _ }, hexec, ?_, rfl⟩
      rw [State.tryLaunch_agreed hx' hp hc hentry hall hagree]
      exact learnLaunch_sent hx' _ _ _ hp hc hn
    case refuses =>
      obtain ⟨y, hy, hended⟩ := State.abortSent_run? hx' x 3
      rw [← State.tryLaunch_refused hx' hp hc hentry hall hdiffer] at hy
      exact ⟨_, y, hexec, hy, hended⟩
  case launch =>
    intro ht
    have hexec : exec (.launch pl) s = .next (s.learnLaunch r (bits pl 128 64)) := State.mgmt_oneRun ht _ _ hone
    refine ⟨fun h => by rw [hexec, State.learnLaunch_known hx h], fun hp hc hn => by rw [hexec, State.learnLaunch_intime hx hp hc hn],
      fun hp hc hn => ?_⟩
    obtain ⟨y, hy⟩ := State.learnLaunch_late hx hp hc hn
    exact ⟨_, y, hexec, hy⟩
  case abort =>
    intro ht
    have hexec : exec (.abort pl) s = .next (s.abortRun r (BitVec.ofNat 8 (bits pl 128 8))) := State.mgmt_oneRun ht _ _ hone
    refine ⟨fun hp he => by rw [hexec, State.abortRun_active hx hp he], fun hp hl => ⟨_, hexec, fun hr => ?_⟩, fun hp he hexit => ?_⟩
    · rw [State.abortRun_waiting hx hp hl]
      exact (State.finishRun_sole (State.soleKey_runs hr) _ _).1
    · obtain ⟨y, hy, hended, hst⟩ := State.concludeRun_run? hx (BitVec.ofNat 8 (bits pl 128 8))
      rw [he, Option.getD_none] at hst
      exact ⟨_, y, hexec, by rw [State.abortRun_unlaunched hx hp]; exact hy, hended, hst hexit⟩
  case pathLost =>
    intro ht
    have hexec : exec (.pathLost pl) s = .next (s.learnLoss r (bits pl 128 32) (bits pl 160 16) (bits pl 176 8)) :=
      State.mgmt_oneRun ht _ _ hone
    exact ⟨fun h he => by rw [hexec, State.learnLoss_endsRun hx h he],
      fun hm hf hway => by rw [hexec, State.learnLoss_detours hx hm hf hway]⟩
  case step =>
    intro ht f w
    have hexec : exec (.step pl) s = .next (w.stepFor r f (BitVec.ofNat 2 (bits pl 160 8))) := State.mgmt_oneRun ht _ _ hone
    obtain ⟨hruns, hactive, hchn⟩ := s.wake_keeps r
    have hw : w.run? r = some x := hruns.trans hx
    rw [← hactive, ← hchn]
    refine ⟨fun h => by rw [hexec, State.stepFor_ignored hw h], fun hm hsole =>
      ⟨fun hp => by rw [hexec, State.stepFor_keeps hw hm hsole hp], fun hp hf he => by rw [hexec, State.stepFor_late hw hm hsole hp hf he]⟩,
      fun hm hp he hother => ⟨_, _, hexec, State.stepFor_shared hw hm hp he hother .., rfl⟩⟩
  case breaks =>
    intro ht
    exact State.mgmt_oneRun ht _ _ hone

end Sys2Proof.Claims
end
